-- ==== Sys2Proof/Word.lean ====
section
/-! DEFINITION. The word types of the model: bytes and the widest register. -/

namespace Sys2Proof

/-- One byte of memory or of a message. -/
abbrev Byte := BitVec 8

/-- A 32-byte unit instruction, engine request or descriptor (R32, R99, R160). -/
abbrev Word32B := BitVec 256

/-- The widest register of the part is a table descriptor (R142); narrower registers are zero-extended to it. -/
abbrev RegVal := BitVec 512

/-- Addition that stops at a counter's largest value (every counter of the part saturates: R59, R79, R115 and the like). -/
def satAdd (bits a b : Nat) : Nat := min (a + b) (2 ^ bits - 1)

end Sys2Proof
end

