-- ==== Sys2Proof/Syntax.lean ====
section
/-! DEFINITION. The commands of the block: one constructor of `Instr` per row of spec/opcode_table.json. The table gives
its rows no operands and no bits, so the operands here are what the rows' rules speak of: the unit the happening is at,
the instruction word, the message, and what the outside (a sensor, a wire, a check below the model) found.
DESIGN CHOICE (log 1). -/

namespace Sys2Proof

/-- The class of the port on which a message arrives (R2, R378); peer traffic never reaches a mailbox (R4). -/
inductive Cls where
  | host | platform | debug
  deriving DecidableEq, Repr

/-- What the checker of a memory reports about one access (R72 for DRAM, R149 for a scratchpad). -/
inductive Ecc where
  | clean | corrected | uncorrectable
  deriving DecidableEq, Repr

/-- Who made a memory-side request, as `BRY_UE_LOG.REQ` names them (R79). -/
inductive Requester where
  | dieInterface | graphEngine | scrubber
  deriving DecidableEq, Repr

/-- The two moments of a memory-side request (R42): its issue by a task, and its completion at the stack controller. -/
inductive MemPhase where
  | issue | complete
  deriving DecidableEq, Repr

/-- A memory-side request (R42): issued in a pane by a site, a read of `len` bytes into the site's scratchpad at `dst` or a
write of `data`, with the token it raises. `region` is the kind of the region (R64) a write is directed into, 0 for none.
`plane0` says that the task's descriptor names plane 0 for the transfer (R150).
`phase` says which moment the command is; a request whose issue no command told is issued and completed at once (log 111). -/
structure MemReq where
  site : Fin 104
  issuePane : Nat
  isWrite : Bool
  addr : Nat
  len : Nat
  data : List Byte
  region : Nat
  regionStack : Fin 8
  token : Option Nat
  requester : Requester
  dst : Nat := 0
  plane0 : Bool := false
  phase : MemPhase := .complete
  deriving DecidableEq, Repr

/-- What an access to a tile's window by its device addresses meets (R149, R224, R146): scratchpad words in error, at offsets of their
tile's window, a bank word's parity error as (bank, row, column), and request-cycles of wait for a bank. -/
structure Found where
  sram : List (Nat × Ecc) := []
  parity : Option (Nat × Nat × Nat) := none
  wait : Nat := 0
  deriving DecidableEq, Repr

/-- What befalls a tile instruction below the model: feeder bubbles (R165), cycles of wait for a closing louvre (R172), a
weight-row parity error in a physical row (R170), scratchpad words in error (R149), a bank word's parity error at a row and
column (R224), and cycles in which the MVP was short of lines (R179), a bank port was taken (R209), a drain waited (R212),
an acceptance stalled (R213) or the generator slice stalled (R306). `wBlock` says which 128 × 128 block of which tensor a W-part's
results belong to, as the index in the image, block row and block column (R266, log 45). -/
structure TileEnv where
  bubbles : Nat := 0
  louvreWait : Nat := 0
  parityRow : Option Nat := none
  sram : List (Nat × Ecc) := []
  bankParity : Option (Nat × Nat × Nat) := none
  wBlock : Option (Nat × Nat × Nat) := none
  portShort : Nat := 0
  portWait : Nat := 0
  drainWait : Nat := 0
  bankStall : Nat := 0
  rngStall : Nat := 0
  bankWait : Nat := 0
  deriving DecidableEq, Repr

/-- One 32-byte unit instruction as the running task of a tile issues it: its index in the task's list and its word. -/
structure TileIns where
  tile : Fin 96
  index : Nat
  word : Word32B
  env : TileEnv := {}
  deriving DecidableEq, Repr

/-- A Sirben transport message (R327): its header fields and its payload. `hop` is the number of links it has crossed
(R314), `chan` the virtual channel of the flits that brought it (R314); one that no flit brought has the channel of its header. `found` is what a
`READ` of a tile's window meets there. -/
structure SbnMsg where
  src : Fin 16
  dst : Fin 16
  op : Nat
  vc : Nat
  ce : Bool := false
  mcast : Bool := false
  retx : Bool := false
  tseq : Nat := 0
  job : Nat
  token : Nat := 0xFFFF
  addr : Nat := 0
  tag : Nat := 0
  arg : Nat := 0
  ecrc : Nat := 0
  hop : Nat := 0
  chan : Option Nat := none
  found : Found := {}
  data : List Byte := []
  deriving DecidableEq, Repr

/-- A transfer of this part as the link engine starts it (R333, R339): the operation (`WRITE`, `READ`, `TOKEN`), the set of
destinations, the address there and the length or data, the token at the destination (for a `READ`, here), whether it is a
multicast and its own token then, and where a `READ`'s data goes. -/
structure Transfer where
  op : Nat
  dsts : BitVec 16
  addr : Nat := 0
  len : Nat := 0
  data : List Byte := []
  token : Nat := 0xFFFF
  mcast : Bool := false
  done : Nat := 0xFFFF
  back : Nat := 0
  deriving DecidableEq, Repr

/-- A Renvi request as its service sees it: the arrival class (R2), the mailbox queue-pair entry (0xFF for I3C and JTAG,
R393), and the header's `SEQUENCE` and `JOB` (R381). -/
structure Req where
  cls : Cls
  qp : Nat
  seq : Nat
  job : Nat
  deriving DecidableEq, Repr

/-- A Renvi message as it arrives (R380, R381): its header and the bytes received. -/
structure Arrival where
  cls : Cls
  qp : Nat
  opcode : Nat
  seq : Nat
  length : Nat
  received : Nat
  job : Nat
  timeUs : Nat
  deriving DecidableEq, Repr

/-- An RDMA operation on a data queue pair (R361, R366): its first PSN, its number of packets, the R_Key, the device
address, the length, and the data of a WRITE. -/
structure Rdma where
  qp : Nat
  psn : Nat
  packets : Nat
  rkey : Nat
  addr : Nat
  len : Nat
  data : List Byte := []
  found : Found := {}
  deriving DecidableEq, Repr

/-- What an Ethernet frame is (R360, R361): the port's own protocols, or RoCEv2 with its marks, or anything else; one whose FCS is
bad; or no frame but what the port's FEC found in the codewords that came since it was last told (R374). -/
inductive Frame where
  | arp (target : Nat)
  | neighbour (target : Nat)
  | echo (target : Nat) (v6 : Bool)
  | roce (qp : Nat) (opcode : Nat) (icrcOk : Bool) (ce : Bool)
  | other
  | badFcs
  | codewords (corrected uncorrectable : Nat)
  deriving DecidableEq, Repr

/-- A frame that arrived whole. -/
def Frame.whole : Frame → Bool
  | .badFcs => false
  | .codewords _ _ => false
  | _ => true

/-- An Acknowledge of RoCEv2 (R361, R370): positive up to a PSN, RNR, sequence error or another NAK. -/
inductive AckKind where
  | ack | rnr | seqErr | nak (syndrome : Nat)
  deriving DecidableEq, Repr

/-- What the tests below the model's level and the board found at a cold start (R432): the tiles the fuse map disables and the
physical tiles that fail their self-test (R145), bad physical rows per physical tile with whether the self-test found them
rather than the fuses (R169), training attempts that fail per stack and stacks whose retention screen finds more bad rows than
spares (R433), generator slices whose cores differ (R309: a physical tile, or 100 + stack), whether the boot stages pass, for
stage 3 of the active and of the other slot (R408, R409), whether Ethernet port 0 trains, the board's configuration and straps
(R432, R463), and the times that `RST_BRINGUP` records. -/
structure BootFindings where
  fusedOff : List Nat := [96, 97, 98, 99]
  tileFail : List Nat := []
  tileRows : List (Nat × List (Nat × Bool)) := []
  stackTrainFails : List (Nat × Nat) := []
  screenFail : List Nat := []
  sliceFail : List Nat := []
  stage1Ok : Bool := true
  stage2Ok : Bool := true
  activeOk : Bool := true
  otherOk : Bool := true
  eth0Up : Bool := true
  en1 : Bool := true
  sbnEn : Bool := true
  standbyMs : Nat := 750
  wicketMs : Nat := 1700
  strapHold : Bool := false
  i3cAddr : Nat := 0
  slotId : Nat := 0
  deriving DecidableEq, Repr

/-- A weight tensor of section 0x08: the offset in the image of its 64-byte descriptor (R279), and what the job image says of it and
the spec gives no bytes for: where the all-reduced dW lies on its owner tiles (R263), its optimiser values (`PANE_DOPTn`, R298),
its initial values. -/
structure TensorAt where
  off : Nat
  owners : List (Nat × Nat)
  hyper : List Nat
  initial : List Byte := []
  deriving DecidableEq, Repr

/-- What a job image says and the spec gives no byte layout for: sections 0x08 and 0x0B (R387), the last weight-reading
tasks (R277), the stage-output tasks (R278), the parts of the job and its groups (R282, R346). DESIGN CHOICE (log 2). -/
structure JobExtra where
  lastReaders : List (Nat × Nat) := []
  stageOutput : List Nat := []
  weightXfer : List Nat := []
  parts : List Nat := []
  groupParts : List Nat := []
  tensors : List TensorAt := []
  stashBound : Nat := 0
  stashGate : Option Nat := none
  tileStash : List (Nat × Nat × Nat) := []
  playerMask : Nat := 0
  rcfg : List (Nat × Nat × Nat) := []
  lossMuls : List (Nat × Nat) := []
  chunkLen : List (Nat × Nat) := []
  deriving DecidableEq, Repr

/-- A bank refreshed (R71), and the granules of the stack that have turned wrong since, with the symbols in error (R72; log 117). -/
structure Refreshed where
  bank : Nat
  lost : List (Nat × Nat) := []
  deriving DecidableEq, Repr

/-- A step of a tile's louvre (R171): the bands still open. -/
structure LouvreStep where
  tile : Fin 96
  bands : Fin 9 := 0
  deriving DecidableEq, Repr

/-- Work of a tile that no word of a task's list names, an overflow replay or a recompute piece, with what befalls it. -/
structure TileAct where
  tile : Fin 96
  env : TileEnv := {}
  deriving DecidableEq, Repr

/-- What a port's FEC found (R317, R345): the flit could not be corrected, and the codewords corrected since the last flit. -/
structure FecReport where
  bad : Bool := false
  corrected : Nat := 0
  deriving DecidableEq, Repr

/-- What a `MESSAGE_FORWARD` forwards: a message in transit, or one of this part; and the transfer that starts, if any (log 130). -/
structure Forward where
  transit : Option SbnMsg := none
  start : Option Transfer := none
  deriving DecidableEq, Repr

/-- An address read by management, with what the access meets in a tile's window. -/
structure ReadAt where
  addr : Nat
  found : Found := {}
  deriving DecidableEq, Repr

/-- The class of a domain of R439. -/
inductive Domain where
  | tile | engine | stack | sirben | ethernet | management | wholePart
  deriving DecidableEq, Repr

/-- One command of the block; each constructor is the row of spec/opcode_table.json that LAWS.json names. -/
inductive Instr where
  -- panes, steps and the scheduler (01, 02)
  | mullion
  | admissionDecision
  | seedIntake
  | stepLatch (sliceFail : List (Fin 104 × Nat))
  | peepholePrefetch (stack : Fin 8)
  | windowRefill (site : Fin 104)
  | taskRetire (site : Fin 104)
  -- memory (03)
  | memoryRequestComplete (req : MemReq) (ecc : Ecc)
  | patrolScrubRead (stack : Fin 8) (offset : Nat) (ecc : Ecc)
  | bankRefresh (stack : Fin 8) (pch : Fin 32) (bank : Refreshed)
  | dramTempReport (stack : Fin 8) (die : Fin 16) (celsius : Nat)
  | dieInterfaceReplay (stack : Fin 8) (t : Nat)
  | bryRecentre (stack : Fin 8) (t : Nat)
  -- graph engine (04) and embedding tables (05)
  | sample (stack : Fin 8) (req : Word32B)
  | aggregate (stack : Fin 8) (req : Word32B)
  | fullAggregate (stack : Fin 8) (req : Word32B)
  | reverse (stack : Fin 8) (req : Word32B)
  | ownScatter (stack : Fin 8) (req : Word32B)
  | roundClose (stack : Fin 8)
  | scatterApply (stack : Fin 8)
  | migrationOpen (stack : Fin 8)
  | migrationCopy (stack : Fin 8)
  | migrationSwitch (stack : Fin 8)
  | migrDone (stack : Fin 8)
  -- tile units (06 to 11, 13)
  | mma (i : TileIns)
  | mvm (i : TileIns)
  | louvreClose (tile : LouvreStep)
  | drain (i : TileIns)
  | load (i : TileIns)
  | zero (i : TileIns)
  | cvt (i : TileIns)
  | ovfReplay (tile : TileAct)
  | add (i : TileIns)
  | sub (i : TileIns)
  | mul (i : TileIns)
  | fma (i : TileIns)
  | div (i : TileIns)
  | sqrt (i : TileIns)
  | rsqrt (i : TileIns)
  | rcp (i : TileIns)
  | exp (i : TileIns)
  | log (i : TileIns)
  | tanh (i : TileIns)
  | sigmoid (i : TileIns)
  | gelu (i : TileIns)
  | relu (i : TileIns)
  | lrelu (i : TileIns)
  | max (i : TileIns)
  | min (i : TileIns)
  | cmplt (i : TileIns)
  | cmpeq (i : TileIns)
  | mask (i : TileIns)
  | rng (i : TileIns)
  | cmp (i : TileIns)
  | split (i : TileIns)
  | recomputePiece (tile : TileAct)
  | gtag (i : TileIns)
  | stash (i : TileIns)
  | refill (i : TileIns)
  | cstart (i : TileIns)
  | collTimeout (coll : Fin 256)
  -- commit (12) and table replacement (05)
  | commitDue
  | commitOutcome
  | densePhase
  | embeddingPhase
  | commitEnd
  | hingeFlip
  | tableReleased
  -- Sirben links and messages (14)
  | flitReceive (port : Fin 10) (flit : List Byte) (fec : FecReport)
  | retry (port : Fin 10) (lseq : Nat)
  | linkRetryTimeout (port : Fin 10)
  | linkDownNotice (port : Fin 10)
  | fecLockLoss (port : Fin 10)
  | noGoodFlitTimeout (port : Fin 10)
  | linkUp (port : Fin 10) (laneOk : BitVec 8) (peerPart : Fin 16) (peerPort : Fin 10)
  | messageForward (what : Forward)
  | write (m : SbnMsg)
  | read (m : SbnMsg)
  | readData (m : SbnMsg)
  | draw (m : SbnMsg)
  | place (m : SbnMsg)
  | rowreq (m : SbnMsg)
  | rows (m : SbnMsg)
  | partialRows (m : SbnMsg)
  | handdown (m : SbnMsg)
  | scatter (m : SbnMsg)
  | token (m : SbnMsg)
  | coll (m : SbnMsg)
  | ack (m : SbnMsg) (t : Nat)
  | ackTimer (src : Fin 16) (vc : Fin 6)
  | transportRetx (dst : Fin 16) (vc : Fin 6)
  | shutterNotice (m : SbnMsg)
  | faultNotice (m : SbnMsg)
  | collCtl (m : SbnMsg)
  -- Ethernet (16)
  | ethFrame (port : Fin 2) (bytes : Nat) (frame : Frame) (t : Nat)
  | ethLinkDown (port : Fin 2)
  | ethLinkUp (port : Fin 2)
  | cmReq (port : Fin 2) (remoteQpn psn : Nat) (entry : Fin 8)
  | cmRtu (entry : Fin 8)
  | cmDreq (entry : Fin 8)
  | mailboxArrival (a : Arrival)
  | rdmaWrite (r : Rdma)
  | rdmaReadRequest (r : Rdma)
  | rdmaReadResponse (qp psn : Nat) (addr : Nat) (data : List Byte)
  | acknowledge (qp psn : Nat) (kind : AckKind)
  | sendWithImmediate (qp psn : Nat) (imm : Nat) (data : List Byte) (last : Bool)
  | cnp (qp : Nat) (t : Nat)
  | rateRaise (qp : Nat)
  | pfcPause (port : Fin 2) (prio : Fin 8) (quanta : Nat) (t : Nat)
  | pfcStorm (port : Fin 2) (t : Nat)
  | localAckTimeout (qp : Nat)
  -- Renvi opcodes and firmware work (17 to 20)
  | getIdentity (r : Req)
  | getCaps (r : Req)
  | getState (r : Req)
  | jobLoad (r : Req) (addr bytes : Nat) (digest : BitVec 256) (extra : JobExtra)
  | jobStart (r : Req) (s0 : BitVec 64)
  | jobStartEffect
  | jobStop (r : Req) (mode : Nat)
  | jobStatus (r : Req)
  | regRead (r : Req) (addrs : List ReadAt)
  | regWrite (r : Req) (entries : List (BitVec 64 × BitVec 64))
  | memRead (r : Req) (addr : ReadAt) (len : Nat)
  | winCreate (r : Req) (base len perms : Nat)
  | winDestroy (r : Req) (rkey : Nat)
  | tableStage (r : Req) (stack table : Nat) (desc : BitVec 512)
  | tableFlip (r : Req) (tables : BitVec 64) (step : BitVec 64)
  | tableStatus (r : Req) (table : Nat)
  | tableOpt (r : Req) (table : Nat) (values : BitVec 160)
  | tableThresh (r : Req) (table up16 dn16 up8 dn8 : Nat)
  | stepStatus (r : Req)
  | stepResume (r : Req) (outcome : Nat)
  | stepUndo (r : Req) (step : BitVec 64)
  | stepReplay (r : Req) (step : BitVec 64) (mode : Nat)
  | telemetryGet (r : Req) (set : Nat)
  | telemetryPeriod (r : Req) (period : Nat)
  | telemetryTick
  | eventSink (r : Req) (entry : Nat)
  | event (timeMs : Nat)
  | powerState (r : Req) (state : Nat)
  | powerCap (r : Req) (cap : Nat)
  | powerPolicy (r : Req) (mode fixed : Nat)
  | powerStatus (r : Req)
  | attest (r : Req) (nonce : BitVec 256) (offset : Option Nat)
  | certGet (r : Req) (index : Nat) (offset : Nat)
  | deadboltChallenge (r : Req)
  | nonceExpiry
  | deadboltOpen (r : Req) (offset : Nat) (fragment : List Byte)
  | deadboltClose (r : Req)
  | ownerEnrol (r : Req) (offset : Nat) (fragment : List Byte)
  | fwBegin (r : Req) (bytes : Nat) (digest : BitVec 256)
  | fwData (r : Req) (offset : Nat) (fragment : List Byte)
  | fwCommit (r : Req)
  | secPolicy (r : Req) (value : BitVec 32)
  | traceStart (r : Req) (selection : BitVec 128)
  | traceStop (r : Req)
  | traceRead (r : Req) (offset : Nat)
  | draughtSet (r : Req) (entries : List (BitVec 64 × BitVec 64))
  | draughtArmed
  | draughtClear (r : Req)
  | logRead (r : Req) (index : Nat)
  | logClear (r : Req) (index : Nat)
  | dumpRead (r : Req) (offset : Nat)
  | domainReset (r : Req) (domain inst timeMs : Nat)
  | domainResetDone (domain : Domain) (inst : Nat)
  | mgmtReset (r : Req) (timeMs : Nat)
  | contextSave (r : Req)
  | contextSaved
  | contextRestore (r : Req)
  | contextRestored
  | contextRead (r : Req) (offset : Nat)
  | contextWrite (r : Req) (offset : Nat) (data : List Byte)
  | qpCreate (r : Req) (port : Nat)
  | qpConnect (r : Req) (entry remoteQpn sendPsn recvPsn : Nat) (ip : BitVec 128) (ackTmo : Nat)
  | qpDestroy (r : Req) (entry : Nat)
  | shutter (r : Req) (parts : BitVec 16)
  | shutterClear (r : Req) (parts : BitVec 16)
  | fabricStatus (r : Req)
  | mgmtWdtReset (core : Fin 4) (timeMs : Nat)
  | mgmtReady (copyOk : Bool) (timeMs : Nat)
  | faultReport
  | scrub
  | scrubDone (trainFails : List (Nat × Nat)) (timeMs : Nat)
  | siteDetector (site : Fin 104)
  | retirementDetector
  | stepDetector
  | indexDetector
  | coldStart (f : BootFindings)
  | fullService (timeMs : Nat)
  | wicketDone
  | modRst (lowNs : Nat) (f : BootFindings)
  | energyReport (nJ : Nat)
  | sensorRead (readings : List (Nat × Nat)) (timeMs : Nat)
  | recoveryExit (timeMs : Nat)
  | inputFault (tenMilliVolts : Nat) (durationUs : Nat)
  | regulatorFault (regulator : Fin 8) (status : BitVec 3)
  | regulatorShutdown (tenMilliVolts : Nat) (durationUs : Nat)
  | idcode
  | bypass
  | samplePreload (cells : List Bool)
  | extest (cells : List Bool)
  | extestPulse (cells : List Bool)
  | extestTrain (cells : List Bool)
  | internalScan (code : BitVec 4)
  | paneCfgWrite (cls : Cls) (value : BitVec 32)
  | bryIlvWrite (cls : Cls) (value : BitVec 32)
  | sbnIdWrite (cls : Cls) (value : BitVec 32)
  | sbnRouteWrite (cls : Cls) (part : Fin 16) (value : BitVec 64)
  | sbnPortEnable (en : Bool)
  | ethPortEnable (port : Fin 2) (en : Bool)
  | registerWrite (cls : Cls) (addr : Nat) (value : BitVec 64)
  | debugSessionLapse (timeMs : Nat)
  | rnrRetry (qp : Nat)
  | regulationRegained
  | setdasa (staticAddr dynamicAddr : BitVec 7)
  | fwCommitDone
  deriving DecidableEq, Repr

end Sys2Proof
end

