-- ==== Sys2Proof/Decode.lean ====
section
/-! DEFINITION. spec/opcode_table.json gives none of its rows any bits ("fields": []): a command of this block arrives
as a happening, not as a word, so no word spells one. -/

namespace Sys2Proof

/-- The command that a word of the table's bits spells: none, since the table gives no row any bits (log 14). -/
def decodeTableWord (nbits w : Nat) : Option Instr :=
  match nbits, w with
  | _, _ => none

end Sys2Proof
end

