-- ==== Sys2Proof/Config.lean ====
section
/-! DEFINITION. What the spec leaves open, as constants without a body: nothing in Lean can evaluate one, so a statement
that holds of the model holds for every value they could have. Each is named in the assumption log. -/

namespace Sys2Proof.Config

/-- DESIGN CHOICE (log 3). R198 bounds the error of these VFU functions and leaves the value open inside the bound; the
same inputs always give the same bits, so the choice is a function of the function code, the mode, the rounding and the
operands. The model uses it as a number of units in the last place and keeps it inside the bound. -/
opaque ulpPick : (func : Nat) → (strict : Bool) → (rm : Nat) → (a b : BitVec 32) → Int

/-- DESIGN CHOICE (log 4). The result where the spec states none (`LOG` of zero or of a negative number). -/
opaque vfuUnstated : (func : Nat) → (strict : Bool) → (a : BitVec 32) → BitVec 32

/-- DESIGN CHOICE (log 4). The exponential, the sigmoid and the like inside a base die's softmax (R101, R103), whose
accuracy R102 does not state. -/
opaque baseDieExp : BitVec 32 → BitVec 32

/-- DESIGN CHOICE (log 5). SLH-DSA signature verification (FIPS 205): key digest, message, signature. -/
opaque slhDsaVerify : (keyDigest : BitVec 256) → (message signature : List Byte) → Bool

/-- DESIGN CHOICE (log 5). The AK's signature over an attestation report body (R414). -/
opaque slhDsaSign : (key : BitVec 256) → (message : List Byte) → List Byte

/-- DESIGN CHOICE (log 6). The entropy source of challenges (R413, R417): the n-th nonce drawn. -/
opaque freshNonce : Nat → BitVec 256

/-- DESIGN CHOICE (log 7). The n-th free value the model draws where the spec leaves a datum open. -/
opaque freeValue : Nat → Nat

/-- DESIGN CHOICE (log 8). The certificates of R413, whose bytes the spec does not give: index, then byte string. -/
opaque certificate : Nat → List Byte

/-- DESIGN CHOICE (log 5). The attestation key that stage 4 derives from the UDS and the measurements (R413). -/
opaque attestKey : (meas : BitVec 256) → BitVec 256

/-- DESIGN CHOICE (log 9). R464: a reset pulse of 2 to 10 µs may be ignored or act; which one, by its length in ns. -/
opaque shortResetActs : Nat → Bool

/-- DESIGN CHOICE (log 10). The bytes of a trace (R422), whose format the spec does not give: offset to byte. -/
opaque traceByte : Nat → Byte

/-- DESIGN CHOICE (log 10). The core registers, message headers and firmware log of a crash dump (R454): offset to byte. -/
opaque dumpByte : Nat → Byte

/-- DESIGN CHOICE (log 23). The DRAM row that a stack offset lies in (R75), whose extent the spec does not give. -/
opaque dramRow : (stackOffset : Nat) → Nat

/-- DESIGN CHOICE (log 125). The set of the row cache that an entry belongs to (R123): its table, version and row. -/
opaque cacheSet : (table version row : Nat) → Nat

/-- DESIGN CHOICE (log 131). The column of the edge router at which a stack's port is attached (R150). -/
opaque portColumn : (stack : Nat) → Nat

/-- DESIGN CHOICE (log 4). `IV` (bit 0) and `DZ` (bit 1) where R198 states no result. -/
opaque vfuUnstatedFlags : (func : Nat) → (strict : Bool) → (a : BitVec 32) → BitVec 2

/-- DESIGN CHOICE (log 26). Whether strict mode detects an underflow before rounding. -/
opaque tinyBeforeRounding : Bool

/-- DESIGN CHOICE (log 84). What `GET_IDENTITY` and the per-part registers hold of manufacture (R384, R430): 0 part number, 1
serial, 2 hardware revision, 3 and 4 the MAC addresses, 5 the device id, 6 the loader's and 7 the fuses' digest. -/
opaque identity : Nat → Nat

/-- DESIGN CHOICE (log 91). The bytes of a context's state between its header and the tiles (R456), which the spec does not lay
out: the number of the save, and the offset. -/
opaque contextByte : (save offset : Nat) → Byte

end Sys2Proof.Config
end

