-- ==== Sys2Proof/Machine/Kmap.lean ====
section
/-! DEFINITION. Finite maps as sorted lists of (key, value), in one canonical form, and the little-endian readers and
writers of byte strings (R7) that every record, descriptor and message uses. -/

namespace Sys2Proof.Machine

/-- A finite map: keys strictly rising. An absent key has the default that the reader names. -/
abbrev Kmap (α : Type) := List (Nat × α)

/-- The value at `k`, if any. -/
def kGet? {α : Type} : Kmap α → Nat → Option α
  | [], _ => none
  | (j, v) :: m, k => if j = k then some v else kGet? m k

/-- The value at `k`, or `d`. -/
def kGetD {α : Type} (m : Kmap α) (k : Nat) (d : α) : α := (kGet? m k).getD d

/-- The map with `v` at `k`. -/
def kSet {α : Type} : Kmap α → Nat → α → Kmap α
  | [], k, v => [(k, v)]
  | (j, w) :: m, k, v =>
    if k < j then (k, v) :: (j, w) :: m
    else if k = j then (k, v) :: m
    else (j, w) :: kSet m k v

/-- The map with nothing at `k`. -/
def kErase {α : Type} : Kmap α → Nat → Kmap α
  | [], _ => []
  | (j, w) :: m, k => if j = k then kErase m k else (j, w) :: kErase m k

/-- The map with `v` at `k`, where an absent key reads as `d`: writing `d` removes the entry. -/
def kPut {α : Type} [DecidableEq α] (m : Kmap α) (k : Nat) (v d : α) : Kmap α :=
  if v = d then kErase m k else kSet m k v

/-- Keys strictly rising, all at least `lo`. -/
def kSortedFrom {α : Type} (lo : Nat) : Kmap α → Bool
  | [] => true
  | (k, _) :: m => decide (lo ≤ k) && kSortedFrom (k + 1) m

/-- The canonical form of a map whose absent keys read as `d k`. -/
def kCanon {α : Type} [DecidableEq α] (d : Nat → α) (m : Kmap α) : Bool :=
  kSortedFrom 0 m && m.all (fun e => decide (e.2 ≠ d e.1))

/-- `n` bytes of `v`, the least significant first (R7). -/
def leBytes : Nat → Nat → List Byte
  | 0, _ => []
  | n + 1, v => BitVec.ofNat 8 v :: leBytes n (v / 256)

/-- The number that a byte string spells, the least significant byte first (R7). -/
def leNat : List Byte → Nat
  | [] => 0
  | b :: bs => b.toNat + 256 * leNat bs

/-- Bits `lo + n - 1` to `lo` of a number (R6). -/
def bitsOf (lo n v : Nat) : Nat := (v >>> lo) % 2 ^ n

/-- Bit `i` of a number. -/
def bitOf (i v : Nat) : Bool := v.testBit i

/-- The number read as a two's-complement integer of `n` bits. -/
def signed (n v : Nat) : Int := if v % 2 ^ n < 2 ^ (n - 1) then (v % 2 ^ n : Nat) else (v % 2 ^ n : Nat) - (2 ^ n : Nat)

/-- The two's-complement pattern of `n` bits of an integer. -/
def unsigned (n : Nat) (z : Int) : Nat := (z % (2 ^ n : Nat)).toNat

/-- A Bool as a bit. -/
def b2n (b : Bool) : Nat := if b then 1 else 0

/-- A list of Bools as a number, the first in bit 0. -/
def bitsToNat : List Bool → Nat
  | [] => 0
  | b :: bs => b2n b + 2 * bitsToNat bs

/-- `f` applied `n` times. -/
def iter {α : Type} (f : α → α) : Nat → α → α
  | 0, a => a
  | n + 1, a => iter f n (f a)

/-- A list with its element `i` replaced. -/
def listSet {α : Type} (l : List α) (i : Nat) (v : α) : List α := l.set i v

/-- `n` bytes from offset `o` of a byte string. -/
def slice (bs : List Byte) (o n : Nat) : List Byte := (bs.drop o).take n

/-- The little-endian number of `n` bytes at offset `o`. -/
def leAt (bs : List Byte) (o n : Nat) : Nat := leNat (slice bs o n)

/-- The sum of a list. -/
def sumOf (l : List Nat) : Nat := l.foldl (· + ·) 0

/-- Insertion of `a` before the first element that `lt` puts after it: a stable sorted insertion. -/
def insertBy {α : Type} (lt : α → α → Bool) (a : α) : List α → List α
  | [] => [a]
  | b :: l => if lt a b then a :: b :: l else b :: insertBy lt a l

/-- Stable sorting by insertion. -/
def sortBy {α : Type} (lt : α → α → Bool) (l : List α) : List α :=
  l.foldl (fun acc a => insertBy lt a acc) []

/-- The first element that occurs and its removal. -/
def removeFirst {α : Type} (p : α → Bool) : List α → Option (α × List α)
  | [] => none
  | a :: l =>
    if p a then some (a, l)
    else match removeFirst p l with
      | some (b, l') => some (b, a :: l')
      | none => none

end Sys2Proof.Machine
end

