-- ==== Sys2Proof/Machine/Num.lean ====
section
/-! DEFINITION. Numbers (08, 09): exact values, the floating-point grids of R182 and R203, rounding, and the arithmetic of
fast and strict mode on patterns. A finite value is (-1)^neg × m × 2^e with m and e exact. -/

namespace Sys2Proof.Machine

/-- A decoded number. A NaN carries the FP32 pattern it would have (R190). -/
inductive Num where
  | nan (bits : Nat)
  | inf (neg : Bool)
  | fin (neg : Bool) (m : Nat) (e : Int)
  deriving DecidableEq, Repr

/-- Rounding directions (R197); stochastic rounding carries the 16 random bits of its lane (R196). -/
inductive Rm where
  | rne | rtz | rup | rdn
  | sr (r : Nat)
  deriving DecidableEq, Repr

/-- A floating-point format (R182): fraction bits, bias, the largest finite exponent and fraction fields, exponent bits,
whether it has infinities, and its canonical NaN (0 for none). -/
structure Fp where
  fb : Nat
  bias : Nat
  eb : Nat
  maxE : Nat
  maxF : Nat
  inf : Bool
  nan : Nat
  deriving DecidableEq, Repr

def fpE2M1 : Fp := ⟨1, 1, 2, 3, 1, false, 0⟩
def fpE2M3 : Fp := ⟨3, 1, 2, 3, 7, false, 0⟩
def fpE3M2 : Fp := ⟨2, 3, 3, 7, 3, false, 0⟩
def fpE4M3 : Fp := ⟨3, 7, 4, 15, 6, false, 0x7F⟩
def fpE5M2 : Fp := ⟨2, 15, 5, 30, 3, true, 0x7E⟩
def fpBF16 : Fp := ⟨7, 127, 8, 254, 127, true, 0x7FC0⟩
def fpFP16 : Fp := ⟨10, 15, 5, 30, 1023, true, 0x7E00⟩
def fpFP32 : Fp := ⟨23, 127, 8, 254, 2 ^ 23 - 1, true, 0x7FC00000⟩

/-- The 24-bit tree format (R203). -/
def fpTree : Fp := ⟨15, 127, 8, 254, 2 ^ 15 - 1, true, 0x7FC000⟩

/-- Bits of a pattern. -/
def Fp.bits (f : Fp) : Nat := 1 + f.eb + f.fb

/-- The exponent of the smallest normal number. -/
def Fp.emin (f : Fp) : Int := 1 - (f.bias : Int)

/-- The pattern of the largest finite magnitude. -/
def Fp.maxPat (f : Fp) : Nat := f.maxE * 2 ^ f.fb + f.maxF

/-- The pattern of +∞. -/
def Fp.infPat (f : Fp) : Nat := (2 ^ f.eb - 1) * 2 ^ f.fb

/-- The sign bit. -/
def Fp.signBit (f : Fp) : Nat := 2 ^ (f.eb + f.fb)

/-- A NaN's FP32 pattern from a pattern of a format: sign and left-aligned fraction. -/
def nanBits (f : Fp) (w : Nat) : Nat :=
  (w / f.signBit % 2) * 2 ^ 31 + 0x7F800000 + (w % 2 ^ f.fb) * 2 ^ (23 - f.fb)

/-- The value of a pattern (R182). -/
def decodeFp (f : Fp) (w : Nat) : Num :=
  let s := w / f.signBit % 2 == 1
  let ef := w / 2 ^ f.fb % 2 ^ f.eb
  let fr := w % 2 ^ f.fb
  if f.maxE < ef then
    if f.inf && fr == 0 then .inf s else .nan (nanBits f w)
  else if f.nan = 0x7F && ef == 15 && fr == 7 then .nan (nanBits f w)
  else if ef = 0 then .fin s fr (f.emin - f.fb)
  else .fin s (2 ^ f.fb + fr) ((ef : Int) - f.bias - f.fb)

/-- A rounded magnitude n × 2^q. -/
structure Rounded where
  n : Nat
  q : Int
  inexact : Bool
  deriving DecidableEq, Repr

/-- m × 2^e rounded to `fb` fraction bits with the smallest exponent `emin` (RNE, RTZ, RUP, RDN; R196 for `sr`). -/
def roundTo (fb : Nat) (emin : Int) (rm : Rm) (neg : Bool) (m : Nat) (e : Int) : Rounded :=
  let q := max ((Nat.log2 m : Int) + e) emin - fb
  if q ≤ e then ⟨m * 2 ^ (e - q).toNat, q, false⟩
  else
    let d := (q - e).toNat
    let fl := m / 2 ^ d
    let rem := m % 2 ^ d
    let up := match rm with
      | .rne => decide (2 ^ d < 2 * rem) || (2 * rem == 2 ^ d && fl % 2 == 1)
      | .rtz => false
      | .rup => !neg && rem != 0
      | .rdn => neg && rem != 0
      | .sr r => decide (r % 65536 < rem * 65536 / 2 ^ d)
    ⟨if up then fl + 1 else fl, q, rem != 0⟩

/-- The magnitude pattern of a rounded value in a format; beyond the largest finite it exceeds `maxPat`. -/
def packMag (f : Fp) (r : Rounded) : Nat :=
  if r.n = 0 then 0
  else
    let (n, q) := if r.n = 2 ^ (f.fb + 1) then (2 ^ f.fb, r.q + 1) else (r.n, r.q)
    if n < 2 ^ f.fb then n
    else ((q + f.fb + f.bias).toNat) * 2 ^ f.fb + (n - 2 ^ f.fb)

/-- What an operation gives: the pattern and the conditions it raises. `flush` and `negz` count under `FMT_EVT` (R189, R192). -/
structure FRes where
  bits : Nat
  iv : Bool := false
  dz : Bool := false
  ovf : Bool := false
  uf : Bool := false
  nx : Bool := false
  flush : Bool := false
  negz : Bool := false
  deriving DecidableEq, Repr

/-- Whether a pattern is NaN or infinite. -/
def isNonFinite (f : Fp) (w : Nat) : Bool := decide (f.maxE < w / 2 ^ f.fb % 2 ^ f.eb)

/-- FP32 and BF16 flush subnormals in fast mode; the others keep them (R192). -/
def Fp.flushes (f : Fp) : Bool := f.eb == 8

/-- A zero result: in fast mode −0 is written as +0 (R189). -/
def zeroRes (f : Fp) (strict neg : Bool) : FRes :=
  if strict then { bits := if neg then f.signBit else 0 } else { bits := 0, negz := neg }

/-- An infinite result. -/
def infRes (f : Fp) (neg : Bool) : FRes := { bits := f.infPat + if neg then f.signBit else 0 }

/-- The result on overflow (R194's row for formats with infinities; IEEE 754 under the directed roundings). -/
def overflowRes (f : Fp) (rm : Rm) (neg : Bool) : FRes :=
  let toMax := match rm with
    | .rtz => true
    | .rup => neg
    | .rdn => !neg
    | _ => false
  let r := if toMax then { bits := f.maxPat + if neg then f.signBit else 0 : FRes } else infRes f neg
  { r with ovf := true, nx := true }

/-- An exact value rounded into a format with infinities (R189, R192, R198). Whether strict mode detects tininess before or
after rounding is left open (log 26). -/
def roundRes (f : Fp) (strict : Bool) (rm : Rm) (neg : Bool) (m : Nat) (e : Int) : FRes :=
  if m = 0 then zeroRes f strict neg
  else
    let tiny := decide ((Nat.log2 m : Int) + e < f.emin)
    if !strict && f.flushes && tiny then { bits := 0, flush := true }
    else
      let r := roundTo f.fb f.emin rm neg m e
      let p := packMag f r
      if f.maxPat < p then overflowRes f rm neg
      else if p = 0 then { zeroRes f strict neg with nx := r.inexact, uf := r.inexact }
      else
        let tinyAfter := decide (p < 2 ^ f.fb)
        { bits := p + (if neg then f.signBit else 0), nx := r.inexact,
          uf := r.inexact && (tinyAfter || (tiny && Config.tinyBeforeRounding)) }

/-- The canonical NaN (R190). -/
def nanRes (f : Fp) : FRes := { bits := f.nan }

/-- A NaN of the first NaN operand: in strict mode its payload, quietened, where the format holds it (R190). -/
def nanOf (f : Fp) (strict : Bool) (w : Nat) : FRes :=
  let frac := (w % 2 ^ 23) ||| 2 ^ 22
  if strict ∧ f.inf = true ∧ frac % 2 ^ (23 - f.fb) = 0 then
    { bits := f.infPat + frac / 2 ^ (23 - f.fb) + (if w / 2 ^ 31 % 2 = 1 then f.signBit else 0) }
  else nanRes f

/-- A signalling NaN (its quiet bit is 0). -/
def isSnan : Num → Bool
  | .nan w => w / 2 ^ 22 % 2 == 0
  | _ => false

/-- A NaN result from operands in order (R190). -/
def nanFrom (f : Fp) (strict : Bool) (l : List Num) : Option FRes :=
  match l.find? (fun x => match x with | .nan _ => true | _ => false) with
  | some (.nan w) => some { nanOf f strict w with iv := strict && l.any isSnan }
  | _ => none

/-- An invalid operation's result. -/
def invalidRes (f : Fp) : FRes := { nanRes f with iv := true }

/-- An operand as a unit reads it: in fast mode an FP32 or BF16 subnormal, and −0, is +0 (R189, R192). -/
def readNum (f : Fp) (strict : Bool) (w : Nat) : Num :=
  match decodeFp f w with
  | .fin s m e =>
    if strict then .fin s m e
    else if m = 0 ∨ (f.flushes = true ∧ (Nat.log2 m : Int) + e < f.emin) then .fin false 0 0
    else .fin s m e
  | x => x

/-- The exact sum of two finite values. An exact zero takes its sign by IEEE 754. -/
def addExact (rm : Rm) (s1 : Bool) (m1 : Nat) (e1 : Int) (s2 : Bool) (m2 : Nat) (e2 : Int) : Bool × Nat × Int :=
  let e := min e1 e2
  let a : Int := (m1 * 2 ^ (e1 - e).toNat : Nat)
  let b : Int := (m2 * 2 ^ (e2 - e).toNat : Nat)
  let z := (if s1 then -a else a) + (if s2 then -b else b)
  if z = 0 then
    (if m1 = 0 ∧ m2 = 0 ∧ s1 = s2 then s1 else decide (rm = .rdn), 0, e)
  else (decide (z < 0), z.natAbs, e)

/-- The sum, rounded once. -/
def addNum (f : Fp) (strict : Bool) (rm : Rm) (a b : Num) : FRes :=
  match nanFrom f strict [a, b] with
  | some r => r
  | none =>
    match a, b with
    | .inf s, .inf t => if s = t then infRes f s else invalidRes f
    | .inf s, _ => infRes f s
    | _, .inf t => infRes f t
    | .fin s1 m1 e1, .fin s2 m2 e2 =>
      let z := addExact rm s1 m1 e1 s2 m2 e2
      roundRes f strict rm z.1 z.2.1 z.2.2
    | _, _ => nanRes f

/-- The negative of a number (`SUB` is a + (−b)). A NaN keeps its payload. -/
def negNum : Num → Num
  | .nan w => .nan w
  | .inf s => .inf (!s)
  | .fin s m e => .fin (!s) m e

/-- The exact product, or what stands in its place: `none` for 0 × ∞. -/
def mulExact : Num → Num → Option Num
  | .nan w, _ => some (.nan w)
  | _, .nan w => some (.nan w)
  | .inf s, .inf t => some (.inf (s != t))
  | .inf s, .fin t m _ => if m = 0 then none else some (.inf (s != t))
  | .fin t m _, .inf s => if m = 0 then none else some (.inf (s != t))
  | .fin s m e, .fin t n d => some (.fin (s != t) (m * n) (e + d))

/-- The product, rounded once. -/
def mulNum (f : Fp) (strict : Bool) (rm : Rm) (a b : Num) : FRes :=
  match nanFrom f strict [a, b] with
  | some r => r
  | none => match mulExact a b with
    | none => invalidRes f
    | some (.inf s) => infRes f s
    | some (.fin s m e) => roundRes f strict rm s m e
    | some (.nan _) => nanRes f

/-- d + a × b with one rounding (R198); the NaN order is a, b, c with c = d (R190). -/
def fmaNum (f : Fp) (strict : Bool) (rm : Rm) (a b d : Num) : FRes :=
  match nanFrom f strict [a, b, d] with
  | some r => r
  | none => match mulExact a b with
    | none => invalidRes f
    | some p => addNum f strict rm d p

/-- An irrational or long magnitude n × 2^e with something below it, as an exact value that rounds alike. -/
def withTail (tail : Bool) (n : Nat) (e : Int) : Nat × Int := if tail then (4 * n + 1, e - 2) else (n, e)

/-- The quotient of two positive values to 128 bits beyond the divisor's, with what is left below. -/
def divExact (m : Nat) (e : Int) (n : Nat) (d : Int) : Nat × Int :=
  let k := 128 + Nat.log2 n
  let a := m * 2 ^ k
  withTail (a % n != 0) (a / n) (e - d - k)

/-- Bits of an integer square root from the top: `k` bits still to find. -/
def isqrtAux (n : Nat) : Nat → Nat → Nat
  | 0, acc => acc
  | k + 1, acc => isqrtAux n k (if (acc + 2 ^ k) * (acc + 2 ^ k) ≤ n then acc + 2 ^ k else acc)

/-- The largest r with r × r ≤ n. -/
def isqrt (n : Nat) : Nat := isqrtAux n (Nat.log2 n / 2 + 1) 0

/-- The square root of a positive value to more than 64 bits, with what is left below. -/
def sqrtExact (m : Nat) (e : Int) : Nat × Int :=
  let (m, e) := if e % 2 = 0 then (m, e) else (2 * m, e - 1)
  let n := m * 4 ^ 64
  let r := isqrt n
  withTail (r * r != n) r (e / 2 - 64)

/-! The elementary functions in fixed point with 400 fraction bits, far beyond what their rounding needs (log 27). -/

/-- One, with 400 fraction bits. -/
def fxOne : Nat := 2 ^ 400

/-- A magnitude in fixed point. -/
def fxOf (m : Nat) (e : Int) : Nat := if 0 ≤ e then m * 2 ^ e.toNat * fxOne else m * fxOne / 2 ^ (-e).toNat

/-- The Taylor terms of e^x after the first `i`, from term `t`. -/
def fxExpAux (x : Nat) : Nat → Nat → Nat → Nat → Nat
  | 0, _, _, acc => acc
  | k + 1, i, t, acc => let t' := t * x / fxOne / (i + 1); fxExpAux x k (i + 1) t' (acc + t')

/-- e^x for fixed-point x ≥ 0: x / 1,024 by its series, then ten squarings. -/
def fxExp (x : Nat) : Nat :=
  iter (fun y => y * y / fxOne) 10 (fxExpAux (x / 1024) 48 0 fxOne fxOne)

/-- The odd powers of atanh's series. -/
def fxAtanhAux (t2 : Nat) : Nat → Nat → Nat → Nat → Nat
  | 0, _, _, acc => acc
  | k + 1, i, p, acc => fxAtanhAux t2 k (i + 2) (p * t2 / fxOne) (acc + p / i)

/-- atanh t for 0 ≤ t ≤ 1/3. -/
def fxAtanh (t : Nat) : Nat := fxAtanhAux (t * t / fxOne) 130 1 t 0

/-- ln 2. -/
def fxLn2 : Nat := 2 * fxAtanh (fxOne / 3)

/-- |ln(m × 2^e)| and whether it is negative. -/
def fxLn (m : Nat) (e : Int) : Bool × Nat :=
  let l := Nat.log2 m
  let x := m * fxOne / 2 ^ l
  let y : Int := ((l : Int) + e) * (fxLn2 : Int) + (2 * fxAtanh ((x - fxOne) * fxOne / (x + fxOne)) : Nat)
  (decide (y < 0), y.natAbs)

/-- The terms of erf's series, as two sums of their magnitudes. -/
def fxErfAux (x2 : Nat) : Nat → Nat → Nat → Bool → Int → Int
  | 0, _, _, _, acc => acc
  | k + 1, i, p, s, acc =>
    fxErfAux x2 k (i + 1) (p * x2 / fxOne / (i + 1)) (!s)
      (if s then acc - (p / (2 * i + 1) : Nat) else acc + (p / (2 * i + 1) : Nat))

/-- √π × erf(x) / 2 for fixed-point 0 ≤ x ≤ 12. -/
def fxErfHalf (x : Nat) : Int := fxErfAux (x * x / fxOne) 700 0 x false 0

/-- π by Machin's formula, for √π. -/
def fxAtanInv (d : Nat) : Nat :=
  ((List.range 180).foldl (fun (acc : Int × Nat) i =>
    (if i % 2 = 0 then acc.1 + (acc.2 / (2 * i + 1) : Nat) else acc.1 - (acc.2 / (2 * i + 1) : Nat), acc.2 / (d * d)))
    (0, fxOne / d)).1.toNat

/-- √π. -/
def fxSqrtPi : Nat := isqrt ((16 * fxAtanInv 5 - 4 * fxAtanInv 239) * fxOne)

/-- Φ(−x) or Φ(x), the standard normal distribution, for fixed-point 0 ≤ x ≤ 16. -/
def fxPhi (neg : Bool) (x : Nat) : Nat :=
  let h := fxErfHalf (x * fxOne / isqrt (2 * fxOne * fxOne))
  let r : Int := h * (fxOne : Int) / (fxSqrtPi : Int)
  ((if neg then (fxOne / 2 : Nat) - r else (fxOne / 2 : Nat) + r) : Int).toNat

/-- A result of bounded error (R198): within `bound` units in the last place of the exact magnitude, the choice left open
(log 3), but no subnormal where the mode has none (R192). `exact` says that the magnitude has nothing below it. -/
def ulpRes (f : Fp) (strict : Bool) (bound : Int) (exact neg : Bool) (m : Nat) (e : Int) (pick : Int) : FRes :=
  if m = 0 then zeroRes f strict neg
  else if !strict && decide ((Nat.log2 m : Int) + e < f.emin) then { bits := 0, flush := true }
  else
    let (m, e) := withTail (!exact) m e
    let r := roundTo f.fb f.emin .rtz false m e
    let lo := if r.inexact then 1 - bound else -bound
    let k := max lo (min bound pick)
    let p := ((packMag f r : Int) + k).toNat
    let p := if !strict && f.flushes then max p (2 ^ f.fb) else p
    if f.maxPat < p then overflowRes f .rne neg
    else if p = 0 then { zeroRes f strict neg with nx := true, uf := true }
    else
      let nx := r.inexact || decide (k ≠ 0)
      { bits := p + (if neg then f.signBit else 0), nx := nx, uf := nx && decide (p < 2 ^ f.fb) }

/-- A fixed-point magnitude as a result of bounded error. -/
def fxRes (strict : Bool) (bound : Int) (exact neg : Bool) (x : Nat) (pick : Int) : FRes :=
  ulpRes fpFP32 strict bound exact neg x (-400) pick

/-- The result of an infinite quotient of a finite value (R198). -/
def divZero (f : Fp) (neg : Bool) : FRes := { infRes f neg with dz := true }

/-- a ÷ b: correctly rounded in strict mode, within 1 ulp in fast mode; `bound` is the fast bound (2 for `RCP`). -/
def divNum (f : Fp) (strict : Bool) (rm : Rm) (bound : Int) (a b : Num) (pick : Int) : FRes :=
  match nanFrom f strict [a, b] with
  | some r => r
  | none => match a, b with
    | .inf _, .inf _ => invalidRes f
    | .inf s, .fin t _ _ => infRes f (s != t)
    | .fin s _ _, .inf t => zeroRes f strict (s != t)
    | .fin s m e, .fin t n d =>
      if n = 0 then (if m = 0 then invalidRes f else divZero f (s != t))
      else if m = 0 then zeroRes f strict (s != t)
      else
        let (x, y) := divExact m e n d
        if strict then roundRes f strict rm (s != t) x y else ulpRes f strict bound true (s != t) x y pick
    | _, _ => nanRes f

/-- √a: correctly rounded in strict mode, within 1 ulp in fast mode. A negative operand is invalid (DEDUCED, log 28). -/
def sqrtNum (f : Fp) (strict : Bool) (rm : Rm) (a : Num) (pick : Int) : FRes :=
  match nanFrom f strict [a] with
  | some r => r
  | none => match a with
    | .inf s => if s then invalidRes f else infRes f false
    | .fin s m e =>
      if m = 0 then zeroRes f strict s
      else if s then invalidRes f
      else
        let (x, y) := sqrtExact m e
        if strict then roundRes f strict rm false x y else ulpRes f strict 1 true false x y pick
    | .nan _ => nanRes f

/-- 1 ÷ √a, within 2 ulp, 1 in strict mode. -/
def rsqrtNum (f : Fp) (strict : Bool) (a : Num) (pick : Int) : FRes :=
  match nanFrom f strict [a] with
  | some r => r
  | none => match a with
    | .inf s => if s then invalidRes f else zeroRes f strict false
    | .fin s m e =>
      if m = 0 then divZero f s
      else if s then invalidRes f
      else
        let (x, y) := sqrtExact m e
        let (u, v) := divExact 1 0 x y
        ulpRes f strict (if strict then 1 else 2) true false u v pick
    | .nan _ => nanRes f

/-- A magnitude of at least 128, beyond which the exponential functions have left every finite range. -/
def isHuge (m : Nat) (e : Int) : Bool := decide (m ≠ 0) && decide (7 ≤ (Nat.log2 m : Int) + e)

/-- e^x for a finite x, as a fixed-point magnitude (0 below every positive number of the format). -/
def fxExpSigned (s : Bool) (m : Nat) (e : Int) : Nat :=
  if s then fxOne * fxOne / fxExp (fxOf m e) else fxExp (fxOf m e)

/-- `EXP`. -/
def expNum (strict : Bool) (a : Num) (pick : Int) : FRes :=
  let b : Int := if strict then 1 else 2
  match nanFrom fpFP32 strict [a] with
  | some r => r
  | none => match a with
    | .inf s => if s then zeroRes fpFP32 strict false else infRes fpFP32 false
    | .fin s m e =>
      if isHuge m e then
        if s then fxRes strict b false false 1 pick else overflowRes fpFP32 .rne false
      else fxRes strict b (m == 0) false (fxExpSigned s m e) pick
    | .nan _ => nanRes fpFP32

/-- A result that the spec does not state (R198): the value and its `IV` and `DZ` are left open (log 4). -/
def unstatedRes (func : Nat) (strict : Bool) (w : Nat) : FRes :=
  let a := BitVec.ofNat 32 w
  { bits := (Config.vfuUnstated func strict a).toNat,
    iv := (Config.vfuUnstatedFlags func strict a).getLsbD 0, dz := (Config.vfuUnstatedFlags func strict a).getLsbD 1 }

/-- `LOG`: of zero and of a negative number the spec states no result. -/
def logNum (strict : Bool) (w : Nat) (a : Num) (pick : Int) : FRes :=
  match nanFrom fpFP32 strict [a] with
  | some r => r
  | none => match a with
    | .inf s => if s then unstatedRes 0x0A strict w else infRes fpFP32 false
    | .fin s m e =>
      if m = 0 ∨ s = true then unstatedRes 0x0A strict w
      else
        let (n, x) := fxLn m e
        fxRes strict (if strict then 1 else 2) (x == 0) n x pick
    | .nan _ => nanRes fpFP32

/-- `TANH`. -/
def tanhNum (strict : Bool) (a : Num) (pick : Int) : FRes :=
  let b : Int := if strict then 1 else 2
  match nanFrom fpFP32 strict [a] with
  | some r => r
  | none => match a with
    | .inf s => fxRes strict b true s fxOne pick
    | .fin s m e =>
      if m = 0 then zeroRes fpFP32 strict s
      else if isHuge m e then fxRes strict b false s (fxOne - 1) pick
      else
        let y := fxExp (2 * fxOf m e)
        fxRes strict b false s ((y - fxOne) * fxOne / (y + fxOne)) pick
    | .nan _ => nanRes fpFP32

/-- `SIGMOID`. -/
def sigmoidNum (strict : Bool) (a : Num) (pick : Int) : FRes :=
  let b : Int := if strict then 1 else 2
  match nanFrom fpFP32 strict [a] with
  | some r => r
  | none => match a with
    | .inf s => if s then zeroRes fpFP32 strict false else fxRes strict b true false fxOne pick
    | .fin s m e =>
      if isHuge m e then (if s then fxRes strict b false false 1 pick else fxRes strict b false false (fxOne - 1) pick)
      else fxRes strict b (m == 0) false (fxOne * fxOne / (fxOne + fxExpSigned (!s) m e)) pick
    | .nan _ => nanRes fpFP32

/-- `GELU`: a × Φ(a), from 16 on just below a. Of −∞ the spec states no result. -/
def geluNum (strict : Bool) (w : Nat) (a : Num) (pick : Int) : FRes :=
  let b : Int := if strict then 1 else 2
  match nanFrom fpFP32 strict [a] with
  | some r => r
  | none => match a with
    | .inf s => if s then unstatedRes 0x0D strict w else infRes fpFP32 false
    | .fin s m e =>
      if m = 0 then zeroRes fpFP32 strict s
      else if decide (16 * fxOne ≤ fxOf m e) then
        (if s then fxRes strict b false true 1 pick else ulpRes fpFP32 strict b false false (m * 2 ^ 64 - 1) (e - 64) pick)
      else fxRes strict b false s (fxOf m e * fxPhi s (fxOf m e) / fxOne) pick
    | .nan _ => nanRes fpFP32

/-! Comparisons (R191). -/

/-- The order of two numbers that are not NaN: below, equal or above. Zeros are equal. -/
def cmpNum : Num → Num → Ordering
  | .inf s, .inf t => if s = t then .eq else if s then .lt else .gt
  | .inf s, _ => if s then .lt else .gt
  | _, .inf t => if t then .gt else .lt
  | .fin s m e, .fin t n d =>
    let k := min e d
    let a : Int := (m * 2 ^ (e - k).toNat : Nat)
    let b : Int := (n * 2 ^ (d - k).toNat : Nat)
    compare (if s then -a else a) (if t then -b else b)
  | _, _ => .eq

/-- Whether a number is NaN. -/
def isNan : Num → Bool
  | .nan _ => true
  | _ => false

/-- The sign of a zero or any other number. -/
def isNeg : Num → Bool
  | .nan _ => false
  | .inf s => s
  | .fin s _ _ => s

/-- A number written in a format: unchanged where the format holds it, else rounded once. -/
def exactRes (f : Fp) (strict : Bool) (a : Num) (rm : Rm := .rne) : FRes :=
  match nanFrom f strict [a] with
  | some r => { r with iv := false }
  | none => match a with
    | .inf s => infRes f s
    | .fin s m e => roundRes f strict rm s m e
    | .nan _ => nanRes f

/-- `MAX` and `MIN` (R191). In strict mode −0 is less than +0. -/
def maxNum (f : Fp) (strict isMin : Bool) (a b : Num) (rm : Rm := .rne) : FRes :=
  match nanFrom f strict [a, b] with
  | some r => r
  | none =>
    let aBig := match cmpNum a b with
      | .gt => true
      | .lt => false
      | .eq => !isNeg a || isNeg b
    exactRes f strict (if aBig != isMin then a else b) rm

/-- `CMPLT` and `CMPEQ`: 1.0 or +0 in FP32, and whether strict mode finds the comparison invalid. -/
def cmpRes (f : Fp) (strict isEq : Bool) (a b : Num) : FRes :=
  let nan := isNan a || isNan b
  let yes := !nan && (cmpNum a b == (if isEq then Ordering.eq else Ordering.lt))
  { bits := if yes then f.bias * 2 ^ f.fb else 0,
    iv := strict && (if isEq then isSnan a || isSnan b else nan) }

/-! FP32 arithmetic as the base dies, the link engines and the accumulators use it: RNE, in the job's mode. -/

/-- An FP32 operand. -/
def f32 (strict : Bool) (w : BitVec 32) : Num := readNum fpFP32 strict w.toNat

/-- a + b. -/
def f32add (strict : Bool) (a b : BitVec 32) : FRes := addNum fpFP32 strict .rne (f32 strict a) (f32 strict b)

/-- a × b. -/
def f32mul (strict : Bool) (a b : BitVec 32) : FRes := mulNum fpFP32 strict .rne (f32 strict a) (f32 strict b)

/-- a ÷ b, correctly rounded: the quotients that the base dies and the optimisers form (R102, R133). -/
def f32div (strict : Bool) (a b : BitVec 32) : FRes :=
  match f32 strict a, f32 strict b with
  | .fin s m e, .fin t n d =>
    if n = 0 then (if m = 0 then invalidRes fpFP32 else divZero fpFP32 (s != t))
    else if m = 0 then zeroRes fpFP32 strict (s != t)
    else
      let (x, y) := divExact m e n d
      roundRes fpFP32 strict .rne (s != t) x y
  | x, y => divNum fpFP32 strict .rne 1 x y 0

/-- √a, correctly rounded (R133). -/
def f32sqrt (strict : Bool) (a : BitVec 32) : FRes :=
  match f32 strict a with
  | .fin s m e =>
    if m = 0 then zeroRes fpFP32 strict s
    else if s then invalidRes fpFP32
    else
      let (x, y) := sqrtExact m e
      roundRes fpFP32 strict .rne false x y
  | x => sqrtNum fpFP32 strict .rne x 0

/-- The word of a result. -/
def FRes.w (r : FRes) : BitVec 32 := BitVec.ofNat 32 r.bits

/-- An FP32 word is NaN or infinite. -/
def nfW (w : BitVec 32) : Bool := isNonFinite fpFP32 w.toNat

end Sys2Proof.Machine
end

