-- ==== Sys2Proof/Machine/Regs.lean ====
section
/-! DEFINITION. The registers of the spec's register tables: one `Reg` per table heading and one `Field` per row that
names a field, with the address, the width, the reset value and the access codes (R9) the tables give.
The rule each table belongs to stands in its docstring. -/

namespace Sys2Proof.Machine

/-- The register blocks; `brng` is the base-die copy of the RNG registers (R311). They decide the reset domain (R439)
and what a class may write (R385). -/
inductive Block where
  | pane | bry | gre | emb | brng | tile | mxa | mvp | fmt | acc | spx | rng | sbn | eth | mbx | pwr | sec | drt | rst
  deriving DecidableEq, Repr

/-- One register heading: instance `k` (a stack or a tile) and element `n` (of an array `NAMEn`) lie at
`base + k * instStride + n * stride`. `resets` gives the reset values that differ from element to element (R35). The
masks name the bits whose access code is RW, RWL and W1C; every other bit is RO or reserved (R8, R9). -/
structure Reg where
  base : Nat
  width : Nat
  insts : Nat
  instStride : Nat
  count : Nat
  stride : Nat
  reset : Nat
  resets : List Nat
  rw : Nat
  rwl : Nat
  w1c : Nat
  block : Block
  deriving DecidableEq, Repr

/-- A field: bits `lo` to `lo + bits - 1` of a register. -/
structure Field where
  reg : Reg
  lo : Nat
  bits : Nat
  deriving DecidableEq, Repr

/-- The device address of element `n` of instance `k`. -/
def Reg.at (r : Reg) (k n : Nat) : Nat := r.base + k * r.instStride + n * r.stride

/-- The reset value of element `n` (R11; R35 for the horizons). -/
def Reg.resetVal (r : Reg) (n : Nat) : Nat := r.resets.getD n r.reset

/-- R59 (02_panes_and_scheduling.md): `PANE_CFG`, 32 bits, reset 0x8008_0001. -/
def PANE_CFG : Reg :=
  { base := 0x020000000000, width := 32, insts := 1, instStride := 0x0, count := 1, stride := 0x0,
    reset := 0x80080001, resets := [], rw := 0x103, rwl := 0x0, w1c := 0x0, block := .pane }
/-- `PANE_CFG.LEN` [1:0], RW. -/
def PANE_CFG_LEN : Field := ⟨PANE_CFG, 0, 2⟩
/-- `PANE_CFG.SCHED_EN` [8:8], RW. -/
def PANE_CFG_SCHED_EN : Field := ⟨PANE_CFG, 8, 1⟩
/-- `PANE_CFG.MAX_PER_SITE` [23:16], RO. -/
def PANE_CFG_MAX_PER_SITE : Field := ⟨PANE_CFG, 16, 8⟩
/-- `PANE_CFG.RESERVE` [31:24], RO. -/
def PANE_CFG_RESERVE : Field := ⟨PANE_CFG, 24, 8⟩

/-- R59 (02_panes_and_scheduling.md): `PANE_COUNT`, 64 bits, reset 0x0000_0000_0000_0000. -/
def PANE_COUNT : Reg :=
  { base := 0x020000000008, width := 64, insts := 1, instStride := 0x0, count := 1, stride := 0x0,
    reset := 0x0, resets := [], rw := 0x0, rwl := 0x0, w1c := 0x0, block := .pane }
/-- `PANE_COUNT.COUNT` [63:0], RO. -/
def PANE_COUNT_COUNT : Field := ⟨PANE_COUNT, 0, 64⟩

/-- R59 (02_panes_and_scheduling.md): `PANE_HORIZON`, 32 bits, reset as the class table in R35. -/
def PANE_HORIZON : Reg :=
  { base := 0x020000000020, width := 32, insts := 1, instStride := 0x0, count := 16, stride := 0x4,
    reset := 0x0, resets := [8, 32, 16, 64, 64, 64, 32, 64, 256, 1024, 4096], rw := 0xFFFF, rwl := 0x0, w1c := 0x0, block := .pane }
/-- `PANE_HORIZON.HORIZON` [15:0], RW. -/
def PANE_HORIZON_HORIZON : Field := ⟨PANE_HORIZON, 0, 16⟩

/-- R59 (02_panes_and_scheduling.md): `PANE_ENERGY`, 64 bits, reset 0x0000_0000_0000_0000. -/
def PANE_ENERGY : Reg :=
  { base := 0x020000000060, width := 64, insts := 1, instStride := 0x0, count := 1, stride := 0x0,
    reset := 0x0, resets := [], rw := 0x0, rwl := 0x0, w1c := 0x0, block := .pane }
/-- `PANE_ENERGY.E_ORD` [31:0], RO. -/
def PANE_ENERGY_E_ORD : Field := ⟨PANE_ENERGY, 0, 32⟩
/-- `PANE_ENERGY.E_HARD` [63:32], RO. -/
def PANE_ENERGY_E_HARD : Field := ⟨PANE_ENERGY, 32, 32⟩

/-- R59 (02_panes_and_scheduling.md): `PANE_EVT`, 192 bits, reset 0. -/
def PANE_EVT : Reg :=
  { base := 0x020000000070, width := 192, insts := 1, instStride := 0x0, count := 1, stride := 0x0,
    reset := 0x0, resets := [], rw := 0x0, rwl := 0x0, w1c := 0x0, block := .pane }
/-- `PANE_EVT.OVERRUN` [31:0], RO. -/
def PANE_EVT_OVERRUN : Field := ⟨PANE_EVT, 0, 32⟩
/-- `PANE_EVT.MEM_LATE` [63:32], RO. -/
def PANE_EVT_MEM_LATE : Field := ⟨PANE_EVT, 32, 32⟩
/-- `PANE_EVT.URGENT` [95:64], RO. -/
def PANE_EVT_URGENT : Field := ⟨PANE_EVT, 64, 32⟩
/-- `PANE_EVT.IDX_WAIT` [127:96], RO. -/
def PANE_EVT_IDX_WAIT : Field := ⟨PANE_EVT, 96, 32⟩
/-- `PANE_EVT.STALL` [159:128], RO. -/
def PANE_EVT_STALL : Field := ⟨PANE_EVT, 128, 32⟩
/-- `PANE_EVT.CANCELLED` [191:160], RO. -/
def PANE_EVT_CANCELLED : Field := ⟨PANE_EVT, 160, 32⟩

/-- R59 (02_panes_and_scheduling.md): `PANE_SUSP`, 128 bits, reset 0. -/
def PANE_SUSP : Reg :=
  { base := 0x020000000090, width := 128, insts := 1, instStride := 0x0, count := 1, stride := 0x0,
    reset := 0x0, resets := [], rw := 0x0, rwl := 0x0, w1c := 0xFFFFFFFFFFFFFFFFFFFFFFFFFF, block := .pane }
/-- `PANE_SUSP.SITE` [103:0], W1C. -/
def PANE_SUSP_SITE : Field := ⟨PANE_SUSP, 0, 104⟩

/-- R59 (02_panes_and_scheduling.md): `PANE_CARRIED`, 128 bits, reset 0. -/
def PANE_CARRIED : Reg :=
  { base := 0x0200000000A0, width := 128, insts := 1, instStride := 0x0, count := 1, stride := 0x0,
    reset := 0x0, resets := [], rw := 0x0, rwl := 0x0, w1c := 0x0, block := .pane }
/-- `PANE_CARRIED.SITE` [103:0], RO. -/
def PANE_CARRIED_SITE : Field := ⟨PANE_CARRIED, 0, 104⟩

/-- R59 (02_panes_and_scheduling.md): `PANE_STATUS`, 32 bits, reset 0x007F_0000. -/
def PANE_STATUS : Reg :=
  { base := 0x0200000000B0, width := 32, insts := 1, instStride := 0x0, count := 1, stride := 0x0,
    reset := 0x7F0000, resets := [], rw := 0x0, rwl := 0x0, w1c := 0x0, block := .pane }
/-- `PANE_STATUS.JOB` [0:0], RO. -/
def PANE_STATUS_JOB : Field := ⟨PANE_STATUS, 0, 1⟩
/-- `PANE_STATUS.TRIP` [1:1], RO. -/
def PANE_STATUS_TRIP : Field := ⟨PANE_STATUS, 1, 1⟩
/-- `PANE_STATUS.LAST_OVR_SITE` [22:16], RO. -/
def PANE_STATUS_LAST_OVR_SITE : Field := ⟨PANE_STATUS, 16, 7⟩

/-- R59 (02_panes_and_scheduling.md): `PANE_WINDOW`, 32 bits, reset 0. -/
def PANE_WINDOW : Reg :=
  { base := 0x0200000000B4, width := 32, insts := 1, instStride := 0x0, count := 1, stride := 0x0,
    reset := 0x0, resets := [], rw := 0x0, rwl := 0x0, w1c := 0x0, block := .pane }
/-- `PANE_WINDOW.OCCUPANCY` [12:0], RO. -/
def PANE_WINDOW_OCCUPANCY : Field := ⟨PANE_WINDOW, 0, 13⟩

/-- R59 (02_panes_and_scheduling.md): `PANE_SLOT_FAULT`, 128 bits, reset 0. -/
def PANE_SLOT_FAULT : Reg :=
  { base := 0x0200000000C0, width := 128, insts := 1, instStride := 0x0, count := 1, stride := 0x0,
    reset := 0x0, resets := [], rw := 0x0, rwl := 0x0, w1c := 0x1, block := .pane }
/-- `PANE_SLOT_FAULT.VALID` [0:0], W1C. -/
def PANE_SLOT_FAULT_VALID : Field := ⟨PANE_SLOT_FAULT, 0, 1⟩
/-- `PANE_SLOT_FAULT.SLOT` [1:1], RO. -/
def PANE_SLOT_FAULT_SLOT : Field := ⟨PANE_SLOT_FAULT, 1, 1⟩
/-- `PANE_SLOT_FAULT.CHECK` [9:8], RO. -/
def PANE_SLOT_FAULT_CHECK : Field := ⟨PANE_SLOT_FAULT, 8, 2⟩
/-- `PANE_SLOT_FAULT.STEP` [127:64], RO. -/
def PANE_SLOT_FAULT_STEP : Field := ⟨PANE_SLOT_FAULT, 64, 64⟩

/-- R79 (03_brynlon_memory.md): `BRY_ILV`, 32 bits, reset 0x0000_0108. -/
def BRY_ILV : Reg :=
  { base := 0x020000100000, width := 32, insts := 1, instStride := 0x0, count := 1, stride := 0x0,
    reset := 0x108, resets := [], rw := 0x37F, rwl := 0x0, w1c := 0x0, block := .bry }
/-- `BRY_ILV.IGIB` [6:0], RW. -/
def BRY_ILV_IGIB : Field := ⟨BRY_ILV, 0, 7⟩
/-- `BRY_ILV.GRAN` [9:8], RW. -/
def BRY_ILV_GRAN : Field := ⟨BRY_ILV, 8, 2⟩

/-- R79 (03_brynlon_memory.md): `BRY_STATUS`, 32 bits, reset 0x0000_0000. -/
def BRY_STATUS : Reg :=
  { base := 0x020000100010, width := 32, insts := 8, instStride := 0x10000, count := 1, stride := 0x0,
    reset := 0x0, resets := [], rw := 0x0, rwl := 0x0, w1c := 0x0, block := .bry }
/-- `BRY_STATUS.TRAINED` [0:0], RO. -/
def BRY_STATUS_TRAINED : Field := ⟨BRY_STATUS, 0, 1⟩
/-- `BRY_STATUS.SELF_REF` [1:1], RO. -/
def BRY_STATUS_SELF_REF : Field := ⟨BRY_STATUS, 1, 1⟩
/-- `BRY_STATUS.REF_X2` [2:2], RO. -/
def BRY_STATUS_REF_X2 : Field := ⟨BRY_STATUS, 2, 1⟩
/-- `BRY_STATUS.DRAM_TEMP` [23:16], RO. -/
def BRY_STATUS_DRAM_TEMP : Field := ⟨BRY_STATUS, 16, 8⟩

/-- R79 (03_brynlon_memory.md): `BRY_ARB`, 32 bits, reset 0x0000_0404. -/
def BRY_ARB : Reg :=
  { base := 0x020000100018, width := 32, insts := 8, instStride := 0x10000, count := 1, stride := 0x0,
    reset := 0x404, resets := [], rw := 0xF0F, rwl := 0x0, w1c := 0x0, block := .bry }
/-- `BRY_ARB.W_DIE` [3:0], RW. -/
def BRY_ARB_W_DIE : Field := ⟨BRY_ARB, 0, 4⟩
/-- `BRY_ARB.W_GRE` [11:8], RW. -/
def BRY_ARB_W_GRE : Field := ⟨BRY_ARB, 8, 4⟩

/-- R79 (03_brynlon_memory.md): `BRY_ECC_CE`, 32 bits, reset 0x0000_0000. -/
def BRY_ECC_CE : Reg :=
  { base := 0x020000100020, width := 32, insts := 8, instStride := 0x10000, count := 1, stride := 0x0,
    reset := 0x0, resets := [], rw := 0x0, rwl := 0x0, w1c := 0x0, block := .bry }
/-- `BRY_ECC_CE.COUNT` [31:0], RO. -/
def BRY_ECC_CE_COUNT : Field := ⟨BRY_ECC_CE, 0, 32⟩

/-- R79 (03_brynlon_memory.md): `BRY_ECC_THRESH`, 32 bits, reset 0x0000_0010. -/
def BRY_ECC_THRESH : Reg :=
  { base := 0x020000100024, width := 32, insts := 8, instStride := 0x10000, count := 1, stride := 0x0,
    reset := 0x10, resets := [], rw := 0xFFFF, rwl := 0x0, w1c := 0x0, block := .bry }
/-- `BRY_ECC_THRESH.ROW` [15:0], RW. -/
def BRY_ECC_THRESH_ROW : Field := ⟨BRY_ECC_THRESH, 0, 16⟩

/-- R79 (03_brynlon_memory.md): `BRY_UE_LOG`, 128 bits, reset 0. -/
def BRY_UE_LOG : Reg :=
  { base := 0x020000100030, width := 128, insts := 8, instStride := 0x10000, count := 1, stride := 0x0,
    reset := 0x0, resets := [], rw := 0x0, rwl := 0x0, w1c := 0x1, block := .bry }
/-- `BRY_UE_LOG.VALID` [0:0], W1C. -/
def BRY_UE_LOG_VALID : Field := ⟨BRY_UE_LOG, 0, 1⟩
/-- `BRY_UE_LOG.PCH` [5:1], RO. -/
def BRY_UE_LOG_PCH : Field := ⟨BRY_UE_LOG, 1, 5⟩
/-- `BRY_UE_LOG.REQ` [7:6], RO. -/
def BRY_UE_LOG_REQ : Field := ⟨BRY_UE_LOG, 6, 2⟩
/-- `BRY_UE_LOG.ADDR` [55:8], RO. -/
def BRY_UE_LOG_ADDR : Field := ⟨BRY_UE_LOG, 8, 48⟩
/-- `BRY_UE_LOG.PANE` [127:64], RO. -/
def BRY_UE_LOG_PANE : Field := ⟨BRY_UE_LOG, 64, 64⟩

/-- R79 (03_brynlon_memory.md): `BRY_SCRUB`, 32 bits, reset 0x0000_1801. -/
def BRY_SCRUB : Reg :=
  { base := 0x020000100040, width := 32, insts := 8, instStride := 0x10000, count := 1, stride := 0x0,
    reset := 0x1801, resets := [], rw := 0xFF01, rwl := 0x0, w1c := 0x0, block := .bry }
/-- `BRY_SCRUB.EN` [0:0], RW. -/
def BRY_SCRUB_EN : Field := ⟨BRY_SCRUB, 0, 1⟩
/-- `BRY_SCRUB.PERIOD` [15:8], RW. -/
def BRY_SCRUB_PERIOD : Field := ⟨BRY_SCRUB, 8, 8⟩

/-- R79 (03_brynlon_memory.md): `BRY_EVT`, 64 bits, reset 0. -/
def BRY_EVT : Reg :=
  { base := 0x020000100050, width := 64, insts := 8, instStride := 0x10000, count := 1, stride := 0x0,
    reset := 0x0, resets := [], rw := 0x0, rwl := 0x0, w1c := 0x0, block := .bry }
/-- `BRY_EVT.RECENTRE` [15:0], RO. -/
def BRY_EVT_RECENTRE : Field := ⟨BRY_EVT, 0, 16⟩
/-- `BRY_EVT.REPLAY` [31:16], RO. -/
def BRY_EVT_REPLAY : Field := ⟨BRY_EVT, 16, 16⟩
/-- `BRY_EVT.CE_ROW` [47:32], RO. -/
def BRY_EVT_CE_ROW : Field := ⟨BRY_EVT, 32, 16⟩
/-- `BRY_EVT.UE_IDLE` [63:48], RO. -/
def BRY_EVT_UE_IDLE : Field := ⟨BRY_EVT, 48, 16⟩

/-- R79 (03_brynlon_memory.md): `BRY_REGION`, 128 bits, reset 0. -/
def BRY_REGION : Reg :=
  { base := 0x020000100100, width := 128, insts := 1, instStride := 0x0, count := 32, stride := 0x10,
    reset := 0x0, resets := [], rw := 0x0, rwl := 0x0, w1c := 0x0, block := .bry }
/-- `BRY_REGION.KIND` [2:0], RO. -/
def BRY_REGION_KIND : Field := ⟨BRY_REGION, 0, 3⟩
/-- `BRY_REGION.STACK` [7:4], RO. -/
def BRY_REGION_STACK : Field := ⟨BRY_REGION, 4, 4⟩
/-- `BRY_REGION.BASE` [55:8], RO. -/
def BRY_REGION_BASE : Field := ⟨BRY_REGION, 8, 48⟩
/-- `BRY_REGION.SIZE` [103:64], RO. -/
def BRY_REGION_SIZE : Field := ⟨BRY_REGION, 64, 40⟩

/-- R115 (04_graph_engine.md): `GRE_CFG`, 32 bits, reset 0x0000_0140. -/
def GRE_CFG : Reg :=
  { base := 0x020000104000, width := 32, insts := 8, instStride := 0x10000, count := 1, stride := 0x0,
    reset := 0x140, resets := [], rw := 0x1F1, rwl := 0x0, w1c := 0x0, block := .gre }
/-- `GRE_CFG.EN` [0:0], RW. -/
def GRE_CFG_EN : Field := ⟨GRE_CFG, 0, 1⟩
/-- `GRE_CFG.ORDER` [1:1], RO. -/
def GRE_CFG_ORDER : Field := ⟨GRE_CFG, 1, 1⟩
/-- `GRE_CFG.REMOTE_SHARE` [7:4], RW. -/
def GRE_CFG_REMOTE_SHARE : Field := ⟨GRE_CFG, 4, 4⟩
/-- `GRE_CFG.NODE_CACHE_EN` [8:8], RW. -/
def GRE_CFG_NODE_CACHE_EN : Field := ⟨GRE_CFG, 8, 1⟩

/-- R115 (04_graph_engine.md): `GRE_STATUS`, 32 bits, reset 0x0000_0000. -/
def GRE_STATUS : Reg :=
  { base := 0x020000104004, width := 32, insts := 8, instStride := 0x10000, count := 1, stride := 0x0,
    reset := 0x0, resets := [], rw := 0x0, rwl := 0x0, w1c := 0x0, block := .gre }
/-- `GRE_STATUS.BUSY` [0:0], RO. -/
def GRE_STATUS_BUSY : Field := ⟨GRE_STATUS, 0, 1⟩
/-- `GRE_STATUS.ROUND_OPEN` [1:1], RO. -/
def GRE_STATUS_ROUND_OPEN : Field := ⟨GRE_STATUS, 1, 1⟩
/-- `GRE_STATUS.ROUND_MB` [15:8], RO. -/
def GRE_STATUS_ROUND_MB : Field := ⟨GRE_STATUS, 8, 8⟩
/-- `GRE_STATUS.ROUND_LAYER` [17:16], RO. -/
def GRE_STATUS_ROUND_LAYER : Field := ⟨GRE_STATUS, 16, 2⟩
/-- `GRE_STATUS.MARKERS_MISSING` [31:24], RO. -/
def GRE_STATUS_MARKERS_MISSING : Field := ⟨GRE_STATUS, 24, 8⟩

/-- R115 (04_graph_engine.md): `GRE_GRAPH`, 192 bits, reset 0. -/
def GRE_GRAPH : Reg :=
  { base := 0x020000104010, width := 192, insts := 8, instStride := 0x10000, count := 1, stride := 0x0,
    reset := 0x0, resets := [], rw := 0x0, rwl := 0x0, w1c := 0x0, block := .gre }
/-- `GRE_GRAPH.NODE_BASE` [47:0], RO. -/
def GRE_GRAPH_NODE_BASE : Field := ⟨GRE_GRAPH, 0, 48⟩
/-- `GRE_GRAPH.EDGE_BASE` [111:64], RO. -/
def GRE_GRAPH_EDGE_BASE : Field := ⟨GRE_GRAPH, 64, 48⟩
/-- `GRE_GRAPH.EDGE_COUNT` [167:128], RO. -/
def GRE_GRAPH_EDGE_COUNT : Field := ⟨GRE_GRAPH, 128, 40⟩

/-- R115 (04_graph_engine.md): `GRE_EVT`, 128 bits, reset 0. -/
def GRE_EVT : Reg :=
  { base := 0x020000104030, width := 128, insts := 8, instStride := 0x10000, count := 1, stride := 0x0,
    reset := 0x0, resets := [], rw := 0x0, rwl := 0x0, w1c := 0x0, block := .gre }
/-- `GRE_EVT.HUB` [31:0], RO. -/
def GRE_EVT_HUB : Field := ⟨GRE_EVT, 0, 32⟩
/-- `GRE_EVT.EMPTY` [63:32], RO. -/
def GRE_EVT_EMPTY : Field := ⟨GRE_EVT, 32, 32⟩
/-- `GRE_EVT.ZERO_DEG` [95:64], RO. -/
def GRE_EVT_ZERO_DEG : Field := ⟨GRE_EVT, 64, 32⟩
/-- `GRE_EVT.ROUND_WAIT` [127:96], RO. -/
def GRE_EVT_ROUND_WAIT : Field := ⟨GRE_EVT, 96, 32⟩

/-- R115 (04_graph_engine.md): `GRE_RATE`, 128 bits, reset 0. -/
def GRE_RATE : Reg :=
  { base := 0x020000104040, width := 128, insts := 8, instStride := 0x10000, count := 1, stride := 0x0,
    reset := 0x0, resets := [], rw := 0x0, rwl := 0x0, w1c := 0x0, block := .gre }
/-- `GRE_RATE.DRAWS` [31:0], RO. -/
def GRE_RATE_DRAWS : Field := ⟨GRE_RATE, 0, 32⟩
/-- `GRE_RATE.REMOTE` [63:32], RO. -/
def GRE_RATE_REMOTE : Field := ⟨GRE_RATE, 32, 32⟩
/-- `GRE_RATE.CONTRIB` [95:64], RO. -/
def GRE_RATE_CONTRIB : Field := ⟨GRE_RATE, 64, 32⟩
/-- `GRE_RATE.ROWS` [127:96], RO. -/
def GRE_RATE_ROWS : Field := ⟨GRE_RATE, 96, 32⟩

/-- R115 (04_graph_engine.md): `GRE_FAULT`, 256 bits, reset 0. -/
def GRE_FAULT : Reg :=
  { base := 0x020000104050, width := 256, insts := 8, instStride := 0x10000, count := 1, stride := 0x0,
    reset := 0x0, resets := [], rw := 0x0, rwl := 0x0, w1c := 0x1, block := .gre }
/-- `GRE_FAULT.VALID` [0:0], W1C. -/
def GRE_FAULT_VALID : Field := ⟨GRE_FAULT, 0, 1⟩
/-- `GRE_FAULT.MB` [15:8], RO. -/
def GRE_FAULT_MB : Field := ⟨GRE_FAULT, 8, 8⟩
/-- `GRE_FAULT.HOP` [17:16], RO. -/
def GRE_FAULT_HOP : Field := ⟨GRE_FAULT, 16, 2⟩
/-- `GRE_FAULT.CODE` [47:32], RO. -/
def GRE_FAULT_CODE : Field := ⟨GRE_FAULT, 32, 16⟩
/-- `GRE_FAULT.NODE` [111:64], RO. -/
def GRE_FAULT_NODE : Field := ⟨GRE_FAULT, 64, 48⟩
/-- `GRE_FAULT.SLOT` [135:112], RO. -/
def GRE_FAULT_SLOT : Field := ⟨GRE_FAULT, 112, 24⟩
/-- `GRE_FAULT.HOME_PART` [139:136], RO. -/
def GRE_FAULT_HOME_PART : Field := ⟨GRE_FAULT, 136, 4⟩
/-- `GRE_FAULT.PANE` [255:192], RO. -/
def GRE_FAULT_PANE : Field := ⟨GRE_FAULT, 192, 64⟩

/-- R115 (04_graph_engine.md): `GRE_SHARD`, 128 bits, reset 0. -/
def GRE_SHARD : Reg :=
  { base := 0x020000104100, width := 128, insts := 8, instStride := 0x10000, count := 128, stride := 0x10,
    reset := 0x0, resets := [], rw := 0x0, rwl := 0x0, w1c := 0x0, block := .gre }
/-- `GRE_SHARD.LO` [47:0], RO. -/
def GRE_SHARD_LO : Field := ⟨GRE_SHARD, 0, 48⟩
/-- `GRE_SHARD.HI` [95:48], RO. -/
def GRE_SHARD_HI : Field := ⟨GRE_SHARD, 48, 48⟩
/-- `GRE_SHARD.PART` [99:96], RO. -/
def GRE_SHARD_PART : Field := ⟨GRE_SHARD, 96, 4⟩
/-- `GRE_SHARD.STACK` [102:100], RO. -/
def GRE_SHARD_STACK : Field := ⟨GRE_SHARD, 100, 3⟩
/-- `GRE_SHARD.VALID` [103:103], RO. -/
def GRE_SHARD_VALID : Field := ⟨GRE_SHARD, 103, 1⟩

/-- R142 (05_embedding_tables.md): `EMB_CFG`, 32 bits, reset 0x0000_0283. -/
def EMB_CFG : Reg :=
  { base := 0x020000108000, width := 32, insts := 8, instStride := 0x10000, count := 1, stride := 0x0,
    reset := 0x283, resets := [], rw := 0x7F3, rwl := 0x0, w1c := 0x0, block := .emb }
/-- `EMB_CFG.PF_EN` [0:0], RW. -/
def EMB_CFG_PF_EN : Field := ⟨EMB_CFG, 0, 1⟩
/-- `EMB_CFG.MIGR_EN` [1:1], RW. -/
def EMB_CFG_MIGR_EN : Field := ⟨EMB_CFG, 1, 1⟩
/-- `EMB_CFG.PF_WAYS` [7:4], RW. -/
def EMB_CFG_PF_WAYS : Field := ⟨EMB_CFG, 4, 4⟩
/-- `EMB_CFG.DECAY` [10:8], RW. -/
def EMB_CFG_DECAY : Field := ⟨EMB_CFG, 8, 3⟩

/-- R142 (05_embedding_tables.md): `EMB_MIGR`, 32 bits, reset 0x0000_8000. -/
def EMB_MIGR : Reg :=
  { base := 0x020000108008, width := 32, insts := 8, instStride := 0x10000, count := 1, stride := 0x0,
    reset := 0x8000, resets := [], rw := 0xFFFF, rwl := 0x0, w1c := 0x0, block := .emb }
/-- `EMB_MIGR.MAX_ROWS` [15:0], RW. -/
def EMB_MIGR_MAX_ROWS : Field := ⟨EMB_MIGR, 0, 16⟩
/-- `EMB_MIGR.ACTIVE` [22:16], RO. -/
def EMB_MIGR_ACTIVE : Field := ⟨EMB_MIGR, 16, 7⟩

/-- R142 (05_embedding_tables.md): `EMB_FLIP`, 192 bits, reset 0. -/
def EMB_FLIP : Reg :=
  { base := 0x020000108010, width := 192, insts := 8, instStride := 0x10000, count := 1, stride := 0x0,
    reset := 0x0, resets := [], rw := 0x0, rwl := 0x0, w1c := 0x0, block := .emb }
/-- `EMB_FLIP.PENDING` [0:0], RO. -/
def EMB_FLIP_PENDING : Field := ⟨EMB_FLIP, 0, 1⟩
/-- `EMB_FLIP.TABLES` [127:64], RO. -/
def EMB_FLIP_TABLES : Field := ⟨EMB_FLIP, 64, 64⟩
/-- `EMB_FLIP.STEP` [191:128], RO. -/
def EMB_FLIP_STEP : Field := ⟨EMB_FLIP, 128, 64⟩

/-- R142 (05_embedding_tables.md): `EMB_CACHE`, 128 bits, reset 0. -/
def EMB_CACHE : Reg :=
  { base := 0x020000108080, width := 128, insts := 8, instStride := 0x10000, count := 1, stride := 0x0,
    reset := 0x0, resets := [], rw := 0x0, rwl := 0x0, w1c := 0x0, block := .emb }
/-- `EMB_CACHE.HITS` [31:0], RO. -/
def EMB_CACHE_HITS : Field := ⟨EMB_CACHE, 0, 32⟩
/-- `EMB_CACHE.MISSES` [63:32], RO. -/
def EMB_CACHE_MISSES : Field := ⟨EMB_CACHE, 32, 32⟩
/-- `EMB_CACHE.PF_STAGED` [95:64], RO. -/
def EMB_CACHE_PF_STAGED : Field := ⟨EMB_CACHE, 64, 32⟩
/-- `EMB_CACHE.PF_USED` [127:96], RO. -/
def EMB_CACHE_PF_USED : Field := ⟨EMB_CACHE, 96, 32⟩

/-- R142 (05_embedding_tables.md): `EMB_EVT`, 256 bits, reset 0. -/
def EMB_EVT : Reg :=
  { base := 0x020000108030, width := 256, insts := 8, instStride := 0x10000, count := 1, stride := 0x0,
    reset := 0x0, resets := [], rw := 0x0, rwl := 0x0, w1c := 0x0, block := .emb }
/-- `EMB_EVT.MIGR_DONE` [31:0], RO. -/
def EMB_EVT_MIGR_DONE : Field := ⟨EMB_EVT, 0, 32⟩
/-- `EMB_EVT.MIGR_ABORT` [63:32], RO. -/
def EMB_EVT_MIGR_ABORT : Field := ⟨EMB_EVT, 32, 32⟩
/-- `EMB_EVT.MIGR_DEFER` [95:64], RO. -/
def EMB_EVT_MIGR_DEFER : Field := ⟨EMB_EVT, 64, 32⟩
/-- `EMB_EVT.CLASS_FULL` [127:96], RO. -/
def EMB_EVT_CLASS_FULL : Field := ⟨EMB_EVT, 96, 32⟩
/-- `EMB_EVT.MIGR_LATE` [159:128], RO. -/
def EMB_EVT_MIGR_LATE : Field := ⟨EMB_EVT, 128, 32⟩
/-- `EMB_EVT.SEAL_FWD` [191:160], RO. -/
def EMB_EVT_SEAL_FWD : Field := ⟨EMB_EVT, 160, 32⟩
/-- `EMB_EVT.REMOTE_HOLD` [223:192], RO. -/
def EMB_EVT_REMOTE_HOLD : Field := ⟨EMB_EVT, 192, 32⟩
/-- `EMB_EVT.OPT_CLAMP` [255:224], RO. -/
def EMB_EVT_OPT_CLAMP : Field := ⟨EMB_EVT, 224, 32⟩

/-- R142 (05_embedding_tables.md): `EMB_STATUS`, 32 bits, reset 0x0000_0000. -/
def EMB_STATUS : Reg :=
  { base := 0x020000108050, width := 32, insts := 8, instStride := 0x10000, count := 1, stride := 0x0,
    reset := 0x0, resets := [], rw := 0x0, rwl := 0x0, w1c := 0x0, block := .emb }
/-- `EMB_STATUS.FLIPS` [15:0], RO. -/
def EMB_STATUS_FLIPS : Field := ⟨EMB_STATUS, 0, 16⟩
/-- `EMB_STATUS.RELEASED` [31:16], RO. -/
def EMB_STATUS_RELEASED : Field := ⟨EMB_STATUS, 16, 16⟩

/-- R142 (05_embedding_tables.md): `EMB_FAULT`, 256 bits, reset 0. -/
def EMB_FAULT : Reg :=
  { base := 0x020000108060, width := 256, insts := 8, instStride := 0x10000, count := 1, stride := 0x0,
    reset := 0x0, resets := [], rw := 0x0, rwl := 0x0, w1c := 0x1, block := .emb }
/-- `EMB_FAULT.VALID` [0:0], W1C. -/
def EMB_FAULT_VALID : Field := ⟨EMB_FAULT, 0, 1⟩
/-- `EMB_FAULT.REASON` [2:1], RO. -/
def EMB_FAULT_REASON : Field := ⟨EMB_FAULT, 1, 2⟩
/-- `EMB_FAULT.TABLE` [13:8], RO. -/
def EMB_FAULT_TABLE : Field := ⟨EMB_FAULT, 8, 6⟩
/-- `EMB_FAULT.CODE` [31:16], RO. -/
def EMB_FAULT_CODE : Field := ⟨EMB_FAULT, 16, 16⟩
/-- `EMB_FAULT.VERSION` [47:32], RO. -/
def EMB_FAULT_VERSION : Field := ⟨EMB_FAULT, 32, 16⟩
/-- `EMB_FAULT.MB` [55:48], RO. -/
def EMB_FAULT_MB : Field := ⟨EMB_FAULT, 48, 8⟩
/-- `EMB_FAULT.REQ_PART` [59:56], RO. -/
def EMB_FAULT_REQ_PART : Field := ⟨EMB_FAULT, 56, 4⟩
/-- `EMB_FAULT.INDEX` [97:64], RO. -/
def EMB_FAULT_INDEX : Field := ⟨EMB_FAULT, 64, 34⟩
/-- `EMB_FAULT.STEP` [191:128], RO. -/
def EMB_FAULT_STEP : Field := ⟨EMB_FAULT, 128, 64⟩
/-- `EMB_FAULT.PANE` [255:192], RO. -/
def EMB_FAULT_PANE : Field := ⟨EMB_FAULT, 192, 64⟩

/-- R142 (05_embedding_tables.md): `EMB_OPT`, 256 bits, reset 0. -/
def EMB_OPT : Reg :=
  { base := 0x020000108100, width := 256, insts := 8, instStride := 0x10000, count := 64, stride := 0x20,
    reset := 0x0, resets := [], rw := 0x0, rwl := 0x0, w1c := 0x0, block := .emb }
/-- `EMB_OPT.LR` [31:0], RO. -/
def EMB_OPT_LR : Field := ⟨EMB_OPT, 0, 32⟩
/-- `EMB_OPT.MOM_B1` [63:32], RO. -/
def EMB_OPT_MOM_B1 : Field := ⟨EMB_OPT, 32, 32⟩
/-- `EMB_OPT.B2` [95:64], RO. -/
def EMB_OPT_B2 : Field := ⟨EMB_OPT, 64, 32⟩
/-- `EMB_OPT.EPS` [127:96], RO. -/
def EMB_OPT_EPS : Field := ⟨EMB_OPT, 96, 32⟩
/-- `EMB_OPT.WD` [159:128], RO. -/
def EMB_OPT_WD : Field := ⟨EMB_OPT, 128, 32⟩

/-- R142 (05_embedding_tables.md): `EMB_TDESC`, 512 bits, reset 0. -/
def EMB_TDESC : Reg :=
  { base := 0x020000109000, width := 512, insts := 8, instStride := 0x10000, count := 64, stride := 0x40,
    reset := 0x0, resets := [], rw := 0x0, rwl := 0x0, w1c := 0x0, block := .emb }
/-- `EMB_TDESC.DESC` [511:0], RO. -/
def EMB_TDESC_DESC : Field := ⟨EMB_TDESC, 0, 512⟩

/-- R142 (05_embedding_tables.md): `EMB_SDESC`, 512 bits, reset 0. -/
def EMB_SDESC : Reg :=
  { base := 0x02000010A000, width := 512, insts := 8, instStride := 0x10000, count := 64, stride := 0x40,
    reset := 0x0, resets := [], rw := 0x0, rwl := 0x0, w1c := 0x0, block := .emb }
/-- `EMB_SDESC.DESC` [511:0], RO. -/
def EMB_SDESC_DESC : Field := ⟨EMB_SDESC, 0, 512⟩

/-- R157 (06_tile.md): `TILE_ID`, 32 bits, reset per tile. -/
def TILE_ID : Reg :=
  { base := 0x010000C00000, width := 32, insts := 96, instStride := 0x1000000, count := 1, stride := 0x0,
    reset := 0x0, resets := [], rw := 0x0, rwl := 0x0, w1c := 0x0, block := .tile }
/-- `TILE_ID.LOGICAL` [6:0], RO. -/
def TILE_ID_LOGICAL : Field := ⟨TILE_ID, 0, 7⟩
/-- `TILE_ID.PHYS_X` [11:8], RO. -/
def TILE_ID_PHYS_X : Field := ⟨TILE_ID, 8, 4⟩
/-- `TILE_ID.PHYS_Y` [15:12], RO. -/
def TILE_ID_PHYS_Y : Field := ⟨TILE_ID, 12, 4⟩

/-- R157 (06_tile.md): `TILE_DESC`, 64 bits, reset per tile. -/
def TILE_DESC : Reg :=
  { base := 0x010000C00008, width := 64, insts := 96, instStride := 0x1000000, count := 1, stride := 0x0,
    reset := 0x802000000000, resets := [], rw := 0x0, rwl := 0x0, w1c := 0x0, block := .tile }
/-- `TILE_DESC.SPARE_ROWS` [2:0], RO. -/
def TILE_DESC_SPARE_ROWS : Field := ⟨TILE_DESC, 0, 3⟩
/-- `TILE_DESC.MXA_LAT` [24:16], RO. -/
def TILE_DESC_MXA_LAT : Field := ⟨TILE_DESC, 16, 9⟩
/-- `TILE_DESC.BANKS` [39:32], RO. -/
def TILE_DESC_BANKS : Field := ⟨TILE_DESC, 32, 8⟩
/-- `TILE_DESC.VFU_LANES` [47:40], RO. -/
def TILE_DESC_VFU_LANES : Field := ⟨TILE_DESC, 40, 8⟩

/-- R157 (06_tile.md): `TILE_GEOM`, 64 bits, reset 0. -/
def TILE_GEOM : Reg :=
  { base := 0x010000C00010, width := 64, insts := 96, instStride := 0x1000000, count := 1, stride := 0x0,
    reset := 0x0, resets := [], rw := 0x0, rwl := 0x0, w1c := 0x0, block := .tile }
/-- `TILE_GEOM.FINGERPRINT` [63:0], RO. -/
def TILE_GEOM_FINGERPRINT : Field := ⟨TILE_GEOM, 0, 64⟩

/-- R157 (06_tile.md): `TILE_STASH`, 32 bits, reset 0x0000_0000. -/
def TILE_STASH : Reg :=
  { base := 0x010000C00018, width := 32, insts := 96, instStride := 0x1000000, count := 1, stride := 0x0,
    reset := 0x0, resets := [], rw := 0x0, rwl := 0x0, w1c := 0x0, block := .tile }
/-- `TILE_STASH.BASE_BANK` [4:0], RO. -/
def TILE_STASH_BASE_BANK : Field := ⟨TILE_STASH, 0, 5⟩
/-- `TILE_STASH.BANKS` [12:8], RO. -/
def TILE_STASH_BANKS : Field := ⟨TILE_STASH, 8, 5⟩

/-- R157 (06_tile.md): `TILE_ECC`, 32 bits, reset 0x0000_0000. -/
def TILE_ECC : Reg :=
  { base := 0x010000C00020, width := 32, insts := 96, instStride := 0x1000000, count := 1, stride := 0x0,
    reset := 0x0, resets := [], rw := 0x0, rwl := 0x0, w1c := 0x0, block := .tile }
/-- `TILE_ECC.CE` [31:0], RO. -/
def TILE_ECC_CE : Field := ⟨TILE_ECC, 0, 32⟩

/-- R157 (06_tile.md): `TILE_UE_LOG`, 128 bits, reset 0. -/
def TILE_UE_LOG : Reg :=
  { base := 0x010000C00028, width := 128, insts := 96, instStride := 0x1000000, count := 1, stride := 0x0,
    reset := 0x0, resets := [], rw := 0x0, rwl := 0x0, w1c := 0x1, block := .tile }
/-- `TILE_UE_LOG.VALID` [0:0], W1C. -/
def TILE_UE_LOG_VALID : Field := ⟨TILE_UE_LOG, 0, 1⟩
/-- `TILE_UE_LOG.BANK` [5:1], RO. -/
def TILE_UE_LOG_BANK : Field := ⟨TILE_UE_LOG, 1, 5⟩
/-- `TILE_UE_LOG.ADDR` [30:8], RO. -/
def TILE_UE_LOG_ADDR : Field := ⟨TILE_UE_LOG, 8, 23⟩
/-- `TILE_UE_LOG.PANE` [127:64], RO. -/
def TILE_UE_LOG_PANE : Field := ⟨TILE_UE_LOG, 64, 64⟩

/-- R157 (06_tile.md): `TILE_STATUS`, 32 bits, reset 0x0000_0000. -/
def TILE_STATUS : Reg :=
  { base := 0x010000C00038, width := 32, insts := 96, instStride := 0x1000000, count := 1, stride := 0x0,
    reset := 0x0, resets := [], rw := 0x0, rwl := 0x0, w1c := 0x0, block := .tile }
/-- `TILE_STATUS.BUSY` [0:0], RO. -/
def TILE_STATUS_BUSY : Field := ⟨TILE_STATUS, 0, 1⟩
/-- `TILE_STATUS.CARRIED` [1:1], RO. -/
def TILE_STATUS_CARRIED : Field := ⟨TILE_STATUS, 1, 1⟩
/-- `TILE_STATUS.TASKS` [11:8], RO. -/
def TILE_STATUS_TASKS : Field := ⟨TILE_STATUS, 8, 4⟩
/-- `TILE_STATUS.TEMP` [23:16], RO. -/
def TILE_STATUS_TEMP : Field := ⟨TILE_STATUS, 16, 8⟩

/-- R157 (06_tile.md): `TILE_PMAP`, 128 bits, reset from fuses and self-test. -/
def TILE_PMAP : Reg :=
  { base := 0x010000C00040, width := 128, insts := 96, instStride := 0x1000000, count := 1, stride := 0x0,
    reset := 0x0, resets := [], rw := 0x0, rwl := 0x0, w1c := 0x0, block := .tile }
/-- `TILE_PMAP.ENABLED` [99:0], RO. -/
def TILE_PMAP_ENABLED : Field := ⟨TILE_PMAP, 0, 100⟩

/-- R157 (06_tile.md): `TILE_EVT`, 64 bits, reset 0. -/
def TILE_EVT : Reg :=
  { base := 0x010000C00050, width := 64, insts := 96, instStride := 0x1000000, count := 1, stride := 0x0,
    reset := 0x0, resets := [], rw := 0x0, rwl := 0x0, w1c := 0x0, block := .tile }
/-- `TILE_EVT.BANK_WAIT` [31:0], RO. -/
def TILE_EVT_BANK_WAIT : Field := ⟨TILE_EVT, 0, 32⟩
/-- `TILE_EVT.HOST_LINES` [63:32], RO. -/
def TILE_EVT_HOST_LINES : Field := ⟨TILE_EVT, 32, 32⟩

/-- R181 (07_matrix_array.md): `MXA_CFG`, 32 bits, reset 0x0000_4003. -/
def MXA_CFG : Reg :=
  { base := 0x010000C00100, width := 32, insts := 96, instStride := 0x1000000, count := 1, stride := 0x0,
    reset := 0x4003, resets := [], rw := 0xFF01, rwl := 0x2, w1c := 0x0, block := .mxa }
/-- `MXA_CFG.LOUVRE_EN` [0:0], RW. -/
def MXA_CFG_LOUVRE_EN : Field := ⟨MXA_CFG, 0, 1⟩
/-- `MXA_CFG.ZD_EN` [1:1], RWL. -/
def MXA_CFG_ZD_EN : Field := ⟨MXA_CFG, 1, 1⟩
/-- `MXA_CFG.IDLE` [15:8], RW. -/
def MXA_CFG_IDLE : Field := ⟨MXA_CFG, 8, 8⟩

/-- R181 (07_matrix_array.md): `MXA_REPAIR`, 64 bits, reset per tile. -/
def MXA_REPAIR : Reg :=
  { base := 0x010000C00108, width := 64, insts := 96, instStride := 0x1000000, count := 1, stride := 0x0,
    reset := 0x0, resets := [], rw := 0x0, rwl := 0x0, w1c := 0x0, block := .mxa }
/-- `MXA_REPAIR.COUNT` [2:0], RO. -/
def MXA_REPAIR_COUNT : Field := ⟨MXA_REPAIR, 0, 3⟩
/-- `MXA_REPAIR.MAP0` [15:8], RO. -/
def MXA_REPAIR_MAP0 : Field := ⟨MXA_REPAIR, 8, 8⟩
/-- `MXA_REPAIR.MAP1` [23:16], RO. -/
def MXA_REPAIR_MAP1 : Field := ⟨MXA_REPAIR, 16, 8⟩
/-- `MXA_REPAIR.MAP2` [31:24], RO. -/
def MXA_REPAIR_MAP2 : Field := ⟨MXA_REPAIR, 24, 8⟩
/-- `MXA_REPAIR.MAP3` [39:32], RO. -/
def MXA_REPAIR_MAP3 : Field := ⟨MXA_REPAIR, 32, 8⟩
/-- `MXA_REPAIR.SELFTEST` [43:40], RO. -/
def MXA_REPAIR_SELFTEST : Field := ⟨MXA_REPAIR, 40, 4⟩

/-- R181 (07_matrix_array.md): `MXA_STATUS`, 32 bits, reset 0x0000_0000. -/
def MXA_STATUS : Reg :=
  { base := 0x010000C00110, width := 32, insts := 96, instStride := 0x1000000, count := 1, stride := 0x0,
    reset := 0x0, resets := [], rw := 0x0, rwl := 0x0, w1c := 0x0, block := .mxa }
/-- `MXA_STATUS.BUSY` [0:0], RO. -/
def MXA_STATUS_BUSY : Field := ⟨MXA_STATUS, 0, 1⟩
/-- `MXA_STATUS.SEL` [1:1], RO. -/
def MXA_STATUS_SEL : Field := ⟨MXA_STATUS, 1, 1⟩
/-- `MXA_STATUS.LOUVRE` [3:2], RO. -/
def MXA_STATUS_LOUVRE : Field := ⟨MXA_STATUS, 2, 2⟩
/-- `MXA_STATUS.BANDS_OPEN` [7:4], RO. -/
def MXA_STATUS_BANDS_OPEN : Field := ⟨MXA_STATUS, 4, 4⟩
/-- `MXA_STATUS.QUEUED` [15:8], RO. -/
def MXA_STATUS_QUEUED : Field := ⟨MXA_STATUS, 8, 8⟩

/-- R181 (07_matrix_array.md): `MXA_EVT`, 256 bits, reset 0. -/
def MXA_EVT : Reg :=
  { base := 0x010000C00120, width := 256, insts := 96, instStride := 0x1000000, count := 1, stride := 0x0,
    reset := 0x0, resets := [], rw := 0x0, rwl := 0x0, w1c := 0x0, block := .mxa }
/-- `MXA_EVT.VECTORS` [31:0], RO. -/
def MXA_EVT_VECTORS : Field := ⟨MXA_EVT, 0, 32⟩
/-- `MXA_EVT.BUBBLES` [63:32], RO. -/
def MXA_EVT_BUBBLES : Field := ⟨MXA_EVT, 32, 32⟩
/-- `MXA_EVT.INSTR` [95:64], RO. -/
def MXA_EVT_INSTR : Field := ⟨MXA_EVT, 64, 32⟩
/-- `MXA_EVT.OPENS` [127:96], RO. -/
def MXA_EVT_OPENS : Field := ⟨MXA_EVT, 96, 32⟩
/-- `MXA_EVT.LOUVRE_WAIT` [159:128], RO. -/
def MXA_EVT_LOUVRE_WAIT : Field := ⟨MXA_EVT, 128, 32⟩
/-- `MXA_EVT.STRICT` [191:160], RO. -/
def MXA_EVT_STRICT : Field := ⟨MXA_EVT, 160, 32⟩

/-- R181 (07_matrix_array.md): `MXA_FAULT`, 192 bits, reset 0. -/
def MXA_FAULT : Reg :=
  { base := 0x010000C00140, width := 192, insts := 96, instStride := 0x1000000, count := 1, stride := 0x0,
    reset := 0x0, resets := [], rw := 0x0, rwl := 0x0, w1c := 0x1, block := .mxa }
/-- `MXA_FAULT.VALID` [0:0], W1C. -/
def MXA_FAULT_VALID : Field := ⟨MXA_FAULT, 0, 1⟩
/-- `MXA_FAULT.ROW` [15:8], RO. -/
def MXA_FAULT_ROW : Field := ⟨MXA_FAULT, 8, 8⟩
/-- `MXA_FAULT.CODE` [31:16], RO. -/
def MXA_FAULT_CODE : Field := ⟨MXA_FAULT, 16, 16⟩
/-- `MXA_FAULT.TASK_ID` [63:32], RO. -/
def MXA_FAULT_TASK_ID : Field := ⟨MXA_FAULT, 32, 32⟩
/-- `MXA_FAULT.INSTR` [79:64], RO. -/
def MXA_FAULT_INSTR : Field := ⟨MXA_FAULT, 64, 16⟩
/-- `MXA_FAULT.PANE` [191:128], RO. -/
def MXA_FAULT_PANE : Field := ⟨MXA_FAULT, 128, 64⟩

/-- R181 (07_matrix_array.md): `MVP_CFG`, 32 bits, reset 0x0000_0E08. -/
def MVP_CFG : Reg :=
  { base := 0x010000C00200, width := 32, insts := 96, instStride := 0x1000000, count := 1, stride := 0x0,
    reset := 0xE08, resets := [], rw := 0x0, rwl := 0x0, w1c := 0x0, block := .mvp }
/-- `MVP_CFG.MAX_VEC` [3:0], RO. -/
def MVP_CFG_MAX_VEC : Field := ⟨MVP_CFG, 0, 4⟩
/-- `MVP_CFG.LAT` [15:8], RO. -/
def MVP_CFG_LAT : Field := ⟨MVP_CFG, 8, 8⟩

/-- R181 (07_matrix_array.md): `MVP_STATUS`, 32 bits, reset 0x0000_0000. -/
def MVP_STATUS : Reg :=
  { base := 0x010000C00208, width := 32, insts := 96, instStride := 0x1000000, count := 1, stride := 0x0,
    reset := 0x0, resets := [], rw := 0x0, rwl := 0x0, w1c := 0x0, block := .mvp }
/-- `MVP_STATUS.BUSY` [0:0], RO. -/
def MVP_STATUS_BUSY : Field := ⟨MVP_STATUS, 0, 1⟩
/-- `MVP_STATUS.HELD` [7:4], RO. -/
def MVP_STATUS_HELD : Field := ⟨MVP_STATUS, 4, 4⟩

/-- R181 (07_matrix_array.md): `MVP_EVT`, 128 bits, reset 0. -/
def MVP_EVT : Reg :=
  { base := 0x010000C00210, width := 128, insts := 96, instStride := 0x1000000, count := 1, stride := 0x0,
    reset := 0x0, resets := [], rw := 0x0, rwl := 0x0, w1c := 0x0, block := .mvp }
/-- `MVP_EVT.INSTR` [31:0], RO. -/
def MVP_EVT_INSTR : Field := ⟨MVP_EVT, 0, 32⟩
/-- `MVP_EVT.KMAC` [63:32], RO. -/
def MVP_EVT_KMAC : Field := ⟨MVP_EVT, 32, 32⟩
/-- `MVP_EVT.PORT_WAIT` [95:64], RO. -/
def MVP_EVT_PORT_WAIT : Field := ⟨MVP_EVT, 64, 32⟩

/-- R201 (08_number_formats.md): `FMT_MODE`, 32 bits, reset 0x0000_0002. -/
def FMT_MODE : Reg :=
  { base := 0x010000C00300, width := 32, insts := 96, instStride := 0x1000000, count := 1, stride := 0x0,
    reset := 0x2, resets := [], rw := 0x0, rwl := 0x0, w1c := 0x0, block := .fmt }
/-- `FMT_MODE.STRICT` [0:0], RO. -/
def FMT_MODE_STRICT : Field := ⟨FMT_MODE, 0, 1⟩
/-- `FMT_MODE.FTZ` [1:1], RO. -/
def FMT_MODE_FTZ : Field := ⟨FMT_MODE, 1, 1⟩

/-- R201 (08_number_formats.md): `FMT_FLAGS`, 32 bits, reset 0x0000_0000. -/
def FMT_FLAGS : Reg :=
  { base := 0x010000C00308, width := 32, insts := 96, instStride := 0x1000000, count := 1, stride := 0x0,
    reset := 0x0, resets := [], rw := 0x0, rwl := 0x0, w1c := 0x3F, block := .fmt }
/-- `FMT_FLAGS.IV` [0:0], W1C. -/
def FMT_FLAGS_IV : Field := ⟨FMT_FLAGS, 0, 1⟩
/-- `FMT_FLAGS.DZ` [1:1], W1C. -/
def FMT_FLAGS_DZ : Field := ⟨FMT_FLAGS, 1, 1⟩
/-- `FMT_FLAGS.OF` [2:2], W1C. -/
def FMT_FLAGS_OF : Field := ⟨FMT_FLAGS, 2, 1⟩
/-- `FMT_FLAGS.UF` [3:3], W1C. -/
def FMT_FLAGS_UF : Field := ⟨FMT_FLAGS, 3, 1⟩
/-- `FMT_FLAGS.NX` [4:4], W1C. -/
def FMT_FLAGS_NX : Field := ⟨FMT_FLAGS, 4, 1⟩
/-- `FMT_FLAGS.NF` [5:5], W1C. -/
def FMT_FLAGS_NF : Field := ⟨FMT_FLAGS, 5, 1⟩

/-- R201 (08_number_formats.md): `FMT_FIRST`, 192 bits, reset 0. -/
def FMT_FIRST : Reg :=
  { base := 0x010000C00310, width := 192, insts := 96, instStride := 0x1000000, count := 1, stride := 0x0,
    reset := 0x0, resets := [], rw := 0x0, rwl := 0x0, w1c := 0x1, block := .fmt }
/-- `FMT_FIRST.VALID` [0:0], W1C. -/
def FMT_FIRST_VALID : Field := ⟨FMT_FIRST, 0, 1⟩
/-- `FMT_FIRST.KIND` [1:1], RO. -/
def FMT_FIRST_KIND : Field := ⟨FMT_FIRST, 1, 1⟩
/-- `FMT_FIRST.INSTR` [31:16], RO. -/
def FMT_FIRST_INSTR : Field := ⟨FMT_FIRST, 16, 16⟩
/-- `FMT_FIRST.TASK_ID` [63:32], RO. -/
def FMT_FIRST_TASK_ID : Field := ⟨FMT_FIRST, 32, 32⟩
/-- `FMT_FIRST.ELEMENT` [84:64], RO. -/
def FMT_FIRST_ELEMENT : Field := ⟨FMT_FIRST, 64, 21⟩
/-- `FMT_FIRST.PANE` [191:128], RO. -/
def FMT_FIRST_PANE : Field := ⟨FMT_FIRST, 128, 64⟩

/-- R201 (08_number_formats.md): `FMT_EVT`, 128 bits, reset 0. -/
def FMT_EVT : Reg :=
  { base := 0x010000C00330, width := 128, insts := 96, instStride := 0x1000000, count := 1, stride := 0x0,
    reset := 0x0, resets := [], rw := 0x0, rwl := 0x0, w1c := 0x0, block := .fmt }
/-- `FMT_EVT.SAT` [31:0], RO. -/
def FMT_EVT_SAT : Field := ⟨FMT_EVT, 0, 32⟩
/-- `FMT_EVT.FLUSH` [63:32], RO. -/
def FMT_EVT_FLUSH : Field := ⟨FMT_EVT, 32, 32⟩
/-- `FMT_EVT.SR_KLANES` [95:64], RO. -/
def FMT_EVT_SR_KLANES : Field := ⟨FMT_EVT, 64, 32⟩
/-- `FMT_EVT.NEG_ZERO` [127:96], RO. -/
def FMT_EVT_NEG_ZERO : Field := ⟨FMT_EVT, 96, 32⟩

/-- R226 (09_accumulation.md): `ACC_CFG`, 32 bits, reset 0x0000_0430. -/
def ACC_CFG : Reg :=
  { base := 0x010000C00400, width := 32, insts := 96, instStride := 0x1000000, count := 1, stride := 0x0,
    reset := 0x430, resets := [], rw := 0x0, rwl := 0x0, w1c := 0x0, block := .acc }
/-- `ACC_CFG.ORDER` [0:0], RO. -/
def ACC_CFG_ORDER : Field := ⟨ACC_CFG, 0, 1⟩
/-- `ACC_CFG.MAX_REPLAY` [5:4], RO. -/
def ACC_CFG_MAX_REPLAY : Field := ⟨ACC_CFG, 4, 2⟩
/-- `ACC_CFG.REPLAY_SHIFT` [15:8], RO. -/
def ACC_CFG_REPLAY_SHIFT : Field := ⟨ACC_CFG, 8, 8⟩

/-- R226 (09_accumulation.md): `ACC_FLAGS`, 32 bits, reset 0x0000_0000. -/
def ACC_FLAGS : Reg :=
  { base := 0x010000C00408, width := 32, insts := 96, instStride := 0x1000000, count := 1, stride := 0x0,
    reset := 0x0, resets := [], rw := 0x0, rwl := 0x0, w1c := 0x77, block := .acc }
/-- `ACC_FLAGS.IV0` [0:0], W1C. -/
def ACC_FLAGS_IV0 : Field := ⟨ACC_FLAGS, 0, 1⟩
/-- `ACC_FLAGS.OF0` [1:1], W1C. -/
def ACC_FLAGS_OF0 : Field := ⟨ACC_FLAGS, 1, 1⟩
/-- `ACC_FLAGS.NF0` [2:2], W1C. -/
def ACC_FLAGS_NF0 : Field := ⟨ACC_FLAGS, 2, 1⟩
/-- `ACC_FLAGS.IV1` [4:4], W1C. -/
def ACC_FLAGS_IV1 : Field := ⟨ACC_FLAGS, 4, 1⟩
/-- `ACC_FLAGS.OF1` [5:5], W1C. -/
def ACC_FLAGS_OF1 : Field := ⟨ACC_FLAGS, 5, 1⟩
/-- `ACC_FLAGS.NF1` [6:6], W1C. -/
def ACC_FLAGS_NF1 : Field := ⟨ACC_FLAGS, 6, 1⟩

/-- R226 (09_accumulation.md): `ACC_EXC`, 192 bits, reset 0. -/
def ACC_EXC : Reg :=
  { base := 0x010000C00410, width := 192, insts := 96, instStride := 0x1000000, count := 2, stride := 0x20,
    reset := 0x0, resets := [], rw := 0x0, rwl := 0x0, w1c := 0x1, block := .acc }
/-- `ACC_EXC.VALID` [0:0], W1C. -/
def ACC_EXC_VALID : Field := ⟨ACC_EXC, 0, 1⟩
/-- `ACC_EXC.KIND` [1:1], RO. -/
def ACC_EXC_KIND : Field := ⟨ACC_EXC, 1, 1⟩
/-- `ACC_EXC.ROW` [14:8], RO. -/
def ACC_EXC_ROW : Field := ⟨ACC_EXC, 8, 7⟩
/-- `ACC_EXC.COL` [22:16], RO. -/
def ACC_EXC_COL : Field := ⟨ACC_EXC, 16, 7⟩
/-- `ACC_EXC.KGROUP` [47:32], RO. -/
def ACC_EXC_KGROUP : Field := ⟨ACC_EXC, 32, 16⟩
/-- `ACC_EXC.INSTR` [63:48], RO. -/
def ACC_EXC_INSTR : Field := ⟨ACC_EXC, 48, 16⟩
/-- `ACC_EXC.TASK_ID` [95:64], RO. -/
def ACC_EXC_TASK_ID : Field := ⟨ACC_EXC, 64, 32⟩
/-- `ACC_EXC.PANE` [191:128], RO. -/
def ACC_EXC_PANE : Field := ⟨ACC_EXC, 128, 64⟩

/-- R226 (09_accumulation.md): `ACC_REPLAY`, 128 bits, reset 0. -/
def ACC_REPLAY : Reg :=
  { base := 0x010000C00450, width := 128, insts := 96, instStride := 0x1000000, count := 1, stride := 0x0,
    reset := 0x0, resets := [], rw := 0x0, rwl := 0x0, w1c := 0x0, block := .acc }
/-- `ACC_REPLAY.TASK_ID` [31:0], RO. -/
def ACC_REPLAY_TASK_ID : Field := ⟨ACC_REPLAY, 0, 32⟩
/-- `ACC_REPLAY.INSTR` [47:32], RO. -/
def ACC_REPLAY_INSTR : Field := ⟨ACC_REPLAY, 32, 16⟩
/-- `ACC_REPLAY.ATTEMPTS` [49:48], RO. -/
def ACC_REPLAY_ATTEMPTS : Field := ⟨ACC_REPLAY, 48, 2⟩
/-- `ACC_REPLAY.FINAL_T` [63:56], RO. -/
def ACC_REPLAY_FINAL_T : Field := ⟨ACC_REPLAY, 56, 8⟩
/-- `ACC_REPLAY.PANE` [127:64], RO. -/
def ACC_REPLAY_PANE : Field := ⟨ACC_REPLAY, 64, 64⟩

/-- R226 (09_accumulation.md): `ACC_EVT`, 192 bits, reset 0. -/
def ACC_EVT : Reg :=
  { base := 0x010000C00460, width := 192, insts := 96, instStride := 0x1000000, count := 1, stride := 0x0,
    reset := 0x0, resets := [], rw := 0x0, rwl := 0x0, w1c := 0x0, block := .acc }
/-- `ACC_EVT.DRAIN_WAIT` [31:0], RO. -/
def ACC_EVT_DRAIN_WAIT : Field := ⟨ACC_EVT, 0, 32⟩
/-- `ACC_EVT.BANK_STALL` [63:32], RO. -/
def ACC_EVT_BANK_STALL : Field := ⟨ACC_EVT, 32, 32⟩
/-- `ACC_EVT.PORT_WAIT` [95:64], RO. -/
def ACC_EVT_PORT_WAIT : Field := ⟨ACC_EVT, 64, 32⟩
/-- `ACC_EVT.REPLAYS` [127:96], RO. -/
def ACC_EVT_REPLAYS : Field := ⟨ACC_EVT, 96, 32⟩
/-- `ACC_EVT.EXHAUSTED` [159:128], RO. -/
def ACC_EVT_EXHAUSTED : Field := ⟨ACC_EVT, 128, 32⟩
/-- `ACC_EVT.OVERFLOWS` [191:160], RO. -/
def ACC_EVT_OVERFLOWS : Field := ⟨ACC_EVT, 160, 32⟩

/-- R226 (09_accumulation.md): `ACC_PAR`, 128 bits, reset 0. -/
def ACC_PAR : Reg :=
  { base := 0x010000C00480, width := 128, insts := 96, instStride := 0x1000000, count := 1, stride := 0x0,
    reset := 0x0, resets := [], rw := 0x0, rwl := 0x0, w1c := 0x1, block := .acc }
/-- `ACC_PAR.VALID` [0:0], W1C. -/
def ACC_PAR_VALID : Field := ⟨ACC_PAR, 0, 1⟩
/-- `ACC_PAR.BANK` [1:1], RO. -/
def ACC_PAR_BANK : Field := ⟨ACC_PAR, 1, 1⟩
/-- `ACC_PAR.ROW` [14:8], RO. -/
def ACC_PAR_ROW : Field := ⟨ACC_PAR, 8, 7⟩
/-- `ACC_PAR.COL` [22:16], RO. -/
def ACC_PAR_COL : Field := ⟨ACC_PAR, 16, 7⟩
/-- `ACC_PAR.PANE` [127:64], RO. -/
def ACC_PAR_PANE : Field := ⟨ACC_PAR, 64, 64⟩

/-- R255 (10_sparsity.md): `SPX_CFG`, 32 bits, reset 0x0000_0009. -/
def SPX_CFG : Reg :=
  { base := 0x010000C00500, width := 32, insts := 96, instStride := 0x1000000, count := 1, stride := 0x0,
    reset := 0x9, resets := [], rw := 0xD, rwl := 0x0, w1c := 0x0, block := .spx }
/-- `SPX_CFG.PRED_EN` [0:0], RW. -/
def SPX_CFG_PRED_EN : Field := ⟨SPX_CFG, 0, 1⟩
/-- `SPX_CFG.THRESH` [3:2], RW. -/
def SPX_CFG_THRESH : Field := ⟨SPX_CFG, 2, 2⟩
/-- `SPX_CFG.PRED_ACTIVE` [4:4], RO. -/
def SPX_CFG_PRED_ACTIVE : Field := ⟨SPX_CFG, 4, 1⟩

/-- R255 (10_sparsity.md): `SPX_RCFG`, 32 bits, reset 0x0000_0000. -/
def SPX_RCFG : Reg :=
  { base := 0x010000C00508, width := 32, insts := 96, instStride := 0x1000000, count := 1, stride := 0x0,
    reset := 0x0, resets := [], rw := 0x0, rwl := 0x0, w1c := 0x0, block := .spx }
/-- `SPX_RCFG.VALID` [0:0], RO. -/
def SPX_RCFG_VALID : Field := ⟨SPX_RCFG, 0, 1⟩
/-- `SPX_RCFG.BANK` [1:1], RO. -/
def SPX_RCFG_BANK : Field := ⟨SPX_RCFG, 1, 1⟩
/-- `SPX_RCFG.COL0` [14:8], RO. -/
def SPX_RCFG_COL0 : Field := ⟨SPX_RCFG, 8, 7⟩

/-- R255 (10_sparsity.md): `SPX_PLAYER`, 256 bits, reset 0. -/
def SPX_PLAYER : Reg :=
  { base := 0x010000C00510, width := 256, insts := 96, instStride := 0x1000000, count := 1, stride := 0x0,
    reset := 0x0, resets := [], rw := 0x0, rwl := 0x0, w1c := 0x0, block := .spx }
/-- `SPX_PLAYER.LAYER` [255:0], RO. -/
def SPX_PLAYER_LAYER : Field := ⟨SPX_PLAYER, 0, 256⟩

/-- R255 (10_sparsity.md): `SPX_EVT`, 320 bits, reset 0. -/
def SPX_EVT : Reg :=
  { base := 0x010000C00540, width := 320, insts := 96, instStride := 0x1000000, count := 1, stride := 0x0,
    reset := 0x0, resets := [], rw := 0x0, rwl := 0x0, w1c := 0x0, block := .spx }
/-- `SPX_EVT.PAIRS` [31:0], RO. -/
def SPX_EVT_PAIRS : Field := ⟨SPX_EVT, 0, 32⟩
/-- `SPX_EVT.SKIPPED` [63:32], RO. -/
def SPX_EVT_SKIPPED : Field := ⟨SPX_EVT, 32, 32⟩
/-- `SPX_EVT.PRESENT` [95:64], RO. -/
def SPX_EVT_PRESENT : Field := ⟨SPX_EVT, 64, 32⟩
/-- `SPX_EVT.ABSENT` [127:96], RO. -/
def SPX_EVT_ABSENT : Field := ⟨SPX_EVT, 96, 32⟩
/-- `SPX_EVT.PREDICTED` [159:128], RO. -/
def SPX_EVT_PREDICTED : Field := ⟨SPX_EVT, 128, 32⟩
/-- `SPX_EVT.MISS` [191:160], RO. -/
def SPX_EVT_MISS : Field := ⟨SPX_EVT, 160, 32⟩
/-- `SPX_EVT.RC_SAME` [223:192], RO. -/
def SPX_EVT_RC_SAME : Field := ⟨SPX_EVT, 192, 32⟩
/-- `SPX_EVT.RC_NEXT` [255:224], RO. -/
def SPX_EVT_RC_NEXT : Field := ⟨SPX_EVT, 224, 32⟩
/-- `SPX_EVT.SPLITS` [287:256], RO. -/
def SPX_EVT_SPLITS : Field := ⟨SPX_EVT, 256, 32⟩
/-- `SPX_EVT.PRED_FULL` [319:288], RO. -/
def SPX_EVT_PRED_FULL : Field := ⟨SPX_EVT, 288, 32⟩

/-- R255 (10_sparsity.md): `SPX_FAULT`, 192 bits, reset 0. -/
def SPX_FAULT : Reg :=
  { base := 0x010000C00580, width := 192, insts := 96, instStride := 0x1000000, count := 1, stride := 0x0,
    reset := 0x0, resets := [], rw := 0x0, rwl := 0x0, w1c := 0x1, block := .spx }
/-- `SPX_FAULT.VALID` [0:0], W1C. -/
def SPX_FAULT_VALID : Field := ⟨SPX_FAULT, 0, 1⟩
/-- `SPX_FAULT.REASON` [3:1], RO. -/
def SPX_FAULT_REASON : Field := ⟨SPX_FAULT, 1, 3⟩
/-- `SPX_FAULT.NEEDED` [14:8], RO. -/
def SPX_FAULT_NEEDED : Field := ⟨SPX_FAULT, 8, 7⟩
/-- `SPX_FAULT.CODE` [31:16], RO. -/
def SPX_FAULT_CODE : Field := ⟨SPX_FAULT, 16, 16⟩
/-- `SPX_FAULT.TASK_ID` [63:32], RO. -/
def SPX_FAULT_TASK_ID : Field := ⟨SPX_FAULT, 32, 32⟩
/-- `SPX_FAULT.INSTR` [79:64], RO. -/
def SPX_FAULT_INSTR : Field := ⟨SPX_FAULT, 64, 16⟩
/-- `SPX_FAULT.CAP` [86:80], RO. -/
def SPX_FAULT_CAP : Field := ⟨SPX_FAULT, 80, 7⟩
/-- `SPX_FAULT.PANE` [191:128], RO. -/
def SPX_FAULT_PANE : Field := ⟨SPX_FAULT, 128, 64⟩

/-- R275 (11_backward_pass.md): `PANE_GFC_CFG`, 32 bits, reset 0x0020_E004. -/
def PANE_GFC_CFG : Reg :=
  { base := 0x020000000100, width := 32, insts := 1, instStride := 0x0, count := 1, stride := 0x0,
    reset := 0x20E004, resets := [], rw := 0xFFFF0F, rwl := 0x0, w1c := 0x0, block := .pane }
/-- `PANE_GFC_CFG.HEAD` [3:0], RW. -/
def PANE_GFC_CFG_HEAD : Field := ⟨PANE_GFC_CFG, 0, 4⟩
/-- `PANE_GFC_CFG.T_MIN` [15:8], RW. -/
def PANE_GFC_CFG_T_MIN : Field := ⟨PANE_GFC_CFG, 8, 8⟩
/-- `PANE_GFC_CFG.T_MAX` [23:16], RW. -/
def PANE_GFC_CFG_T_MAX : Field := ⟨PANE_GFC_CFG, 16, 8⟩

/-- R275 (11_backward_pass.md): `PANE_GFC_THR`, 32 bits, reset 0x0021_0148. -/
def PANE_GFC_THR : Reg :=
  { base := 0x020000000104, width := 32, insts := 1, instStride := 0x0, count := 1, stride := 0x0,
    reset := 0x210148, resets := [], rw := 0xFFFFFFFF, rwl := 0x0, w1c := 0x0, block := .pane }
/-- `PANE_GFC_THR.UNF_HI` [15:0], RW. -/
def PANE_GFC_THR_UNF_HI : Field := ⟨PANE_GFC_THR, 0, 16⟩
/-- `PANE_GFC_THR.UNF_LO` [31:16], RW. -/
def PANE_GFC_THR_UNF_LO : Field := ⟨PANE_GFC_THR, 16, 16⟩

/-- R275 (11_backward_pass.md): `PANE_STASH`, 128 bits, reset 0. -/
def PANE_STASH : Reg :=
  { base := 0x020000000110, width := 128, insts := 1, instStride := 0x0, count := 1, stride := 0x0,
    reset := 0x0, resets := [], rw := 0x0, rwl := 0x0, w1c := 0x0, block := .pane }
/-- `PANE_STASH.BOUND` [31:0], RO. -/
def PANE_STASH_BOUND : Field := ⟨PANE_STASH, 0, 32⟩
/-- `PANE_STASH.FREE` [63:32], RO. -/
def PANE_STASH_FREE : Field := ⟨PANE_STASH, 32, 32⟩
/-- `PANE_STASH.HOLDERS` [72:64], RO. -/
def PANE_STASH_HOLDERS : Field := ⟨PANE_STASH, 64, 9⟩
/-- `PANE_STASH.GATE` [93:80], RO. -/
def PANE_STASH_GATE : Field := ⟨PANE_STASH, 80, 14⟩

/-- R275 (11_backward_pass.md): `PANE_BWD`, 32 bits, reset 0x0000_0000. -/
def PANE_BWD : Reg :=
  { base := 0x020000000120, width := 32, insts := 1, instStride := 0x0, count := 1, stride := 0x0,
    reset := 0x0, resets := [], rw := 0x0, rwl := 0x0, w1c := 0x0, block := .pane }
/-- `PANE_BWD.MASKED` [0:0], RO. -/
def PANE_BWD_MASKED : Field := ⟨PANE_BWD, 0, 1⟩
/-- `PANE_BWD.MASK_IMAGE` [1:1], RO. -/
def PANE_BWD_MASK_IMAGE : Field := ⟨PANE_BWD, 1, 1⟩

/-- R275 (11_backward_pass.md): `PANE_BWD_EVT`, 128 bits, reset 0. -/
def PANE_BWD_EVT : Reg :=
  { base := 0x020000000128, width := 128, insts := 1, instStride := 0x0, count := 1, stride := 0x0,
    reset := 0x0, resets := [], rw := 0x0, rwl := 0x0, w1c := 0x0, block := .pane }
/-- `PANE_BWD_EVT.SPILLS` [31:0], RO. -/
def PANE_BWD_EVT_SPILLS : Field := ⟨PANE_BWD_EVT, 0, 32⟩
/-- `PANE_BWD_EVT.PAUSE` [63:32], RO. -/
def PANE_BWD_EVT_PAUSE : Field := ⟨PANE_BWD_EVT, 32, 32⟩
/-- `PANE_BWD_EVT.GFC_CHANGE` [95:64], RO. -/
def PANE_BWD_EVT_GFC_CHANGE : Field := ⟨PANE_BWD_EVT, 64, 32⟩
/-- `PANE_BWD_EVT.MASKED_MMA` [127:96], RO. -/
def PANE_BWD_EVT_MASKED_MMA : Field := ⟨PANE_BWD_EVT, 96, 32⟩

/-- R275 (11_backward_pass.md): `PANE_BWD_FAULT`, 192 bits, reset 0. -/
def PANE_BWD_FAULT : Reg :=
  { base := 0x020000000140, width := 192, insts := 1, instStride := 0x0, count := 1, stride := 0x0,
    reset := 0x0, resets := [], rw := 0x0, rwl := 0x0, w1c := 0x1, block := .pane }
/-- `PANE_BWD_FAULT.VALID` [0:0], W1C. -/
def PANE_BWD_FAULT_VALID : Field := ⟨PANE_BWD_FAULT, 0, 1⟩
/-- `PANE_BWD_FAULT.LAYER` [15:8], RO. -/
def PANE_BWD_FAULT_LAYER : Field := ⟨PANE_BWD_FAULT, 8, 8⟩
/-- `PANE_BWD_FAULT.CODE` [31:16], RO. -/
def PANE_BWD_FAULT_CODE : Field := ⟨PANE_BWD_FAULT, 16, 16⟩
/-- `PANE_BWD_FAULT.MB` [47:32], RO. -/
def PANE_BWD_FAULT_MB : Field := ⟨PANE_BWD_FAULT, 32, 16⟩
/-- `PANE_BWD_FAULT.TILE` [54:48], RO. -/
def PANE_BWD_FAULT_TILE : Field := ⟨PANE_BWD_FAULT, 48, 7⟩
/-- `PANE_BWD_FAULT.STEP` [127:64], RO. -/
def PANE_BWD_FAULT_STEP : Field := ⟨PANE_BWD_FAULT, 64, 64⟩
/-- `PANE_BWD_FAULT.PANE` [191:128], RO. -/
def PANE_BWD_FAULT_PANE : Field := ⟨PANE_BWD_FAULT, 128, 64⟩

/-- R275 (11_backward_pass.md): `PANE_GFC`, 256 bits, reset 0. -/
def PANE_GFC : Reg :=
  { base := 0x020000000200, width := 256, insts := 1, instStride := 0x0, count := 64, stride := 0x20,
    reset := 0x0, resets := [], rw := 0x0, rwl := 0x0, w1c := 0x0, block := .pane }
/-- `PANE_GFC.WIDE` [0:0], RO. -/
def PANE_GFC_WIDE : Field := ⟨PANE_GFC, 0, 1⟩
/-- `PANE_GFC.RUNG` [2:1], RO. -/
def PANE_GFC_RUNG : Field := ⟨PANE_GFC, 1, 2⟩
/-- `PANE_GFC.FMT` [7:4], RO. -/
def PANE_GFC_FMT : Field := ⟨PANE_GFC, 4, 4⟩
/-- `PANE_GFC.T` [15:8], RO. -/
def PANE_GFC_T : Field := ⟨PANE_GFC, 8, 8⟩
/-- `PANE_GFC.AGE` [23:16], RO. -/
def PANE_GFC_AGE : Field := ⟨PANE_GFC, 16, 8⟩
/-- `PANE_GFC.FILL` [28:24], RO. -/
def PANE_GFC_FILL : Field := ⟨PANE_GFC, 24, 5⟩
/-- `PANE_GFC.AMAX` [63:32], RO. -/
def PANE_GFC_AMAX : Field := ⟨PANE_GFC, 32, 32⟩
/-- `PANE_GFC.OVF` [95:64], RO. -/
def PANE_GFC_OVF : Field := ⟨PANE_GFC, 64, 32⟩
/-- `PANE_GFC.UNF` [191:128], RO. -/
def PANE_GFC_UNF : Field := ⟨PANE_GFC, 128, 64⟩
/-- `PANE_GFC.NZ` [255:192], RO. -/
def PANE_GFC_NZ : Field := ⟨PANE_GFC, 192, 64⟩

/-- R298 (12_step_commit.md): `PANE_COMMIT_CFG`, 32 bits, reset 0x0000_0422. -/
def PANE_COMMIT_CFG : Reg :=
  { base := 0x020000000A00, width := 32, insts := 1, instStride := 0x0, count := 1, stride := 0x0,
    reset := 0x422, resets := [], rw := 0xF7F, rwl := 0x0, w1c := 0x0, block := .pane }
/-- `PANE_COMMIT_CFG.POLICY` [1:0], RW. -/
def PANE_COMMIT_CFG_POLICY : Field := ⟨PANE_COMMIT_CFG, 0, 2⟩
/-- `PANE_COMMIT_CFG.FALLBACK` [2:2], RW. -/
def PANE_COMMIT_CFG_FALLBACK : Field := ⟨PANE_COMMIT_CFG, 2, 1⟩
/-- `PANE_COMMIT_CFG.UNDO_EN` [3:3], RW. -/
def PANE_COMMIT_CFG_UNDO_EN : Field := ⟨PANE_COMMIT_CFG, 3, 1⟩
/-- `PANE_COMMIT_CFG.RESCALE_MAX` [6:4], RW. -/
def PANE_COMMIT_CFG_RESCALE_MAX : Field := ⟨PANE_COMMIT_CFG, 4, 3⟩
/-- `PANE_COMMIT_CFG.RESCALE_STEP` [11:8], RW. -/
def PANE_COMMIT_CFG_RESCALE_STEP : Field := ⟨PANE_COMMIT_CFG, 8, 4⟩

/-- R298 (12_step_commit.md): `PANE_COMMIT_LAMBDA`, 32 bits, reset 0x0000_E000. -/
def PANE_COMMIT_LAMBDA : Reg :=
  { base := 0x020000000A04, width := 32, insts := 1, instStride := 0x0, count := 1, stride := 0x0,
    reset := 0xE000, resets := [], rw := 0xFFFF00, rwl := 0x0, w1c := 0x0, block := .pane }
/-- `PANE_COMMIT_LAMBDA.LAMBDA` [7:0], RO. -/
def PANE_COMMIT_LAMBDA_LAMBDA : Field := ⟨PANE_COMMIT_LAMBDA, 0, 8⟩
/-- `PANE_COMMIT_LAMBDA.LAMBDA_MIN` [15:8], RW. -/
def PANE_COMMIT_LAMBDA_LAMBDA_MIN : Field := ⟨PANE_COMMIT_LAMBDA, 8, 8⟩
/-- `PANE_COMMIT_LAMBDA.LAMBDA_MAX` [23:16], RW. -/
def PANE_COMMIT_LAMBDA_LAMBDA_MAX : Field := ⟨PANE_COMMIT_LAMBDA, 16, 8⟩

/-- R298 (12_step_commit.md): `PANE_COMMIT_RAISE`, 32 bits, reset 0x0000_03E8. -/
def PANE_COMMIT_RAISE : Reg :=
  { base := 0x020000000A08, width := 32, insts := 1, instStride := 0x0, count := 1, stride := 0x0,
    reset := 0x3E8, resets := [], rw := 0xFFFF, rwl := 0x0, w1c := 0x0, block := .pane }
/-- `PANE_COMMIT_RAISE.RAISE_EVERY` [15:0], RW. -/
def PANE_COMMIT_RAISE_RAISE_EVERY : Field := ⟨PANE_COMMIT_RAISE, 0, 16⟩
/-- `PANE_COMMIT_RAISE.CLEAN` [31:16], RO. -/
def PANE_COMMIT_RAISE_CLEAN : Field := ⟨PANE_COMMIT_RAISE, 16, 16⟩

/-- R298 (12_step_commit.md): `PANE_SASH`, 64 bits, reset 0x0000_0000_0000_0000. -/
def PANE_SASH : Reg :=
  { base := 0x020000000A10, width := 64, insts := 1, instStride := 0x0, count := 1, stride := 0x0,
    reset := 0x0, resets := [], rw := 0x0, rwl := 0x0, w1c := 0x0, block := .pane }
/-- `PANE_SASH.VERSION` [31:0], RO. -/
def PANE_SASH_VERSION : Field := ⟨PANE_SASH, 0, 32⟩
/-- `PANE_SASH.REF_CUR` [40:32], RO. -/
def PANE_SASH_REF_CUR : Field := ⟨PANE_SASH, 32, 9⟩
/-- `PANE_SASH.REF_OLD` [49:41], RO. -/
def PANE_SASH_REF_OLD : Field := ⟨PANE_SASH, 41, 9⟩

/-- R298 (12_step_commit.md): `PANE_COMMIT_STATUS`, 128 bits, reset 0. -/
def PANE_COMMIT_STATUS : Reg :=
  { base := 0x020000000A18, width := 128, insts := 1, instStride := 0x0, count := 1, stride := 0x0,
    reset := 0x0, resets := [], rw := 0x0, rwl := 0x0, w1c := 0x0, block := .pane }
/-- `PANE_COMMIT_STATUS.PHASE` [2:0], RO. -/
def PANE_COMMIT_STATUS_PHASE : Field := ⟨PANE_COMMIT_STATUS, 0, 3⟩
/-- `PANE_COMMIT_STATUS.LAST_OUTCOME` [4:3], RO. -/
def PANE_COMMIT_STATUS_LAST_OUTCOME : Field := ⟨PANE_COMMIT_STATUS, 3, 2⟩
/-- `PANE_COMMIT_STATUS.LOCAL_NF` [5:5], RO. -/
def PANE_COMMIT_STATUS_LOCAL_NF : Field := ⟨PANE_COMMIT_STATUS, 5, 1⟩
/-- `PANE_COMMIT_STATUS.JOB_NF` [6:6], RO. -/
def PANE_COMMIT_STATUS_JOB_NF : Field := ⟨PANE_COMMIT_STATUS, 6, 1⟩
/-- `PANE_COMMIT_STATUS.UNDO_VALID` [7:7], RO. -/
def PANE_COMMIT_STATUS_UNDO_VALID : Field := ⟨PANE_COMMIT_STATUS, 7, 1⟩
/-- `PANE_COMMIT_STATUS.RUNS` [10:8], RO. -/
def PANE_COMMIT_STATUS_RUNS : Field := ⟨PANE_COMMIT_STATUS, 8, 3⟩
/-- `PANE_COMMIT_STATUS.HOLD` [11:11], RO. -/
def PANE_COMMIT_STATUS_HOLD : Field := ⟨PANE_COMMIT_STATUS, 11, 1⟩
/-- `PANE_COMMIT_STATUS.STEP` [127:64], RO. -/
def PANE_COMMIT_STATUS_STEP : Field := ⟨PANE_COMMIT_STATUS, 64, 64⟩

/-- R298 (12_step_commit.md): `PANE_COMMIT_EVT`, 128 bits, reset 0. -/
def PANE_COMMIT_EVT : Reg :=
  { base := 0x020000000A30, width := 128, insts := 1, instStride := 0x0, count := 1, stride := 0x0,
    reset := 0x0, resets := [], rw := 0x0, rwl := 0x0, w1c := 0x0, block := .pane }
/-- `PANE_COMMIT_EVT.SASH_HOLD` [31:0], RO. -/
def PANE_COMMIT_EVT_SASH_HOLD : Field := ⟨PANE_COMMIT_EVT, 0, 32⟩
/-- `PANE_COMMIT_EVT.SKIPPED` [63:32], RO. -/
def PANE_COMMIT_EVT_SKIPPED : Field := ⟨PANE_COMMIT_EVT, 32, 32⟩
/-- `PANE_COMMIT_EVT.RESCALED` [95:64], RO. -/
def PANE_COMMIT_EVT_RESCALED : Field := ⟨PANE_COMMIT_EVT, 64, 32⟩
/-- `PANE_COMMIT_EVT.HALTED` [127:96], RO. -/
def PANE_COMMIT_EVT_HALTED : Field := ⟨PANE_COMMIT_EVT, 96, 32⟩

/-- R298 (12_step_commit.md): `PANE_COMMIT_DIGEST`, 128 bits, reset 0. -/
def PANE_COMMIT_DIGEST : Reg :=
  { base := 0x020000000A40, width := 128, insts := 1, instStride := 0x0, count := 1, stride := 0x0,
    reset := 0x0, resets := [], rw := 0x0, rwl := 0x0, w1c := 0x0, block := .pane }
/-- `PANE_COMMIT_DIGEST.RECORDED` [63:0], RO. -/
def PANE_COMMIT_DIGEST_RECORDED : Field := ⟨PANE_COMMIT_DIGEST, 0, 64⟩
/-- `PANE_COMMIT_DIGEST.REPLAYED` [127:64], RO. -/
def PANE_COMMIT_DIGEST_REPLAYED : Field := ⟨PANE_COMMIT_DIGEST, 64, 64⟩

/-- R298 (12_step_commit.md): `PANE_COMMIT_FAULT`, 192 bits, reset 0. -/
def PANE_COMMIT_FAULT : Reg :=
  { base := 0x020000000A50, width := 192, insts := 1, instStride := 0x0, count := 1, stride := 0x0,
    reset := 0x0, resets := [], rw := 0x0, rwl := 0x0, w1c := 0x1, block := .pane }
/-- `PANE_COMMIT_FAULT.VALID` [0:0], W1C. -/
def PANE_COMMIT_FAULT_VALID : Field := ⟨PANE_COMMIT_FAULT, 0, 1⟩
/-- `PANE_COMMIT_FAULT.TENSOR` [15:8], RO. -/
def PANE_COMMIT_FAULT_TENSOR : Field := ⟨PANE_COMMIT_FAULT, 8, 8⟩
/-- `PANE_COMMIT_FAULT.CODE` [31:16], RO. -/
def PANE_COMMIT_FAULT_CODE : Field := ⟨PANE_COMMIT_FAULT, 16, 16⟩
/-- `PANE_COMMIT_FAULT.STACK` [34:32], RO. -/
def PANE_COMMIT_FAULT_STACK : Field := ⟨PANE_COMMIT_FAULT, 32, 3⟩
/-- `PANE_COMMIT_FAULT.STEP` [127:64], RO. -/
def PANE_COMMIT_FAULT_STEP : Field := ⟨PANE_COMMIT_FAULT, 64, 64⟩
/-- `PANE_COMMIT_FAULT.PANE` [191:128], RO. -/
def PANE_COMMIT_FAULT_PANE : Field := ⟨PANE_COMMIT_FAULT, 128, 64⟩

/-- R298 (12_step_commit.md): `PANE_DOPT`, 256 bits, reset 0. -/
def PANE_DOPT : Reg :=
  { base := 0x020000000C00, width := 256, insts := 1, instStride := 0x0, count := 256, stride := 0x20,
    reset := 0x0, resets := [], rw := 0x0, rwl := 0x0, w1c := 0x0, block := .pane }
/-- `PANE_DOPT.LR` [31:0], RO. -/
def PANE_DOPT_LR : Field := ⟨PANE_DOPT, 0, 32⟩
/-- `PANE_DOPT.MOM_B1` [63:32], RO. -/
def PANE_DOPT_MOM_B1 : Field := ⟨PANE_DOPT, 32, 32⟩
/-- `PANE_DOPT.B2` [95:64], RO. -/
def PANE_DOPT_B2 : Field := ⟨PANE_DOPT, 64, 32⟩
/-- `PANE_DOPT.EPS` [127:96], RO. -/
def PANE_DOPT_EPS : Field := ⟨PANE_DOPT, 96, 32⟩
/-- `PANE_DOPT.WD` [159:128], RO. -/
def PANE_DOPT_WD : Field := ⟨PANE_DOPT, 128, 32⟩

/-- R311 (13_random_bits.md): `RNG_STATUS`, 32 bits, reset 0x0000_0000. -/
def RNG_STATUS : Reg :=
  { base := 0x010000C00600, width := 32, insts := 96, instStride := 0x1000000, count := 1, stride := 0x0,
    reset := 0x0, resets := [], rw := 0x0, rwl := 0x0, w1c := 0x0, block := .rng }
/-- `RNG_STATUS.BUSY` [0:0], RO. -/
def RNG_STATUS_BUSY : Field := ⟨RNG_STATUS, 0, 1⟩
/-- `RNG_STATUS.SELFTEST_OK` [1:1], RO. -/
def RNG_STATUS_SELFTEST_OK : Field := ⟨RNG_STATUS, 1, 1⟩
/-- `RNG_STATUS.CORES` [15:8], RO. -/
def RNG_STATUS_CORES : Field := ⟨RNG_STATUS, 8, 8⟩

/-- R311 (13_random_bits.md): `BRNG_STATUS`, 32 bits, reset 0x0000_0000. -/
def BRNG_STATUS : Reg :=
  { base := 0x02000010C000, width := 32, insts := 8, instStride := 0x10000, count := 1, stride := 0x0,
    reset := 0x0, resets := [], rw := 0x0, rwl := 0x0, w1c := 0x0, block := .brng }
/-- `BRNG_STATUS.BUSY` [0:0], RO. -/
def BRNG_STATUS_BUSY : Field := ⟨BRNG_STATUS, 0, 1⟩
/-- `BRNG_STATUS.SELFTEST_OK` [1:1], RO. -/
def BRNG_STATUS_SELFTEST_OK : Field := ⟨BRNG_STATUS, 1, 1⟩
/-- `BRNG_STATUS.CORES` [15:8], RO. -/
def BRNG_STATUS_CORES : Field := ⟨BRNG_STATUS, 8, 8⟩

/-- R311 (13_random_bits.md): `RNG_SEED`, 128 bits, reset 0. -/
def RNG_SEED : Reg :=
  { base := 0x010000C00608, width := 128, insts := 96, instStride := 0x1000000, count := 1, stride := 0x0,
    reset := 0x0, resets := [], rw := 0x0, rwl := 0x0, w1c := 0x0, block := .rng }
/-- `RNG_SEED.SEED` [127:0], RO. -/
def RNG_SEED_SEED : Field := ⟨RNG_SEED, 0, 128⟩

/-- R311 (13_random_bits.md): `BRNG_SEED`, 128 bits, reset 0. -/
def BRNG_SEED : Reg :=
  { base := 0x02000010C008, width := 128, insts := 8, instStride := 0x10000, count := 1, stride := 0x0,
    reset := 0x0, resets := [], rw := 0x0, rwl := 0x0, w1c := 0x0, block := .brng }
/-- `BRNG_SEED.SEED` [127:0], RO. -/
def BRNG_SEED_SEED : Field := ⟨BRNG_SEED, 0, 128⟩

/-- R311 (13_random_bits.md): `RNG_EVT`, 128 bits, reset 0. -/
def RNG_EVT : Reg :=
  { base := 0x010000C00620, width := 128, insts := 96, instStride := 0x1000000, count := 1, stride := 0x0,
    reset := 0x0, resets := [], rw := 0x0, rwl := 0x0, w1c := 0x0, block := .rng }
/-- `RNG_EVT.BLOCKS` [31:0], RO. -/
def RNG_EVT_BLOCKS : Field := ⟨RNG_EVT, 0, 32⟩
/-- `RNG_EVT.WORDS` [63:32], RO. -/
def RNG_EVT_WORDS : Field := ⟨RNG_EVT, 32, 32⟩
/-- `RNG_EVT.STALL` [95:64], RO. -/
def RNG_EVT_STALL : Field := ⟨RNG_EVT, 64, 32⟩

/-- R311 (13_random_bits.md): `BRNG_EVT`, 128 bits, reset 0. -/
def BRNG_EVT : Reg :=
  { base := 0x02000010C020, width := 128, insts := 8, instStride := 0x10000, count := 1, stride := 0x0,
    reset := 0x0, resets := [], rw := 0x0, rwl := 0x0, w1c := 0x0, block := .brng }
/-- `BRNG_EVT.BLOCKS` [31:0], RO. -/
def BRNG_EVT_BLOCKS : Field := ⟨BRNG_EVT, 0, 32⟩
/-- `BRNG_EVT.WORDS` [63:32], RO. -/
def BRNG_EVT_WORDS : Field := ⟨BRNG_EVT, 32, 32⟩
/-- `BRNG_EVT.STALL` [95:64], RO. -/
def BRNG_EVT_STALL : Field := ⟨BRNG_EVT, 64, 32⟩

/-- R311 (13_random_bits.md): `RNG_FAULT`, 128 bits, reset 0. -/
def RNG_FAULT : Reg :=
  { base := 0x010000C00640, width := 128, insts := 96, instStride := 0x1000000, count := 1, stride := 0x0,
    reset := 0x0, resets := [], rw := 0x0, rwl := 0x0, w1c := 0x1, block := .rng }
/-- `RNG_FAULT.VALID` [0:0], W1C. -/
def RNG_FAULT_VALID : Field := ⟨RNG_FAULT, 0, 1⟩
/-- `RNG_FAULT.SITE` [7:1], RO. -/
def RNG_FAULT_SITE : Field := ⟨RNG_FAULT, 1, 7⟩
/-- `RNG_FAULT.CORE` [12:8], RO. -/
def RNG_FAULT_CORE : Field := ⟨RNG_FAULT, 8, 5⟩
/-- `RNG_FAULT.PANE` [127:64], RO. -/
def RNG_FAULT_PANE : Field := ⟨RNG_FAULT, 64, 64⟩

/-- R311 (13_random_bits.md): `BRNG_FAULT`, 128 bits, reset 0. -/
def BRNG_FAULT : Reg :=
  { base := 0x02000010C040, width := 128, insts := 8, instStride := 0x10000, count := 1, stride := 0x0,
    reset := 0x0, resets := [], rw := 0x0, rwl := 0x0, w1c := 0x1, block := .brng }
/-- `BRNG_FAULT.VALID` [0:0], W1C. -/
def BRNG_FAULT_VALID : Field := ⟨BRNG_FAULT, 0, 1⟩
/-- `BRNG_FAULT.SITE` [7:1], RO. -/
def BRNG_FAULT_SITE : Field := ⟨BRNG_FAULT, 1, 7⟩
/-- `BRNG_FAULT.CORE` [12:8], RO. -/
def BRNG_FAULT_CORE : Field := ⟨BRNG_FAULT, 8, 5⟩
/-- `BRNG_FAULT.PANE` [127:64], RO. -/
def BRNG_FAULT_PANE : Field := ⟨BRNG_FAULT, 64, 64⟩

/-- R345 (14_sirben_fabric.md): `SBN_ID`, 32 bits, reset 0x0000_0000. -/
def SBN_ID : Reg :=
  { base := 0x020000200000, width := 32, insts := 1, instStride := 0x0, count := 1, stride := 0x0,
    reset := 0x0, resets := [], rw := 0x10F, rwl := 0x0, w1c := 0x0, block := .sbn }
/-- `SBN_ID.PART` [3:0], RW. -/
def SBN_ID_PART : Field := ⟨SBN_ID, 0, 4⟩
/-- `SBN_ID.VALID` [8:8], RW. -/
def SBN_ID_VALID : Field := ⟨SBN_ID, 8, 1⟩

/-- R345 (14_sirben_fabric.md): `SBN_CFG`, 32 bits, reset 0x0000_0006. -/
def SBN_CFG : Reg :=
  { base := 0x020000200008, width := 32, insts := 1, instStride := 0x0, count := 1, stride := 0x0,
    reset := 0x6, resets := [], rw := 0x37, rwl := 0x0, w1c := 0x0, block := .sbn }
/-- `SBN_CFG.EN` [0:0], RW. -/
def SBN_CFG_EN : Field := ⟨SBN_CFG, 0, 1⟩
/-- `SBN_CFG.AUTO_RETRAIN` [1:1], RW. -/
def SBN_CFG_AUTO_RETRAIN : Field := ⟨SBN_CFG, 1, 1⟩
/-- `SBN_CFG.THROTTLE_EN` [2:2], RW. -/
def SBN_CFG_THROTTLE_EN : Field := ⟨SBN_CFG, 2, 1⟩
/-- `SBN_CFG.MIN_LANES` [5:4], RW. -/
def SBN_CFG_MIN_LANES : Field := ⟨SBN_CFG, 4, 2⟩

/-- R345 (14_sirben_fabric.md): `SBN_LINK`, 32 bits, reset 0x0001_0800. -/
def SBN_LINK : Reg :=
  { base := 0x020000200010, width := 32, insts := 1, instStride := 0x0, count := 1, stride := 0x0,
    reset := 0x10800, resets := [], rw := 0x1FFFF, rwl := 0x0, w1c := 0x0, block := .sbn }
/-- `SBN_LINK.RETRY_TMO` [11:0], RW. -/
def SBN_LINK_RETRY_TMO : Field := ⟨SBN_LINK, 0, 12⟩
/-- `SBN_LINK.RETRY_BUDGET` [16:12], RW. -/
def SBN_LINK_RETRY_BUDGET : Field := ⟨SBN_LINK, 12, 5⟩

/-- R345 (14_sirben_fabric.md): `SBN_XPORT`, 64 bits, reset 0x0040_4002_0801_1940. -/
def SBN_XPORT : Reg :=
  { base := 0x020000200018, width := 64, insts := 1, instStride := 0x0, count := 1, stride := 0x0,
    reset := 0x40400208011940, resets := [], rw := 0xFFFFFF0FFFFFFF, rwl := 0x0, w1c := 0x0, block := .sbn }
/-- `SBN_XPORT.TMO` [23:0], RW. -/
def SBN_XPORT_TMO : Field := ⟨SBN_XPORT, 0, 24⟩
/-- `SBN_XPORT.BUDGET` [27:24], RW. -/
def SBN_XPORT_BUDGET : Field := ⟨SBN_XPORT, 24, 4⟩
/-- `SBN_XPORT.W_MIN` [39:32], RW. -/
def SBN_XPORT_W_MIN : Field := ⟨SBN_XPORT, 32, 8⟩
/-- `SBN_XPORT.W_MAX` [47:40], RW. -/
def SBN_XPORT_W_MAX : Field := ⟨SBN_XPORT, 40, 8⟩
/-- `SBN_XPORT.CE_THRESH` [55:48], RW. -/
def SBN_XPORT_CE_THRESH : Field := ⟨SBN_XPORT, 48, 8⟩

/-- R345 (14_sirben_fabric.md): `SBN_ARB`, 32 bits, reset 0x0000_3244. -/
def SBN_ARB : Reg :=
  { base := 0x020000200020, width := 32, insts := 1, instStride := 0x0, count := 1, stride := 0x0,
    reset := 0x3244, resets := [], rw := 0xFFFF, rwl := 0x0, w1c := 0x0, block := .sbn }
/-- `SBN_ARB.W_COLL` [3:0], RW. -/
def SBN_ARB_W_COLL : Field := ⟨SBN_ARB, 0, 4⟩
/-- `SBN_ARB.W_RESP` [7:4], RW. -/
def SBN_ARB_W_RESP : Field := ⟨SBN_ARB, 4, 4⟩
/-- `SBN_ARB.W_REQ` [11:8], RW. -/
def SBN_ARB_W_REQ : Field := ⟨SBN_ARB, 8, 4⟩
/-- `SBN_ARB.W_BULK` [15:12], RW. -/
def SBN_ARB_W_BULK : Field := ⟨SBN_ARB, 12, 4⟩

/-- R345 (14_sirben_fabric.md): `SBN_COLL_TMO`, 32 bits, reset 0x0001_0000. -/
def SBN_COLL_TMO : Reg :=
  { base := 0x020000200024, width := 32, insts := 1, instStride := 0x0, count := 1, stride := 0x0,
    reset := 0x10000, resets := [], rw := 0xFFFFFFFF, rwl := 0x0, w1c := 0x0, block := .sbn }
/-- `SBN_COLL_TMO.PANES` [31:0], RW. -/
def SBN_COLL_TMO_PANES : Field := ⟨SBN_COLL_TMO, 0, 32⟩

/-- R345 (14_sirben_fabric.md): `SBN_SHUTTER`, 32 bits, reset 0x0000_0000. -/
def SBN_SHUTTER : Reg :=
  { base := 0x020000200028, width := 32, insts := 1, instStride := 0x0, count := 1, stride := 0x0,
    reset := 0x0, resets := [], rw := 0x0, rwl := 0x0, w1c := 0x0, block := .sbn }
/-- `SBN_SHUTTER.MASK` [15:0], RO. -/
def SBN_SHUTTER_MASK : Field := ⟨SBN_SHUTTER, 0, 16⟩

/-- R345 (14_sirben_fabric.md): `SBN_ROUTE`, 64 bits, reset 0. -/
def SBN_ROUTE : Reg :=
  { base := 0x020000200100, width := 64, insts := 1, instStride := 0x0, count := 16, stride := 0x8,
    reset := 0x0, resets := [], rw := 0x3FFFFF, rwl := 0x0, w1c := 0x0, block := .sbn }
/-- `SBN_ROUTE.PRI` [9:0], RW. -/
def SBN_ROUTE_PRI : Field := ⟨SBN_ROUTE, 0, 10⟩
/-- `SBN_ROUTE.ALT` [19:10], RW. -/
def SBN_ROUTE_ALT : Field := ⟨SBN_ROUTE, 10, 10⟩
/-- `SBN_ROUTE.VALID` [20:20], RW. -/
def SBN_ROUTE_VALID : Field := ⟨SBN_ROUTE, 20, 1⟩
/-- `SBN_ROUTE.SELF` [21:21], RW. -/
def SBN_ROUTE_SELF : Field := ⟨SBN_ROUTE, 21, 1⟩
/-- `SBN_ROUTE.USABLE` [41:32], RO. -/
def SBN_ROUTE_USABLE : Field := ⟨SBN_ROUTE, 32, 10⟩

/-- R345 (14_sirben_fabric.md): `SBN_PORT`, 256 bits, reset 0. -/
def SBN_PORT : Reg :=
  { base := 0x020000200200, width := 256, insts := 1, instStride := 0x0, count := 10, stride := 0x20,
    reset := 0x0, resets := [], rw := 0x0, rwl := 0x0, w1c := 0x0, block := .sbn }
/-- `SBN_PORT.UP` [0:0], RO. -/
def SBN_PORT_UP : Field := ⟨SBN_PORT, 0, 1⟩
/-- `SBN_PORT.TRAINING` [1:1], RO. -/
def SBN_PORT_TRAINING : Field := ⟨SBN_PORT, 1, 1⟩
/-- `SBN_PORT.LANES` [3:2], RO. -/
def SBN_PORT_LANES : Field := ⟨SBN_PORT, 2, 2⟩
/-- `SBN_PORT.PEER_PART` [7:4], RO. -/
def SBN_PORT_PEER_PART : Field := ⟨SBN_PORT, 4, 4⟩
/-- `SBN_PORT.PEER_PORT` [11:8], RO. -/
def SBN_PORT_PEER_PORT : Field := ⟨SBN_PORT, 8, 4⟩
/-- `SBN_PORT.LANE_OK` [19:12], RO. -/
def SBN_PORT_LANE_OK : Field := ⟨SBN_PORT, 12, 8⟩
/-- `SBN_PORT.FEC_CORR` [95:64], RO. -/
def SBN_PORT_FEC_CORR : Field := ⟨SBN_PORT, 64, 32⟩
/-- `SBN_PORT.FEC_UNCORR` [127:96], RO. -/
def SBN_PORT_FEC_UNCORR : Field := ⟨SBN_PORT, 96, 32⟩
/-- `SBN_PORT.CRC_ERR` [159:128], RO. -/
def SBN_PORT_CRC_ERR : Field := ⟨SBN_PORT, 128, 32⟩
/-- `SBN_PORT.REPLAYS` [191:160], RO. -/
def SBN_PORT_REPLAYS : Field := ⟨SBN_PORT, 160, 32⟩
/-- `SBN_PORT.DOWNS` [207:192], RO. -/
def SBN_PORT_DOWNS : Field := ⟨SBN_PORT, 192, 16⟩

/-- R345 (14_sirben_fabric.md): `SBN_EVT`, 256 bits, reset 0. -/
def SBN_EVT : Reg :=
  { base := 0x020000200400, width := 256, insts := 1, instStride := 0x0, count := 1, stride := 0x0,
    reset := 0x0, resets := [], rw := 0x0, rwl := 0x0, w1c := 0x0, block := .sbn }
/-- `SBN_EVT.RETX` [31:0], RO. -/
def SBN_EVT_RETX : Field := ⟨SBN_EVT, 0, 32⟩
/-- `SBN_EVT.SHUTTER_DROP` [63:32], RO. -/
def SBN_EVT_SHUTTER_DROP : Field := ⟨SBN_EVT, 32, 32⟩
/-- `SBN_EVT.THROTTLE` [95:64], RO. -/
def SBN_EVT_THROTTLE : Field := ⟨SBN_EVT, 64, 32⟩
/-- `SBN_EVT.JOB_DROP` [127:96], RO. -/
def SBN_EVT_JOB_DROP : Field := ⟨SBN_EVT, 96, 32⟩
/-- `SBN_EVT.HOP_LIMIT` [159:128], RO. -/
def SBN_EVT_HOP_LIMIT : Field := ⟨SBN_EVT, 128, 32⟩
/-- `SBN_EVT.UNREACHABLE` [191:160], RO. -/
def SBN_EVT_UNREACHABLE : Field := ⟨SBN_EVT, 160, 32⟩
/-- `SBN_EVT.PEER_DROP` [223:192], RO. -/
def SBN_EVT_PEER_DROP : Field := ⟨SBN_EVT, 192, 32⟩
/-- `SBN_EVT.ECRC_ERR` [255:224], RO. -/
def SBN_EVT_ECRC_ERR : Field := ⟨SBN_EVT, 224, 32⟩

/-- R345 (14_sirben_fabric.md): `SBN_COLL`, 32 bits, reset 0x0000_0000. -/
def SBN_COLL : Reg :=
  { base := 0x020000200440, width := 32, insts := 1, instStride := 0x0, count := 1, stride := 0x0,
    reset := 0x0, resets := [], rw := 0x0, rwl := 0x0, w1c := 0x30000, block := .sbn }
/-- `SBN_COLL.ACTIVE` [5:0], RO. -/
def SBN_COLL_ACTIVE : Field := ⟨SBN_COLL, 0, 6⟩
/-- `SBN_COLL.WAITING` [15:8], RO. -/
def SBN_COLL_WAITING : Field := ⟨SBN_COLL, 8, 8⟩
/-- `SBN_COLL.IV` [16:16], W1C. -/
def SBN_COLL_IV : Field := ⟨SBN_COLL, 16, 1⟩
/-- `SBN_COLL.NF` [17:17], W1C. -/
def SBN_COLL_NF : Field := ⟨SBN_COLL, 17, 1⟩

/-- R345 (14_sirben_fabric.md): `SBN_FAULT`, 256 bits, reset 0. -/
def SBN_FAULT : Reg :=
  { base := 0x020000200480, width := 256, insts := 1, instStride := 0x0, count := 1, stride := 0x0,
    reset := 0x0, resets := [], rw := 0x0, rwl := 0x0, w1c := 0x1, block := .sbn }
/-- `SBN_FAULT.VALID` [0:0], W1C. -/
def SBN_FAULT_VALID : Field := ⟨SBN_FAULT, 0, 1⟩
/-- `SBN_FAULT.VC` [3:1], RO. -/
def SBN_FAULT_VC : Field := ⟨SBN_FAULT, 1, 3⟩
/-- `SBN_FAULT.PART` [7:4], RO. -/
def SBN_FAULT_PART : Field := ⟨SBN_FAULT, 4, 4⟩
/-- `SBN_FAULT.COLL` [15:8], RO. -/
def SBN_FAULT_COLL : Field := ⟨SBN_FAULT, 8, 8⟩
/-- `SBN_FAULT.CODE` [31:16], RO. -/
def SBN_FAULT_CODE : Field := ⟨SBN_FAULT, 16, 16⟩
/-- `SBN_FAULT.TSEQ` [63:32], RO. -/
def SBN_FAULT_TSEQ : Field := ⟨SBN_FAULT, 32, 32⟩
/-- `SBN_FAULT.STEP` [191:128], RO. -/
def SBN_FAULT_STEP : Field := ⟨SBN_FAULT, 128, 64⟩
/-- `SBN_FAULT.PANE` [255:192], RO. -/
def SBN_FAULT_PANE : Field := ⟨SBN_FAULT, 192, 64⟩

/-- R374 (16_ethernet.md): `ETH_CFG`, 32 bits, reset 0x0000_9A34. -/
def ETH_CFG : Reg :=
  { base := 0x020000300000, width := 32, insts := 1, instStride := 0x0, count := 1, stride := 0x0,
    reset := 0x9A34, resets := [], rw := 0xFF77, rwl := 0x0, w1c := 0x0, block := .eth }
/-- `ETH_CFG.EN0` [0:0], RW. -/
def ETH_CFG_EN0 : Field := ⟨ETH_CFG, 0, 1⟩
/-- `ETH_CFG.EN1` [1:1], RW. -/
def ETH_CFG_EN1 : Field := ⟨ETH_CFG, 1, 1⟩
/-- `ETH_CFG.AUTO_RETRAIN` [2:2], RW. -/
def ETH_CFG_AUTO_RETRAIN : Field := ⟨ETH_CFG, 2, 1⟩
/-- `ETH_CFG.PRIO` [6:4], RW. -/
def ETH_CFG_PRIO : Field := ⟨ETH_CFG, 4, 3⟩
/-- `ETH_CFG.DSCP` [13:8], RW. -/
def ETH_CFG_DSCP : Field := ⟨ETH_CFG, 8, 6⟩
/-- `ETH_CFG.PMTU` [15:14], RW. -/
def ETH_CFG_PMTU : Field := ⟨ETH_CFG, 14, 2⟩

/-- R374 (16_ethernet.md): `ETH_PORT`, 256 bits, reset per part. -/
def ETH_PORT : Reg :=
  { base := 0x020000300100, width := 256, insts := 1, instStride := 0x0, count := 2, stride := 0x40,
    reset := 0x0, resets := [], rw := 0x0, rwl := 0x0, w1c := 0x0, block := .eth }
/-- `ETH_PORT.UP` [0:0], RO. -/
def ETH_PORT_UP : Field := ⟨ETH_PORT, 0, 1⟩
/-- `ETH_PORT.TRAINING` [1:1], RO. -/
def ETH_PORT_TRAINING : Field := ⟨ETH_PORT, 1, 1⟩
/-- `ETH_PORT.MAC` [55:8], RO. -/
def ETH_PORT_MAC : Field := ⟨ETH_PORT, 8, 48⟩
/-- `ETH_PORT.FEC_CORR` [95:64], RO. -/
def ETH_PORT_FEC_CORR : Field := ⟨ETH_PORT, 64, 32⟩
/-- `ETH_PORT.FEC_UNCORR` [127:96], RO. -/
def ETH_PORT_FEC_UNCORR : Field := ⟨ETH_PORT, 96, 32⟩
/-- `ETH_PORT.FCS_ERR` [159:128], RO. -/
def ETH_PORT_FCS_ERR : Field := ⟨ETH_PORT, 128, 32⟩
/-- `ETH_PORT.DOWNS` [175:160], RO. -/
def ETH_PORT_DOWNS : Field := ⟨ETH_PORT, 160, 16⟩

/-- R374 (16_ethernet.md): `ETH_ADDR`, 256 bits, reset 0. -/
def ETH_ADDR : Reg :=
  { base := 0x020000300200, width := 256, insts := 1, instStride := 0x0, count := 2, stride := 0x40,
    reset := 0x0, resets := [], rw := 0xFFFFFFFFFFFFFFFFFFFFFFFFFFFFFFFF00000003FFFFFFFF, rwl := 0x0, w1c := 0x0, block := .eth }
/-- `ETH_ADDR.IPV4` [31:0], RW. -/
def ETH_ADDR_IPV4 : Field := ⟨ETH_ADDR, 0, 32⟩
/-- `ETH_ADDR.V4_VALID` [32:32], RW. -/
def ETH_ADDR_V4_VALID : Field := ⟨ETH_ADDR, 32, 1⟩
/-- `ETH_ADDR.V6_VALID` [33:33], RW. -/
def ETH_ADDR_V6_VALID : Field := ⟨ETH_ADDR, 33, 1⟩
/-- `ETH_ADDR.IPV6` [191:64], RW. -/
def ETH_ADDR_IPV6 : Field := ⟨ETH_ADDR, 64, 128⟩

/-- R374 (16_ethernet.md): `ETH_PFC`, 32 bits, reset 0x6480_0C00. -/
def ETH_PFC : Reg :=
  { base := 0x020000300300, width := 32, insts := 1, instStride := 0x0, count := 1, stride := 0x0,
    reset := 0x64800C00, resets := [], rw := 0xFFFFFFFF, rwl := 0x0, w1c := 0x0, block := .eth }
/-- `ETH_PFC.XOFF` [11:0], RW. -/
def ETH_PFC_XOFF : Field := ⟨ETH_PFC, 0, 12⟩
/-- `ETH_PFC.XON` [23:12], RW. -/
def ETH_PFC_XON : Field := ⟨ETH_PFC, 12, 12⟩
/-- `ETH_PFC.STORM` [31:24], RW. -/
def ETH_PFC_STORM : Field := ⟨ETH_PFC, 24, 8⟩

/-- R374 (16_ethernet.md): `ETH_CC`, 64 bits, reset 0x0037_0032_0032_0401. -/
def ETH_CC : Reg :=
  { base := 0x020000300308, width := 64, insts := 1, instStride := 0x0, count := 1, stride := 0x0,
    reset := 0x37003200320401, resets := [], rw := 0xFFFFFFFFFFFFFF01, rwl := 0x0, w1c := 0x0, block := .eth }
/-- `ETH_CC.EN` [0:0], RW. -/
def ETH_CC_EN : Field := ⟨ETH_CC, 0, 1⟩
/-- `ETH_CC.R_MIN` [15:8], RW. -/
def ETH_CC_R_MIN : Field := ⟨ETH_CC, 8, 8⟩
/-- `ETH_CC.R_AI` [31:16], RW. -/
def ETH_CC_R_AI : Field := ⟨ETH_CC, 16, 16⟩
/-- `ETH_CC.CNP_GAP` [47:32], RW. -/
def ETH_CC_CNP_GAP : Field := ⟨ETH_CC, 32, 16⟩
/-- `ETH_CC.RAISE_GAP` [63:48], RW. -/
def ETH_CC_RAISE_GAP : Field := ⟨ETH_CC, 48, 16⟩

/-- R374 (16_ethernet.md): `ETH_EVT`, 256 bits, reset 0. -/
def ETH_EVT : Reg :=
  { base := 0x020000300400, width := 256, insts := 1, instStride := 0x0, count := 1, stride := 0x0,
    reset := 0x0, resets := [], rw := 0x0, rwl := 0x0, w1c := 0x0, block := .eth }
/-- `ETH_EVT.RETX` [31:0], RO. -/
def ETH_EVT_RETX : Field := ⟨ETH_EVT, 0, 32⟩
/-- `ETH_EVT.ACCESS_NAK` [63:32], RO. -/
def ETH_EVT_ACCESS_NAK : Field := ⟨ETH_EVT, 32, 32⟩
/-- `ETH_EVT.CNP_RX` [95:64], RO. -/
def ETH_EVT_CNP_RX : Field := ⟨ETH_EVT, 64, 32⟩
/-- `ETH_EVT.CNP_TX` [127:96], RO. -/
def ETH_EVT_CNP_TX : Field := ⟨ETH_EVT, 96, 32⟩
/-- `ETH_EVT.DROP` [159:128], RO. -/
def ETH_EVT_DROP : Field := ⟨ETH_EVT, 128, 32⟩
/-- `ETH_EVT.ICRC_ERR` [191:160], RO. -/
def ETH_EVT_ICRC_ERR : Field := ⟨ETH_EVT, 160, 32⟩
/-- `ETH_EVT.MBX_LOST` [223:192], RO. -/
def ETH_EVT_MBX_LOST : Field := ⟨ETH_EVT, 192, 32⟩
/-- `ETH_EVT.BUSY` [255:224], RO. -/
def ETH_EVT_BUSY : Field := ⟨ETH_EVT, 224, 32⟩

/-- R374 (16_ethernet.md): `ETH_LOG`, 192 bits, reset 0. -/
def ETH_LOG : Reg :=
  { base := 0x020000300480, width := 192, insts := 1, instStride := 0x0, count := 1, stride := 0x0,
    reset := 0x0, resets := [], rw := 0x0, rwl := 0x0, w1c := 0x1, block := .eth }
/-- `ETH_LOG.VALID` [0:0], W1C. -/
def ETH_LOG_VALID : Field := ⟨ETH_LOG, 0, 1⟩
/-- `ETH_LOG.REASON` [2:1], RO. -/
def ETH_LOG_REASON : Field := ⟨ETH_LOG, 1, 2⟩
/-- `ETH_LOG.PORT` [3:3], RO. -/
def ETH_LOG_PORT : Field := ⟨ETH_LOG, 3, 1⟩
/-- `ETH_LOG.QP` [11:4], RO. -/
def ETH_LOG_QP : Field := ⟨ETH_LOG, 4, 8⟩
/-- `ETH_LOG.CODE` [31:16], RO. -/
def ETH_LOG_CODE : Field := ⟨ETH_LOG, 16, 16⟩
/-- `ETH_LOG.ADDR` [79:32], RO. -/
def ETH_LOG_ADDR : Field := ⟨ETH_LOG, 32, 48⟩
/-- `ETH_LOG.PANE` [191:128], RO. -/
def ETH_LOG_PANE : Field := ⟨ETH_LOG, 128, 64⟩

/-- R374 (16_ethernet.md): `ETH_QP`, 128 bits, reset 0. -/
def ETH_QP : Reg :=
  { base := 0x020000301000, width := 128, insts := 1, instStride := 0x0, count := 256, stride := 0x10,
    reset := 0x0, resets := [], rw := 0x0, rwl := 0x0, w1c := 0x0, block := .eth }
/-- `ETH_QP.STATE` [2:0], RO. -/
def ETH_QP_STATE : Field := ⟨ETH_QP, 0, 3⟩
/-- `ETH_QP.PORT` [3:3], RO. -/
def ETH_QP_PORT : Field := ⟨ETH_QP, 3, 1⟩
/-- `ETH_QP.ACK_TMO` [7:4], RO. -/
def ETH_QP_ACK_TMO : Field := ⟨ETH_QP, 4, 4⟩
/-- `ETH_QP.REMOTE_QPN` [31:8], RO. -/
def ETH_QP_REMOTE_QPN : Field := ⟨ETH_QP, 8, 24⟩
/-- `ETH_QP.SEND_PSN` [55:32], RO. -/
def ETH_QP_SEND_PSN : Field := ⟨ETH_QP, 32, 24⟩
/-- `ETH_QP.RECV_PSN` [87:64], RO. -/
def ETH_QP_RECV_PSN : Field := ⟨ETH_QP, 64, 24⟩

/-- R374 (16_ethernet.md): `ETH_WIN`, 256 bits, reset 0. -/
def ETH_WIN : Reg :=
  { base := 0x020000302000, width := 256, insts := 1, instStride := 0x0, count := 64, stride := 0x20,
    reset := 0x0, resets := [], rw := 0x0, rwl := 0x0, w1c := 0x0, block := .eth }
/-- `ETH_WIN.BASE` [47:0], RO. -/
def ETH_WIN_BASE : Field := ⟨ETH_WIN, 0, 48⟩
/-- `ETH_WIN.READ` [48:48], RO. -/
def ETH_WIN_READ : Field := ⟨ETH_WIN, 48, 1⟩
/-- `ETH_WIN.WRITE` [49:49], RO. -/
def ETH_WIN_WRITE : Field := ⟨ETH_WIN, 49, 1⟩
/-- `ETH_WIN.LENGTH` [103:64], RO. -/
def ETH_WIN_LENGTH : Field := ⟨ETH_WIN, 64, 40⟩
/-- `ETH_WIN.R_KEY` [159:128], RO. -/
def ETH_WIN_R_KEY : Field := ⟨ETH_WIN, 128, 32⟩

/-- R393 (17_management_mailboxes.md): `MBX_CFG`, 32 bits, reset 0x000A_01F4. -/
def MBX_CFG : Reg :=
  { base := 0x020000600000, width := 32, insts := 1, instStride := 0x0, count := 1, stride := 0x0,
    reset := 0xA01F4, resets := [], rw := 0xFFFFFF, rwl := 0x0, w1c := 0x0, block := .mbx }
/-- `MBX_CFG.BUSY_HINT` [15:0], RW. -/
def MBX_CFG_BUSY_HINT : Field := ⟨MBX_CFG, 0, 16⟩
/-- `MBX_CFG.EVT_GAP` [23:16], RW. -/
def MBX_CFG_EVT_GAP : Field := ⟨MBX_CFG, 16, 8⟩

/-- R393 (17_management_mailboxes.md): `MBX_STATUS`, 32 bits, reset 0x0000_0000. -/
def MBX_STATUS : Reg :=
  { base := 0x020000600008, width := 32, insts := 1, instStride := 0x0, count := 1, stride := 0x0,
    reset := 0x0, resets := [], rw := 0x0, rwl := 0x0, w1c := 0x0, block := .mbx }
/-- `MBX_STATUS.READY` [0:0], RO. -/
def MBX_STATUS_READY : Field := ⟨MBX_STATUS, 0, 1⟩
/-- `MBX_STATUS.IN_RESET` [1:1], RO. -/
def MBX_STATUS_IN_RESET : Field := ⟨MBX_STATUS, 1, 1⟩
/-- `MBX_STATUS.FAILED` [2:2], RO. -/
def MBX_STATUS_FAILED : Field := ⟨MBX_STATUS, 2, 1⟩
/-- `MBX_STATUS.HOST_Q` [14:8], RO. -/
def MBX_STATUS_HOST_Q : Field := ⟨MBX_STATUS, 8, 7⟩
/-- `MBX_STATUS.PLAT_Q` [19:16], RO. -/
def MBX_STATUS_PLAT_Q : Field := ⟨MBX_STATUS, 16, 4⟩
/-- `MBX_STATUS.DBG_Q` [22:20], RO. -/
def MBX_STATUS_DBG_Q : Field := ⟨MBX_STATUS, 20, 3⟩
/-- `MBX_STATUS.IN_SERVICE` [25:23], RO. -/
def MBX_STATUS_IN_SERVICE : Field := ⟨MBX_STATUS, 23, 3⟩

/-- R393 (17_management_mailboxes.md): `MBX_WDT`, 32 bits, reset 0x0004_0040. -/
def MBX_WDT : Reg :=
  { base := 0x020000600010, width := 32, insts := 1, instStride := 0x0, count := 1, stride := 0x0,
    reset := 0x40040, resets := [], rw := 0x0, rwl := 0xFFFFF, w1c := 0x0, block := .mbx }
/-- `MBX_WDT.TMO` [15:0], RWL. -/
def MBX_WDT_TMO : Field := ⟨MBX_WDT, 0, 16⟩
/-- `MBX_WDT.LIMIT` [19:16], RWL. -/
def MBX_WDT_LIMIT : Field := ⟨MBX_WDT, 16, 4⟩
/-- `MBX_WDT.RECENT` [23:20], RO. -/
def MBX_WDT_RECENT : Field := ⟨MBX_WDT, 20, 4⟩

/-- R393 (17_management_mailboxes.md): `MBX_EVT`, 192 bits, reset 0. -/
def MBX_EVT : Reg :=
  { base := 0x020000600020, width := 192, insts := 1, instStride := 0x0, count := 1, stride := 0x0,
    reset := 0x0, resets := [], rw := 0x0, rwl := 0x0, w1c := 0x0, block := .mbx }
/-- `MBX_EVT.BUSY` [31:0], RO. -/
def MBX_EVT_BUSY : Field := ⟨MBX_EVT, 0, 32⟩
/-- `MBX_EVT.RESET_LOST` [63:32], RO. -/
def MBX_EVT_RESET_LOST : Field := ⟨MBX_EVT, 32, 32⟩
/-- `MBX_EVT.WDT_RESETS` [95:64], RO. -/
def MBX_EVT_WDT_RESETS : Field := ⟨MBX_EVT, 64, 32⟩
/-- `MBX_EVT.EVT_SENT` [127:96], RO. -/
def MBX_EVT_EVT_SENT : Field := ⟨MBX_EVT, 96, 32⟩
/-- `MBX_EVT.EVT_LOST` [159:128], RO. -/
def MBX_EVT_EVT_LOST : Field := ⟨MBX_EVT, 128, 32⟩
/-- `MBX_EVT.PREEMPT` [191:160], RO. -/
def MBX_EVT_PREEMPT : Field := ⟨MBX_EVT, 160, 32⟩

/-- R393 (17_management_mailboxes.md): `MBX_EVT_MASK`, 32 bits, reset 0x0000_0000. -/
def MBX_EVT_MASK : Reg :=
  { base := 0x020000600040, width := 32, insts := 1, instStride := 0x0, count := 2, stride := 0x8,
    reset := 0x0, resets := [], rw := 0xFFFFFFFF, rwl := 0x0, w1c := 0x0, block := .mbx }
/-- `MBX_EVT_MASK.RANGE` [31:0], RW. -/
def MBX_EVT_MASK_RANGE : Field := ⟨MBX_EVT_MASK, 0, 32⟩

/-- R393 (17_management_mailboxes.md): `MBX_SINK`, 32 bits, reset 0x0000_0000. -/
def MBX_SINK : Reg :=
  { base := 0x020000600050, width := 32, insts := 1, instStride := 0x0, count := 1, stride := 0x0,
    reset := 0x0, resets := [], rw := 0x0, rwl := 0x0, w1c := 0x0, block := .mbx }
/-- `MBX_SINK.QP` [2:0], RO. -/
def MBX_SINK_QP : Field := ⟨MBX_SINK, 0, 3⟩
/-- `MBX_SINK.VALID` [3:3], RO. -/
def MBX_SINK_VALID : Field := ⟨MBX_SINK, 3, 1⟩

/-- R393 (17_management_mailboxes.md): `MBX_REFUSAL`, 128 bits, reset 0. -/
def MBX_REFUSAL : Reg :=
  { base := 0x020000600060, width := 128, insts := 1, instStride := 0x0, count := 1, stride := 0x0,
    reset := 0x0, resets := [], rw := 0x0, rwl := 0x0, w1c := 0x1, block := .mbx }
/-- `MBX_REFUSAL.VALID` [0:0], W1C. -/
def MBX_REFUSAL_VALID : Field := ⟨MBX_REFUSAL, 0, 1⟩
/-- `MBX_REFUSAL.CLASS` [2:1], RO. -/
def MBX_REFUSAL_CLASS : Field := ⟨MBX_REFUSAL, 1, 2⟩
/-- `MBX_REFUSAL.QP` [15:8], RO. -/
def MBX_REFUSAL_QP : Field := ⟨MBX_REFUSAL, 8, 8⟩
/-- `MBX_REFUSAL.OPCODE` [31:16], RO. -/
def MBX_REFUSAL_OPCODE : Field := ⟨MBX_REFUSAL, 16, 16⟩
/-- `MBX_REFUSAL.STATUS` [47:32], RO. -/
def MBX_REFUSAL_STATUS : Field := ⟨MBX_REFUSAL, 32, 16⟩
/-- `MBX_REFUSAL.SEQUENCE` [95:64], RO. -/
def MBX_REFUSAL_SEQUENCE : Field := ⟨MBX_REFUSAL, 64, 32⟩

/-- R406 (18_power_thermal.md): `PWR_STATE`, 32 bits, reset 0x0000_0001. -/
def PWR_STATE : Reg :=
  { base := 0x020000400000, width := 32, insts := 1, instStride := 0x0, count := 1, stride := 0x0,
    reset := 0x1, resets := [], rw := 0x0, rwl := 0x0, w1c := 0x0, block := .pwr }
/-- `PWR_STATE.STATE` [2:0], RO. -/
def PWR_STATE_STATE : Field := ⟨PWR_STATE, 0, 3⟩
/-- `PWR_STATE.TRIP` [3:3], RO. -/
def PWR_STATE_TRIP : Field := ⟨PWR_STATE, 3, 1⟩
/-- `PWR_STATE.COOLING` [4:4], RO. -/
def PWR_STATE_COOLING : Field := ⟨PWR_STATE, 4, 1⟩
/-- `PWR_STATE.HOTTEST` [15:8], RO. -/
def PWR_STATE_HOTTEST : Field := ⟨PWR_STATE, 8, 8⟩
/-- `PWR_STATE.HOT_SRC` [22:16], RO. -/
def PWR_STATE_HOT_SRC : Field := ⟨PWR_STATE, 16, 7⟩

/-- R406 (18_power_thermal.md): `PWR_CAP`, 64 bits, reset 0x0000_07D0_07D0_07D0. -/
def PWR_CAP : Reg :=
  { base := 0x020000400008, width := 64, insts := 1, instStride := 0x0, count := 1, stride := 0x0,
    reset := 0x7D007D007D0, resets := [], rw := 0x0, rwl := 0x0, w1c := 0x0, block := .pwr }
/-- `PWR_CAP.HOST_CAP` [15:0], RO. -/
def PWR_CAP_HOST_CAP : Field := ⟨PWR_CAP, 0, 16⟩
/-- `PWR_CAP.PLAT_CAP` [31:16], RO. -/
def PWR_CAP_PLAT_CAP : Field := ⟨PWR_CAP, 16, 16⟩
/-- `PWR_CAP.ENFORCED` [47:32], RO. -/
def PWR_CAP_ENFORCED : Field := ⟨PWR_CAP, 32, 16⟩
/-- `PWR_CAP.INPUT_LIMIT` [63:48], RO. -/
def PWR_CAP_INPUT_LIMIT : Field := ⟨PWR_CAP, 48, 16⟩

/-- R406 (18_power_thermal.md): `PWR_POLICY`, 64 bits, reset 0x0000_0000_0384_0000. -/
def PWR_POLICY : Reg :=
  { base := 0x020000400010, width := 64, insts := 1, instStride := 0x0, count := 1, stride := 0x0,
    reset := 0x3840000, resets := [], rw := 0x0, rwl := 0x0, w1c := 0x0, block := .pwr }
/-- `PWR_POLICY.MODE` [1:0], RO. -/
def PWR_POLICY_MODE : Field := ⟨PWR_POLICY, 0, 2⟩
/-- `PWR_POLICY.EF_SHARE` [25:16], RO. -/
def PWR_POLICY_EF_SHARE : Field := ⟨PWR_POLICY, 16, 10⟩
/-- `PWR_POLICY.FIXED` [63:32], RO. -/
def PWR_POLICY_FIXED : Field := ⟨PWR_POLICY, 32, 32⟩

/-- R406 (18_power_thermal.md): `PWR_ENERGY`, 128 bits, reset 0. -/
def PWR_ENERGY : Reg :=
  { base := 0x020000400020, width := 128, insts := 1, instStride := 0x0, count := 1, stride := 0x0,
    reset := 0x0, resets := [], rw := 0x0, rwl := 0x0, w1c := 0x0, block := .pwr }
/-- `PWR_ENERGY.E_PANE` [31:0], RO. -/
def PWR_ENERGY_E_PANE : Field := ⟨PWR_ENERGY, 0, 32⟩
/-- `PWR_ENERGY.E_BG` [63:32], RO. -/
def PWR_ENERGY_E_BG : Field := ⟨PWR_ENERGY, 32, 32⟩
/-- `PWR_ENERGY.DEBT` [95:64], RO. -/
def PWR_ENERGY_DEBT : Field := ⟨PWR_ENERGY, 64, 32⟩
/-- `PWR_ENERGY.MEASURED` [127:96], RO. -/
def PWR_ENERGY_MEASURED : Field := ⟨PWR_ENERGY, 96, 32⟩

/-- R406 (18_power_thermal.md): `PWR_THERM`, 64 bits, reset 0x0001_D4C0_0000_9C40. -/
def PWR_THERM : Reg :=
  { base := 0x020000400030, width := 64, insts := 1, instStride := 0x0, count := 1, stride := 0x0,
    reset := 0x1D4C000009C40, resets := [], rw := 0x0, rwl := 0x0, w1c := 0x0, block := .pwr }
/-- `PWR_THERM.H_TILE` [31:0], RO. -/
def PWR_THERM_H_TILE : Field := ⟨PWR_THERM, 0, 32⟩
/-- `PWR_THERM.H_GE` [63:32], RO. -/
def PWR_THERM_H_GE : Field := ⟨PWR_THERM, 32, 32⟩

/-- R406 (18_power_thermal.md): `PWR_TLIM`, 32 bits, reset 0x5F6E_6450. -/
def PWR_TLIM : Reg :=
  { base := 0x020000400038, width := 32, insts := 1, instStride := 0x0, count := 1, stride := 0x0,
    reset := 0x5F6E6450, resets := [], rw := 0x0, rwl := 0x0, w1c := 0x0, block := .pwr }
/-- `PWR_TLIM.T_COOL` [7:0], RO. -/
def PWR_TLIM_T_COOL : Field := ⟨PWR_TLIM, 0, 8⟩
/-- `PWR_TLIM.T_HOT` [15:8], RO. -/
def PWR_TLIM_T_HOT : Field := ⟨PWR_TLIM, 8, 8⟩
/-- `PWR_TLIM.T_TRIP` [23:16], RO. -/
def PWR_TLIM_T_TRIP : Field := ⟨PWR_TLIM, 16, 8⟩
/-- `PWR_TLIM.T_CLEAR` [31:24], RO. -/
def PWR_TLIM_T_CLEAR : Field := ⟨PWR_TLIM, 24, 8⟩

/-- R406 (18_power_thermal.md): `PWR_INPUT`, 64 bits, reset 0. -/
def PWR_INPUT : Reg :=
  { base := 0x020000400040, width := 64, insts := 1, instStride := 0x0, count := 1, stride := 0x0,
    reset := 0x0, resets := [], rw := 0x0, rwl := 0x0, w1c := 0x0, block := .pwr }
/-- `PWR_INPUT.VOLTS` [15:0], RO. -/
def PWR_INPUT_VOLTS : Field := ⟨PWR_INPUT, 0, 16⟩
/-- `PWR_INPUT.AMPS` [31:16], RO. -/
def PWR_INPUT_AMPS : Field := ⟨PWR_INPUT, 16, 16⟩
/-- `PWR_INPUT.WATTS` [47:32], RO. -/
def PWR_INPUT_WATTS : Field := ⟨PWR_INPUT, 32, 16⟩

/-- R406 (18_power_thermal.md): `PWR_THROTTLE`, 128 bits, reset 0. -/
def PWR_THROTTLE : Reg :=
  { base := 0x020000400050, width := 128, insts := 1, instStride := 0x0, count := 1, stride := 0x0,
    reset := 0x0, resets := [], rw := 0x0, rwl := 0x0, w1c := 0x0, block := .pwr }
/-- `PWR_THROTTLE.SITE` [103:0], RO. -/
def PWR_THROTTLE_SITE : Field := ⟨PWR_THROTTLE, 0, 104⟩

/-- R406 (18_power_thermal.md): `PWR_EVT`, 128 bits, reset 0. -/
def PWR_EVT : Reg :=
  { base := 0x020000400060, width := 128, insts := 1, instStride := 0x0, count := 1, stride := 0x0,
    reset := 0x0, resets := [], rw := 0x0, rwl := 0x0, w1c := 0x0, block := .pwr }
/-- `PWR_EVT.THROTTLE` [31:0], RO. -/
def PWR_EVT_THROTTLE : Field := ⟨PWR_EVT, 0, 32⟩
/-- `PWR_EVT.CAPPED` [63:32], RO. -/
def PWR_EVT_CAPPED : Field := ⟨PWR_EVT, 32, 32⟩
/-- `PWR_EVT.MARGIN` [95:64], RO. -/
def PWR_EVT_MARGIN : Field := ⟨PWR_EVT, 64, 32⟩

/-- R406 (18_power_thermal.md): `PWR_FAULT`, 192 bits, reset 0. -/
def PWR_FAULT : Reg :=
  { base := 0x020000400080, width := 192, insts := 1, instStride := 0x0, count := 1, stride := 0x0,
    reset := 0x0, resets := [], rw := 0x0, rwl := 0x0, w1c := 0x1, block := .pwr }
/-- `PWR_FAULT.VALID` [0:0], W1C. -/
def PWR_FAULT_VALID : Field := ⟨PWR_FAULT, 0, 1⟩
/-- `PWR_FAULT.SOURCE` [7:1], RO. -/
def PWR_FAULT_SOURCE : Field := ⟨PWR_FAULT, 1, 7⟩
/-- `PWR_FAULT.CODE` [31:16], RO. -/
def PWR_FAULT_CODE : Field := ⟨PWR_FAULT, 16, 16⟩
/-- `PWR_FAULT.VALUE` [47:32], RO. -/
def PWR_FAULT_VALUE : Field := ⟨PWR_FAULT, 32, 16⟩
/-- `PWR_FAULT.PANE` [191:128], RO. -/
def PWR_FAULT_PANE : Field := ⟨PWR_FAULT, 128, 64⟩

/-- R430 (19_security_debug.md): `SEC_STATE`, 32 bits, reset 0x0000_0001. -/
def SEC_STATE : Reg :=
  { base := 0x020000500000, width := 32, insts := 1, instStride := 0x0, count := 1, stride := 0x0,
    reset := 0x1, resets := [], rw := 0x0, rwl := 0x0, w1c := 0x0, block := .sec }
/-- `SEC_STATE.DEADBOLT` [1:0], RO. -/
def SEC_STATE_DEADBOLT : Field := ⟨SEC_STATE, 0, 2⟩
/-- `SEC_STATE.SCOPE` [5:2], RO. -/
def SEC_STATE_SCOPE : Field := ⟨SEC_STATE, 2, 4⟩
/-- `SEC_STATE.SESSION` [6:6], RO. -/
def SEC_STATE_SESSION : Field := ⟨SEC_STATE, 6, 1⟩
/-- `SEC_STATE.REMAINING` [15:8], RO. -/
def SEC_STATE_REMAINING : Field := ⟨SEC_STATE, 8, 8⟩
/-- `SEC_STATE.SIGNER` [17:16], RO. -/
def SEC_STATE_SIGNER : Field := ⟨SEC_STATE, 16, 2⟩

/-- R430 (19_security_debug.md): `SEC_POLICY`, 32 bits, reset 0x0000_0000. -/
def SEC_POLICY : Reg :=
  { base := 0x020000500008, width := 32, insts := 1, instStride := 0x0, count := 1, stride := 0x0,
    reset := 0x0, resets := [], rw := 0x0, rwl := 0x0, w1c := 0x0, block := .sec }
/-- `SEC_POLICY.SESSION_HOLDS` [0:0], RO. -/
def SEC_POLICY_SESSION_HOLDS : Field := ⟨SEC_POLICY, 0, 1⟩
/-- `SEC_POLICY.OWNER_ONLY` [1:1], RO. -/
def SEC_POLICY_OWNER_ONLY : Field := ⟨SEC_POLICY, 1, 1⟩
/-- `SEC_POLICY.DEBUG_MIN` [2:2], RO. -/
def SEC_POLICY_DEBUG_MIN : Field := ⟨SEC_POLICY, 2, 1⟩

/-- R430 (19_security_debug.md): `SEC_BOOT`, 128 bits, reset per part. -/
def SEC_BOOT : Reg :=
  { base := 0x020000500010, width := 128, insts := 1, instStride := 0x0, count := 1, stride := 0x0,
    reset := 0x0, resets := [], rw := 0x0, rwl := 0x0, w1c := 0x0, block := .sec }
/-- `SEC_BOOT.BOOT_COUNT` [31:0], RO. -/
def SEC_BOOT_BOOT_COUNT : Field := ⟨SEC_BOOT, 0, 32⟩
/-- `SEC_BOOT.SVN` [63:32], RO. -/
def SEC_BOOT_SVN : Field := ⟨SEC_BOOT, 32, 32⟩
/-- `SEC_BOOT.MIN_SVN` [95:64], RO. -/
def SEC_BOOT_MIN_SVN : Field := ⟨SEC_BOOT, 64, 32⟩
/-- `SEC_BOOT.SLOT` [96:96], RO. -/
def SEC_BOOT_SLOT : Field := ⟨SEC_BOOT, 96, 1⟩
/-- `SEC_BOOT.UPDATE_READY` [97:97], RO. -/
def SEC_BOOT_UPDATE_READY : Field := ⟨SEC_BOOT, 97, 1⟩
/-- `SEC_BOOT.FALLBACK` [98:98], RO. -/
def SEC_BOOT_FALLBACK : Field := ⟨SEC_BOOT, 98, 1⟩

/-- R430 (19_security_debug.md): `SEC_DEVID`, 256 bits, reset per part. -/
def SEC_DEVID : Reg :=
  { base := 0x020000500020, width := 256, insts := 1, instStride := 0x0, count := 1, stride := 0x0,
    reset := 0x0, resets := [], rw := 0x0, rwl := 0x0, w1c := 0x0, block := .sec }
/-- `SEC_DEVID.DEVICE_ID` [255:0], RO. -/
def SEC_DEVID_DEVICE_ID : Field := ⟨SEC_DEVID, 0, 256⟩

/-- R430 (19_security_debug.md): `SEC_MEAS`, 256 bits, reset per part. -/
def SEC_MEAS : Reg :=
  { base := 0x020000500040, width := 256, insts := 1, instStride := 0x0, count := 5, stride := 0x20,
    reset := 0x0, resets := [], rw := 0x0, rwl := 0x0, w1c := 0x0, block := .sec }
/-- `SEC_MEAS.DIGEST` [255:0], RO. -/
def SEC_MEAS_DIGEST : Field := ⟨SEC_MEAS, 0, 256⟩

/-- R430 (19_security_debug.md): `SEC_OWNER`, 256 bits, reset per part. -/
def SEC_OWNER : Reg :=
  { base := 0x020000500100, width := 256, insts := 1, instStride := 0x0, count := 2, stride := 0x20,
    reset := 0x0, resets := [], rw := 0x0, rwl := 0x0, w1c := 0x0, block := .sec }
/-- `SEC_OWNER.VALID` [0:0], RO. -/
def SEC_OWNER_VALID : Field := ⟨SEC_OWNER, 0, 1⟩
/-- `SEC_OWNER.KEY_HASH` [255:1], RO. -/
def SEC_OWNER_KEY_HASH : Field := ⟨SEC_OWNER, 1, 255⟩

/-- R430 (19_security_debug.md): `SEC_EVT`, 128 bits, reset 0. -/
def SEC_EVT : Reg :=
  { base := 0x020000500180, width := 128, insts := 1, instStride := 0x0, count := 1, stride := 0x0,
    reset := 0x0, resets := [], rw := 0x0, rwl := 0x0, w1c := 0x0, block := .sec }
/-- `SEC_EVT.OPENS` [31:0], RO. -/
def SEC_EVT_OPENS : Field := ⟨SEC_EVT, 0, 32⟩
/-- `SEC_EVT.REJECTS` [63:32], RO. -/
def SEC_EVT_REJECTS : Field := ⟨SEC_EVT, 32, 32⟩
/-- `SEC_EVT.REPORTS` [95:64], RO. -/
def SEC_EVT_REPORTS : Field := ⟨SEC_EVT, 64, 32⟩
/-- `SEC_EVT.UPDATES` [127:96], RO. -/
def SEC_EVT_UPDATES : Field := ⟨SEC_EVT, 96, 32⟩

/-- R430 (19_security_debug.md): `SEC_FAULT`, 128 bits, reset 0. -/
def SEC_FAULT : Reg :=
  { base := 0x0200005001C0, width := 128, insts := 1, instStride := 0x0, count := 1, stride := 0x0,
    reset := 0x0, resets := [], rw := 0x0, rwl := 0x0, w1c := 0x1, block := .sec }
/-- `SEC_FAULT.VALID` [0:0], W1C. -/
def SEC_FAULT_VALID : Field := ⟨SEC_FAULT, 0, 1⟩
/-- `SEC_FAULT.STAGE` [3:1], RO. -/
def SEC_FAULT_STAGE : Field := ⟨SEC_FAULT, 1, 3⟩
/-- `SEC_FAULT.SLOT` [8:8], RO. -/
def SEC_FAULT_SLOT : Field := ⟨SEC_FAULT, 8, 1⟩
/-- `SEC_FAULT.CODE` [31:16], RO. -/
def SEC_FAULT_CODE : Field := ⟨SEC_FAULT, 16, 16⟩
/-- `SEC_FAULT.PANE` [127:64], RO. -/
def SEC_FAULT_PANE : Field := ⟨SEC_FAULT, 64, 64⟩

/-- R431 (19_security_debug.md): `DRT_STATUS`, 32 bits, reset 0x0000_0000. -/
def DRT_STATUS : Reg :=
  { base := 0x020000700000, width := 32, insts := 1, instStride := 0x0, count := 1, stride := 0x0,
    reset := 0x0, resets := [], rw := 0x0, rwl := 0x0, w1c := 0x0, block := .drt }
/-- `DRT_STATUS.ARMED` [8:0], RO. -/
def DRT_STATUS_ARMED : Field := ⟨DRT_STATUS, 0, 9⟩

/-- R431 (19_security_debug.md): `DRT_MESH`, 32 bits, reset 0x0000_0000. -/
def DRT_MESH : Reg :=
  { base := 0x020000700010, width := 32, insts := 1, instStride := 0x0, count := 1, stride := 0x0,
    reset := 0x0, resets := [], rw := 0x0, rwl := 0xFF7F7F, w1c := 0x0, block := .drt }
/-- `DRT_MESH.TILE` [6:0], RWL. -/
def DRT_MESH_TILE : Field := ⟨DRT_MESH, 0, 7⟩
/-- `DRT_MESH.PLANE` [9:8], RWL. -/
def DRT_MESH_PLANE : Field := ⟨DRT_MESH, 8, 2⟩
/-- `DRT_MESH.PORTS` [14:10], RWL. -/
def DRT_MESH_PORTS : Field := ⟨DRT_MESH, 10, 5⟩
/-- `DRT_MESH.DUTY` [23:16], RWL. -/
def DRT_MESH_DUTY : Field := ⟨DRT_MESH, 16, 8⟩

/-- R431 (19_security_debug.md): `DRT_LINK`, 32 bits, reset 0x0000_0000. -/
def DRT_LINK : Reg :=
  { base := 0x020000700018, width := 32, insts := 1, instStride := 0x0, count := 1, stride := 0x0,
    reset := 0x0, resets := [], rw := 0x0, rwl := 0xFFFFFF, w1c := 0x0, block := .drt }
/-- `DRT_LINK.PORTS` [9:0], RWL. -/
def DRT_LINK_PORTS : Field := ⟨DRT_LINK, 0, 10⟩
/-- `DRT_LINK.VCS` [15:10], RWL. -/
def DRT_LINK_VCS : Field := ⟨DRT_LINK, 10, 6⟩
/-- `DRT_LINK.DUTY` [23:16], RWL. -/
def DRT_LINK_DUTY : Field := ⟨DRT_LINK, 16, 8⟩

/-- R431 (19_security_debug.md): `DRT_MEMDLY`, 32 bits, reset 0x0000_0000. -/
def DRT_MEMDLY : Reg :=
  { base := 0x020000700020, width := 32, insts := 1, instStride := 0x0, count := 1, stride := 0x0,
    reset := 0x0, resets := [], rw := 0x0, rwl := 0x3FFFF, w1c := 0x0, block := .drt }
/-- `DRT_MEMDLY.CYCLES` [7:0], RWL. -/
def DRT_MEMDLY_CYCLES : Field := ⟨DRT_MEMDLY, 0, 8⟩
/-- `DRT_MEMDLY.STACKS` [15:8], RWL. -/
def DRT_MEMDLY_STACKS : Field := ⟨DRT_MEMDLY, 8, 8⟩
/-- `DRT_MEMDLY.REQ` [17:16], RWL. -/
def DRT_MEMDLY_REQ : Field := ⟨DRT_MEMDLY, 16, 2⟩

/-- R431 (19_security_debug.md): `DRT_STRETCH`, 32 bits, reset 0x0000_0000. -/
def DRT_STRETCH : Reg :=
  { base := 0x020000700028, width := 32, insts := 1, instStride := 0x0, count := 1, stride := 0x0,
    reset := 0x0, resets := [], rw := 0x0, rwl := 0xFFFFFFFF, w1c := 0x0, block := .drt }
/-- `DRT_STRETCH.EXTRA` [15:0], RWL. -/
def DRT_STRETCH_EXTRA : Field := ⟨DRT_STRETCH, 0, 16⟩
/-- `DRT_STRETCH.EVERY` [31:16], RWL. -/
def DRT_STRETCH_EVERY : Field := ⟨DRT_STRETCH, 16, 16⟩

/-- R431 (19_security_debug.md): `DRT_CREDIT`, 32 bits, reset 0x0000_0000. -/
def DRT_CREDIT : Reg :=
  { base := 0x020000700030, width := 32, insts := 1, instStride := 0x0, count := 1, stride := 0x0,
    reset := 0x0, resets := [], rw := 0x0, rwl := 0xFFFFF, w1c := 0x0, block := .drt }
/-- `DRT_CREDIT.PORTS` [9:0], RWL. -/
def DRT_CREDIT_PORTS : Field := ⟨DRT_CREDIT, 0, 10⟩
/-- `DRT_CREDIT.VCS` [15:10], RWL. -/
def DRT_CREDIT_VCS : Field := ⟨DRT_CREDIT, 10, 6⟩
/-- `DRT_CREDIT.CEILING` [19:16], RWL. -/
def DRT_CREDIT_CEILING : Field := ⟨DRT_CREDIT, 16, 4⟩

/-- R431 (19_security_debug.md): `DRT_CRC`, 32 bits, reset 0x0000_0000. -/
def DRT_CRC : Reg :=
  { base := 0x020000700038, width := 32, insts := 1, instStride := 0x0, count := 1, stride := 0x0,
    reset := 0x0, resets := [], rw := 0x0, rwl := 0xFFFF03FF, w1c := 0x0, block := .drt }
/-- `DRT_CRC.PORTS` [9:0], RWL. -/
def DRT_CRC_PORTS : Field := ⟨DRT_CRC, 0, 10⟩
/-- `DRT_CRC.EVERY` [31:16], RWL. -/
def DRT_CRC_EVERY : Field := ⟨DRT_CRC, 16, 16⟩

/-- R431 (19_security_debug.md): `DRT_MBXDLY`, 32 bits, reset 0x0000_0000. -/
def DRT_MBXDLY : Reg :=
  { base := 0x020000700040, width := 32, insts := 1, instStride := 0x0, count := 1, stride := 0x0,
    reset := 0x0, resets := [], rw := 0x0, rwl := 0x7FFFF, w1c := 0x0, block := .drt }
/-- `DRT_MBXDLY.DELAY` [15:0], RWL. -/
def DRT_MBXDLY_DELAY : Field := ⟨DRT_MBXDLY, 0, 16⟩
/-- `DRT_MBXDLY.CLASSES` [18:16], RWL. -/
def DRT_MBXDLY_CLASSES : Field := ⟨DRT_MBXDLY, 16, 3⟩

/-- R431 (19_security_debug.md): `DRT_PRED`, 32 bits, reset 0x0000_0000. -/
def DRT_PRED : Reg :=
  { base := 0x020000700048, width := 32, insts := 1, instStride := 0x0, count := 1, stride := 0x0,
    reset := 0x0, resets := [], rw := 0x0, rwl := 0xFFFF7F, w1c := 0x0, block := .drt }
/-- `DRT_PRED.TILE` [6:0], RWL. -/
def DRT_PRED_TILE : Field := ⟨DRT_PRED, 0, 7⟩
/-- `DRT_PRED.EVERY` [23:8], RWL. -/
def DRT_PRED_EVERY : Field := ⟨DRT_PRED, 8, 16⟩

/-- R431 (19_security_debug.md): `DRT_OVF`, 64 bits, reset 0. -/
def DRT_OVF : Reg :=
  { base := 0x020000700050, width := 64, insts := 1, instStride := 0x0, count := 1, stride := 0x0,
    reset := 0x0, resets := [], rw := 0x0, rwl := 0xFFFFFFFF077F, w1c := 0x0, block := .drt }
/-- `DRT_OVF.LAYER` [5:0], RWL. -/
def DRT_OVF_LAYER : Field := ⟨DRT_OVF, 0, 6⟩
/-- `DRT_OVF.ALL` [6:6], RWL. -/
def DRT_OVF_ALL : Field := ⟨DRT_OVF, 6, 1⟩
/-- `DRT_OVF.ATTEMPTS` [10:8], RWL. -/
def DRT_OVF_ATTEMPTS : Field := ⟨DRT_OVF, 8, 3⟩
/-- `DRT_OVF.EVERY` [47:16], RWL. -/
def DRT_OVF_EVERY : Field := ⟨DRT_OVF, 16, 32⟩

/-- R431 (19_security_debug.md): `DRT_EVT`, 128 bits, reset 0. -/
def DRT_EVT : Reg :=
  { base := 0x020000700080, width := 128, insts := 1, instStride := 0x0, count := 1, stride := 0x0,
    reset := 0x0, resets := [], rw := 0x0, rwl := 0x0, w1c := 0x0, block := .drt }
/-- `DRT_EVT.CRC` [31:0], RO. -/
def DRT_EVT_CRC : Field := ⟨DRT_EVT, 0, 32⟩
/-- `DRT_EVT.PRED` [63:32], RO. -/
def DRT_EVT_PRED : Field := ⟨DRT_EVT, 32, 32⟩
/-- `DRT_EVT.OVF` [95:64], RO. -/
def DRT_EVT_OVF : Field := ⟨DRT_EVT, 64, 32⟩
/-- `DRT_EVT.STRETCH` [127:96], RO. -/
def DRT_EVT_STRETCH : Field := ⟨DRT_EVT, 96, 32⟩

/-- R459 (20_bringup_recovery.md): `RST_STATUS`, 32 bits, reset 0x0000_0000. -/
def RST_STATUS : Reg :=
  { base := 0x020000608000, width := 32, insts := 1, instStride := 0x0, count := 1, stride := 0x0,
    reset := 0x0, resets := [], rw := 0x0, rwl := 0x0, w1c := 0x0, block := .rst }
/-- `RST_STATUS.SERVICE` [1:0], RO. -/
def RST_STATUS_SERVICE : Field := ⟨RST_STATUS, 0, 2⟩
/-- `RST_STATUS.FULL_PENDING` [2:2], RO. -/
def RST_STATUS_FULL_PENDING : Field := ⟨RST_STATUS, 2, 1⟩
/-- `RST_STATUS.WICKET_DONE` [3:3], RO. -/
def RST_STATUS_WICKET_DONE : Field := ⟨RST_STATUS, 3, 1⟩
/-- `RST_STATUS.JOB_STATE` [6:4], RO. -/
def RST_STATUS_JOB_STATE : Field := ⟨RST_STATUS, 4, 3⟩
/-- `RST_STATUS.STACKS_OK` [15:8], RO. -/
def RST_STATUS_STACKS_OK : Field := ⟨RST_STATUS, 8, 8⟩
/-- `RST_STATUS.STEP` [19:16], RO. -/
def RST_STATUS_STEP : Field := ⟨RST_STATUS, 16, 4⟩

/-- R459 (20_bringup_recovery.md): `RST_CFG`, 32 bits, reset 0x0000_0003. -/
def RST_CFG : Reg :=
  { base := 0x020000608004, width := 32, insts := 1, instStride := 0x0, count := 1, stride := 0x0,
    reset := 0x3, resets := [], rw := 0x3, rwl := 0x0, w1c := 0x0, block := .rst }
/-- `RST_CFG.TRAIN_MAX` [1:0], RW. -/
def RST_CFG_TRAIN_MAX : Field := ⟨RST_CFG, 0, 2⟩
/-- `RST_CFG.HOLD_STRAP` [2:2], RO. -/
def RST_CFG_HOLD_STRAP : Field := ⟨RST_CFG, 2, 1⟩

/-- R459 (20_bringup_recovery.md): `RST_HANG`, 64 bits, reset 0x0000_0016_1411_0100. -/
def RST_HANG : Reg :=
  { base := 0x020000608010, width := 64, insts := 1, instStride := 0x0, count := 1, stride := 0x0,
    reset := 0x1614110100, resets := [], rw := 0x1F1F1FFFFF, rwl := 0x0, w1c := 0x0, block := .rst }
/-- `RST_HANG.SITE_PANES` [15:0], RW. -/
def RST_HANG_SITE_PANES : Field := ⟨RST_HANG, 0, 16⟩
/-- `RST_HANG.RETIRE_EXP` [20:16], RW. -/
def RST_HANG_RETIRE_EXP : Field := ⟨RST_HANG, 16, 5⟩
/-- `RST_HANG.STEP_EXP` [28:24], RW. -/
def RST_HANG_STEP_EXP : Field := ⟨RST_HANG, 24, 5⟩
/-- `RST_HANG.IDX_EXP` [36:32], RW. -/
def RST_HANG_IDX_EXP : Field := ⟨RST_HANG, 32, 5⟩

/-- R459 (20_bringup_recovery.md): `RST_HANG_LOG`, 192 bits, reset 0. -/
def RST_HANG_LOG : Reg :=
  { base := 0x020000608020, width := 192, insts := 1, instStride := 0x0, count := 1, stride := 0x0,
    reset := 0x0, resets := [], rw := 0x0, rwl := 0x0, w1c := 0x1, block := .rst }
/-- `RST_HANG_LOG.VALID` [0:0], W1C. -/
def RST_HANG_LOG_VALID : Field := ⟨RST_HANG_LOG, 0, 1⟩
/-- `RST_HANG_LOG.DETECTOR` [2:1], RO. -/
def RST_HANG_LOG_DETECTOR : Field := ⟨RST_HANG_LOG, 1, 2⟩
/-- `RST_HANG_LOG.SITE` [14:8], RO. -/
def RST_HANG_LOG_SITE : Field := ⟨RST_HANG_LOG, 8, 7⟩
/-- `RST_HANG_LOG.TASK_ID` [63:32], RO. -/
def RST_HANG_LOG_TASK_ID : Field := ⟨RST_HANG_LOG, 32, 32⟩
/-- `RST_HANG_LOG.STEP` [127:64], RO. -/
def RST_HANG_LOG_STEP : Field := ⟨RST_HANG_LOG, 64, 64⟩
/-- `RST_HANG_LOG.PANE` [191:128], RO. -/
def RST_HANG_LOG_PANE : Field := ⟨RST_HANG_LOG, 128, 64⟩

/-- R459 (20_bringup_recovery.md): `RST_DOMAIN`, 64 bits, reset 0. -/
def RST_DOMAIN : Reg :=
  { base := 0x020000608040, width := 64, insts := 1, instStride := 0x0, count := 1, stride := 0x0,
    reset := 0x0, resets := [], rw := 0x0, rwl := 0x0, w1c := 0x0, block := .rst }
/-- `RST_DOMAIN.LAST` [2:0], RO. -/
def RST_DOMAIN_LAST : Field := ⟨RST_DOMAIN, 0, 3⟩
/-- `RST_DOMAIN.INSTANCE` [15:8], RO. -/
def RST_DOMAIN_INSTANCE : Field := ⟨RST_DOMAIN, 8, 8⟩
/-- `RST_DOMAIN.COUNT` [47:16], RO. -/
def RST_DOMAIN_COUNT : Field := ⟨RST_DOMAIN, 16, 32⟩

/-- R459 (20_bringup_recovery.md): `RST_BRINGUP`, 64 bits, reset 0. -/
def RST_BRINGUP : Reg :=
  { base := 0x020000608050, width := 64, insts := 1, instStride := 0x0, count := 1, stride := 0x0,
    reset := 0x0, resets := [], rw := 0x0, rwl := 0x0, w1c := 0x0, block := .rst }
/-- `RST_BRINGUP.STANDBY_MS` [15:0], RO. -/
def RST_BRINGUP_STANDBY_MS : Field := ⟨RST_BRINGUP, 0, 16⟩
/-- `RST_BRINGUP.WICKET_MS` [31:16], RO. -/
def RST_BRINGUP_WICKET_MS : Field := ⟨RST_BRINGUP, 16, 16⟩
/-- `RST_BRINGUP.FULL_MS` [47:32], RO. -/
def RST_BRINGUP_FULL_MS : Field := ⟨RST_BRINGUP, 32, 16⟩
/-- `RST_BRINGUP.CAUSE` [49:48], RO. -/
def RST_BRINGUP_CAUSE : Field := ⟨RST_BRINGUP, 48, 2⟩

/-- R459 (20_bringup_recovery.md): `RST_LOG`, 64 bits, reset 0. -/
def RST_LOG : Reg :=
  { base := 0x020000608060, width := 64, insts := 1, instStride := 0x0, count := 1, stride := 0x0,
    reset := 0x0, resets := [], rw := 0x0, rwl := 0x0, w1c := 0x0, block := .rst }
/-- `RST_LOG.NEXT` [31:0], RO. -/
def RST_LOG_NEXT : Field := ⟨RST_LOG, 0, 32⟩
/-- `RST_LOG.LOST` [47:32], RO. -/
def RST_LOG_LOST : Field := ⟨RST_LOG, 32, 16⟩
/-- `RST_LOG.DUMP_HELD` [48:48], RO. -/
def RST_LOG_DUMP_HELD : Field := ⟨RST_LOG, 48, 1⟩

/-- R459 (20_bringup_recovery.md): `RST_CTX`, 128 bits, reset 0. -/
def RST_CTX : Reg :=
  { base := 0x020000608070, width := 128, insts := 1, instStride := 0x0, count := 1, stride := 0x0,
    reset := 0x0, resets := [], rw := 0x0, rwl := 0x0, w1c := 0x0, block := .rst }
/-- `RST_CTX.VALID` [0:0], RO. -/
def RST_CTX_VALID : Field := ⟨RST_CTX, 0, 1⟩
/-- `RST_CTX.STATE` [2:1], RO. -/
def RST_CTX_STATE : Field := ⟨RST_CTX, 1, 2⟩
/-- `RST_CTX.FINGERPRINT` [127:64], RO. -/
def RST_CTX_FINGERPRINT : Field := ⟨RST_CTX, 64, 64⟩

/-- R459 (20_bringup_recovery.md): `RST_EVT`, 128 bits, reset 0. -/
def RST_EVT : Reg :=
  { base := 0x020000608080, width := 128, insts := 1, instStride := 0x0, count := 1, stride := 0x0,
    reset := 0x0, resets := [], rw := 0x0, rwl := 0x0, w1c := 0x0, block := .rst }
/-- `RST_EVT.SCRUBS` [31:0], RO. -/
def RST_EVT_SCRUBS : Field := ⟨RST_EVT, 0, 32⟩
/-- `RST_EVT.HANGS` [63:32], RO. -/
def RST_EVT_HANGS : Field := ⟨RST_EVT, 32, 32⟩
/-- `RST_EVT.SAVES` [95:64], RO. -/
def RST_EVT_SAVES : Field := ⟨RST_EVT, 64, 32⟩
/-- `RST_EVT.RESTORES` [127:96], RO. -/
def RST_EVT_RESTORES : Field := ⟨RST_EVT, 96, 32⟩
/-! The registers in tables, for the address decoder of R384 and R385. -/
def regTable0 : List Reg := [PANE_CFG, PANE_COUNT, PANE_HORIZON, PANE_ENERGY, PANE_EVT, PANE_SUSP, PANE_CARRIED, PANE_STATUS, PANE_WINDOW, PANE_SLOT_FAULT, BRY_ILV, BRY_STATUS, BRY_ARB, BRY_ECC_CE, BRY_ECC_THRESH, BRY_UE_LOG, BRY_SCRUB, BRY_EVT, BRY_REGION, GRE_CFG]
def regTable1 : List Reg := [GRE_STATUS, GRE_GRAPH, GRE_EVT, GRE_RATE, GRE_FAULT, GRE_SHARD, EMB_CFG, EMB_MIGR, EMB_FLIP, EMB_CACHE, EMB_EVT, EMB_STATUS, EMB_FAULT, EMB_OPT, EMB_TDESC, EMB_SDESC, TILE_ID, TILE_DESC, TILE_GEOM, TILE_STASH]
def regTable2 : List Reg := [TILE_ECC, TILE_UE_LOG, TILE_STATUS, TILE_PMAP, TILE_EVT, MXA_CFG, MXA_REPAIR, MXA_STATUS, MXA_EVT, MXA_FAULT, MVP_CFG, MVP_STATUS, MVP_EVT, FMT_MODE, FMT_FLAGS, FMT_FIRST, FMT_EVT, ACC_CFG, ACC_FLAGS, ACC_EXC]
def regTable3 : List Reg := [ACC_REPLAY, ACC_EVT, ACC_PAR, SPX_CFG, SPX_RCFG, SPX_PLAYER, SPX_EVT, SPX_FAULT, PANE_GFC_CFG, PANE_GFC_THR, PANE_STASH, PANE_BWD, PANE_BWD_EVT, PANE_BWD_FAULT, PANE_GFC, PANE_COMMIT_CFG, PANE_COMMIT_LAMBDA, PANE_COMMIT_RAISE, PANE_SASH, PANE_COMMIT_STATUS]
def regTable4 : List Reg := [PANE_COMMIT_EVT, PANE_COMMIT_DIGEST, PANE_COMMIT_FAULT, PANE_DOPT, RNG_STATUS, BRNG_STATUS, RNG_SEED, BRNG_SEED, RNG_EVT, BRNG_EVT, RNG_FAULT, BRNG_FAULT, SBN_ID, SBN_CFG, SBN_LINK, SBN_XPORT, SBN_ARB, SBN_COLL_TMO, SBN_SHUTTER, SBN_ROUTE]
def regTable5 : List Reg := [SBN_PORT, SBN_EVT, SBN_COLL, SBN_FAULT, ETH_CFG, ETH_PORT, ETH_ADDR, ETH_PFC, ETH_CC, ETH_EVT, ETH_LOG, ETH_QP, ETH_WIN, MBX_CFG, MBX_STATUS, MBX_WDT, MBX_EVT, MBX_EVT_MASK, MBX_SINK, MBX_REFUSAL]
def regTable6 : List Reg := [PWR_STATE, PWR_CAP, PWR_POLICY, PWR_ENERGY, PWR_THERM, PWR_TLIM, PWR_INPUT, PWR_THROTTLE, PWR_EVT, PWR_FAULT, SEC_STATE, SEC_POLICY, SEC_BOOT, SEC_DEVID, SEC_MEAS, SEC_OWNER, SEC_EVT, SEC_FAULT, DRT_STATUS, DRT_MESH]
def regTable7 : List Reg := [DRT_LINK, DRT_MEMDLY, DRT_STRETCH, DRT_CREDIT, DRT_CRC, DRT_MBXDLY, DRT_PRED, DRT_OVF, DRT_EVT, RST_STATUS, RST_CFG, RST_HANG, RST_HANG_LOG, RST_DOMAIN, RST_BRINGUP, RST_LOG, RST_CTX, RST_EVT]

/-- Every register of the part, the sum of the tables above. -/
def allRegs : List Reg := regTable0 ++ regTable1 ++ regTable2 ++ regTable3 ++ regTable4 ++ regTable5 ++ regTable6 ++ regTable7

end Sys2Proof.Machine
end

