-- ==== Sys2Proof/Machine/State.lean ====
section
/-! DEFINITION. The state of the part: plain data. Registers that the spec's tables name are in `regs`, each under its
device address, in one canonical form; every store the spec describes without giving it an address is a field here.
INVENTORY.md lists all of it with the rules that name it. -/

namespace Sys2Proof.Machine

/-- A task held by the scheduler (R32, R36, R38, R244): its descriptor, the device address it was fetched from, the step of
the table pass (R476), its age and what the decision made of it: `adm` its place in the run order of the next pane,
`queued` that it stands in the run order of this one. `recompute` marks a recompute piece (R251), `k` 1 one that waits for the
next pane, `seen` a piece that the last snapshot held, `items` is the instruction list of a piece, `owedAt` and `owedNb` the
drained region and its n-block that a recompute piece forms. -/
structure WinTask where
  desc : Word32B
  addr : Nat
  pass : Nat
  age : Nat := 0
  k : Nat := 0
  recompute : Bool := false
  lastPiece : Bool := true
  items : Option (List Word32B) := none
  owedAt : Nat := 0
  owedNb : Nat := 0
  estimate : Nat := 0
  seen : Bool := false
  ready : Bool := false
  adm : Nat := 0
  queued : Bool := false
  credits : List Nat := []
  startStep : Nat := 0
  deriving DecidableEq, Repr

/-- A memory-side request that is open (R42, R53, R68): the address it goes to where that is not the one it names (R277), the check's result once its completion has come, whether its data is in
place, whether its token has counted, and whether it has missed its lag. -/
structure OpenReq where
  req : MemReq
  goes : Option Nat := none
  ecc : Option Ecc := none
  landed : Bool := false
  promised : Bool := false
  late : Bool := false
  deriving DecidableEq, Repr

/-- What the scheduler keeps per site (R31, R36, R50–R52, R244, R442): the window in table order, the running task, the
pieces that wait, of which continuations stand in the window directly behind their parent's place (R38), the next table index and its pass, the run of overruns, the mullions one task has run through, the cycles
its tasks of this pane are estimated at, and during a re-run (R287) the pass and index being fetched again and the entries
of later passes set aside meanwhile. -/
structure SiteS where
  window : List WinTask := []
  run : Option WinTask := none
  pieces : List WinTask := []
  tableNext : Nat := 0
  pass : Nat := 0
  overruns : Nat := 0
  runMullions : Nat := 0
  runId : Nat := 0
  runTime : Nat := 0
  redo : Option (Nat × Nat) := none
  parked : List WinTask := []
  deriving DecidableEq, Repr

/-- A token as the image declares it (R39, R473) and its count. `kind` 1 `EVENT`, 2 `CREDIT`; `role` 1 commit token, 2
sampling token of `mb`. -/
structure TokenS where
  kind : Nat
  parity : Nat
  role : Nat
  mb : Nat
  value : Nat
  count : Nat
  deriving DecidableEq, Repr

/-- A step whose seeds have been taken in (R18): its slot's counts and its own copy of the seeds. -/
structure TakenStep where
  step : Nat
  mbCount : Nat
  perMb : Nat
  seeds : List Nat
  deriving DecidableEq, Repr

/-- The scheduler's central state (02): sites, tokens, open memory-side requests in issue order (R42), the allowances of the last
decision, whether it admitted pieces (R47, R244), and whether the step has had a throttled site-pane (R402). -/
structure Sched where
  sites : Kmap SiteS := []
  tokens : Kmap TokenS := []
  memReqs : List OpenReq := []
  admitOn : Bool := false
  eOrd : Nat := 0
  eHard : Nat := 0
  throttledStep : Bool := false
  deriving DecidableEq, Repr

/-- A weight tensor (R279): what its descriptor says, where that lies in the image, and what the image says of it beside. -/
structure Tensor where
  tensor : Nat
  layer : Nat
  wide : Bool
  opt : Nat
  masked : Bool
  fmt : Nat
  k : Nat
  n : Nat
  sashA : Nat
  sashB : Nat
  sashBytes : Nat
  maskBase : Nat
  reservedOk : Bool
  off : Nat
  owners : List (Nat × Nat)
  hyper : List Nat
  deriving DecidableEq, Repr

/-- The loaded job, as its image gave it (R387, R471–R475), and an accepted start that its mullion has not carried out, with the
pane of its acceptance (R388). -/
structure JobS where
  id : Nat := 0
  addr : Nat := 0
  bytes : Nat := 0
  wicket : Bool := false
  strict : Bool := false
  fast : Bool := false
  maskedW : Bool := false
  seed : Nat := 0
  tiles : Nat := 0
  slotSize : Nat := 0
  tables : Kmap (List Nat) := []
  lists : Kmap (Nat × Nat) := []
  plans : Kmap Nat := []
  mbPlans : Kmap Nat := []
  scatterLayers : Nat := 0
  colls : Kmap (List Byte) := []
  queues : Kmap Word32B := []
  queueNext : Kmap Nat := []
  tensors : List Tensor := []
  extra : JobExtra := {}
  startPending : Option (Nat × Nat) := none
  deriving DecidableEq, Repr

/-- What a job leaves behind for `JOB_STATUS` (R451), and the pending stop. -/
structure JobEnd where
  stopMode : Option Nat := none
  lastCode : Nat := 0
  lastDetail : Nat := 0
  lastLatched : Nat := 0
  lastCommitted : Nat := 0
  lastV : Nat := 0
  deriving DecidableEq, Repr

/-- One step's figures of the gradient format controller for one layer (R267). -/
structure GfcFig where
  amax : Nat := 0
  ovf : Nat := 0
  unf : Nat := 0
  nz : Nat := 0
  deriving DecidableEq, Repr

/-- The commit settings that held at the latch (R23, R283). -/
structure LatchedPol where
  cfg : Nat := 0
  lamMin : Nat := 0
  lamMax : Nat := 0
  raiseEvery : Nat := 0
  gfcCfg : Nat := 0
  gfcThr : Nat := 0
  horizons : List Nat := []
  predOff : List Nat := []
  deriving DecidableEq, Repr

/-- The step commit unit (01, 12): steps taken in, latched and committed; sash tags; votes and phases; the controller's
history. `tags` holds (step, micro-batch, sash parity). `halt` is 0 none, 1 commit outcome `HALT`, 2 pause, 3 undone; `replay`
the mode of a replay under way; `endPane` the pane in which the commit's last work ended; `undone` a step undone and not yet
committed again, `again` the step after it that is then run again (R294), `ended` the scatter rounds whose markers have gone out
(R110), `pols` the settings by the parity of the step whose latch took them (R283, R295), `flagged` the tensors whose `COMMIT` work
in this commit raised a flag (R285). -/
structure StepS where
  taken : List TakenStep := []
  takenStep : Nat := 0
  latchedStep : Nat := 0
  committedStep : Nat := 0
  current : Nat := 0
  open_ : Bool := false
  latchPane : Nat := 0
  pol : LatchedPol := {}
  pols : Kmap LatchedPol := []
  tags : List (Nat × Nat × Nat) := []
  localNf : Bool := false
  voted : Bool := false
  voteDone : Bool := false
  jobNf : Bool := false
  outcome : Nat := 0
  denseDone : Bool := false
  embDone : List Nat := []
  halt : Nat := 0
  replay : Option Nat := none
  endPane : Nat := 0
  undone : Option Nat := none
  again : Option Nat := none
  ended : List (Nat × Nat) := []
  flagged : List Nat := []
  deriving DecidableEq, Repr

/-- More of the commit unit: runs, history, choices for the next step and the ages in force at the latch, digests, reduced gradients and the detectors' counters (R443–R446). -/
structure CommitS where
  reruns : Nat := 0
  hist : Kmap (List GfcFig) := []
  figs : Kmap GfcFig := []
  nextGfc : Kmap (Nat × Nat × Nat) := []
  reduced : List Nat := []
  retirePanes : Nat := 0
  stepPanes : Nat := 0
  idxPanes : Nat := 0
  retiredIn : Bool := false
  ages : Kmap Nat := []
  digest : Nat := 0
  firsts : List (Nat × Nat) := []
  deriving DecidableEq, Repr

/-- A stash record (R270, R271): its key, its last reader, the tile whose stash area holds it or, once spilled, its lines in
the `STASH` region, and its length. `lines` are 128-byte lines of the area or region, from 0. -/
structure StashRec where
  step : Nat
  mb : Nat
  layer : Nat
  kind : Nat
  seq : Nat
  last : Nat
  tile : Nat
  spilled : Bool
  lines : List Nat
  bytes : Nat
  deriving DecidableEq, Repr

/-- The stash (R270–R273): records, reservations in bytes per (step, micro-batch), and bytes spilled. -/
structure StashS where
  recs : List StashRec := []
  reserved : Kmap Nat := []
  spilled : Kmap Nat := []
  deriving DecidableEq, Repr

/-- The power manager (18): residuals of the last 8 panes, debt, cap changes waiting for the mullion, sensors by source, the time
since which every sensor reads 95 °C or less, and `scrubHold`: a sensor has read 110 °C and not all have come down to 100 °C since
(R403). -/
structure PowerS where
  residuals : List Int := []
  measured : Nat := 0
  tags : Nat := 0
  capInForce : Nat := 2000
  hostCap : Option Nat := none
  platCap : Option Nat := none
  policy : Option (Nat × Nat) := none
  sensors : Kmap Nat := []
  filtered : Nat := 2268
  marginLow : Bool := false
  coolMs : Option Nat := none
  scrubHold : Bool := false
  regulators : Nat := 0
  deriving DecidableEq, Repr

/-- A scatter contribution or a round-end marker (R109, R110): header fields and FP32 values. -/
structure Contrib where
  row : Nat
  table : Nat
  kind : Nat
  sample : Nat
  homePart : Nat
  mb : Nat
  layer : Nat
  marker : Bool
  srcStack : Nat
  srcPart : Nat
  vals : List (BitVec 32)
  deriving DecidableEq, Repr

/-- A delta record (R129): what its header and its values say; the step is the number's low 16 bits. -/
structure DeltaRec where
  row : Nat
  step : Nat
  applied : Nat
  vals : List (BitVec 32)
  deriving DecidableEq, Repr

/-- An open migration (R130): row, old and new places, the pane it opened in, its phase and its log. -/
structure MigrS where
  table : Nat
  row : Nat
  oldCls : Nat
  oldSlot : Nat
  newCls : Nat
  newSlot : Nat
  pane : Nat
  phase : Nat
  log : List (List (BitVec 32))
  copy : Option DeltaRec
  data : List Byte
  deriving DecidableEq, Repr

/-- A question that a request waits for (R93, R103): the part asked and the tag, what was asked for (0 rows, 1 their partial, 2 the
work on a destination that the part holds), the sample it is asked for, the place of its partial among the destination's, and
the nodes. -/
structure Asked where
  part : Nat
  tag : Nat
  kind : Nat
  dest : Nat
  group : Nat := 0
  nodes : List Nat := []
  deriving DecidableEq, Repr

/-- A request that waits (R100, R103, R122): whether its questions have gone out, what they were, the scores of the edge-softmax
(R101) by destination, and, for work on a destination of another home part, that part, its tag and the gradient that came. -/
structure WaitAgg where
  req : Word32B
  step : Nat
  begun : Bool := true
  asked : List Asked := []
  scores : List (List (BitVec 32)) := []
  origin : Option (Nat × Nat × List (BitVec 32)) := none
  deriving DecidableEq, Repr

/-- The graph engine of one base die: the sample trees, the journal directory and side arrays (04). Keys that name a sample
are `((home part * 2 + step mod 2) * 256 + micro-batch) * 2^24 + sample index`; the empty sample is node 2^48. `nodes` holds
the samples whose destination this stack holds, `byDraw` those drawn for a draw request, `place` the placement map of the
micro-batches whose home it is, `jdir` where a destination's entries lie, `side` where a side array's words lie and how many they
are (R96), `jNext` the next free offset of each journal half; `got` whole answers that came from other parts by tag, `rowsIn` those
arriving, `segs` the segment records of the last reduction (R106), `words` and `blocks` the exact counts behind `BRNG_EVT`. -/
structure GraphS where
  nodes : Kmap Nat := []
  byDraw : List Nat := []
  jdir : Kmap (Nat × Nat) := []
  side : Kmap (Nat × Nat) := []
  jNext : Kmap Nat := []
  place : Kmap Nat := []
  wait : List WaitAgg := []
  waitDraw : List (Word32B × Nat × List Nat) := []
  got : Kmap (List Byte) := []
  rowsIn : Kmap (List Byte) := []
  heldReqs : List SbnMsg := []
  segs : List Nat := []
  ivOf : Bool := false
  words : Nat := 0
  blocks : Nat := 0
  deriving DecidableEq, Repr

/-- A segment of contributions that has been issued (R106, R107, R111): the pane of its issue, its record, its contributions. -/
structure SegS where
  pane : Nat
  record : Nat
  items : List Contrib
  deriving DecidableEq, Repr

/-- An entry of the row cache (R123, R124): its set and way, the table (64 for node records), version and row, and whether prefetch
staged it and nothing has hit it yet. -/
structure CacheEnt where
  set : Nat
  way : Nat
  table : Nat
  version : Nat
  row : Nat
  staged : Bool
  deriving DecidableEq, Repr

/-- The scatter-adder, the delta log and the migration engine of one base die (04, 05), and the counters of the running
step that registers report when it commits. `early` holds what came for a round of the next run after this run's
vote, `issued` the segments issued and not yet applied; `deltas` is the place-keyed directory (R129), by
`(table * 4 + class) * 2^34 + slot`: where in the `DELTA` region a place's record stands and its bytes. -/
structure EmbS where
  staged : List Contrib := []
  early : List Contrib := []
  markers : List (Nat × Nat × Nat × Nat) := []
  closed : List (Nat × Nat) := []
  issued : List SegS := []
  deltas : Kmap (Nat × Nat) := []
  migrList : List (Nat × Nat × Nat) := []
  migrs : List MigrS := []
  migrTask : Nat := 0
  migrCount : Nat := 0
  listStep : Nat := 0
  undoNext : Nat := 0
  cache : List CacheEnt := []
  run : List Nat := [0, 0, 0, 0, 0, 0, 0, 0]
  oldLive : Kmap Nat := []
  flipPane : Nat := 0
  optPending : Kmap Nat := []
  thrPending : Kmap Nat := []
  sharePending : Option Nat := none
  cfgPending : Option Nat := none
  deriving DecidableEq, Repr

/-- The memory side of one stack (03): temperatures by die, corrections per DRAM row, replay and recentre times, refresh
counts, the dies whose refresh is doubled, the patrol position. -/
structure StackS where
  temps : Kmap Nat := []
  rowCe : Kmap Nat := []
  ceRaised : List Nat := []
  replays : List Nat := []
  recentres : List Nat := []
  recentreDue : Bool := false
  refreshes : Kmap Nat := []
  x2 : List Nat := []
  patrol : Nat := 0
  deriving DecidableEq, Repr

/-- A chain on which the predictor acts (R245, R246, R248): its bank region, its task, the n-blocks predicted, its
instructions with the replay record in force, and, once drained, its address, rows, columns and form (`mode` 1 with `PAIRSUM`,
2 for the two areas of a region of pairs), its owed blocks as (n-block, m-block) and each `CMP` that holds sub-blocks of it; `nfs` are the blocks with a matched `NF` pair. -/
structure OwedS where
  key : Nat
  taskId : Nat
  pred : Nat
  chain : List (Word32B × Option Nat)
  drained : Bool
  addr : Nat
  rows : Nat
  cols : Nat
  mode : Nat
  owed : List (Nat × Nat)
  held : List Word32B
  nfs : List (Nat × Nat) := []
  deriving DecidableEq, Repr

/-- A gradient conversion between attempts (R221, R222). -/
structure Attempt where
  index : Nat
  word : Word32B
  env : TileEnv
  tries : Nat
  forced : Nat
  deriving DecidableEq, Repr

/-- The scale axis of a tensor written in a scratchpad (R186): where its scale area lies, the axis, and the bytes that were written;
an area that no longer holds them holds another tensor. -/
structure AxisMark where
  addr : Nat
  axis : Nat
  bytes : List Byte
  deriving DecidableEq, Repr

/-- What a tile keeps beside its registers and its memory (06–11): pair bits, predictor counters, predicted chains, the
`GTAG` record, drained rows on their way to the compressor, a conversion between attempts, and the exact counts behind
registers that count in units of 1,024. `plainFlags` and `commitFlags` are the non-finite causes of ordinary and of `COMMIT`
tasks (R199, R220, R285), the layer of the first of the latter in `commitLayer`: bits 0 `IV`, 1 `NF` of the VFU, 2 and 3 `IV`, `NF` of bank 0, 4 and 5 of bank 1. `overflowed` marks
the banks whose first overflow of the step is reported. `place` is the index of the running task's next instruction (R175), `cells`
what each of the array's two weight registers holds, by select bit and column (R158), `axes` the scale axes of the MX tensors that the
tile has written (R186). -/
structure TileS where
  pair : Nat := 0
  counters : Kmap Nat := []
  owed : List OwedS := []
  gtag : Option Nat := none
  rows : Option (List (List (BitVec 32))) := none
  attempt : Option Attempt := none
  gradCount : Nat := 0
  predCount : Nat := 0
  plainFlags : Nat := 0
  commitFlags : Nat := 0
  commitLayer : Option Nat := none
  lanes : Nat := 0
  blocks : Nat := 0
  words : Nat := 0
  kmac : Nat := 0
  pairs : Nat := 0
  skipped : Nat := 0
  overflowed : Nat := 0
  place : Nat := 0
  cells : Kmap (List (List Num)) := []
  axes : List AxisMark := []
  deriving DecidableEq, Repr

/-- A record of the event FIFO (R389, R390). -/
structure EvRec where
  code : Nat
  kind : Nat
  count : Nat
  step : Nat
  pane : Nat
  job : Nat
  detail : Nat
  deriving DecidableEq, Repr

/-- What the part sends in one step: Renvi replies and events (R381, R390), flits (R314), RoCEv2 packets (R361, R366,
R369), pause frames (R368), answers of the port itself (R360), TAP output and I3C acknowledgements. -/
inductive Emit where
  | reply (cls : Cls) (qp opcode seq status : Nat) (dup : Bool) (hint job pane : Nat) (payload : List Byte)
  | event (cls : Cls) (qp seq : Nat) (rec : EvRec)
  | telemetry (cls : Cls) (qp : Nat) (payload : List Byte)
  | flit (port : Nat) (bytes : List Byte)
  | ack (qp psn : Nat)
  | nak (qp psn syndrome : Nat)
  | rnrNak (qp psn timer : Nat)
  | readResponse (qp psn : Nat) (data : List Byte)
  | readRequest (qp psn addr len : Nat)
  | send (qp psn : Nat) (imm : Option Nat) (data : List Byte)
  | cnp (qp : Nat)
  | marks (port prio dscp : Nat)
  | cmReply (port entry kind : Nat)
  | answer (port : Nat) (frame : Frame)
  | pause (port prio : Nat) (xoff : Bool)
  | tap (bits : List Bool)
  | i3cAck (addr : Nat)
  deriving DecidableEq, Repr

/-- A transport connection as its sender keeps it (R328–R332): the next `TSEQ`, what is unacknowledged, the window (0 before
its first change), acknowledgements since the window last moved, consecutive expiries, the cycle of the last halving. -/
structure TxConn where
  next : Nat := 0
  unacked : List SbnMsg := []
  window : Nat := 0
  run : Nat := 0
  expiries : Nat := 0
  lastHalve : Option Nat := none
  deriving DecidableEq, Repr

/-- A transport connection as its receiver keeps it (R328, R329): the next `TSEQ`, deliveries since the last `ACK`, `CE` to
be echoed. -/
structure RxConn where
  expected : Nat := 0
  since : Nat := 0
  ce : Bool := false
  deriving DecidableEq, Repr

/-- One Sirben port (R313–R321): link sequences, the replay buffer (`LSEQ`, the header's low nine bits, payload), messages
being reassembled per channel, credits used per `channel * 4 + hop class` and credits freed but not yet returned, messages
at the output with the flits of each already sent, and the round-robin's turn. `returnAt` marks a port that came up since
the last mullion (R326), `sent` counts data flits towards the next that `DRT_CRC` spoils (R428). -/
structure SbPort where
  txSeq : Nat := 0
  rxSeq : Nat := 0
  replay : List (Nat × Nat × List Byte) := []
  resends : Nat := 0
  sent : Nat := 0
  partials : Kmap (List Byte) := []
  used : Kmap Nat := []
  owed : Kmap Nat := []
  outq : List (SbnMsg × Nat) := []
  turn : Nat := 0
  left : Nat := 0
  returnAt : Bool := false
  deriving DecidableEq, Repr

/-- A collective started at this part (R335–R338, R372), in `CSTART` order: whether it runs or waits for one of the 32
places, the pane its timer was armed in and the panes it was armed for (R55), the elements that arrived along the chain, the elements written here, at a root
with a board stage its group's result and the elements of the boards before it that await each other, and whether the
commit unit started it as the step's vote, with its own word. -/
structure CollS where
  id : Nat
  active : Bool := false
  armed : Option Nat := none
  length : Nat := 0
  seen : Nat := 0
  written : Nat := 0
  formed : List (BitVec 32) := []
  boardIn : List (BitVec 32) := []
  vote : Option (BitVec 32) := none
  deriving DecidableEq, Repr

/-- A `READ` of this part that has no answer yet (R333): the part asked, its tag, where the data goes and its length. -/
structure ReadS where
  part : Nat
  tag : Nat
  back : Nat
  len : Nat
  deriving DecidableEq, Repr

/-- A multicast under way (R339): its token and the copies not yet acknowledged, as (connection, `TSEQ`). -/
structure McastS where
  token : Nat
  waits : List (Nat × Nat)
  deriving DecidableEq, Repr

/-- The Sirben engines (14). `txq` holds messages not yet started, `reroute` messages that are to be routed (again),
`arrived` and `transit` messages reassembled for this part and for others with the port they hold buffers of (10 for none),
`pool` messages held for `TSEQ` order or for a `CSTART` (R328, R337), `draws` the draw requests sent for samples of this
part that have no placement yet, as (part, sample key), `awaits` the requests started whose responses hold receive space, as
(operation, part, tag, bytes) (R322), `fec` per port the corrected codewords past the last 1,024 of `FEC_CORR`. -/
structure SbnS where
  reads : List ReadS := []
  mcasts : List McastS := []
  awaits : List (Nat × Nat × Nat × Nat) := []
  ports : Kmap SbPort := []
  tx : Kmap TxConn := []
  rx : Kmap RxConn := []
  txq : List SbnMsg := []
  reroute : List SbnMsg := []
  arrived : List (Nat × SbnMsg) := []
  transit : List (Nat × SbnMsg) := []
  pool : List (Nat × SbnMsg) := []
  colls : List CollS := []
  draws : List (Nat × Nat) := []
  routePending : Kmap Nat := []
  widthChanged : Bool := false
  nextTag : Nat := 0
  fec : Kmap Nat := []
  deriving DecidableEq, Repr

/-- What a queue pair keeps beside its register (R361–R372): what it sent and nobody acknowledged, as (first PSN, packets,
what was sent), its retry counts, a wait for the RNR timer, its rate in 1/256 of 0.1 Gbit/s, the times (µs) of its last
cut and of the last CNP sent to its peer, its own READs outstanding as (PSN, device address, bytes), and the peer's IP address. -/
structure QpS where
  unacked : List (Nat × Nat × Emit) := []
  retries : Nat := 0
  rnr : Nat := 0
  rnrWait : Bool := false
  rate : Nat := 1024000
  lastCut : Option Nat := none
  lastCnp : Option Nat := none
  reads : List (Nat × Nat × Nat) := []
  ip : Nat := 0
  deriving DecidableEq, Repr

/-- The Ethernet message engine (16): queue pairs, window generations, RoCEv2 frames received and not yet served as (port,
QPN, bytes), ports that have sent XOFF, pauses per port (since, until; µs), ports whose storm has been reported, what a
paused port holds back, the port whose mailbox pair brought the creation of each window (R439), and per port the corrected codewords past the last 1,024 of `FEC_CORR`. -/
structure EthS where
  qps : Kmap QpS := []
  gens : Kmap Nat := []
  rx : List (Nat × Nat × Nat) := []
  xoff : List Nat := []
  paused : Kmap (Nat × Nat) := []
  storm : List Nat := []
  held : List (Nat × Emit) := []
  winPorts : Kmap Nat := []
  fec : Kmap Nat := []
  deriving DecidableEq, Repr

/-- A record of a completed state-changing request (R383). -/
structure DupRec where
  cls : Cls
  qp : Nat
  seq : Nat
  status : Nat
  deriving DecidableEq, Repr

/-- A crash dump held in retained SRAM (R454): header fields, and the captured FIFO, records, messages and scheduler state. -/
structure DumpS where
  cause : Nat
  pane : Nat
  step : Nat
  job : Nat
  dropped : Nat
  boots : Nat
  fifo : List EvRec
  records : List Byte
  msgs : List Arrival
  panes : List Byte
  deriving DecidableEq, Repr

/-- The management complex (17, 20): queued messages in arrival order, records, the event FIFO and its overflow, the
error log, the dump, watchdog times, sinks, telemetry, and the writes to accumulator banks that wait for a running task, as
(address, 64-bit word) (R153). -/
structure MgmtS where
  queue : List Arrival := []
  dups : List DupRec := []
  fifo : List EvRec := []
  lost : Nat := 0
  log : List (Nat × EvRec) := []
  dump : Option DumpS := none
  wdt : List Nat := []
  resetAt : Nat := 0
  seqHost : Nat := 0
  seqPlat : Nat := 0
  period : Kmap Nat := []
  gaps : Kmap Nat := []
  reportDue : Option Nat := none
  replayReq : Option Req := none
  sink : Option Nat := none
  heldWrites : List (Nat × Nat) := []
  deriving DecidableEq, Repr

/-- A token or authorisation being assembled (R418, R421): its transport and the bytes so far. -/
structure Assembly where
  cls : Cls
  qp : Nat
  bytes : List Byte
  deriving DecidableEq, Repr

/-- A firmware update session (R411): its class, size, digest and the bytes staged. -/
structure FwSession where
  cls : Cls
  size : Nat
  digest : BitVec 256
  bytes : List Byte
  deriving DecidableEq, Repr

/-- Security and debug (19): nonces drawn and the outstanding one, assemblies, the update session and the flash slots (which
are empty, the active one, security version and image digest of each), the owner keys' digests, the vendor key's digest in the
fuses, the trace, the mullion that draughts written wait for, the draught registers in force (R427), pending policy and scope, whether a debug-class message was served
within 10 s, and the attestation report held per class. -/
structure SecS where
  nonces : Nat := 0
  nonce : Option (BitVec 256) := none
  token : Option Assembly := none
  auth : Option Assembly := none
  fw : Option FwSession := none
  fwDone : Bool := false
  slotEmpty : Nat := 0
  activeSlot : Nat := 0
  slotSvn : Kmap Nat := []
  slotDigest : Kmap Nat := []
  ownerHash : Kmap Nat := []
  dikCert : Bool := true
  vendorKey : BitVec 256 := 0
  trace : Option (BitVec 128) := none
  traceHeld : Bool := false
  drtPane : Option Nat := none
  drtForce : Kmap RegVal := []
  policyPending : Option Nat := none
  scopePending : Option Nat := none
  debugRecent : Bool := false
  reports : List (Nat × List Byte) := []
  deriving DecidableEq, Repr

/-- The test access port and the pins (19, 21): instruction register, boundary cells, scan chains, `PGOOD`,
`THERMTRIP_N`, `ALERT_N`, the I3C dynamic address, the straps. -/
structure TapS where
  ir : Nat := 0xFF
  boundary : List Bool := []
  pulse : Nat := 0
  ioPowered : Bool := false
  pgood : Bool := false
  thermtrip : Bool := true
  alert : Bool := true
  i3cStatic : Nat := 0x58
  i3cDynamic : Option Nat := none
  strapHold : Bool := false
  slotId : Nat := 0
  deriving DecidableEq, Repr

/-- What a pane-level context holds beside its header and the tiles' memory (R455, R456): the scheduler, the commit unit, the
stash, the base dies' and the tiles' private state, the next write of each stage queue, and the registers of the PANE, GRE and
EMB blocks and of the tiles' units. -/
structure CtxS where
  sched : Sched := {}
  step : StepS := {}
  commit : CommitS := {}
  stash : StashS := {}
  graphs : Kmap GraphS := []
  embs : Kmap EmbS := []
  tiles : Kmap TileS := []
  queueNext : Kmap Nat := []
  regs : Kmap RegVal := []
  deriving DecidableEq, Repr, Inhabited

/-- The mesh (R143, R150): the map of logical tiles to physical indices that every router holds a copy of, and how many packets each
flow has carried, which is the number that its next packet has. A flow is `(plane * 128 + source) * 128 + destination`. -/
structure MeshS where
  map : List Nat := []
  flows : Kmap Nat := []
  deriving DecidableEq, Repr

/-- Reset and recovery (20): the ROM's recovery service (R409), domain resets waiting (R440), a context save (1 from `RUNNING`, 2
from `HALTED`) and a restore with the pane of its acceptance (R455, R457), whether `RETAINED` holds the firmware's copy (R410),
stacks out of service (R433), whether the boot chain has run, `RST_HANG` written and not yet in force, the findings of a cold
start that the strap stopped (R432), whether a scrub has done its work, and the contexts saved by content digest (log 91). -/
structure RstS where
  serviceRom : Bool := false
  domains : List (Nat × Nat) := []
  saving : Nat := 0
  restoring : Option Nat := none
  firmwareCopy : Bool := false
  outStacks : List Nat := []
  bootDone : Bool := false
  hangPending : Option Nat := none
  held : Option BootFindings := none
  scrubbed : Bool := false
  contexts : List (Nat × CtxS) := []
  deriving DecidableEq, Repr

/-- One occurrence of a code in the command being run: the address of its record register, or the detail of a record that
has no register (R34, R64), and how often. -/
structure Raised where
  code : Nat
  kind : Nat
  record : Option Nat
  count : Nat
  detail : Nat := 0
  deriving DecidableEq, Repr

/-- The state of the part. `pending` is the queue of commands waiting, first in, first out. `time` is compute-die cycles
since the part started (R5). `free` is the MODEL's own counter of free values drawn (log 7). `bad` lists the 64-byte
granules that hold an uncorrectable error (R469), `weak` those with one or two symbols in error, which a read corrects
(R72). `raised` is empty between commands. -/
structure State where
  pending : List Instr
  regs : Kmap RegVal
  mem : List Host.Cell
  bad : List Nat
  weak : Kmap Nat
  time : Nat
  free : Nat
  raised : List Raised
  out : List Emit
  sched : Sched
  job : JobS
  jobEnd : JobEnd
  step : StepS
  commit : CommitS
  stash : StashS
  power : PowerS
  graphs : Kmap GraphS
  embs : Kmap EmbS
  brys : Kmap StackS
  tiles : Kmap TileS
  mesh : MeshS
  sbn : SbnS
  eth : EthS
  mgmt : MgmtS
  sec : SecS
  tap : TapS
  rst : RstS
  deriving DecidableEq, Repr

/-- The model never stops with a fault: every fault of the spec (R13) is a state of the part in which the job is
`FAULTED` and the part goes on, so no constructor is needed. -/
inductive Fault where
  deriving DecidableEq, Repr

/-- The reasons for having no meaning. -/
inductive Refusal where
  /-- Raised by an arm of `exec` whose command has no meaning yet. Safe: nothing is claimed of it. -/
  | notModelled (mnemonic : String)
  deriving DecidableEq, Repr

/-- Power has just been applied (R394: Standby, R406) and the cold start has not run: every register at the reset value
its table gives, memory with nothing listed, no command waiting. -/
def State.reset : State :=
  { pending := [], regs := [], mem := [], bad := [], weak := [], time := 0, free := 0, raised := [], out := [],
    sched := {}, job := {}, jobEnd := {}, step := {}, commit := {}, stash := {}, power := {},
    graphs := [], embs := [], brys := [], tiles := [], mesh := {}, sbn := {}, eth := {}, mgmt := {}, sec := {}, tap := {},
    rst := {} }

end Sys2Proof.Machine
end

