-- ==== Sys2Proof/Machine/Ops.lean ====
section
/-! DEFINITION. The shared operations: register fields, memory, events and faults, the job state, and the closing of a
command (`runCmd`), in which the faults of its cycle are judged (R447, R448), its records enter the event FIFO (R389) and
the registers that mirror other state are brought up to date. -/

namespace Sys2Proof.Machine

/-- The mask of bits `lo` to `lo + n - 1`. -/
def fieldMask (lo n : Nat) : RegVal := BitVec.ofNat 512 ((2 ^ n - 1) <<< lo)

/-- Bits `lo` to `lo + n - 1` of a register (R6). -/
def getBits (lo n : Nat) (v : RegVal) : Nat := bitsOf lo n v.toNat

/-- A register with these bits replaced. -/
def setBits (lo n : Nat) (v : RegVal) (x : Nat) : RegVal :=
  (v &&& ~~~ (fieldMask lo n)) ||| (BitVec.ofNat 512 ((x % 2 ^ n) <<< lo))

/-- What element `n` of instance `k` of a register holds. -/
def readReg (s : State) (r : Reg) (k n : Nat) : RegVal :=
  kGetD s.regs (r.at k n) (BitVec.ofNat 512 (r.resetVal n))

/-- The state with that register holding `v`. -/
def writeReg (s : State) (r : Reg) (k n : Nat) (v : RegVal) : State :=
  { s with regs := kPut s.regs (r.at k n) v (BitVec.ofNat 512 (r.resetVal n)) }

/-- A field of instance `k`, element `n`. -/
def fld (s : State) (f : Field) (k : Nat := 0) (n : Nat := 0) : Nat := getBits f.lo f.bits (readReg s f.reg k n)

/-- The state with that field holding `x`. -/
def setFld (s : State) (f : Field) (x : Nat) (k : Nat := 0) (n : Nat := 0) : State :=
  writeReg s f.reg k n (setBits f.lo f.bits (readReg s f.reg k n) x)

/-- A counter field raised by `d`; counters stop at their largest value (R59, R79 and the like). -/
def bump (s : State) (f : Field) (d : Nat := 1) (k : Nat := 0) (n : Nat := 0) : State :=
  setFld s f (satAdd f.bits (fld s f k n) d) k n

/-- Bit `i` of a field set or cleared. -/
def setFldBit (s : State) (f : Field) (i : Nat) (b : Bool) (k : Nat := 0) (n : Nat := 0) : State :=
  let v := fld s f k n
  setFld s f (if b then v ||| 2 ^ i else v &&& (2 ^ f.bits - 1 - 2 ^ i)) k n

/-- A register of every instance and element back at its reset value (R11). -/
def resetReg (s : State) (r : Reg) (k n : Nat) : State := { s with regs := kErase s.regs (r.at k n) }

/-- A register's whole content as a number. -/
def regNat (s : State) (r : Reg) (k : Nat := 0) (n : Nat := 0) : Nat := (readReg s r k n).toNat

/-- A register written whole. -/
def setReg (s : State) (r : Reg) (x : Nat) (k : Nat := 0) (n : Nat := 0) : State :=
  writeReg s r k n (BitVec.ofNat 512 (x % 2 ^ r.width))

/-! Memory: one byte map over the device addresses of DRAM and of the tile windows. An unlisted address reads 0: the cold
start writes all DRAM to zero and a tile reset clears the scratchpad and the banks (R432, R439). -/

/-- The DRAM map (R61). -/
def dramTop : Nat := 2 ^ 39

/-- The base of a logical tile's window (R151). -/
def tileBase (t : Nat) : Nat := 0x10000000000 + t * 0x1000000

/-- The addresses that hold bytes: DRAM, scratchpads and accumulator banks (R61, R151). -/
def memExists (a : Nat) : Bool :=
  decide (a < dramTop) ||
    (decide (0x10000000000 ≤ a) && decide (a < tileBase 96) && decide ((a - 0x10000000000) % 0x1000000 < 0x820000))

/-- One byte of memory. -/
def memRead (m : List Host.Cell) (a : Nat) : Byte := kGetD m a 0

/-- One byte of memory written; writing what an unlisted address reads as removes the entry. -/
def memWrite (m : List Host.Cell) (a : Nat) (b : Byte) : List Host.Cell := kPut m a b 0

/-- `n` bytes from address `a`. -/
def memReads (m : List Host.Cell) (a : Nat) : Nat → List Byte
  | 0 => []
  | n + 1 => memRead m a :: memReads m (a + 1) n

/-- Bytes written from address `a` on. -/
def memWrites (m : List Host.Cell) (a : Nat) : List Byte → List Host.Cell
  | [] => m
  | b :: bs => memWrites (memWrite m a b) (a + 1) bs

/-- The canonical form of memory: addresses strictly rising, no entry equal to what an unlisted address reads as. -/
def Memory.wf (m : List Host.Cell) : Bool := kCanon (fun _ => (0 : Byte)) m

/-- Bytes of the state's memory. -/
def load (s : State) (a n : Nat) : List Byte := memReads s.mem a n

/-- A little-endian number of `n` bytes (R7). -/
def loadNat (s : State) (a n : Nat) : Nat := leNat (load s a n)

/-- A write of `n` bytes at `a` covers granule `g` whole. -/
def coversGranule (a n g : Nat) : Bool := decide (a ≤ 64 * g) && decide (64 * g + 64 ≤ a + n)

/-- Bytes stored. A store that covers a whole 64-byte granule replaces its check bits and clears an error there (R469). -/
def store (s : State) (a : Nat) (bs : List Byte) : State :=
  { s with mem := memWrites s.mem a bs, bad := s.bad.filter (fun g => !coversGranule a bs.length g),
           weak := s.weak.filter (fun e => !coversGranule a bs.length e.1) }

/-- A little-endian number stored in `n` bytes. -/
def storeNat (s : State) (a n v : Nat) : State := store s a (leBytes n v)

/-- Memory in a range of addresses removed, so that it reads 0. -/
def clearRange (s : State) (lo hi : Nat) : State :=
  { s with mem := s.mem.filter (fun e => decide (e.1 < lo) || decide (hi ≤ e.1)),
           bad := s.bad.filter (fun g => decide (64 * g < lo) || decide (hi ≤ 64 * g)),
           weak := s.weak.filter (fun e => decide (64 * e.1 < lo) || decide (hi ≤ 64 * e.1)) }

/-- The FP32 word at an address. -/
def loadW (s : State) (a : Nat) : BitVec 32 := BitVec.ofNat 32 (loadNat s a 4)

/-- Bytes of a list of 32-bit words. -/
def wordBytes (ws : List (BitVec 32)) : List Byte := ws.flatMap (fun w => leBytes 4 w.toNat)

/-- `n` 32-bit words from an address. -/
def loadWords (s : State) (a n : Nat) : List (BitVec 32) := (List.range n).map (fun i => loadW s (a + 4 * i))

/-- The pane counter (R29). -/
def pane (s : State) : Nat := fld s PANE_COUNT_COUNT

/-- The job state (R387): 0 `NONE`, 1 `LOADED`, 2 `RUNNING`, 3 `HALTED`, 4 `FAULTED`, 5 `SCRUBBING`. -/
def jobState (s : State) : Nat := fld s RST_STATUS_JOB_STATE

/-- A job is loaded (R470). -/
def jobLoaded (s : State) : Bool := decide (1 ≤ jobState s) && decide (jobState s ≤ 4)

/-- A job is loaded and not yet faulted. -/
def jobLive (s : State) : Bool := decide (1 ≤ jobState s) && decide (jobState s ≤ 3)

/-- The job runs: `RUNNING` from the mullion that carries its start out (R388), or `HALTED` while a replay is under way, which leaves that state once its commit ends (R295,
R387). -/
def running (s : State) : Bool :=
  (jobState s == 2 && s.job.startPending.isNone) || (jobState s == 3 && s.step.replay.isSome)

/-- The job has been started and its start carried out (R388). -/
def started (s : State) : Bool := jobState s != 1 && s.job.startPending.isNone

/-- The step number that records carry. -/
def stepNo (s : State) : Nat := fld s PANE_COMMIT_STATUS_STEP

/-- An occurrence of a code (R13): `kind` 0 event, 1 fault, 2 state change; `record` the register whose bits an `EVENT`
carries (R390). -/
def raise_ (s : State) (code kind : Nat) (record : Option Nat := none) (count : Nat := 1) : State :=
  { s with raised := s.raised ++ [{ code := code, kind := kind, record := record, count := count }] }

/-- An event whose record has no register: what it reports is the record's detail (log 16). -/
def eventWith (s : State) (code detail : Nat) : State :=
  { s with raised := s.raised ++ [{ code := code, kind := 0, record := none, count := 1, detail := detail }] }

/-- An event of the spec's list (R392). -/
def event (s : State) (code : Nat) (count : Nat := 1) : State :=
  if count = 0 then s else raise_ s code 0 none count

/-- A fault of the loaded job (R13); with no job live the fault has nothing to stop. -/
def fault (s : State) (code : Nat) (record : Option Nat := none) : State :=
  if jobState s = 0 ∨ jobState s = 5 then s else raise_ s code 1 record

/-- A fault whose record has no register: its fields are the record's detail (log 16). -/
def faultWith (s : State) (code detail : Nat) : State :=
  if jobState s = 0 ∨ jobState s = 5 then s
  else { s with raised := s.raised ++ [{ code := code, kind := 1, record := none, count := 1, detail := detail }] }

/-- Whether this command has faulted the job already: what follows in it does not take place (R448). -/
def faulted (s : State) : Bool := s.raised.any (fun r => r.kind == 1) || jobState s == 4

/-- A change of the job state, reported as a state change (R389). Its `EVENT` code is 0 (DESIGN CHOICE, log 11). -/
def setJob (s : State) (st : Nat) : State :=
  if jobState s = st then s else raise_ (setFld s RST_STATUS_JOB_STATE st) 0 2

/-- The power state (R394). -/
def power (s : State) : Nat := fld s PWR_STATE_STATE

/-- A site's state (R31). -/
def site (s : State) (i : Nat) : SiteS := kGetD s.sched.sites i {}

/-- A site's state replaced. -/
def setSite (s : State) (i : Nat) (x : SiteS) : State :=
  { s with sched := { s.sched with sites := kPut s.sched.sites i x {} } }

/-- A tile's private state. -/
def tileS (s : State) (t : Nat) : TileS := kGetD s.tiles t {}

/-- A tile's private state replaced. -/
def setTile (s : State) (t : Nat) (x : TileS) : State := { s with tiles := kPut s.tiles t x {} }

/-- A base die's graph engine. -/
def graph (s : State) (k : Nat) : GraphS := kGetD s.graphs k {}

/-- A base die's graph engine replaced. -/
def setGraph (s : State) (k : Nat) (x : GraphS) : State := { s with graphs := kPut s.graphs k x {} }

/-- A base die's embedding side. -/
def emb (s : State) (k : Nat) : EmbS := kGetD s.embs k {}

/-- A base die's embedding side replaced. -/
def setEmb (s : State) (k : Nat) (x : EmbS) : State := { s with embs := kPut s.embs k x {} }

/-- A stack's memory side. -/
def stackS (s : State) (k : Nat) : StackS := kGetD s.brys k {}

/-- A stack's memory side replaced. -/
def setStack (s : State) (k : Nat) (x : StackS) : State := { s with brys := kPut s.brys k x {} }

/-- Fields of a task descriptor (R32). -/
def dTaskId (d : Word32B) : Nat := bitsOf 0 32 d.toNat
def dClass (d : Word32B) : Nat := bitsOf 32 4 d.toNat
def dSite (d : Word32B) : Nat := bitsOf 40 7 d.toNat
def dMb (d : Word32B) : Nat := bitsOf 48 16 d.toNat
def dCycles (d : Word32B) : Nat := bitsOf 64 14 d.toNat
def dEunit (d : Word32B) : Nat := bitsOf 78 2 d.toNat
def dEnergy (d : Word32B) : Nat := bitsOf 80 16 d.toNat
def dLayer (d : Word32B) : Nat := bitsOf 96 8 d.toNat
def dToken (d : Word32B) (i : Nat) : Nat := bitsOf (128 + 16 * i) 16 d.toNat
def dRaises (d : Word32B) : Nat := bitsOf 192 16 d.toNat
def dHorizon (d : Word32B) : Nat := bitsOf 208 16 d.toNat

/-- The tokens a descriptor awaits (R32). -/
def dAwaits (d : Word32B) : List Nat := ((List.range 4).map (dToken d)).filter (fun t => t != 0xFFFF)

/-- The energy tag in nJ (R32, R45). -/
def dNano (d : Word32B) : Nat := dEnergy d * (if dEunit d = 0 then 1 else if dEunit d = 1 then 4 else 16)

/-- A task's cycle estimate: a recompute piece has its own (R251). -/
def wtCycles (t : WinTask) : Nat := if t.estimate = 0 then dCycles t.desc else t.estimate

/-- Pane length L in cycles (R27). -/
def paneLen (s : State) : Nat := 2048 * 2 ^ fld s PANE_CFG_LEN

/-- A token raised (R39, R40): one past 65,535 faults the job with `TOKEN_OVERFLOW`. An undeclared number raises nothing. -/
def raiseToken (s : State) (t : Nat) : State :=
  match kGet? s.sched.tokens t with
  | none => s
  | some x =>
    if x.count = 65535 then fault s 0x1081
    else { s with sched := { s.sched with tokens := kSet s.sched.tokens t { x with count := x.count + 1 } } }

/-- A field of a draught register as it is in force: what the mullion after its last write took (R427), 0 where none did. -/
def drt (s : State) (f : Field) : Nat := getBits f.lo f.bits (kGetD s.sec.drtForce f.reg.base 0)

/-- Every DRT register at its reset value (R427), with nothing armed. -/
def clearDraughts (s : State) : State :=
  let s := [DRT_STATUS, DRT_MESH, DRT_LINK, DRT_MEMDLY, DRT_STRETCH, DRT_CREDIT, DRT_CRC, DRT_MBXDLY, DRT_PRED,
    DRT_OVF, DRT_EVT].foldl (fun s r => resetReg s r 0 0) s
  { s with sec := { s.sec with drtPane := none, drtForce := [] } }

/-- The event codes of one step are forgotten, so that each is a first occurrence again (R389). -/
def forgetFirsts (s : State) : State := { s with commit := { s.commit with firsts := [] } }

/-- The part enters Recovery (R394, R448, R426): the trace stops and keeps its buffer, draughts are cleared. -/
def enterRecovery (s : State) : State :=
  if 2 ≤ power s ∧ power s ≤ 4 then
    let s := setFld s PWR_STATE_STATE 5
    let s := { s with sec := { s.sec with trace := none } }
    clearDraughts s
  else s

/-- A site whose admission vector is cancelled (R448). -/
def cancelSite (x : SiteS) : SiteS :=
  { x with window := x.window.map (fun (t : WinTask) => { t with adm := 0, queued := false, credits := [] }),
           pieces := [] }

/-- What a fault does in its cycle (R448): `FAULTED`, admission vectors not yet started cancelled, Recovery, and the
report to the fabric manager owed (R449). -/
def faultStop (s : State) (code : Nat) (detail : Nat) : State :=
  let s := setJob s 4
  let s := { s with
    sched := { s.sched with
      memReqs := [],
      sites := s.sched.sites.map (fun (e : Nat × SiteS) => (e.1, cancelSite e.2)) },
    jobEnd := { s.jobEnd with lastCode := code, lastDetail := detail, stopMode := none },
    mgmt := { s.mgmt with reportDue := some code } }
  let s := { s with job := { s.job with startPending := none } }
  let s := { s with rst := { s.rst with saving := 0, restoring := none } }
  enterRecovery s

/-- Bits [255:0] of the record register of an occurrence (R390), or the detail of a record that has none. -/
def recordBits (s : State) (r : Raised) : Nat :=
  match r.record with
  | none => r.detail % 2 ^ 256
  | some a => (kGetD s.regs a 0).toNat % 2 ^ 256

/-- The record that an occurrence makes (R389, R390). -/
def evRec (s : State) (r : Raised) : EvRec :=
  { code := r.code, kind := r.kind, count := r.count, step := stepNo s, pane := pane s,
    job := if jobLoaded s then s.job.id else 0, detail := recordBits s r }

/-- A record enters the FIFO of 256 (R389); with the FIFO full it is lost, and the next to enter is `EVENT_OVERFLOW`. -/
def fifoPush (s : State) (r : EvRec) : State :=
  if 256 ≤ s.mgmt.fifo.length then
    bump { s with mgmt := { s.mgmt with lost := s.mgmt.lost + r.count } } MBX_EVT_EVT_LOST r.count
  else if s.mgmt.lost = 0 then { s with mgmt := { s.mgmt with fifo := s.mgmt.fifo ++ [r] } }
  else
    let o : EvRec := { r with code := 0x7004, kind := 0, count := s.mgmt.lost, detail := 0 }
    { s with mgmt := { s.mgmt with fifo := (s.mgmt.fifo ++ [o, r]).take 256, lost := 0 } }

/-- The count of the latest record of this code in the FIFO raised; the last such record of the step. -/
def fifoCount (fifo : List EvRec) (code step d : Nat) : List EvRec :=
  fifo.map (fun e => if e.code = code ∧ e.kind = 0 ∧ e.step = step then { e with count := e.count + d } else e)

/-- One occurrence goes to the FIFO: faults and state changes always, an event once a step, later occurrences by raising
the record's count (R389). With no step in progress every occurrence is recorded (DEDUCED, log 12). -/
def fifoRaise (s : State) (r : Raised) : State :=
  if r.kind = 0 ∧ (jobState s = 2 ∨ jobState s = 3) then
    if s.commit.firsts.contains (r.code, stepNo s) then
      { s with mgmt := { s.mgmt with fifo := fifoCount s.mgmt.fifo r.code (stepNo s) r.count } }
    else
      fifoPush { s with commit := { s.commit with firsts := (r.code, stepNo s) :: s.commit.firsts } } (evRec s r)
  else fifoPush s (evRec s r)

/-- The lowest fault code of a cycle (R447). -/
def lowestFault (rs : List Raised) : Option Raised :=
  (rs.filter (fun r => r.kind == 1)).foldl
    (fun acc r => match acc with
      | none => some r
      | some a => if r.code < a.code then some r else some a) none

/-- Messages waiting in the queue of a class (R378). -/
def queueLen (s : State) (c : Cls) : Nat := (s.mgmt.queue.filter (fun a => a.cls == c)).length

/-- The places of the window that a site's share fills: its descriptors, and the continuations that stand directly behind their
parent's place (R36, R38). -/
def windowPlaces (x : SiteS) : Nat := x.window.length + (x.pieces.filter (fun t => !t.recompute)).length

/-- Descriptors held in the task window (R36, R59). -/
def occupancy (s : State) : Nat := sumOf (s.sched.sites.map (fun e => windowPlaces e.2))

/-- A reply or an event for platform class among what is sent (R460). -/
def platWaits (l : List Emit) : Bool :=
  l.any (fun e => match e with
    | .reply .platform _ _ _ _ _ _ _ _ _ => true
    | .event .platform _ _ _ => true
    | _ => false)

/-- The registers that report state held elsewhere: `PANE_STATUS.JOB` (R470), `PANE_WINDOW` (R59), the queue lengths of
`MBX_STATUS` (R393), `RST_LOG.DUMP_HELD` (R459). -/
def mirrorRegs (s : State) : State :=
  setFld (setFld (setFld (setFld (setFld (setFld s PANE_STATUS_JOB (b2n (jobLoaded s)))
    PANE_WINDOW_OCCUPANCY (occupancy s)) MBX_STATUS_HOST_Q (queueLen s .host)) MBX_STATUS_PLAT_Q (queueLen s .platform))
    MBX_STATUS_DBG_Q (queueLen s .debug)) RST_LOG_DUMP_HELD (b2n s.mgmt.dump.isSome)

/-- `ALERT_N`, low in I²C mode while a platform-class reply or event waits (R460). -/
def setAlert (s : State) : State :=
  { s with tap := { s.tap with alert := !(s.tap.i3cDynamic.isNone && platWaits s.out) } }

/-- What the state reports of itself, brought up to date. -/
def mirror (s : State) : State := setAlert (mirrorRegs s)

/-- The faults of a cycle judged: with the job live, the lowest stops it (R447, R448). -/
def judge (t : State) : State :=
  match lowestFault t.raised with
  | none => t
  | some r => if jobLive t then faultStop t r.code (recordBits t r) else t

/-- What a command raised is recorded in the event FIFO (R389). -/
def recordAll (t : State) : State := t.raised.foldl fifoRaise t

/-- Nothing raised is left, and the queue is as the command found it. -/
def closeOut (before t : State) : State :=
  { t with pending := before.pending, raised := [],
           mgmt := { t.mgmt with fifo := t.mgmt.fifo.take 256 } }

/-- The end of a command, one cycle of the part: the lowest fault of the cycle stops the job (R447, R448), the records
enter the FIFO, the mirrored registers follow. The queue of waiting commands is untouched. -/
def finish (before t : State) : State := closeOut before (mirror (recordAll (judge t)))

/-- A command with the effect `f`. -/
def runCmd (f : State → State) (s : State) : Host.Outcome State Fault Refusal :=
  .next (finish s (f { s with out := [], raised := [] }))

/-- Something sent. -/
def emit (s : State) (e : Emit) : State := { s with out := s.out ++ [e] }

/-- The first-since-cleared record pattern of the fault registers: `set` fills it only while `VALID` is 0. -/
def firstRecord (s : State) (valid : Field) (k n : Nat) (set : State → State) : State :=
  if fld s valid k n = 1 then s else setFld (set s) valid 1 k n

/-- A fold that stops once the job has faulted. -/
def foldLive {α : Type} (f : State → α → State) : State → List α → State
  | s, [] => s
  | s, a :: l => if faulted s then s else foldLive f (f s a) l

/-- A region of `BRY_REGIONn` by kind and, for the kinds of a stack's local part, by stack (R64, R471): base and size. -/
def region (s : State) (kind stack : Nat) : Option (Nat × Nat) :=
  ((List.range 32).find? (fun n => fld s BRY_REGION_KIND 0 n == kind &&
    (decide (kind ≤ 2) || fld s BRY_REGION_STACK 0 n == stack))).map
    (fun n => (fld s BRY_REGION_BASE 0 n, fld s BRY_REGION_SIZE 0 n))

/-- The base of the index region (R16). -/
def indexBase (s : State) : Option Nat := (region s 1 0).map (fun r => r.1)

/-- The step after `n`; step numbers are 64 bits (R15). -/
def nextStep (n : Nat) : Nat := (n + 1) % 2 ^ 64

/-- The descriptor or instruction word at an address. -/
def wordAt (s : State) (a : Nat) : Word32B := BitVec.ofNat 256 (loadNat s a 32)

end Sys2Proof.Machine
end

