-- ==== Sys2Proof/Machine/Mesh.lean ====
section
/-! DEFINITION. The mesh (R143, R150): routers, routes, the two planes, and packets in the order of their flow. A packet that is sent
arrives at once: the cycles that it takes are left out (log 131). -/

namespace Sys2Proof.Machine

/-- What a mesh packet carries (R150). -/
inductive Carries where
  | request | token | admission | register | data
  deriving DecidableEq, Repr

/-- The plane of a packet (R150): data on plane 1 unless the task names plane 0 for the transfer, all else on plane 0. -/
def planeOf (c : Carries) (plane0 : Bool) : Nat :=
  match c with
  | .data => if plane0 then 0 else 1
  | _ => 0

/-- The router of an endpoint: that of the physical tile which a logical tile's number maps to, or the edge router at which a stack's
port is attached, whose column the spec does not give (R143, R150; log 131). -/
def routerOf (s : State) (site : Nat) : Nat :=
  if site < 96 then s.mesh.map.getD site 0
  else Config.portColumn (site - 96) % 10 + (if site < 100 then 0 else 90)

/-- From one coordinate towards another, both included. -/
def towards (a b : Nat) : List Nat :=
  if a ≤ b then (List.range (b - a + 1)).map (a + ·) else (List.range (a - b + 1)).map (a - ·)

/-- The routers that a packet crosses, by physical index 10 y + x: first along x, then along y (R150). -/
def meshRoute (a b : Nat) : List Nat :=
  (towards (a % 10) (b % 10)).map (fun x => 10 * (a / 10) + x) ++
  ((towards (a / 10) (b / 10)).drop 1).map (fun y => 10 * y + b % 10)

/-- A flow: the packets of one plane from one endpoint to another, which arrive in order (R150). -/
def flowKey (plane src dst : Nat) : Nat := (plane * 128 + src) * 128 + dst

/-- A packet sent; it has the next number of its flow. -/
def meshSend (s : State) (c : Carries) (plane0 : Bool) (src dst : Nat) : State :=
  let f := flowKey (planeOf c plane0) src dst
  { s with mesh := { s.mesh with flows := kSet s.mesh.flows f (kGetD s.mesh.flows f 0 + 1) } }

end Sys2Proof.Machine
end

