-- ==== Sys2Proof/Machine/Crc.lean ====
section
/-! DEFINITION. The check codes the spec names: CRC-24 of a flit (R315), CRC-32C of a message (R327), and SHA-256, which
image digests, fingerprints, collective digests, measurements and contexts use (R387, R155, R335, R408, R456). -/

namespace Sys2Proof.Machine

/-- One bit into the CRC-24 of R315 (polynomial 0x5D_6DCB, most significant bit first, each byte's bit 0 first). -/
def crc24Bit (c : BitVec 24) (b : Bool) : BitVec 24 :=
  let top := c.getLsbD 23
  let c' := c <<< 1
  if top == b then c' else c' ^^^ 0x5D6DCB#24

/-- One byte into the CRC-24, bit 0 first. -/
def crc24Byte (c : BitVec 24) (b : Byte) : BitVec 24 :=
  (List.range 8).foldl (fun c i => crc24Bit c (b.getLsbD i)) c

/-- The CRC-24 of a byte string, preset to all ones, no final inversion (R315). -/
def crc24 (bs : List Byte) : BitVec 24 := bs.foldl crc24Byte 0xFFFFFF#24

/-- One byte into CRC-32C (reflected polynomial 0x82F6_3B78). PRESUMED (log 15): R327 names the code only. -/
def crc32cByte (c : BitVec 32) (b : Byte) : BitVec 32 :=
  iter (fun c => if c.getLsbD 0 then (c >>> 1) ^^^ 0x82F63B78#32 else c >>> 1) 8 (c ^^^ b.setWidth 32)

/-- CRC-32C of a byte string. -/
def crc32c (bs : List Byte) : BitVec 32 := ~~~ (bs.foldl crc32cByte 0xFFFFFFFF#32)

/-- The whole part of the `e`-th root of `x`, for roots below 2^37: its bits decided from the top. -/
def wholeRoot (e x : Nat) : Nat :=
  (List.range 37).foldr (fun bit r => if (r + 2 ^ bit) ^ e ≤ x then r + 2 ^ bit else r) 0

/-- The prime numbers below a bound. -/
def primesBelow (n : Nat) : List Nat :=
  (List.range n).filter (fun p => decide (2 ≤ p) && (List.range p).all (fun d => decide (d < 2) || p % d != 0))

/-- The first 32 bits of the fraction of a prime's square root (`e` 2) or cube root (`e` 3), as SHA-256 defines its
constants. -/
def rootFraction (e p : Nat) : BitVec 32 := BitVec.ofNat 32 (wholeRoot e (p * 2 ^ (32 * e)))

/-- The constants of the 64 rounds: the cube roots of the first 64 primes. -/
def roundConstants : List (BitVec 32) := (primesBelow 312).map (rootFraction 3)

/-- The chaining value that a digest starts from: the square roots of the first 8 primes. -/
def firstChain : List (BitVec 32) := (primesBelow 20).map (rootFraction 2)

/-- A word rotated right by three amounts and folded; `shiftLast` shifts by the third amount. -/
def mix3 (shiftLast : Bool) (i j k : Nat) (x : BitVec 32) : BitVec 32 :=
  x.rotateRight i ^^^ (x.rotateRight j ^^^ (if shiftLast then x >>> k else x.rotateRight k))

/-- The schedule of a block grown to `n` more words; `older` holds the words so far, the latest first. -/
def growSchedule (older : List (BitVec 32)) : Nat → List (BitVec 32)
  | 0 => older.reverse
  | n + 1 =>
    let far := mix3 true 7 18 3 (older.getD 14 0)
    let near := mix3 true 17 19 10 (older.getD 1 0)
    growSchedule ((near + older.getD 6 0 + far + older.getD 15 0) :: older) n

/-- The state of the compression as the two sequences it runs through: the last four values of each, the latest first. -/
structure ShaLanes where
  up : List (BitVec 32)
  down : List (BitVec 32)
  deriving DecidableEq, Repr

/-- One round: each sequence gains a value from the round's constant plus its schedule word, and forgets its oldest. -/
def ShaLanes.advance (v : ShaLanes) (kw : BitVec 32) : ShaLanes :=
  let u := fun i => v.up.getD i 0
  let d := fun i => v.down.getD i 0
  let choose := d 2 ^^^ (d 0 &&& (d 1 ^^^ d 2))
  let majority := (u 0 &&& u 1) ||| (u 2 &&& (u 0 ||| u 1))
  let common := kw + d 3 + choose + mix3 false 6 11 25 (d 0)
  { up := (common + majority + mix3 false 2 13 22 (u 0)) :: v.up.take 3, down := (common + u 3) :: v.down.take 3 }

/-- The big-endian 32-bit words of a byte string. -/
def beWords (n : Nat) (bs : List Byte) : List (BitVec 32) :=
  (List.range n).map (fun i => BitVec.ofNat 32 (leNat ((slice bs (4 * i) 4).reverse)))

/-- One block of 64 bytes taken into the chaining value. -/
def shaBlock (chain : List (BitVec 32)) (bs : List Byte) : List (BitVec 32) :=
  let words := growSchedule (beWords 16 bs).reverse 48
  let kws := List.zipWith (· + ·) roundConstants words
  let v := kws.foldl ShaLanes.advance { up := chain.take 4, down := chain.drop 4 }
  List.zipWith (· + ·) chain (v.up ++ v.down)

/-- The padding of SHA-256. -/
def shaPad (bs : List Byte) : List Byte :=
  let l := bs.length
  bs ++ [0x80#8] ++ List.replicate ((119 - l % 64) % 64) 0#8 ++ (leBytes 8 (8 * l)).reverse

/-- The SHA-256 digest as 32 bytes. -/
def sha256 (bs : List Byte) : List Byte :=
  let p := shaPad bs
  let h := (List.range (p.length / 64)).foldl (fun h i => shaBlock h (slice p (64 * i) 64)) firstChain
  h.flatMap (fun w => (leBytes 4 w.toNat).reverse)

/-- The digest as a little-endian number, which is how registers and headers hold its bytes (R7). -/
def shaNat (bs : List Byte) : Nat := leNat (sha256 bs)

end Sys2Proof.Machine
end

