-- ==== Sys2Proof/Machine/Fabric.lean ====
section
/-! DEFINITION. What the other units use of the Sirben transport (14): a message's header and check, a message given to its
connection, shutters and the Sirben fault record. -/

namespace Sys2Proof.Machine

/-- This part's id (R323). -/
def partId (s : State) : Nat := fld s SBN_ID_PART

/-- Flits of a message (R327): 248 payload bytes each, the 32-byte transport header first. -/
def flitCount (m : SbnMsg) : Nat := (32 + m.data.length + 247) / 248

/-- The virtual channel a message travels on (R314). -/
def chanOf (m : SbnMsg) : Nat := m.chan.getD m.vc

/-- Bytes 0–27 of the transport header (R327). -/
def sbnHeader (m : SbnMsg) : List Byte :=
  leBytes 1 (m.src.val + 16 * m.dst.val) ++ leBytes 1 m.op ++
  leBytes 1 (m.vc % 8 + 8 * b2n m.ce + 16 * b2n m.mcast + 32 * b2n m.retx) ++ leBytes 1 (flitCount m) ++
  leBytes 4 m.tseq ++ leBytes 4 m.job ++ leBytes 2 m.data.length ++ leBytes 2 m.token ++ leBytes 6 m.addr ++
  leBytes 2 m.tag ++ leBytes 4 m.arg

/-- The end-to-end check of a message (R327). -/
def sbnCheck (m : SbnMsg) : Nat := (crc32c (sbnHeader m ++ m.data)).toNat

/-- The key of a connection (R328). -/
def connKey (part vc : Nat) : Nat := part * 8 + vc

/-- The sender's side of a connection. -/
def txConn (s : State) (dst vc : Nat) : TxConn := kGetD s.sbn.tx (connKey dst vc) {}

/-- The sender's side of a connection replaced. -/
def setTx (s : State) (dst vc : Nat) (c : TxConn) : State :=
  { s with sbn := { s.sbn with tx := kPut s.sbn.tx (connKey dst vc) c {} } }

/-- The receiver's side of a connection. -/
def rxConn (s : State) (src vc : Nat) : RxConn := kGetD s.sbn.rx (connKey src vc) {}

/-- The receiver's side of a connection replaced. -/
def setRx (s : State) (src vc : Nat) (c : RxConn) : State :=
  { s with sbn := { s.sbn with rx := kPut s.sbn.rx (connKey src vc) c {} } }

/-- A part is shuttered (R340). -/
def shuttered (s : State) (p : Nat) : Bool := bitOf p (fld s SBN_SHUTTER_MASK)

/-- A drop of a message to or from a shuttered part (R339, R341). -/
def shutterDrop (s : State) : State := event (bump s SBN_EVT_SHUTTER_DROP) 0x600C

/-- The part id as the header's field. -/
def finPart (n : Nat) : Fin 16 := ⟨n % 16, Nat.mod_lt _ (by decide)⟩

/-- `SBN_FAULT` and the fault (R344, R345). -/
def sbnFault (s : State) (code vc part coll tseq : Nat) : State :=
  let s := firstRecord s SBN_FAULT_VALID 0 0 (fun s =>
    setFld (setFld (setFld (setFld (setFld (setFld (setFld s SBN_FAULT_VC vc) SBN_FAULT_PART part) SBN_FAULT_COLL coll)
      SBN_FAULT_CODE code) SBN_FAULT_TSEQ tseq) SBN_FAULT_STEP (stepNo s)) SBN_FAULT_PANE (pane s))
  fault s code (some SBN_FAULT.base)

/-- A message given to its connection (R328, R341): it takes the next `TSEQ` and waits for a port; one to a shuttered part
is dropped before injection, and the operation that would wait on its response ends (R341); a faulted job sends no job message
(R448). -/
def sbnSend (s : State) (m : SbnMsg) : State :=
  if shuttered s m.dst.val then
    let s := shutterDrop s
    if (m.op = 0x02 ∨ m.op = 0x04 ∨ m.op = 0x06) ∧ jobLive s = true then sbnFault s 0x6081 0 m.dst.val 0xFF 0 else s
  else if m.vc ≤ 3 ∧ faulted s then s
  else
    let c := txConn s m.dst.val m.vc
    let m := { m with src := finPart (partId s), tseq := c.next }
    let s := setTx s m.dst.val m.vc { c with next := (c.next + 1) % 2 ^ 32 }
    { s with sbn := { s.sbn with txq := s.sbn.txq ++ [m] } }

/-- The response to a request of this part has come whole: its receive space is free (R322). -/
def endAwait (s : State) (op part tag : Nat) : State :=
  { s with sbn := { s.sbn with awaits := s.sbn.awaits.filter (fun e => !(e.1 == op && e.2.1 == part && e.2.2.1 == tag)) } }

/-- A message of the loaded job. -/
def jobMsg (s : State) (dst op vc : Nat) (addr arg : Nat) (data : List Byte) (token : Nat := 0xFFFF) (tag : Nat := 0) :
    SbnMsg :=
  { src := finPart (partId s), dst := finPart dst, op := op, vc := vc, job := s.job.id, token := token, addr := addr,
    tag := tag, arg := arg, data := data }

/-- The Sirben ports of a bit set that carry flits (R324). -/
def portsUp (s : State) (set : Nat) : Nat :=
  bitsToNat ((List.range 10).map (fun p => bitOf p set && decide (fld s SBN_PORT_UP 0 p = 1) &&
    !(kGetD s.sbn.ports p {}).returnAt))

/-- `USABLE` of one route (R324). -/
def usableOf (s : State) (n : Nat) : Nat :=
  let p := portsUp s (fld s SBN_ROUTE_PRI 0 n)
  if p ≠ 0 then p else portsUp s (fld s SBN_ROUTE_ALT 0 n)

/-- Every route's `USABLE` brought up to date (R324, R326). -/
def refreshRoutes (s : State) : State :=
  (List.range 16).foldl (fun s n =>
    if fld s SBN_ROUTE_USABLE 0 n = usableOf s n then s else setFld s SBN_ROUTE_USABLE (usableOf s n) 0 n) s

/-- The geometry record (R155). -/
def geometryRecord (s : State) : List Byte :=
  leBytes 2 96 ++ leBytes 2 0 ++ (List.range 96).map (fun t => BitVec.ofNat 8 (fld s TILE_DESC_SPARE_ROWS t)) ++
  (List.range 10).map (fun p => BitVec.ofNat 8
    (match fld s SBN_PORT_LANES 0 p with | 1 => 2 | 2 => 4 | 3 => 8 | _ => 0)) ++ leBytes 18 0

/-- The geometry fingerprint (R155). -/
def fingerprint (s : State) : Nat := leNat ((sha256 (geometryRecord s)).take 8)

/-- The fingerprint written to every tile (R155, R157). -/
def writeFingerprint (s : State) : State :=
  let f := fingerprint s
  (List.range 96).foldl (fun s t => setFld s TILE_GEOM_FINGERPRINT f t) s

end Sys2Proof.Machine
end

