-- ==== Sys2Proof/Machine/Power.lean ====
section
/-! DEFINITION. The power manager's arithmetic (18): energy of a pane, the enforced cap, allowances, heat headroom, and the
power family's commands. -/

namespace Sys2Proof.Machine

/-- Energy in nJ of `w` watts over `cycles` of the tile clock: 1.8 GHz, 0.9 GHz in wicket service (R27, R399). -/
def energyNj (s : State) (w cycles : Nat) : Nat := if power s = 2 then w * cycles * 10 / 9 else w * cycles * 10 / 18

/-- The enforced cap P_cap (R396): the lowest of the two class caps and the input limit, at least 400 W in Active, Capped
and Recovery, at most 300 W in Wicket. -/
def enforcedCap (s : State) : Nat :=
  let c := min (min (fld s PWR_CAP_HOST_CAP) (fld s PWR_CAP_PLAT_CAP)) s.power.filtered
  if power s = 2 then min c 300 else if 3 ≤ power s then max c 400 else c

/-- Capped while P_cap is below 2,000 W in what would otherwise be Active (R396). -/
def activeOrCapped (s : State) : State :=
  if power s = 3 ∨ power s = 4 then setFld s PWR_STATE_STATE (if fld s PWR_CAP_ENFORCED < 2000 then 4 else 3) else s

/-- E_bg (R397): the largest residual of the last 8 panes, 400 W × τ before the first. -/
def eBackground (s : State) : Nat :=
  match s.power.residuals with
  | [] => energyNj s 400 (paneLen s)
  | r :: rs => (rs.foldl max r).toNat

/-- The allowance A of `PWR_POLICY` (R399). -/
def allowance (s : State) : Nat :=
  let e := energyNj s (fld s PWR_CAP_ENFORCED) (paneLen s)
  let m := fld s PWR_POLICY_MODE
  if m = 1 then e * fld s PWR_POLICY_EF_SHARE / 1000
  else if m = 2 then min (fld s PWR_POLICY_FIXED) e
  else e

/-- E_cap of a snapshot (R399). -/
def eCap (s : State) : Nat :=
  max (energyNj s (fld s PWR_CAP_ENFORCED) (paneLen s) - fld s PWR_ENERGY_DEBT) (eBackground s)

/-- E_pane of a snapshot (R399). -/
def ePane (s : State) : Nat := max (allowance s - fld s PWR_ENERGY_DEBT) (eBackground s)

/-- The heat headroom H of a site in nJ (R401); a sensor not yet read counts as cool. -/
def headroom (s : State) (i : Nat) : Nat :=
  let hmax := if i < 96 then fld s PWR_THERM_H_TILE else fld s PWR_THERM_H_GE
  let t := kGetD s.power.sensors i 0
  let hot := fld s PWR_TLIM_T_HOT
  let cool := fld s PWR_TLIM_T_COOL
  let num := min (hot - t) (hot - cool)
  let cyc := if power s = 2 then 2 * paneLen s else paneLen s
  hmax * cyc * num / (4096 * (hot - cool))

/-- The last 8 of a list. -/
def last8 (l : List Int) : List Int := l.drop (l.length - 8)

/-- What the power manager does at a mullion that ends a pane of `cycles` cycles (R23, R397, R398, R400): the residual, the
debt, then the caps and the policy accepted since. -/
def powerMullion (s : State) (cycles : Nat) : State :=
  let m := s.power.measured
  let d := fld s PWR_ENERGY_DEBT
  let c := energyNj s s.power.capInForce cycles
  let d' := d + m - c
  let s := { s with power := { s.power with
    residuals := last8 (s.power.residuals ++ [(m : Int) - (s.power.tags : Int)]), measured := 0, tags := 0 } }
  let s := setFld (setFld s PWR_ENERGY_DEBT (min d' (2 ^ 32 - 1))) PWR_ENERGY_MEASURED m
  let s := if 0 < d' then event (bump s PWR_EVT_CAPPED) 0x7802 else s
  let s := match s.power.hostCap with | none => s | some w => setFld s PWR_CAP_HOST_CAP w
  let s := match s.power.platCap with | none => s | some w => setFld s PWR_CAP_PLAT_CAP w
  let s := match s.power.policy with
    | none => s
    | some (mode, fixed) => setFld (setFld s PWR_POLICY_MODE mode) PWR_POLICY_FIXED fixed
  let s := { s with power := { s.power with hostCap := none, platCap := none, policy := none } }
  let low := decide (s.power.filtered < min (fld s PWR_CAP_HOST_CAP) (fld s PWR_CAP_PLAT_CAP))
  let s := if low && !s.power.marginLow then event (bump s PWR_EVT_MARGIN) 0x7803 else s
  let s := { s with power := { s.power with marginLow := low } }
  let s := setFld (setFld s PWR_CAP_ENFORCED (enforcedCap s)) PWR_CAP_INPUT_LIMIT s.power.filtered
  let s := { s with power := { s.power with capInForce := enforcedCap s } }
  activeOrCapped s

/-- `PWR_FAULT` (R400, R403, R406). -/
def powerRecord (s : State) (source code value : Nat) : State :=
  firstRecord s PWR_FAULT_VALID 0 0 (fun s =>
    setFld (setFld (setFld (setFld s PWR_FAULT_SOURCE source) PWR_FAULT_CODE code) PWR_FAULT_VALUE value)
      PWR_FAULT_PANE (pane s))

/-- A power or thermal fault: recorded with or without a job, faulting a loaded job; from Wicket, Active or Capped the
part enters Recovery (R400, R403). -/
def powerFault (s : State) (source code value : Nat) : State :=
  let s := powerRecord s source code value
  enterRecovery (raise_ s code 1 (some PWR_FAULT.base))

/-- `ENERGY_REPORT` (R397, R400): a regulator report of 256 cycles' input energy, summed into the pane's M; the input limit is
42 A × the filtered input voltage. `PWR_INPUT` shows the power, filtered as log 21 says, and its current. -/
def energyReport (nJ : Nat) (s : State) : State :=
  if power s = 0 then s else
  let volts := fld s PWR_INPUT_VOLTS
  let lim := if volts = 0 then s.power.filtered else 42 * volts / 100
  let watts := if power s = 2 then nJ * 9 / 2560 else nJ * 18 / 2560
  let s := setFld s PWR_INPUT_WATTS (min watts 65535)
  let s := if volts = 0 then s else setFld s PWR_INPUT_AMPS (min (watts * 10000 / volts) 65535)
  { s with power := { s.power with measured := s.power.measured + nJ, filtered := lim } }

def execEnergyReport (nJ : Nat) (s : State) : Host.Outcome State Fault Refusal := runCmd (energyReport nJ) s

/-- The sources of `PWR_FAULT` that are junction sensors (R406). -/
def isSensor (src : Nat) : Bool := decide (src ≤ 116)

/-- The hottest reading and its source (R406). -/
def hottest (l : Kmap Nat) : Nat × Nat := l.foldl (fun acc e => if acc.1 < e.2 then (e.2, e.1) else acc) (0, 0)

/-- The louvre opens, or stays open (R171); an instruction that meets it closing first waits up to 5 cycles for the step under way
(R172); held closed in strict mode (R174). -/
def openLouvre (s : State) (t wait : Nat) : State :=
  let w := if fld s MXA_STATUS_LOUVRE t = 3 then min wait 5 else 0
  let s := if fld s MXA_STATUS_LOUVRE t = 2 then s else bump s MXA_EVT_OPENS 1 t
  let s := setFld (setFld s MXA_STATUS_LOUVRE 2 t) MXA_STATUS_BANDS_OPEN 8 t
  event (if w = 0 then s else bump s MXA_EVT_LOUVRE_WAIT w t) 0x3004 w

/-- A thermal trip (R403), in its order: admission off, tasks stopped, louvres closed, the fault, Recovery. -/
def trip (s : State) (src t : Nat) : State :=
  let s := setFld (setFld s PANE_STATUS_TRIP 1) PWR_STATE_TRIP 1
  let s := { s with sched := { s.sched with sites := s.sched.sites.map (fun (e : Nat × SiteS) =>
    (e.1, { cancelSite e.2 with run := none })) } }
  let s := (List.range 96).foldl (fun s t =>
    setFld (setFld (setFld s MXA_STATUS_LOUVRE 0 t) MXA_STATUS_BANDS_OPEN 0 t) TILE_STATUS_BUSY 0 t) s
  let s := { s with tap := { s.tap with thermtrip := false }, power := { s.power with coolMs := none, scrubHold := true } }
  setFld (powerFault s src 0x7880 t) PWR_STATE_COOLING 1

/-- Every sensor at most `c` degrees. -/
def allBelow (s : State) (c : Nat) : Bool := s.power.sensors.all (fun e => decide (e.2 ≤ c))

/-- Every sensor has read 95 °C or less for 1 s: the cooling condition of Recovery (R394, R403). -/
def cooled (s : State) (timeMs : Nat) : Bool :=
  match s.power.coolMs with | some t => decide (t + 1000 ≤ timeMs) | none => false

/-- `SENSOR_READ` (R401, R403): the latest readings, in °C by source; 110 °C trips, and in Recovery holds the scrub until every sensor
reads 100 °C or less. `COOLING` says that Recovery awaits the cooling condition (DEDUCED, log 136). -/
def sensorRead (readings : List (Nat × Nat)) (timeMs : Nat) (s : State) : State :=
  if power s = 0 then s else
  let s := (readings.filter (fun r => isSensor r.1)).foldl (fun s r =>
    let s := { s with power := { s.power with sensors := kSet s.power.sensors r.1 r.2 } }
    if r.1 < 96 then setFld s TILE_STATUS_TEMP r.2 r.1 else s) s
  let h := hottest s.power.sensors
  let s := setFld (setFld s PWR_STATE_HOTTEST h.1) PWR_STATE_HOT_SRC h.2
  let tripped := fld s PANE_STATUS_TRIP = 1
  let s :=
    if fld s PWR_TLIM_T_TRIP ≤ h.1 then
      if tripped then { s with power := { s.power with coolMs := none, scrubHold := true } } else trip s h.2 h.1
    else s
  let s := if allBelow s (fld s PWR_TLIM_T_HOT) then { s with power := { s.power with scrubHold := false } } else s
  let since := if allBelow s (fld s PWR_TLIM_T_CLEAR) then some (s.power.coolMs.getD timeMs) else none
  let s := { s with power := { s.power with coolMs := since } }
  setFld s PWR_STATE_COOLING (b2n (power s == 5 && !cooled s timeMs))

def execSensorRead (readings : List (Nat × Nat)) (timeMs : Nat) (s : State) : Host.Outcome State Fault Refusal :=
  runCmd (sensorRead readings timeMs) s

/-- The part is tripped no longer. -/
def untrip (s : State) : State :=
  let s := setFld (setFld (setFld s PANE_STATUS_TRIP 0) PWR_STATE_TRIP 0) PWR_STATE_COOLING 0
  { s with tap := { s.tap with thermtrip := true }, power := { s.power with scrubHold := false } }

/-- `SEC_STATE.SESSION` (R424); in Recovery an attached session stays attached (R426). -/
def refreshSession (s : State) : State :=
  let on := s.sec.trace.isSome || fld s DRT_STATUS_ARMED != 0 || s.sec.debugRecent ||
    (power s == 5 && fld s SEC_STATE_SESSION == 1)
  setFld s SEC_STATE_SESSION (b2n on)

/-- Leaving Recovery (R394, R403, R451): to Active or Capped in full service, to Wicket otherwise; a louvre held open by its
configuration opens again (R173), and a debug session that nothing attaches any more is over (R424). -/
def leaveRecovery (s : State) : State :=
  let s := untrip s
  let s := (List.range 96).foldl (fun s t =>
    if fld s MXA_CFG_LOUVRE_EN t = 0 ∧ fld s MXA_STATUS_LOUVRE t ≠ 2 then openLouvre s t 0 else s) s
  let s := refreshSession (setFld s PWR_STATE_STATE (if fld s RST_STATUS_SERVICE = 2 then 3 else 2))
  let s := setFld s PWR_CAP_ENFORCED (enforcedCap s)
  activeOrCapped s

/-- `RECOVERY_EXIT` (R403, R451): once the scrub has ended and every sensor has read 95 °C or less for 1 s. A part that
tripped in Standby, where it stayed, is tripped no longer then (DEDUCED, log 136). -/
def recoveryExit (timeMs : Nat) (s : State) : State :=
  if cooled s timeMs = false then s
  else if power s = 5 ∧ jobState s = 0 then leaveRecovery s
  else if power s = 1 ∧ fld s PANE_STATUS_TRIP = 1 then untrip s
  else s

def execRecoveryExit (timeMs : Nat) (s : State) : Host.Outcome State Fault Refusal := runCmd (recoveryExit timeMs) s

/-- `INPUT_FAULT` (R400, R466): an input below 44.0 V or above 59.5 V for 100 µs. -/
def inputFault (tenMilliVolts durationUs : Nat) (s : State) : State :=
  let s := setFld s PWR_INPUT_VOLTS tenMilliVolts
  if power s ≠ 0 ∧ 100 ≤ durationUs ∧ (tenMilliVolts < 4400 ∨ 5950 < tenMilliVolts) then
    powerFault s 117 0x7881 tenMilliVolts
  else s

def execInputFault (tenMilliVolts durationUs : Nat) (s : State) : Host.Outcome State Fault Refusal :=
  runCmd (inputFault tenMilliVolts durationUs) s

/-- `REGULATOR_FAULT` (R400): bit 0 over-current, bit 1 over-temperature, bit 2 loss of regulation, which pulls `PGOOD`
low (R465). -/
def regulatorFault (regulator : Fin 8) (status : BitVec 3) (s : State) : State :=
  if power s = 0 ∨ status = 0 then s else
  let s := if status.getLsbD 2 then
      { s with tap := { s.tap with pgood := false },
               power := { s.power with regulators := s.power.regulators ||| 2 ^ regulator.val } }
    else s
  powerFault s (120 + regulator.val) 0x7882 status.toNat

def execRegulatorFault (regulator : Fin 8) (status : BitVec 3) (s : State) : Host.Outcome State Fault Refusal :=
  runCmd (regulatorFault regulator status) s

/-- A token's scope that waits for its mullion (R418) is in the secure counter area already (R426), and holds after a start. -/
def scopeHeld (s : State) : State :=
  match s.sec.scopePending with
  | none => s
  | some v => setFld s SEC_STATE_SCOPE v

/-- What the fuses and the flash hold (R408, R411, R413, R416, R421). -/
def fusesAndFlash (s : State) : SecS :=
  let z := State.reset
  { z.sec with
    nonces := s.sec.nonces, slotEmpty := s.sec.slotEmpty, activeSlot := s.sec.activeSlot, slotSvn := s.sec.slotSvn,
    slotDigest := s.sec.slotDigest, ownerHash := s.sec.ownerHash, dikCert := s.sec.dikCert, vendorKey := s.sec.vendorKey }

/-- The SEC registers that the fuses and the secure counter area keep: all but `SEC_POLICY`, `SEC_EVT` and `SEC_FAULT` (R430). -/
def secKept (a : Nat) : Bool := decide (SEC_STATE.base ≤ a) && decide (a < SEC_STATE.base + 0x140) && a != SEC_POLICY.base

/-- Off (R394, R466, R441): the loss of power loses memory, registers, retained SRAM and every queue. What the fuses and
the flash hold stays: update slots, the deadbolt's secure counters, owner slots. -/
def powerOff (s : State) : State :=
  let s := scopeHeld s
  let z := State.reset
  let t := { z with
    pending := s.pending, raised := s.raised, out := s.out, regs := s.regs.filter (fun e => secKept e.1), free := s.free,
    sec := fusesAndFlash s,
    tap := { z.tap with pgood := false, strapHold := s.tap.strapHold } }
  setFld (setFld t SEC_STATE_SESSION 0) PWR_STATE_STATE 0

/-- `REGULATOR_SHUTDOWN` (R466, R465, R426): below 40.0 V for 20 µs, or above 62.0 V for 1 µs, every regulator goes off. The
job faults with `INPUT_FAULT`, and its record is lost with the power. -/
def regulatorShutdown (tenMilliVolts durationUs : Nat) (s : State) : State :=
  if (tenMilliVolts < 4000 ∧ 20 ≤ durationUs) ∨ (6200 < tenMilliVolts ∧ 1 ≤ durationUs) then powerOff s else s

def execRegulatorShutdown (tenMilliVolts durationUs : Nat) (s : State) : Host.Outcome State Fault Refusal :=
  runCmd (regulatorShutdown tenMilliVolts durationUs) s

/-- `REGULATION_REGAINED` (R465): every regulator is back in regulation without a shutdown, and `PGOOD` is released. -/
def regulationRegained (s : State) : State :=
  if power s = 0 then s
  else { s with tap := { s.tap with pgood := true }, power := { s.power with regulators := 0 } }

def execRegulationRegained (s : State) : Host.Outcome State Fault Refusal := runCmd regulationRegained s

end Sys2Proof.Machine
end

