-- ==== Sys2Proof/Machine/Segments.lean ====
section
/-! DEFINITION. Segments of contributions (04): the segment record (R106), and the cut of a target's contributions into hub
segments (R107). -/

namespace Sys2Proof.Machine

/-- Lists of at most `n` elements. -/
def chunks {α : Type} (n : Nat) : Nat → List α → List (List α)
  | 0, _ => []
  | f + 1, l => if l = [] then [] else l.take n :: chunks n f (l.drop n)

/-- The contributions that one segment holds at most (R107). -/
def segmentMax : Nat := 65536

/-- A segment record (R106). -/
def segRecord (target table : Nat) (hub last : Bool) (seg count first firstHi : Nat) : Nat :=
  target % 2 ^ 48 + table % 64 * 2 ^ 48 + b2n hub * 2 ^ 54 + b2n last * 2 ^ 55 + seg % 65536 * 2 ^ 56 +
  count % 2 ^ 17 * 2 ^ 72 + first % 2 ^ 24 * 2 ^ 96 + firstHi % 256 * 2 ^ 120

/-- The fields of a segment record (R106). -/
def srTarget (r : Nat) : Nat := bitsOf 0 48 r
def srTable (r : Nat) : Nat := bitsOf 48 6 r
def srHub (r : Nat) : Bool := bitOf 54 r
def srLast (r : Nat) : Bool := bitOf 55 r
def srSeg (r : Nat) : Nat := bitsOf 56 16 r
def srCount (r : Nat) : Nat := bitsOf 72 17 r
def srFirst (r : Nat) : Nat := bitsOf 96 24 r + 2 ^ 24 * bitsOf 120 8 r

/-- The segments of a target of `n` contributions (R107): `first` says what `FIRST` and `FIRST_HI` hold for the segment that begins
at a contribution. -/
def segmentsOf (target table n : Nat) (first : Nat → Nat) : List Nat :=
  let m := (n + segmentMax - 1) / segmentMax
  (List.range m).map (fun j =>
    let at_ := first (segmentMax * j)
    segRecord target table (decide (1 < m)) (j + 1 == m) j (min segmentMax (n - segmentMax * j)) at_ (at_ / 2 ^ 24))

/-- The contributions of a segment among its target's. -/
def ofSegment {α : Type} (r : Nat) (l : List α) : List α := (l.drop (segmentMax * srSeg r)).take (srCount r)

/-- The (table, row) pairs of contributions in order of their first occurrence. -/
def rowsOf (l : List Contrib) : List (Nat × Nat) := (l.map (fun c => (c.table, c.row))).eraseDups

/-- Contributions to one row. -/
def contribsTo (l : List Contrib) (r : Nat × Nat) : List Contrib := l.filter (fun c => c.table == r.1 && c.row == r.2)

/-- Sorted contributions as segments, one target after the other (R107, R111): `FIRST` is the place of the segment's first
contribution in the sorted order. -/
def segmentsIn (l : List Contrib) (pane_ : Nat) : List SegS :=
  (rowsOf l).flatMap (fun x =>
    let mine := ((List.range l.length).zip l).filter (fun e => e.2.table == x.1 && e.2.row == x.2)
    let at_ := fun (i : Nat) => ((mine[i]?).map (fun e => e.1)).getD 0 % 2 ^ 24
    (segmentsOf x.2 x.1 mine.length at_).map (fun r => { pane := pane_, record := r, items := (ofSegment r mine).map (fun e => e.2) }))

/-- The targets that are split (R107). -/
def splitCount (l : List SegS) : Nat := (l.filter (fun g => srHub g.record && srLast g.record)).length

end Sys2Proof.Machine
end

