-- ==== Sys2Proof/Machine/Sched.lean ====
section
/-! DEFINITION. The pane grid and the scheduler (02): the mullion, the admission decision, the refill of the task window. -/

namespace Sys2Proof.Machine

/-- The table of a site: the device addresses of its descriptors (R36, R474). -/
def siteTable (s : State) (i : Nat) : List Nat := kGetD s.job.tables i []

/-- The descriptors of pass `p` that site `i` has not fetched (R36; R287 for a pass that is fetched again). -/
def unfetched (s : State) (i p : Nat) : List Word32B :=
  let x := site s i
  let l := siteTable s i
  let rest := match x.redo with
    | some (q, j) => if q = p then l.drop j else if x.pass = p then l.drop x.tableNext else if x.pass < p then l else []
    | none => if x.pass = p then l.drop x.tableNext else if x.pass < p ∧ s.job.wicket = false then l else []
  rest.map (wordAt s)

/-- The tasks of pass `p` at site `i` that have not retired (R18, R282). -/
def unretired (s : State) (i p : Nat) : List Word32B :=
  let x := site s i
  let held := x.window ++ x.parked ++ x.pieces ++ x.run.toList
  (held.filter (fun t => t.pass == p)).map (fun t => t.desc) ++ unfetched s i p

/-- Some task of pass `p` that satisfies `q` has not retired. -/
def tasksLeft (s : State) (p : Nat) (q : Word32B → Bool) : Bool :=
  s.job.tables.any (fun e => (unretired s e.1 p).any q)

/-- The horizon of a task (R49): its own, or its class's as read at the latch. Before the first latch, and in a wicket job, which
never latches, the class's register is read as it stands (DESIGN CHOICE, log 112). -/
def horizonOf (s : State) (d : Word32B) : Nat :=
  if dHorizon d ≠ 0 then dHorizon d
  else s.step.pol.horizons.getD (dClass d) (fld s PANE_HORIZON_HORIZON 0 (dClass d))

/-- The stash gate token (R272). -/
def isGate (s : State) (t : Nat) : Bool := s.job.extra.stashGate == some t

/-- A task awaits the stash gate. -/
def awaitsGate (s : State) (d : Word32B) : Bool := (dAwaits d).any (isGate s)

/-- Bytes of the `STASH` region neither reserved nor spilled into (R272). -/
def stashFree (s : State) : Nat :=
  match region s 2 0 with
  | none => 0
  | some (_, size) =>
    let held := s.stash.reserved.map (fun e => max e.2 (kGetD s.stash.spilled e.1 0))
    let rest := (s.stash.spilled.filter (fun e => (kGet? s.stash.reserved e.1).isNone)).map (fun e => e.2)
    size - (sumOf held + sumOf rest)

/-- The micro-batches that hold stash records. -/
def stashHolders (s : State) : Nat := ((s.stash.recs.map (fun r => (r.step, r.mb))).eraseDups).length

/-- `PANE_STASH.FREE` and `HOLDERS` follow the stash (R275). -/
def refreshStash (s : State) : State :=
  setFld (setFld s PANE_STASH_FREE (stashFree s / 65536)) PANE_STASH_HOLDERS (stashHolders s)

/-- The key of a micro-batch of a step. -/
def mbKey (step mb : Nat) : Nat := step * 65536 + mb

/-- `BOUND` in bytes (R273). -/
def stashBound (s : State) : Nat := fld s PANE_STASH_BOUND * 65536

/-- The stash gate is open (R272). -/
def gateOpen (s : State) : Bool := decide (stashBound s ≤ stashFree s)

/-- A token is satisfied (R39); the stash gate by the free space alone (R272). -/
def tokenOk (s : State) (t : Nat) : Bool :=
  if isGate s t then gateOpen s
  else match kGet? s.sched.tokens t with
    | none => false
    | some x => decide ((if x.kind = 2 then 1 else x.value) ≤ x.count)

/-- The micro-batches tagged with a sash parity: its reference count (R277). -/
def sashRefs (s : State) (parity : Nat) : Nat := (s.step.tags.filter (fun t => t.2.2 == parity)).length

/-- `PANE_SASH`'s reference counts follow the tags. -/
def refreshSash (s : State) : State :=
  let v := fld s PANE_SASH_VERSION
  setFld (setFld s PANE_SASH_REF_CUR (sashRefs s (v % 2))) PANE_SASH_REF_OLD (sashRefs s ((v + 1) % 2))

/-- A commit with outcome `COMMIT` is in its two phases (R284). -/
def committing (s : State) : Bool := fld s PANE_COMMIT_STATUS_PHASE == 2 && s.step.outcome == 1

/-- The dense writes are held by a reference to the sash they overwrite (R278). -/
def sashHeld (s : State) : Bool := decide (sashRefs s ((fld s PANE_SASH_VERSION + 1) % 2) ≠ 0)

/-- What R476, R284 and R278 ask of a task beside its tokens. -/
def passOk (s : State) (t : WinTask) : Bool :=
  (s.job.wicket || decide (t.pass < nextStep s.step.takenStep)) &&
  (if dClass t.desc = 0 then committing s && t.pass == s.step.current &&
     (decide (96 ≤ dSite t.desc) || !sashHeld s) else true)

/-- A task is ready (R41). -/
def taskReady (s : State) (t : WinTask) : Bool :=
  passOk s t && !t.queued && (dAwaits t.desc).all (tokenOk s)

/-- Pieces are admitted at this snapshot (R46, R47, R48, R244, R289): the admission of R45 is on. -/
def piecesOn (s : State) : Bool :=
  decide (fld s PANE_CFG_SCHED_EN = 1) && decide (fld s PANE_STATUS_TRIP = 0) && running s && !faulted s

/-- Admission is on at this snapshot. A context save admits nothing but the pieces it waits for (R455; DEDUCED, log 113). -/
def admissionOn (s : State) : Bool := piecesOn s && decide (s.rst.saving = 0)

/-- A piece that waits for its pane (R244): a continuation, or a recompute piece that found no room in its own (R252). -/
def waitsPane (t : WinTask) : Bool := !t.recompute || t.k == 1

/-- The next pending piece of a site, and the other pieces. -/
def nextPiece (x : SiteS) : Option (WinTask × List WinTask) := removeFirst waitsPane x.pieces

/-- The site has a pending piece, so it runs nothing but its pieces (R244). -/
def pieceWaits (x : SiteS) : Bool := x.pieces.any waitsPane

/-! The admission decision (R45). -/

/-- The decision as it goes: sites, energy used, and per site cycles, heat and tasks; closed sites, the gate, credits. -/
structure Dec where
  sites : Kmap SiteS
  used : Nat := 0
  cyc : Kmap Nat := []
  heat : Kmap Nat := []
  n : Kmap Nat := []
  closed : List Nat := []
  gate : Bool := false
  taken : Kmap Nat := []
  urgent : Nat := 0
  deriving DecidableEq, Repr

/-- The credits that a task's admission takes: one of each `CREDIT` token that it names, in however many entries (R39). -/
def creditsOf (s : State) (d : Word32B) : List Nat :=
  ((dAwaits d).filter (fun t =>
    !isGate s t && match kGet? s.sched.tokens t with | some x => x.kind == 2 | none => false)).eraseDups

/-- `fits` of R45. -/
def fits (s : State) (d : Dec) (i : Nat) (t : WinTask) : Bool :=
  !d.closed.contains i && decide (kGetD d.n i 0 < 8) &&
  decide (kGetD d.cyc i 0 + wtCycles t ≤ paneLen s - 128) &&
  !(awaitsGate s t.desc && d.gate) &&
  (creditsOf s t.desc).all (fun c => match kGet? s.sched.tokens c with
    | some x => decide (kGetD d.taken c 0 + 1 ≤ x.count)
    | none => false)

/-- Task `t`, at place `k` of site `i`'s window, admitted. -/
def admitTask (s : State) (d : Dec) (i k : Nat) (t : WinTask) : Dec :=
  let n := kGetD d.n i 0 + 1
  let cs := creditsOf s t.desc
  let x := kGetD d.sites i {}
  let x := { x with window := listSet x.window k { t with adm := n, credits := cs } }
  { d with
    sites := kSet d.sites i x, used := d.used + dNano t.desc,
    cyc := kSet d.cyc i (kGetD d.cyc i 0 + wtCycles t), heat := kSet d.heat i (kGetD d.heat i 0 + dNano t.desc),
    n := kSet d.n i n, gate := d.gate || awaitsGate s t.desc,
    taken := cs.foldl (fun m c => kSet m c (kGetD m c 0 + 1)) d.taken }

/-- Pass 0 (R45, R244): a site with a pending piece gets the piece, bound by `E_hard`, and nothing else. -/
def passZero (eHard : Nat) (d : Dec) (e : Nat × SiteS) : Dec :=
  match nextPiece e.2 with
  | none => d
  | some (t, rest) =>
    let fit := decide (d.used + dNano t.desc ≤ eHard)
    let t' := { t with ready := true, adm := if fit then 1 else 0 }
    let d := { d with sites := kSet d.sites e.1 { e.2 with pieces := t' :: rest }, closed := e.1 :: d.closed }
    if fit then
      { d with used := d.used + dNano t.desc, cyc := kSet d.cyc e.1 (wtCycles t),
               heat := kSet d.heat e.1 (dNano t.desc), n := kSet d.n e.1 1 }
    else d

/-- The class rank of ordinary admission (R35). -/
def rank (d : Word32B) : Nat := dClass d + 1

/-- The ready, unadmitted tasks of a site with their window places. -/
def candidates (x : SiteS) : List (Nat × WinTask) :=
  ((List.range x.window.length).zip x.window).filter (fun e => e.2.ready && e.2.adm == 0)

/-- Pass 1's order: age beyond the horizon, then rank, then `TASK_ID`. -/
def urgentBefore (s : State) (a b : Nat × Nat × WinTask) : Bool :=
  let ka := a.2.2.age - horizonOf s a.2.2.desc
  let kb := b.2.2.age - horizonOf s b.2.2.desc
  decide (kb < ka) || (ka == kb && (decide (rank a.2.2.desc < rank b.2.2.desc) ||
    (rank a.2.2.desc == rank b.2.2.desc && decide (dTaskId a.2.2.desc < dTaskId b.2.2.desc))))

/-- Pass 2's order within a site: rank, then age descending, then `TASK_ID`. -/
def ordinaryBefore (a b : Nat × WinTask) : Bool :=
  decide (rank a.2.desc < rank b.2.desc) || (rank a.2.desc == rank b.2.desc &&
    (decide (b.2.age < a.2.age) || (a.2.age == b.2.age && decide (dTaskId a.2.desc < dTaskId b.2.desc))))

/-- Pass 1 (R45, R46). -/
def passOne (s : State) (eHard : Nat) (d : Dec) : Dec :=
  let u := d.sites.flatMap (fun e => (candidates e.2).map (fun c => (e.1, c)))
  let u := u.filter (fun c => decide (horizonOf s c.2.2.desc ≤ c.2.2.age))
  (sortBy (urgentBefore s) u).foldl (fun d c =>
    if fits s d c.1 c.2.2 && decide (d.used + dNano c.2.2.desc ≤ eHard) then
      let d := admitTask s d c.1 c.2.1 c.2.2
      { d with urgent := d.urgent + 1 }
    else d) d

/-- One site's turn in a round of pass 2: its first task in order that fits. -/
def siteTurn (s : State) (eOrd : Nat) (d : Dec) (i : Nat) : Dec × Bool :=
  let cs := sortBy ordinaryBefore (candidates (kGetD d.sites i {}))
  match cs.find? (fun c => fits s d i c.2 && decide (kGetD d.heat i 0 + dNano c.2.desc ≤ headroom s i) &&
      decide (d.used + dNano c.2.desc ≤ eOrd)) with
  | none => (d, false)
  | some c => (admitTask s d i c.1 c.2, true)

/-- Pass 2 (R45): rounds of one task per site until a round admits nothing; eight tasks a site bound the rounds. -/
def passTwo (s : State) (eOrd : Nat) (order : List Nat) : Nat → Dec → Dec
  | 0, d => d
  | n + 1, d =>
    let r := order.foldl (fun (acc : Dec × Bool) i =>
      let t := siteTurn s eOrd acc.1 i
      (t.1, acc.2 || t.2)) (d, false)
    if r.2 then passTwo s eOrd order n r.1 else r.1

/-- The order of sites of pass 2: it rotates with the pane counter. -/
def siteOrder (s : State) : List Nat :=
  let start := pane s % 104
  sortBy (fun a b => decide ((a + 104 - start) % 104 < (b + 104 - start) % 104)) (s.sched.sites.map (fun e => e.1))

/-- The whole decision (R45): pass 0 where pieces are admitted, passes 1 and 2 where all admission is on. -/
def decide_ (s : State) (eOrd eHard : Nat) : Dec :=
  let d : Dec := { sites := s.sched.sites }
  let d := if piecesOn s then s.sched.sites.foldl (passZero eHard) d else d
  if admissionOn s then passTwo s eOrd (siteOrder s) 9 (passOne s eHard d) else d

/-- The lag of a request ends with this snapshot, and its token has not counted yet (R42). -/
def lagEnds (s : State) (r : OpenReq) : Bool := !r.promised && decide (r.req.issuePane < pane s)

/-- A request of which nothing is left to happen. -/
def OpenReq.closed_ (r : OpenReq) : Bool := r.landed && r.promised

/-- The token of a request counts. -/
def countToken (s : State) (r : OpenReq) : State :=
  match r.req.token with
  | some t => raiseToken s t
  | none => s

/-- The tokens of the memory-side requests whose lag ends with this snapshot count in it, whether or not their data has
arrived (R42). -/
def raiseLagged (s : State) : State :=
  let due := s.sched.memReqs.filter (lagEnds s)
  let open_ := (s.sched.memReqs.map (fun r => if lagEnds s r then { r with promised := true } else r)).filter (fun r => !r.closed_)
  due.foldl countToken { s with sched := { s.sched with memReqs := open_ } }

/-- A response that is not in place at the mullion that ends the pane after its issue is late (R53). -/
def missesLag (s : State) (r : OpenReq) : Bool := !r.landed && !r.late && decide (r.req.issuePane + 1 ≤ pane s)

/-- The late responses counted at a mullion, before the pane counter advances (R53). -/
def lateRequests (s : State) : State :=
  let n := (s.sched.memReqs.filter (missesLag s)).length
  let s := { s with sched := { s.sched with
    memReqs := s.sched.memReqs.map (fun r => if missesLag s r then { r with late := true } else r) } }
  event (bump s PANE_EVT_MEM_LATE n) 0x1003 n

/-- Sites with no headroom at this snapshot (R402). -/
def throttledSites (s : State) : List Nat :=
  ((s.power.sensors.map (fun e => e.1)).filter (fun i => decide (i < 104))).filter (fun i => headroom s i == 0)

/-- The throttle bits, their count, and the event for the first throttled site-pane of a step (R402). -/
def throttle (s : State) : State :=
  let l := throttledSites s
  let s := setFld s PWR_THROTTLE_SITE (sumOf (l.map (fun i => 2 ^ i)))
  if l = [] then s
  else
    let s := bump s PWR_EVT_THROTTLE l.length
    if s.sched.throttledStep then s
    else event { s with sched := { s.sched with throttledStep := true } } 0x7801

/-- A tile site that admits nothing while it holds a task that awaits a credit at 0 in the snapshot (R58). A task already admitted
awaits its credit no longer. -/
def stalls (s : State) (d : Dec) (e : Nat × SiteS) : Bool :=
  decide (e.1 < 96) && kGetD d.n e.1 0 == 0 &&
  e.2.window.any (fun t => !t.queued && (creditsOf s t.desc).any (fun c => !tokenOk s c))

/-- The credits and the gate's reservations that the decision took (R39, R272). -/
def takeCredits (s : State) (d : Dec) : State :=
  let s := d.taken.foldl (fun s e => match kGet? s.sched.tokens e.1 with
    | some x => { s with sched := { s.sched with tokens := kSet s.sched.tokens e.1 { x with count := x.count - e.2 } } }
    | none => s) s
  let gated := d.sites.flatMap (fun e => e.2.window.filter (fun t => t.adm != 0 && !t.queued && awaitsGate s t.desc))
  let s := gated.foldl (fun s t =>
    { s with stash := { s.stash with reserved := kSet s.stash.reserved (mbKey t.pass (dMb t.desc)) (stashBound s) } }) s
  if gated = [] then s else refreshStash s

/-- `ADMISSION_DECISION` (R44, R45): the snapshot of the pane, and the admission for the next. -/
def admissionDecision (s : State) : State :=
  if power s < 2 then s else
  let s := raiseLagged s
  let s := throttle s
  let eBg := eBackground s
  let s := setFld (setFld s PWR_ENERGY_E_PANE (ePane s)) PWR_ENERGY_E_BG eBg
  let eOrd := ePane s - eBg
  let eHard := eCap s - eBg
  let s := { s with sched := { s.sched with eOrd := eOrd, eHard := eHard } }
  let on := admissionOn s
  let mark := s.sched.sites.map (fun (e : Nat × SiteS) =>
    (e.1, { e.2 with
      window := e.2.window.map (fun (t : WinTask) =>
        { t with ready := on && taskReady s t, adm := if t.queued then t.adm else 0,
                 credits := if t.queued then t.credits else [] }),
      pieces := e.2.pieces.map (fun (t : WinTask) => { t with seen := true, ready := false, adm := 0 }) }))
  let s := { s with sched := { s.sched with sites := mark, admitOn := piecesOn s } }
  let d := decide_ s eOrd eHard
  let n := if jobLive s && started s then (s.sched.sites.filter (stalls s d)).length else 0
  let s := takeCredits { s with sched := { s.sched with sites := d.sites } } d
  let s := event (bump s PANE_EVT_URGENT d.urgent) 0x1004 d.urgent
  event (bump s PANE_EVT_STALL n) 0x1006 n

def execAdmissionDecision (s : State) : Host.Outcome State Fault Refusal := runCmd admissionDecision s

/-! The mullion. -/

/-- Bit `i` of the fields over sites. -/
def siteBit (s : State) (f : Field) (i : Nat) (b : Bool) : State := setFldBit s f i b

/-- The credits of returned tasks are raised again and their gate reservations given back (R50). -/
def giveBack (s : State) (l : List WinTask) : State :=
  let s := l.foldl (fun s t => t.credits.foldl raiseToken s) s
  let gated := l.filter (fun t => awaitsGate s t.desc)
  let s := gated.foldl (fun s t =>
    { s with stash := { s.stash with reserved := kErase s.stash.reserved (mbKey t.pass (dMb t.desc)) } }) s
  if gated = [] then s else refreshStash s

/-- What a site was admitted and `keep` does not keep goes back to its place, counted once for the site (R50). -/
def returnAdmitted (s : State) (i : Nat) (keep : WinTask → Bool) : State :=
  let x := site s i
  let goes := fun (t : WinTask) => t.adm != 0 && !keep t
  let back := x.window.filter goes ++ x.pieces.filter goes
  if back = [] then s
  else
    let clear := fun (t : WinTask) => if goes t then { t with adm := 0, queued := false, credits := [] } else t
    let s := setSite s i { x with window := x.window.map clear, pieces := x.pieces.map clear }
    event (bump (giveBack s back) PANE_EVT_CANCELLED) 0x1007

/-- A task begins on its site: its energy is charged to this pane (R397), and a tile reads busy. -/
def startTask (s : State) (i : Nat) (t : WinTask) : State :=
  let x := site s i
  let t := { t with adm := 0, queued := false, ready := false, startStep := s.step.current }
  let s := setSite s i { x with run := some t, runTime := x.runTime + wtCycles t }
  let s := { s with power := { s.power with tags := s.power.tags + dNano t.desc } }
  if i < 96 then setFld s TILE_STATUS_BUSY 1 i else s

/-- The tasks of a window that satisfy `q`, in run order. -/
def runOrder (x : SiteS) (q : WinTask → Bool) : List WinTask :=
  sortBy (fun (a b : WinTask) => decide (a.adm < b.adm)) (x.window.filter q)

/-- The tasks that stand in the run order of this pane. -/
def queuedOf (x : SiteS) : List WinTask := runOrder x (fun t => t.queued)

/-- The tasks that the last decision admitted for the pane after it. -/
def admittedOf (x : SiteS) : List WinTask := runOrder x (fun t => t.adm != 0 && !t.queued)

/-- A task leaves the window (R36). -/
def leaveWindow (x : SiteS) (t : WinTask) : SiteS :=
  match removeFirst (fun (u : WinTask) => u.queued && u.adm == t.adm && dTaskId u.desc == dTaskId t.desc && u.pass == t.pass) x.window with
  | some (_, w) => { x with window := w }
  | none => x

/-- The next thing a site runs in the pane: its first queued task in run order. -/
def startNext (s : State) (i : Nat) : State :=
  let x := site s i
  match queuedOf x with
  | [] => s
  | t :: _ => startTask (setSite s i (leaveWindow x t)) i t

/-- The tasks that fit in `room` cycles after what went before, as many as come first in order. -/
def keepFitting (room : Nat) : List WinTask → List WinTask
  | [] => []
  | t :: l => if wtCycles t ≤ room then t :: keepFitting (room - wtCycles t) l else keepFitting room l

/-- The tasks admitted for the pane that begins stand in its run order. -/
def queueUp (s : State) (i : Nat) : State :=
  let x := site s i
  setSite s i { x with window := x.window.map (fun (u : WinTask) => if u.adm != 0 then { u with queued := true } else u) }

/-- A piece starts at this mullion: it was admitted, or became pending after a snapshot at which pieces were admitted
(R244). -/
def pieceStarts (s : State) (t : WinTask) : Bool := t.adm != 0 || (!t.seen && s.sched.admitOn)

/-- A site that starts the pane idle (R31, R50–R52, R244): its pending piece first, then the tasks that still fit in L − 128
cycles and in the eight of a pane; while further pieces are pending, the piece alone. A task that still stands in the run order
of the pane that ended is returned like one a carried slot does not start (DEDUCED, log 113). -/
def startSite (s : State) (i : Nat) : State :=
  let x := site s i
  match nextPiece x with
  | some (t, rest) =>
    if pieceStarts s t then
      let y := { x with pieces := rest }
      let keep := if pieceWaits y then [] else (keepFitting (paneLen s - 128 - wtCycles t) (admittedOf x)).take 7
      startTask (queueUp (returnAdmitted (setSite s i y) i (fun u => keep.contains u)) i) i t
    else returnAdmitted s i (fun _ => false)
  | none => startNext (queueUp (returnAdmitted s i (fun u => !u.queued)) i) i

/-- The site detector's count (R442): consecutive mullions through which one task, or pieces of one parent, has run. -/
def countRun (x : SiteS) : SiteS :=
  match x.run.toList ++ x.pieces with
  | [] => { x with runMullions := 0, runId := 0 }
  | t :: _ =>
    if x.runMullions ≠ 0 ∧ x.runId = dTaskId t.desc then { x with runMullions := x.runMullions + 1 }
    else { x with runMullions := 1, runId := dTaskId t.desc }

/-- A site still busy at the mullion (R50–R52). The third overrun in a row sets the bit and raises the event; a longer run
raises nothing more. Of several sites that overrun at one mullion, `LAST_OVR_SITE` names the highest (DESIGN CHOICE, log 114). -/
def carrySite (s : State) (i : Nat) : State :=
  let x := site s i
  let n := x.overruns + 1
  let s := setSite s i { x with overruns := n }
  let s := event (bump s PANE_EVT_OVERRUN) 0x1001
  let s := siteBit (setFld s PANE_STATUS_LAST_OVR_SITE i) PANE_CARRIED_SITE i true
  let s := if i < 96 then setFld s TILE_STATUS_CARRIED 1 i else s
  let s := if n = 3 then event (siteBit s PANE_SUSP_SITE i true) 0x1002 else s
  returnAdmitted s i (fun _ => false)

/-- What was ready in the snapshot of the pane just ended and was not admitted is a pane older (R48). -/
def growOlder (t : WinTask) : WinTask :=
  { t with age := if t.ready && t.adm == 0 then satAdd 16 t.age 1 else t.age, ready := false }

/-- One site at the mullion: ages (R48), the detector's count, then carried or started. -/
def mullionSite (s : State) (e : Nat × SiteS) : State :=
  let i := e.1
  let x := site s i
  let x := { countRun x with runTime := 0, window := x.window.map growOlder, pieces := x.pieces.map growOlder }
  let s := setSite s i x
  let tasks := (x.window.filter (fun t => t.adm != 0 && !t.queued)).length + (x.pieces.filter (fun t => t.adm != 0)).length
  let s := if i < 96 then setFld s TILE_STATUS_TASKS tasks i else s
  match x.run with
  | some _ => carrySite s i
  | none =>
    let s := siteBit s PANE_CARRIED_SITE i false
    let s := if i < 96 then setFld s TILE_STATUS_CARRIED 0 i else s
    let s := setSite s i { site s i with overruns := 0 }
    if running s then startSite s i else returnAdmitted s i (fun _ => false)

/-- The slot of the next step, where its `STEP` field names that step (R16, R18). -/
def nextSlot (s : State) : Option Nat :=
  let n := nextStep s.step.takenStep
  match indexBase s with
  | none => none
  | some b =>
    let a := b + 0x40 + (n % 2) * s.job.slotSize
    if loadNat s a 8 = n then some a else none

/-- A task of class `MIGR` that ran during step `p` and still runs (R18). -/
def migrRunning (s : State) (p : Nat) : Bool :=
  s.sched.sites.any (fun e => match e.2.run with
    | some t => dClass t.desc == 9 && t.startStep == p
    | none => false)

/-- A `JOB_STOP` with mode 2 has been accepted: no further step is taken in or latched (R290). -/
def stopsAtEnd (s : State) : Bool := s.jobEnd.stopMode == some 2

/-- The conditions of intake at this mullion (R18). -/
def intakeDue (s : State) : Option Nat :=
  let n := nextStep s.step.takenStep
  if running s && !s.job.wicket && s.step.takenStep == s.step.latchedStep && !stopsAtEnd s &&
      decide (s.step.latchPane < pane s) && decide (s.step.halt = 0) &&
      !(decide (2 ≤ n) && (tasksLeft s (n - 2) (fun d => dClass d != 0) || migrRunning s (n - 2))) then nextSlot s
  else none

/-- Step s can latch at this mullion: it is taken in, or intake and latch take place together (R18). -/
def latchDue (s : State) : Bool :=
  decide (s.step.takenStep ≠ s.step.latchedStep) || (intakeDue s).isSome

/-- A mullion at which the next step cannot latch counts under `IDX_WAIT` (R18, R445). -/
def idxWait (s : State) : State :=
  if running s && !s.job.wicket && !s.step.open_ && decide (s.step.latchPane < pane s) && !latchDue s &&
      decide (s.step.halt = 0) then
    event (bump { s with commit := { s.commit with idxPanes := s.commit.idxPanes + 1 } } PANE_EVT_IDX_WAIT) 0x1005
  else s

/-- A dense `COMMIT` task is ready but for the sash (R41, R278). -/
def denseReady (s : State) : Bool :=
  s.sched.sites.any (fun e => decide (e.1 < 96) && e.2.window.any (fun t =>
    dClass t.desc == 0 && t.pass == s.step.current && !t.queued && (dAwaits t.desc).all (tokenOk s)))

/-- The sash hold (R278): dense writes otherwise ready, held at this mullion. -/
def sashHold (s : State) : State :=
  if running s && committing s && !s.step.denseDone && sashHeld s && denseReady s then
    event (bump (setFld s PANE_COMMIT_STATUS_HOLD 1) PANE_COMMIT_EVT_SASH_HOLD) 0x4805
  else setFld s PANE_COMMIT_STATUS_HOLD 0

/-- A gate task ready in every other respect and held by the gate (R272). -/
def stashPause (s : State) : State :=
  let held := running s && !gateOpen s && s.sched.sites.any (fun e => e.2.window.any (fun t =>
    t.adm == 0 && passOk s t && awaitsGate s t.desc && (dAwaits t.desc).all (fun c => isGate s c || tokenOk s c)))
  if held then event (bump s PANE_BWD_EVT_PAUSE) 0x4802 else s

/-- Rounds that stay open (R112). -/
def roundWait (s : State) : State :=
  (List.range 8).foldl (fun s k =>
    if fld s GRE_STATUS_ROUND_OPEN k = 1 then event (bump s GRE_EVT_ROUND_WAIT 1 k) 0x2004 else s) s

/-- Table application that waits for the migration list (R128). -/
def migrLate (s : State) : State :=
  if committing s then
    s.embs.foldl (fun s e =>
      if !s.step.embDone.contains e.1 && (e.2.migrList != [] || e.2.migrs != []) then
        event (bump s EMB_EVT_MIGR_LATE 1 e.1) 0x2805
      else s) s
  else s

/-- The order of fast reduction mode (R113). -/
def fastBefore (a b : Contrib) : Bool :=
  let k := fun (c : Contrib) => [c.mb, c.layer, c.homePart, c.sample, c.kind]
  decide (k a < k b)

/-- In fast reduction mode the contributions that arrived in the pane just ended, `p`, are sorted and issued in it (R113); a split
target counts as in a round (R107). -/
def fastIssue (p : Nat) (s : State) : State :=
  if s.job.fast then
    s.embs.foldl (fun s e =>
      let l := segmentsIn (sortBy fastBefore (e.2.staged.filter (fun c => !c.marker))) p
      if l = [] then s
      else
        let s := setEmb s e.1 { e.2 with staged := [], issued := e.2.issued ++ l }
        event (bump s GRE_EVT_HUB (splitCount l) e.1) 0x2001 (splitCount l)) s
  else s

/-- Routes loaded and ports returned take effect; the fingerprint follows a width change (R326, R155). -/
def mullionFabric (s : State) : State :=
  let s := s.sbn.routePending.foldl (fun s e => setReg s SBN_ROUTE e.2 0 e.1) s
  let s := { s with sbn := { s.sbn with
    routePending := [],
    ports := s.sbn.ports.map (fun (e : Nat × SbPort) => (e.1, { e.2 with returnAt := false })),
    colls := s.sbn.colls.map (fun (c : CollS) =>
      if c.armed.isNone then { c with armed := some (pane s), length := fld s SBN_COLL_TMO_PANES } else c) } }
  let s := refreshRoutes s
  if s.sbn.widthChanged then writeFingerprint { s with sbn := { s.sbn with widthChanged := false } } else s

/-- What was accepted to take hold at the next mullion: `SEC_POLICY` (R425), a token's scope (R418), `RST_HANG` (R459). -/
def mullionPolicy (s : State) : State :=
  let s := match s.sec.policyPending with | none => s | some v => setReg s SEC_POLICY v
  let s := match s.sec.scopePending with | none => s | some v => setFld s SEC_STATE_SCOPE v
  let s := match s.rst.hangPending with | none => s | some v => setReg s RST_HANG v
  { s with sec := { s.sec with policyPending := none, scopePending := none }, rst := { s.rst with hangPending := none } }

/-- The retirement and step detectors' counts (R443, R444, R446): they stop in `HALTED`. -/
def countDetectors (s : State) : State :=
  if jobState s == 2 && s.step.open_ then
    { s with commit := { s.commit with
      retirePanes := if s.commit.retiredIn then 0 else s.commit.retirePanes + 1, retiredIn := false,
      stepPanes := s.commit.stepPanes + 1 } }
  else if jobState s == 2 then { s with commit := { s.commit with retiredIn := false } }
  else { s with commit := { s.commit with retirePanes := 0, stepPanes := 0, retiredIn := false } }

/-- `MULLION` (R28): the pane generator's tick. Below wicket service there is no pane grid. -/
def mullion (s : State) : State :=
  if power s < 2 then s else
  let l := paneLen s
  let ended := pane s
  let every := drt s DRT_STRETCH_EVERY
  let stretch := decide (drt s DRT_STRETCH_EXTRA ≠ 0) && bitOf 3 (fld s DRT_STATUS_ARMED) && pane s % (max every 1) == 0
  let cycles := if stretch then l + min (drt s DRT_STRETCH_EXTRA) l else l
  let s := lateRequests (if stretch then bump s DRT_EVT_STRETCH else s)
  let s := { s with time := s.time + cycles }
  let s := powerMullion s cycles
  let s := setFld s PANE_COUNT_COUNT ((pane s + 1) % 2 ^ 64)
  let s := setFld (setFld s PANE_ENERGY_E_ORD (min s.sched.eOrd (2 ^ 32 - 1))) PANE_ENERGY_E_HARD (min s.sched.eHard (2 ^ 32 - 1))
  let s := mullionPolicy s
  let s := mullionFabric s
  let s := countDetectors s
  let s := idxWait s
  let s := sashHold s
  let s := stashPause s
  let s := roundWait s
  let s := migrLate s
  let s := fastIssue ended s
  s.sched.sites.foldl mullionSite s

/-! The task window. -/

/-- The first failing field of a descriptor for its site (R33): 0 none, 1 `CLASS`, 2 `SITE`, 3 `CYCLES`, 4 `EUNIT`, 5 a token. -/
def descCheck (s : State) (d : Word32B) : Nat :=
  let c := dClass d
  let okSite := if c = 0 then decide (dSite d < 104)
    else if c = 2 ∨ c = 3 ∨ c = 4 ∨ c = 9 then decide (96 ≤ dSite d) && decide (dSite d < 104)
    else decide (dSite d < 96)
  let toks := dAwaits d ++ (if dRaises d = 0xFFFF then [] else [dRaises d])
  if 0xA < c then 1
  else if !okSite then 2
  else if dCycles d = 0 ∨ paneLen s - 128 < dCycles d then 3
  else if dEunit d = 3 then 4
  else if toks.any (fun t => decide (0x3FFF < t) || (kGet? s.sched.tokens t).isNone) then 5
  else 0

/-- A descriptor fetched at run time enters the window after the entries before it in table order; one that fails its checks
faults the job, with the site, the first failing field and the offset from the image base in its record (R34, R36). The
`COMMIT` tasks of a step whose commit has ended are discarded (R286). -/
def fetchDesc (s : State) (i p a : Nat) (x : SiteS) : State :=
  let d := wordAt s a
  if descCheck s d ≠ 0 then faultWith (setSite s i x) 0x1080 (i + 256 * descCheck s d + 65536 * (a - s.job.addr))
  else if started s = true ∧ dClass d = 0 ∧ p = s.step.committedStep then setSite s i x
  else
    let t : WinTask := { desc := d, addr := a, pass := p }
    setSite s i { x with window := x.window ++ [t] }

/-- The next fetch of a site: a re-run's pass first, then what it set aside, then the table (R36, R287, R437). -/
def refillOnce (i : Nat) (s : State) : State :=
  let x := site s i
  let l := siteTable s i
  if 64 ≤ windowPlaces x ∨ faulted s = true then s
  else match x.redo with
    | some (p, j) =>
      match l[j]? with
      | some a => fetchDesc s i p a { x with redo := if j + 1 < l.length then some (p, j + 1) else none }
      | none => setSite s i { x with redo := none }
    | none =>
      match x.parked with
      | t :: rest => setSite s i { x with window := x.window ++ [t], parked := rest }
      | [] =>
        if s.job.wicket ∧ x.pass ≠ 0 then s
        else match l[x.tableNext]? with
          | some a => fetchDesc s i x.pass a
              (if x.tableNext + 1 < l.length then { x with tableNext := x.tableNext + 1 }
               else { x with tableNext := 0, pass := x.pass + 1 })
          | none => s

/-- `WINDOW_REFILL` (R36): the site's share of the window is filled to 64 from its table, in table order. -/
def windowRefill (i : Nat) (s : State) : State :=
  if jobLive s then iter (refillOnce i) (64 - windowPlaces (site s i)) s else s

def execWindowRefill (site : Fin 104) (s : State) : Host.Outcome State Fault Refusal := runCmd (windowRefill site.val) s

end Sys2Proof.Machine
end

