-- ==== Sys2Proof/Machine/Mem.lean ====
section
/-! DEFINITION. The Brynlon stacks (03): address mapping, error correction, regions, refresh, the die interface. -/

namespace Sys2Proof.Machine

/-- I of R61 in bytes. -/
def ilvBytes (s : State) : Nat := fld s BRY_ILV_IGIB * 2 ^ 30

/-- G of R61. -/
def ilvGran (s : State) : Nat :=
  match fld s BRY_ILV_GRAN with
  | 0 => 256
  | 1 => 4096
  | 2 => 65536
  | _ => 2097152

/-- The stack and stack offset of a DRAM address (R61). -/
def stackOf (s : State) (a : Nat) : Nat × Nat :=
  let i := ilvBytes s
  let g := ilvGran s
  if a < 8 * i then (a / g % 8, a / (8 * g) * g + a % g)
  else
    let lc := 2 ^ 36 - i
    ((a - 8 * i) / lc, i + (a - 8 * i) % lc)

/-- The device address of a stack offset: the inverse of R61. -/
def addrOf (s : State) (k x : Nat) : Nat :=
  let i := ilvBytes s
  let g := ilvGran s
  if x < i then x / g * (8 * g) + k * g + x % g else 8 * i + k * (2 ^ 36 - i) + (x - i)

/-- The pseudo-channel of a stack offset (R60). -/
def pseudoChannel (x : Nat) : Nat := (bitsOf 8 5 x) ^^^ (bitsOf 21 5 x)

/-- The retained region and its upper half (R66). -/
def retainedBase : Nat := 0x007F80000000
def retainedUpper : Nat := 0x007FC0000000

/-- An access touches the retained region. -/
def inRetained (a n : Nat) : Bool := decide (retainedBase < a + n) && decide (a < dramTop)

/-- `BRY_UE_LOG` of the address's stack (R73). -/
def ueLog (s : State) (a req : Nat) : State :=
  let k := (stackOf s a).1
  firstRecord s BRY_UE_LOG_VALID k 0 (fun s =>
    setFld (setFld (setFld (setFld s BRY_UE_LOG_PCH (pseudoChannel (stackOf s a).2) k) BRY_UE_LOG_REQ req k)
      BRY_UE_LOG_ADDR a k) BRY_UE_LOG_PANE (pane s) k)

/-- The granules of an access. -/
def granules (a n : Nat) : List Nat :=
  if n = 0 then [] else (List.range ((a + n - 1) / 64 - a / 64 + 1)).map (fun i => a / 64 + i)

/-- The granules that an access covers only in part (R469). -/
def partGranules (a n : Nat) : List Nat :=
  (granules a n).filter (fun g => !(decide (a ≤ 64 * g) && decide (64 * g + 64 ≤ a + n)))

/-- A granule becomes uncorrectable. -/
def markBad (s : State) (g : Nat) : State := if s.bad.contains g then s else { s with bad := g :: s.bad }

/-- A corrected read: counted, and its row judged against the threshold; the report names the stack and the row (R75). -/
def corrected (s : State) (a : Nat) : State :=
  let k := (stackOf s a).1
  let s := event (bump s BRY_ECC_CE_COUNT 1 k) 0x5001
  let row := Config.dramRow (stackOf s a).2
  let st := stackS s k
  let n := kGetD st.rowCe row 0 + 1
  let raised := decide (fld s BRY_ECC_THRESH_ROW k < n) && !st.ceRaised.contains row
  let s := setStack s k { st with
    rowCe := kSet st.rowCe row n, ceRaised := if raised then row :: st.ceRaised else st.ceRaised }
  if raised then eventWith (bump s BRY_EVT_CE_ROW 1 k) 0x5002 (k + 16 * row) else s

/-- An uncorrectable error met by a requester: a fault while a job is loaded (R73), an event otherwise (R74, R469). R78 names the
event for the scrubber and for partial writes; a read with no job loaded raises it as well (DESIGN CHOICE, log 115). -/
def uncorrectable (s : State) (a req : Nat) : State :=
  let s := ueLog (markBad s (a / 64)) a req
  if jobLoaded s then fault s 0x5080 (some (BRY_UE_LOG.at (stackOf s a).1 0))
  else event (bump s BRY_EVT_UE_IDLE 1 (stackOf s a).1) 0x5004

/-- The first granule of an access that holds an uncorrectable error. -/
def firstBad (s : State) (l : List Nat) : Option Nat := l.find? (fun g => s.bad.contains g)

/-- A granule read: with one or two symbols in error it is corrected, written back and counted (R72, R75). -/
def heal (s : State) (g : Nat) : State :=
  if kGetD s.weak g 0 = 0 then s else corrected { s with weak := kErase s.weak g } (64 * g)

/-- Granules read through the controller's check (R72). -/
def healAll (s : State) (l : List Nat) : State := l.foldl heal s

/-- Granules read by a requester: what is correctable is corrected, and the first uncorrectable one ends the read without
data (R72, R73). -/
def readGranules (s : State) (l : List Nat) (req : Nat) : State × Bool :=
  let s := healAll s l
  match firstBad s l with
  | some g => (uncorrectable s (64 * g) req, false)
  | none => (s, true)

/-- A read of `n` bytes of DRAM from `a` by a requester, and whether it delivers data. -/
def dramRead (s : State) (a n req : Nat) : State × Bool := readGranules s (granules a n) req

/-- A long range read by a requester, as `dramRead` reads it: of its granules only those that hold an error matter. -/
def readSpan (s : State) (a n req : Nat) : State × Bool :=
  let hit := fun (g : Nat) => decide (64 * g < a + n) && decide (a < 64 * g + 64)
  readGranules s (sortBy (fun x y => decide (x < y)) (((s.weak.map (fun e => e.1)) ++ s.bad).filter hit)) req

/-- Symbols of a granule turned wrong: up to two in all can be corrected, more are detected (R72). -/
def upset (s : State) (g n : Nat) : State :=
  let have_ := kGetD s.weak g 0 + n
  if s.bad.contains g ∨ n = 0 then s
  else if have_ ≤ 2 then { s with weak := kSet s.weak g have_ }
  else markBad { s with weak := kErase s.weak g } g

/-- A DRAM write by the stack controller (R469): a whole granule replaces, a part merges with a read. The bytes of every part
granule whose read is uncorrectable stay as they were, and each such granule is reported. `req` names the writing
requester. -/
def dramWrite (s : State) (a : Nat) (bs : List Byte) (req : Nat) : State :=
  let parts := partGranules a bs.length
  let s := healAll s parts
  match parts.filter (fun g => s.bad.contains g) with
  | [] => store s a bs
  | keep =>
    let cells := ((List.range bs.length).zip bs).filter (fun e => !keep.contains ((a + e.1) / 64))
    let s1 : State := { store s a bs with mem := cells.foldl (fun m e => memWrite m (a + e.1) e.2) s.mem }
    keep.foldl (fun s g => uncorrectable s (64 * g) req) s1

/-- A 64-bit word of the index region's status block (R16), where there is such a region: a write through the die interface,
whose part of a granule merges like any other (R469). -/
def writeIndexStatus (s : State) (off v : Nat) : State :=
  match indexBase s with
  | none => s
  | some b => dramWrite s (b + off) (leBytes 8 v) 0

/-- The DRAM as another `BRY_ILV` maps it: what stands at a stack and offset stays there, and answers under the device address
that the new map gives them (R61). -/
def remapDram (s t : State) : State :=
  let moved := fun a => addrOf t (stackOf s a).1 (stackOf s a).2
  let dram := t.mem.filter (fun e => decide (e.1 < dramTop))
  let gran := fun g => if 64 * g < dramTop then moved (64 * g) / 64 else g
  { t with mem := dram.foldl (fun m e => memWrite m (moved e.1) e.2) (t.mem.filter (fun e => !decide (e.1 < dramTop))),
           bad := t.bad.map gran, weak := t.weak.foldl (fun m e => kSet m (gran e.1) e.2) [] }

/-- A change of state that may change `BRY_ILV`: the DRAM follows it. -/
def followIlv (s t : State) : State :=
  if ilvBytes t = ilvBytes s ∧ ilvGran t = ilvGran s then t else remapDram s t

/-- The number of a requester in `BRY_UE_LOG.REQ`. -/
def reqNo : Requester → Nat
  | .dieInterface => 0
  | .graphEngine => 1
  | .scrubber => 2

/-- A region write past the end of its region (R64). -/
def pastRegion (s : State) (kind stack a n : Nat) : Bool :=
  match region s kind stack with
  | none => true
  | some (b, size) => decide (a < b) || decide (b + size < a + n)

/-- `REGION_BOUND` with the region kind, the stack and the pane (R64). -/
def regionBound (s : State) (kind stack : Nat) : State := faultWith s 0x5082 (kind + 256 * stack + 65536 * pane s)

/-- Bytes that a request moves. -/
def reqBytes (q : MemReq) : Nat := if q.isWrite then q.data.length else q.len

/-- The pseudo-channels of the part that a request touches, as 32 × stack + channel (R60). -/
def channels (s : State) (q : MemReq) : List Nat :=
  ((granules q.addr (reqBytes q)).map (fun g =>
    32 * (stackOf s (64 * g)).1 + pseudoChannel (stackOf s (64 * g)).2)).eraseDups

/-- Two requests meet on a pseudo-channel. -/
def sharesChannel (s : State) (a b : MemReq) : Bool := (channels s a).any (fun c => (channels s b).contains c)

/-- A task that reads weights for its micro-batch (R277): of class `FWD` or `BPART`, or an `XFER` that the image names as such. -/
def readsWeights (s : State) (d : Word32B) : Bool :=
  dClass d == 5 || dClass d == 1 || (dClass d == 7 && s.job.extra.weightXfer.contains (dTaskId d))

/-- The sash that a micro-batch is tagged with (R277). -/
def tagOf (s : State) (step mb : Nat) : Option Nat :=
  (s.step.tags.find? (fun t => t.1 == step && t.2.1 == mb)).map (fun t => t.2.2)

/-- An address within a sash of a weight tensor, in the sash of parity `p` (R276). -/
def sashAddr (s : State) (p a : Nat) : Nat :=
  let within := fun (b : Nat) (x : Tensor) => decide (b ≤ a) && decide (a < b + x.sashBytes)
  match s.job.tensors.find? (fun x => within x.sashA x || within x.sashB x) with
  | none => a
  | some x => (if p = 0 then x.sashA else x.sashB) + (a - (if within x.sashA x then x.sashA else x.sashB))

/-- Where a request goes: a weight read of a tagged micro-batch to the sash of its tag (R277), any other to its own address. -/
def goesTo (s : State) (q : MemReq) : Nat :=
  match (site s q.site.val).run with
  | none => q.addr
  | some t =>
    if q.isWrite || !readsWeights s t.desc then q.addr
    else match tagOf s t.pass (dMb t.desc) with
      | some p => sashAddr s p q.addr
      | none => q.addr

/-- A request issued now. -/
def openReq (s : State) (q : MemReq) : OpenReq := { req := q, goes := if goesTo s q = q.addr then none else some (goesTo s q) }

/-- A request as its stack controller sees it. -/
def OpenReq.sent (r : OpenReq) : MemReq := { r.req with addr := r.goes.getD r.req.addr }

/-- The endpoint at which a request's stack is attached to the mesh. -/
def stackSite (s : State) (q : MemReq) : Nat := 96 + (stackOf s q.addr).1

/-- What the mesh carries as a tile issues a request (R150): the request, and a write's data. A base die's own requests do not cross it. -/
def sendRequest (s : State) (q : MemReq) : State :=
  if 96 ≤ q.site.val then s
  else
    let s := meshSend s .request false q.site.val (stackSite s q)
    if q.isWrite then meshSend s .data q.plane0 q.site.val (stackSite s q) else s

/-- What it carries back: a read's data. -/
def returnData (s : State) (q : MemReq) : State :=
  if 96 ≤ q.site.val || q.isWrite then s else meshSend s .data q.plane0 (stackSite s q) q.site.val

/-- A request comes through the die-interface port. -/
def viaDie (q : MemReq) : Bool := q.requester == .dieInterface

/-- The turn of the `i`-th open request (R68): its issue pane, then its place among the requests of its port in that pane, in
shares of the weight that `BRY_ARB` gives the other port, then the port and the place. -/
def turnOf (s : State) (l : List OpenReq) (i : Nat) (q : MemReq) : List Nat :=
  let k := (stackOf s q.addr).1
  let ahead := ((l.take i).filter (fun r => r.req.issuePane == q.issuePane && viaDie r.req == viaDie q)).length
  let other := if viaDie q then fld s BRY_ARB_W_GRE k else fld s BRY_ARB_W_DIE k
  [q.issuePane, ahead * other, b2n (!viaDie q), i]

/-- The controller serves the `i`-th open request now: its completion has come, and no open request that it shares a channel with
has an earlier turn (R68). So requests of one port in one pane keep their issue order, and every write of an earlier pane has
taken effect (R69). -/
def servesNow (s : State) (l : List OpenReq) (i : Nat) (r : OpenReq) : Bool :=
  r.ecc.isSome && !r.landed &&
  ((List.range l.length).zip l).all (fun e =>
    e.1 == i || e.2.landed || !sharesChannel s e.2.sent r.sent ||
      !decide (turnOf s l e.1 e.2.sent < turnOf s l i r.sent))

/-- What a request does at its stack controller (R42, R69, R72, R73, R469): a write puts its bytes in place, a read brings its data
to the tile that asked. -/
def serveRequest (s : State) (q : MemReq) (ecc : Ecc) : State :=
  let reads := if q.isWrite then partGranules q.addr (reqBytes q) else granules q.addr (reqBytes q)
  let s := if ecc = .uncorrectable then (reads.head?.map (markBad s)).getD s else s
  let s := if ecc = .corrected ∧ reads ≠ [] then corrected s q.addr else s
  if q.isWrite then dramWrite s q.addr q.data (reqNo q.requester)
  else
    let r := dramRead s q.addr q.len (reqNo q.requester)
    if r.2 ∧ q.site.val < 96 then store (returnData r.1 q) (tileBase q.site.val + q.dst) (load r.1 q.addr q.len) else r.1

/-- The data of the `i`-th open request is in place. A completion whose snapshot is past counts its token at once (R53, log 17). -/
def landRequest (s : State) (i : Nat) (r : OpenReq) : State :=
  let past := !r.promised && decide (r.req.issuePane + 2 ≤ pane s)
  let s := if past && !r.late then event (bump s PANE_EVT_MEM_LATE) 0x1003 else s
  let r' := { r with landed := true, promised := r.promised || past }
  let s := { s with sched := { s.sched with memReqs := (listSet s.sched.memReqs i r').filter (fun r => !r.closed_) } }
  if past then countToken s r else s

/-- The requests that can be served are served, each in its turn (R68). -/
def serveRequests : Nat → State → State
  | 0, s => s
  | n + 1, s =>
    let l := s.sched.memReqs
    match ((List.range l.length).zip l).find? (fun e => servesNow s l e.1 e.2) with
    | none => s
    | some (i, r) =>
      let t := serveRequest s r.sent (r.ecc.getD .clean)
      if faulted t then t else serveRequests n (landRequest t i r)

/-- The request stands among the open ones with its completion noted: at the place of its issue, or at the end where no command
told its issue. -/
def noteCompletion (s : State) (q : MemReq) (ecc : Ecc) (l : List OpenReq) : List OpenReq :=
  match ((List.range l.length).zip l).find? (fun e => e.2.req == { q with phase := .issue } && e.2.ecc.isNone) with
  | some (i, r) => listSet l i { r with ecc := some ecc }
  | none => l ++ [{ openReq s { q with phase := .issue } with ecc := some ecc }]

/-- `MEMORY_REQUEST_COMPLETE` (R42, R277, R64, R66, R68–R75, R469). A request into the retained region, or past the DRAM map where no
memory is (DESIGN CHOICE, log 116), is refused as it comes. -/
def memoryRequestComplete (q : MemReq) (ecc : Ecc) (s : State) : State :=
  if jobLoaded s = false then s
  else if dramTop < q.addr + (reqBytes q) ∨ inRetained q.addr (reqBytes q) = true then fault s 0x5083
  else if q.isWrite ∧ 3 ≤ q.region ∧ pastRegion s q.region q.regionStack.val q.addr (reqBytes q) = true then
    regionBound s q.region q.regionStack.val
  else
    let l := s.sched.memReqs
    match q.phase with
    | .issue => sendRequest { s with sched := { s.sched with memReqs := l ++ [openReq s q] } } (openReq s q).sent
    | .complete =>
      let l := noteCompletion s q ecc l
      let s := if l.length = s.sched.memReqs.length then s else sendRequest s (openReq s q).sent
      serveRequests l.length { s with sched := { s.sched with memReqs := l } }

def execMemoryRequestComplete (req : MemReq) (ecc : Ecc) (s : State) : Host.Outcome State Fault Refusal :=
  runCmd (memoryRequestComplete req ecc) s

/-- `PATROL_SCRUB_READ` (R72, R74, R75): the granule at a stack offset. A pass that begins again begins a new period. -/
def patrolScrubRead (k offset : Nat) (ecc : Ecc) (s : State) : State :=
  if fld s BRY_SCRUB_EN k = 0 ∨ fld s BRY_STATUS_TRAINED k = 0 ∨ 2 ^ 36 ≤ offset then s
  else
    let st := stackS s k
    let s := setStack s k (if offset < st.patrol then { st with patrol := offset, rowCe := [], ceRaised := [] }
      else { st with patrol := offset })
    let a := addrOf s k offset
    let g := a / 64
    if ecc = .uncorrectable ∨ s.bad.contains g = true then
      if jobLoaded s then uncorrectable s (64 * g) 2
      else store (uncorrectable s (64 * g) 2) (64 * g) (List.replicate 64 0)
    else if ecc = .corrected then corrected s a
    else heal s g

def execPatrolScrubRead (stack : Fin 8) (offset : Nat) (ecc : Ecc) (s : State) : Host.Outcome State Fault Refusal :=
  runCmd (patrolScrubRead stack.val offset ecc) s

/-- `BANK_REFRESH` (R71): one bank of one pseudo-channel refreshed by the controller; not while the DRAM refreshes itself. `lost`
names the granules of the stack that have turned wrong since, with the symbols in error (R72; log 117). -/
def bankRefresh (k pch bank : Nat) (lost : List (Nat × Nat)) (s : State) : State :=
  if fld s BRY_STATUS_TRAINED k = 1 ∧ fld s BRY_STATUS_SELF_REF k = 0 then
    let st := stackS s k
    let key := pch * 65536 + bank
    let s := setStack s k { st with refreshes := kSet st.refreshes key (kGetD st.refreshes key 0 + 1) }
    lost.foldl (fun s e => if e.1 < 2 ^ 30 then upset s (addrOf s k (64 * e.1) / 64) e.2 else s) s
  else s

def execBankRefresh (stack : Fin 8) (pch : Fin 32) (bank : Refreshed) (s : State) : Host.Outcome State Fault Refusal :=
  runCmd (bankRefresh stack.val pch.val bank.bank bank.lost) s

/-- `DRAM_TEMP_REPORT` (R71): above 85 °C the die's refresh interval is halved, at 80 °C or less it is normal again. -/
def dramTempReport (k die celsius : Nat) (s : State) : State :=
  if power s = 0 then s else
  let st := stackS s k
  let was := st.x2.contains die
  let x2 := if 85 < celsius then (if was then st.x2 else die :: st.x2)
    else if celsius ≤ 80 then st.x2.filter (fun d => d != die) else st.x2
  let st := { st with temps := kSet st.temps die celsius, x2 := x2 }
  let s := setStack s k st
  let s := setFld s BRY_STATUS_DRAM_TEMP (st.temps.foldl (fun m e => max m e.2) 0) k
  let s := setFld s BRY_STATUS_REF_X2 (b2n (x2 != [])) k
  if !was && decide (85 < celsius) then event s 0x5005 else s

def execDramTempReport (stack : Fin 8) (die : Fin 16) (celsius : Nat) (s : State) : Host.Outcome State Fault Refusal :=
  runCmd (dramTempReport stack.val die.val celsius) s

/-- `DIE_INTERFACE_REPLAY` (R76): a transfer replayed at cycle `t`; the eighth within 1,024 cycles makes a recentre due. -/
def dieInterfaceReplay (k t : Nat) (s : State) : State :=
  if fld s BRY_STATUS_TRAINED k = 0 then s else
  let st := stackS s k
  let l := t :: st.replays.filter (fun u => decide (t ≤ u + 1024))
  setStack (bump s BRY_EVT_REPLAY 1 k) k { st with replays := l, recentreDue := st.recentreDue || decide (8 ≤ l.length) }

def execDieInterfaceReplay (stack : Fin 8) (t : Nat) (s : State) : Host.Outcome State Fault Refusal :=
  runCmd (dieInterfaceReplay stack.val t) s

/-- `BRY_RECENTRE` (R76): the port is recentred and stalls 1,200 cycles; a fourth recentre within 65,536 cycles of the first
faults the job in its place. -/
def bryRecentre (k t : Nat) (s : State) : State :=
  let st := stackS s k
  if st.recentreDue = false then s else
  let l := st.recentres.filter (fun u => decide (t ≤ u + 65536))
  if 3 ≤ l.length then fault (setStack s k { st with recentreDue := false, replays := [], recentres := l }) 0x5081
  else
    let s := setStack s k { st with
      recentreDue := false, replays := [], recentres := t :: l }
    event (bump s BRY_EVT_RECENTRE 1 k) 0x5003

def execBryRecentre (stack : Fin 8) (t : Nat) (s : State) : Host.Outcome State Fault Refusal :=
  runCmd (bryRecentre stack.val t) s

end Sys2Proof.Machine
end

