-- ==== Sys2Proof/Machine/Cache.lean ====
section
/-! DEFINITION. The row cache of a base die (05, R123, R124) and the counters of the running step (R115, R142). The cache has 16
ways; its sets, and what is replaced, are the model's (log 125). It holds the bytes that memory holds, since every writer of a row
writes the cached copy too (R124), so its entries carry no bytes. -/

namespace Sys2Proof.Machine

/-- A counter of the running step (R115, R142): 0 draws, 1 remote, 2 contributions, 3 rows, 4 hits, 5 misses, 6 staged,
7 staged rows used. -/
def countRun_ (s : State) (k i d : Nat) : State :=
  let e := emb s k
  setEmb s k { e with run := listSet e.run i (e.run.getD i 0 + d) }

/-- A free value of the model (log 7). -/
def drawFree (s : State) : State × Nat := ({ s with free := s.free + 1 }, Config.freeValue s.free)

/-- An entry is that of a row, or of a node record, in a version. -/
def isEntry (t ver row : Nat) (c : CacheEnt) : Bool := c.table == t && c.version == ver && c.row == row

/-- The row cache holds the row. -/
def cacheHolds (s : State) (k t ver row : Nat) : Bool := (emb s k).cache.any (isEntry t ver row)

/-- A row enters its set, in one of the first `ways` ways: an empty one, or the one that a free value names. -/
def cacheEnter (s : State) (k t ver row ways : Nat) (staged : Bool) : State :=
  let e := emb s k
  let st := Config.cacheSet t ver row
  let used := (e.cache.filter (fun c => c.set == st)).map (fun c => c.way)
  let (s, w) := match (List.range ways).find? (fun i => !used.contains i) with
    | some w => (s, w)
    | none => ((drawFree s).1, (drawFree s).2 % ways)
  setEmb s k { e with cache := ⟨st, w, t, ver, row, staged⟩ :: e.cache.filter (fun c => !(c.set == st && c.way == w)) }

/-- The row cache asked for a row: a hit is counted, and the first of a staged row as that; a miss is counted, and the row enters. -/
def cacheTouch (s : State) (k t ver row : Nat) : State :=
  let e := emb s k
  match e.cache.find? (isEntry t ver row) with
  | none => countRun_ (cacheEnter s k t ver row 16 false) k 5 1
  | some c =>
    let s := setEmb s k { e with
      cache := e.cache.map (fun (x : CacheEnt) => if isEntry t ver row x then { x with staged := false } else x) }
    let s := countRun_ s k 4 1
    if c.staged then countRun_ s k 7 1 else s

/-- The table number that node records have in the row cache. -/
def nodeTable : Nat := 64

end Sys2Proof.Machine
end

