-- ==== Sys2Proof/Machine/Rng.lean ====
section
/-! DEFINITION. The keyed generator (13): F, the context and counter words, and the word of a coordinate. -/

namespace Sys2Proof.Machine

/-- The state of F's rounds: the four words. -/
structure RngQuad where
  a : BitVec 32
  b : BitVec 32
  c : BitVec 32
  d : BitVec 32
  deriving DecidableEq, Repr

/-- One round of F with its key word and its round constant (R299). -/
def rngRound (v : RngQuad) (k : BitVec 32) (r : Nat) : RngQuad :=
  let a := v.a + v.b
  let d := (v.d ^^^ a).rotateLeft 16
  let c := v.c + d
  let b := (v.b ^^^ c).rotateLeft 12
  let a := a + b
  let d := (d ^^^ a).rotateLeft 8
  let c := c + d
  let b := (b ^^^ c).rotateLeft 7
  let a := a + k
  { a := a, b := b, c := c, d := d ^^^ (0x9E3779B9#32 + BitVec.ofNat 32 r) }

/-- The generator function F (R299): seed, context words, counter words. -/
def rngF (seed : Nat) (t x : List (BitVec 32)) : List (BitVec 32) :=
  let k := (List.range 4).map (fun i => BitVec.ofNat 32 (seed >>> (32 * i)) ^^^ t.getD i 0)
  let w := fun i => x.getD i 0 ^^^ k.getD i 0
  let v : RngQuad := { a := w 0, b := w 1, c := w 2, d := w 3 }
  let v := (List.range 10).foldl (fun v r => rngRound v (k.getD (r % 4) 0) r) v
  [v.a + k.getD 0 0, v.b + k.getD 1 0, v.c + k.getD 2 0, v.d + k.getD 3 0]

/-- The word for coordinate c (R301, R303) in a stream with its layer and micro-batch fields and its step field. -/
def rngWord (seed step stream layer mb c : Nat) : BitVec 32 :=
  let t := [BitVec.ofNat 32 step, BitVec.ofNat 32 (step >>> 32),
    BitVec.ofNat 32 (stream % 256 + 256 * (layer % 256) + 65536 * (mb % 65536)), 0]
  let q := c >>> 2
  (rngF seed t [BitVec.ofNat 32 q, BitVec.ofNat 32 (q >>> 32 % 2 ^ 30), 0, 0]).getD (c % 4) 0

end Sys2Proof.Machine
end

