-- ==== Sys2Proof/Machine/Operands.lean ====
section
/-! DEFINITION. Operand forms (08): the element formats of R182, packing (R185), MX blocks and scales (R183, R186),
conversion (R194–R196), and the addresses of a tile window (R151). -/

namespace Sys2Proof.Machine

/-- Bits of an element of a format (R182). -/
def fmtBits (f : Nat) : Nat :=
  match f with
  | 0 => 4 | 1 => 6 | 2 => 6 | 3 => 8 | 4 => 8 | 5 => 8 | 6 => 8 | 7 => 4 | 8 => 16 | 9 => 16 | 10 => 32 | _ => 0

/-- A format code of R182. -/
def fmtOk (f : Nat) : Bool := decide (f ≤ 10)

/-- The MX formats (R183). -/
def fmtMx (f : Nat) : Bool := decide (f ≤ 5)

/-- The integer formats without scale (R184). -/
def fmtInt (f : Nat) : Bool := f == 6 || f == 7

/-- The floating-point grid of a format; MXINT8 and the integers have none. -/
def fmtFp (f : Nat) : Fp :=
  match f with
  | 0 => fpE2M1 | 1 => fpE2M3 | 2 => fpE3M2 | 3 => fpE4M3 | 4 => fpE5M2 | 8 => fpBF16 | 9 => fpFP16 | _ => fpFP32

/-- e_max of an MX format (R182). -/
def fmtEmax (f : Nat) : Int :=
  match f with
  | 0 => 2 | 1 => 2 | 2 => 4 | 3 => 8 | 4 => 15 | _ => 0

/-- Bytes of a row of `n` elements (R185). -/
def fmtBytes (f n : Nat) : Nat := (n * fmtBits f + 7) / 8

/-- An integer as a number. -/
def numOfInt (z : Int) (e : Int) : Num := .fin (decide (z < 0)) z.natAbs e

/-- The value of an element pattern without its scale; `sgn` is the operand's `SIGN` bit for the integers (R182, R184). -/
def decodeElem (f : Nat) (strict sgn : Bool) (w : Nat) : Num :=
  if f = 5 then numOfInt (signed 8 w) (-6)
  else if fmtInt f then numOfInt (if sgn then signed (fmtBits f) w else (w : Int)) 0
  else readNum (fmtFp f) strict w

/-- A number under an E8M0 scale byte (R183). -/
def scaleNum (b : Nat) (x : Num) : Num :=
  if b = 255 then .nan 0x7FC00000
  else match x with
    | .fin s m e => .fin s m (e + ((b : Int) - 127))
    | y => y

/-- The patterns of a packed row of `n` elements (R185). -/
def unpackRow (f n : Nat) (bs : List Byte) : List Nat :=
  let w := leNat bs
  (List.range n).map (fun i => bitsOf (i * fmtBits f) (fmtBits f) w)

/-- A row of patterns packed (R185). -/
def packRow (f : Nat) (l : List Nat) : List Byte :=
  let w := ((List.range l.length).zip l).foldl (fun a e => a + e.2 * 2 ^ (e.1 * fmtBits f)) 0
  leBytes (fmtBytes f l.length) w

/-- What a conversion gives for one element or block, and what it counts (R194, R199). -/
structure ConvOut where
  bits : List Nat
  scale : Nat := 0
  sat : Nat := 0
  toInf : Nat := 0
  drew : List Nat := []
  iv : Bool := false
  ovf : Bool := false
  uf : Bool := false
  nx : Bool := false
  nf : Bool := false
  flush : Nat := 0
  negz : Nat := 0
  first : Option (Nat × Bool) := none
  deriving DecidableEq, Repr

/-- The record of the lower element. -/
def minFirst (a b : Option (Nat × Bool)) : Option (Nat × Bool) :=
  match a, b with
  | some x, some y => if y.1 < x.1 then some y else some x
  | some x, none => some x
  | none, y => y

/-- Two conversions side by side. -/
def ConvOut.append (a b : ConvOut) : ConvOut :=
  { bits := a.bits ++ b.bits, scale := b.scale, sat := a.sat + b.sat, toInf := a.toInf + b.toInf,
    drew := a.drew ++ b.drew, iv := a.iv || b.iv, ovf := a.ovf || b.ovf, uf := a.uf || b.uf, nx := a.nx || b.nx,
    nf := a.nf || b.nf, flush := a.flush + b.flush, negz := a.negz + b.negz, first := minFirst a.first b.first }

/-- How a conversion rounds: format, mode, T, and the rounding of each lane (its random bits for stochastic rounding). -/
structure ConvHow where
  fmt : Nat
  strict : Bool
  t : Int
  rm : Nat
  lane : Nat → Nat
  lo : Int := -127
  hi : Int := 127

/-- The rounding of lane `i`. -/
def ConvHow.rmOf (c : ConvHow) (i : Nat) : Rm :=
  match c.rm with
  | 1 => .rtz | 2 => .rup | 3 => .rdn | 4 => .sr (c.lane i) | _ => .rne

/-- A magnitude on the signed integer grid of step 2^q, at most `lim`; whether it was beyond, and inexact. -/
def roundInt (rm : Rm) (neg : Bool) (m : Nat) (e q : Int) (lim : Nat) : Nat × Bool × Bool :=
  if q ≤ e then
    let n := m * 2 ^ (e - q).toNat
    (min n lim, decide (lim < n), false)
  else
    let d := (q - e).toNat
    let fl := m / 2 ^ d
    let rem := m % 2 ^ d
    let up := match rm with
      | .rne => decide (2 ^ d < 2 * rem) || (2 * rem == 2 ^ d && fl % 2 == 1)
      | .rtz => false
      | .rup => !neg && rem != 0
      | .rdn => neg && rem != 0
      | .sr r => decide (r % 65536 < rem * 65536 / 2 ^ d)
    let n := if up then fl + 1 else fl
    (min n lim, decide (lim < n), rem != 0)

/-- One element of an MX block under scale exponent `x`; `clamped` says that the scale was clamped at its upper end. -/
def convMxElem (c : ConvHow) (x : Int) (clamped : Bool) (i : Nat) (v : Num) : ConvOut :=
  let f := fmtFp c.fmt
  match v with
  | .nan w =>
    let iv := c.strict && isSnan v
    { bits := [if c.fmt = 4 then (nanOf f c.strict w).bits else f.nan], nf := true, iv := iv, first := some (i, iv) }
  | .inf s =>
    if c.fmt = 4 then { bits := [f.infPat + if s then f.signBit else 0], nf := true, first := some (i, false) }
    else { bits := [f.nan], nf := true, first := some (i, false) }
  | .fin s m e =>
    let e := e + c.t - x
    if c.fmt = 5 then
      let (n, big, nx) := roundInt (c.rmOf i) s m e (-6) 127
      { bits := [unsigned 8 (if s then -(n : Int) else n)], sat := b2n (big && clamped), ovf := big && clamped,
        nx := nx, drew := if nx && c.rm == 4 then [i] else [] }
    else if m = 0 then { bits := [if s && c.strict then f.signBit else 0], negz := b2n (s && !c.strict) }
    else
      let r := roundTo f.fb f.emin (c.rmOf i) s m e
      let p := packMag f r
      let big := decide (f.maxPat < p)
      let p := min p f.maxPat
      let neg0 := p == 0 && s && !c.strict
      { bits := [p + (if s && !neg0 then f.signBit else 0)], sat := b2n (big && clamped), ovf := big && clamped,
        nx := r.inexact, uf := r.inexact && decide (p < 2 ^ f.fb), drew := if r.inexact && c.rm == 4 then [i] else [],
        negz := b2n neg0 }

/-- The largest of the finite magnitudes of a block, as the exponent of its leading bit. -/
def blockExp (l : List Num) : Option Int :=
  l.foldl (fun acc v => match v with
    | .fin _ m e =>
      if m = 0 then acc
      else let k := (Nat.log2 m : Int) + e
        match acc with
        | none => some k
        | some j => some (max j k)
    | _ => acc) none

/-- Whether a block becomes a NaN scale with zero elements (R190, R194): formats that hold no NaN. -/
def blockNan (fmt : Nat) (l : List Num) : Bool :=
  (fmt == 0 || fmt == 1 || fmt == 2 || fmt == 5) &&
  l.any (fun v => match v with | .fin _ _ _ => false | _ => true)

/-- One MX block converted (R194); `idx` gives each element's index in the instruction. -/
def convBlock (c : ConvHow) (l : List (Nat × Num)) : ConvOut :=
  if blockNan c.fmt (l.map (fun e => e.2)) then
    { bits := l.map (fun _ => 0), scale := 255, nf := true, iv := c.strict && l.any (fun e => isSnan e.2),
      first := (l.find? (fun e => match e.2 with | .fin _ _ _ => false | _ => true)).map (fun e =>
        (e.1, c.strict && isSnan e.2)) }
  else
    let raw := match blockExp (l.map (fun e => e.2)) with
      | none => c.lo
      | some k => k + c.t - fmtEmax c.fmt
    let x := min (max raw c.lo) c.hi
    let r := l.foldl (fun (acc : ConvOut) e => acc.append (convMxElem c x (decide (c.hi < raw)) e.1 e.2)) { bits := [] }
    { r with scale := (x + 127).toNat }

/-- One element of any other format converted (R194). Integers are written signed (log 29). -/
def convElem (c : ConvHow) (i : Nat) (v : Num) : ConvOut :=
  let f := fmtFp c.fmt
  if fmtInt c.fmt then
    let b := fmtBits c.fmt
    let top := 2 ^ (b - 1) - 1
    match v with
    | .nan _ => { bits := [0], iv := true, first := some (i, true) }
    | .inf s => { bits := [if s then 2 ^ (b - 1) else top], iv := true, first := some (i, true) }
    | .fin s m e =>
      let (n, big, nx) := roundInt (c.rmOf i) s m (e + c.t) 0 (if s then top + 1 else top)
      { bits := [unsigned b (if s then -(n : Int) else n)], sat := b2n big, ovf := big, nx := nx,
        drew := if nx && c.rm == 4 then [i] else [] }
  else match v with
    | .nan w =>
      let iv := c.strict && isSnan v
      { bits := [(nanOf f c.strict w).bits], nf := true, iv := iv, first := some (i, iv) }
    | .inf s => { bits := [f.infPat + if s then f.signBit else 0], nf := true, first := some (i, false) }
    | .fin s m e =>
      let r := roundRes f c.strict (c.rmOf i) s m (e + c.t)
      let inf := isNonFinite f r.bits
      { bits := [r.bits], toInf := b2n inf, ovf := r.ovf, nf := inf, nx := r.nx, uf := r.uf, flush := b2n r.flush,
        negz := b2n r.negz, first := if inf then some (i, false) else none, drew := if r.nx && c.rm == 4 then [i] else [] }

/-- A run of elements converted, in blocks of 32 where the format is MX: the patterns and the scale bytes. -/
def convRun (c : ConvHow) (l : List (Nat × Num)) : ConvOut × List Nat :=
  if fmtMx c.fmt then
    let blocks := (List.range ((l.length + 31) / 32)).map (fun b => convBlock c ((l.drop (32 * b)).take 32))
    (blocks.foldl (fun (acc : ConvOut) b => acc.append b) { bits := [] }, blocks.map (fun b => b.scale))
  else (l.foldl (fun (acc : ConvOut) e => acc.append (convElem c e.1 e.2)) { bits := [] }, [])

/-- The conversion of the base dies: round to nearest even, T = 0. -/
def plainConv (fmt : Nat) (strict : Bool) : ConvHow :=
  { fmt := fmt, strict := strict, t := 0, rm := 0, lane := fun _ => 0 }

/-- The job's arithmetic mode (R188). -/
def strictMode (s : State) : Bool := s.job.strict

/-- A tile's scratchpad and banks (R151): 8 MiB, then two banks of 64 KiB. -/
def spadBytes : Nat := 0x800000
def bankBase (b : Nat) : Nat := 0x800000 + b * 0x10000

/-- An offset range lies in the scratchpad, or in one bank. -/
def inSpad (a n : Nat) : Bool := decide (a + n ≤ spadBytes)
def inBank (a n : Nat) : Bool :=
  (decide (bankBase 0 ≤ a) && decide (a + n ≤ bankBase 1)) ||
  (decide (bankBase 1 ≤ a) && decide (a + n ≤ bankBase 1 + 0x10000))

/-- An offset range lies in one area of the tile window (R197). -/
def inTile (a n : Nat) : Bool := inSpad a n || inBank a n

/-- Bytes of a tile's window. -/
def tload (s : State) (t a n : Nat) : List Byte := load s (tileBase t + a) n

/-- Bytes stored into a tile's window. -/
def tstore (s : State) (t a : Nat) (bs : List Byte) : State := store s (tileBase t + a) bs

/-- The FP32 word of a bank (R208). -/
def bankWord (s : State) (t b row col : Nat) : BitVec 32 := loadW s (tileBase t + bankBase b + 512 * row + 4 * col)

/-- A bank word written. -/
def setBankWord (s : State) (t b row col : Nat) (w : BitVec 32) : State :=
  storeNat s (tileBase t + bankBase b + 512 * row + 4 * col) 4 w.toNat

end Sys2Proof.Machine
end

