-- ==== Sys2Proof/Machine/Panels.lean ====
section
/-! DEFINITION. Block-bitmap form (10): map entries (R228, R229), the scratchpad areas of a panel (R230), the transport form
(R232), and the conversion of rows into a panel (R234). -/

namespace Sys2Proof.Machine

/-- The fields of a map entry (R228). -/
def mapPresent (m : Nat) : Nat := bitsOf 0 64 m
def mapNf (m : Nat) : Nat := bitsOf 64 64 m
def mapOwed (m : Nat) : Nat := bitsOf 128 64 m
def mapRowCnt (m r : Nat) : Nat := bitsOf (192 + 4 * r) 4 m
def mapCount (m : Nat) : Nat := bitsOf 224 7 m
def mapFmt (m : Nat) : Nat := bitsOf 232 4 m
def mapSaxis (m : Nat) : Nat := bitsOf 236 1 m
def mapCap (m : Nat) : Nat := bitsOf 240 7 m

/-- The bits set among the first 64. -/
def popCount (m : Nat) : Nat := ((List.range 64).filter (fun i => bitOf i m)).length

/-- Present blocks of block row `r`. -/
def rowCount (present r : Nat) : Nat := popCount (bitsOf (8 * r) 8 present)

/-- A map entry (R228). -/
def mapEntry (present nf owed fmt saxis cap : Nat) : Nat :=
  present + nf * 2 ^ 64 + owed * 2 ^ 128 +
  sumOf ((List.range 8).map (fun r => rowCount present r * 2 ^ (192 + 4 * r))) +
  popCount present * 2 ^ 224 + fmt * 2 ^ 232 + saxis * 2 ^ 236 + cap * 2 ^ 240

/-- A map entry is valid (R229). -/
def mapValid (m : Nat) : Bool :=
  mapCount m == popCount (mapPresent m) && decide (mapCount m ≤ mapCap m) &&
  (List.range 8).all (fun r => mapRowCnt m r == rowCount (mapPresent m) r) &&
  decide ((mapNf m ||| mapOwed m) &&& mapPresent m = (mapNf m ||| mapOwed m))

/-- Why a map entry may not be read (R229): reason, as `SPX_FAULT.REASON` has it. -/
def mapReason (m fmt : Nat) : Option Nat :=
  if !(mapCount m == popCount (mapPresent m) && (List.range 8).all (fun r => mapRowCnt m r == rowCount (mapPresent m) r)) then
    some 0
  else if mapCap m < mapCount m then some 4
  else if !decide ((mapNf m ||| mapOwed m) &&& mapPresent m = (mapNf m ||| mapOwed m)) then some 1
  else if mapOwed m ≠ 0 then some 2
  else if mapFmt m ≠ fmt then some 3
  else none

/-- Block bytes β and the slot stride β′ (R230). -/
def blockBytes (f : Nat) : Nat := 32 * fmtBits f
def blockStride (f : Nat) : Nat := (blockBytes f + 127) / 128 * 128

/-- The present blocks with a lower map bit. -/
def blockRank (present bit : Nat) : Nat := popCount (present % 2 ^ bit)

/-- The sub-blocks that hold a present block, in order. -/
def subBlocks (present : Nat) : List Nat :=
  (List.range 16).filter (fun k =>
    let r := 2 * (k / 4)
    let c := 2 * (k % 4)
    bitOf (8 * r + c) present || bitOf (8 * r + c + 1) present || bitOf (8 * r + 8 + c) present ||
      bitOf (8 * r + 9 + c) present)

/-- A panel as it lies in memory: its map entry, where each sub-block's scales begin, where each present block begins. -/
structure PanelSrc where
  map : Nat
  scaleAt : Nat → Nat
  blockAt : Nat → Nat

/-- A panel in the scratchpad areas of R230, at device addresses. -/
def spadPanel (s : State) (map scale block : Nat) : PanelSrc :=
  let m := loadNat s map 32
  { map := m, scaleAt := fun k => scale + 32 * k,
    blockAt := fun bit => block + blockStride (mapFmt m) * blockRank (mapPresent m) bit }

/-- Bytes of a panel in transport form (R232). -/
def transportBytes (m : Nat) : Nat :=
  32 + (if fmtMx (mapFmt m) then 32 * (subBlocks (mapPresent m)).length else 0) + mapCount m * blockBytes (mapFmt m)

/-- A panel in transport form at a device address. -/
def transportPanel (s : State) (a : Nat) : PanelSrc :=
  let m := loadNat s a 32
  let subs := subBlocks (mapPresent m)
  let sc := if fmtMx (mapFmt m) then 32 * subs.length else 0
  { map := m, scaleAt := fun k => a + 32 + 32 * (subs.filter (fun j => decide (j < k))).length,
    blockAt := fun bit => a + 32 + sc + blockBytes (mapFmt m) * blockRank (mapPresent m) bit }

/-- The element of a panel at a row and column: +0 in an absent block (R227). -/
def panelElem (s : State) (strict sgn : Bool) (p : PanelSrc) (row col : Nat) : Num :=
  let f := mapFmt p.map
  let bit := 8 * (row / 16) + col / 16
  if bitOf bit (mapPresent p.map) then
    let n := fmtBytes f 16
    let w := leNat (load s (p.blockAt bit + n * (row % 16)) n)
    let x := decodeElem f strict sgn (bitsOf ((col % 16) * fmtBits f) (fmtBits f) w)
    if fmtMx f then
      let k := 4 * (row / 32) + col / 32
      scaleNum (loadNat s (p.scaleAt k + (if mapSaxis p.map = 0 then row % 32 else col % 32)) 1) x
    else x
  else .fin false 0 0

/-- Rows converted into a panel (R234): the presence and `NF` bits, the scales of the sub-blocks that hold a present block,
the present blocks, and what the conversion counted. -/
structure PanelOut where
  present : Nat
  nf : Nat
  fmt : Nat
  saxis : Nat
  scales : List (Nat × List Byte)
  blocks : List (Nat × List Byte)
  conv : ConvOut
  deriving DecidableEq, Repr

/-- Rows become columns. -/
def transposeL {α : Type} (d : α) (l : List (List α)) : List (List α) :=
  (List.range ((l.head?.map List.length).getD 0)).map (fun j => l.map (fun r => r.getD j d))

/-- Rows of numbers with their element indices in the instruction, row-major. -/
def indexRows (l : List (List Num)) : List (List (Nat × Num)) :=
  let w := (l.head?.map List.length).getD 0
  ((List.range l.length).zip l).map (fun e => ((List.range w).zip e.2).map (fun x => (e.1 * w + x.1, x.2)))

/-- A panel formed from rows of at most 128 × 128 numbers (R194, R234); the blocks of `force` are present whatever they
hold (R250). -/
def compressPanel (how : ConvHow) (saxis : Nat) (rows : List (List Num)) (force : Nat := 0) : PanelOut :=
  let ix := indexRows rows
  let lines := if saxis = 0 then ix else transposeL (0, Num.fin false 0 0) ix
  let outs := lines.map (convRun how)
  let pats := outs.map (fun o => o.1.bits)
  let pats := if saxis = 0 then pats else transposeL 0 pats
  let scl := outs.map (fun o => o.2)
  let f := how.fmt
  let nr := (pats.length + 15) / 16
  let nc := ((pats.head?.map List.length).getD 0 + 15) / 16
  let scaleOf := fun (line blk : Nat) => (scl.getD line []).getD blk 0
  let under := fun (r c : Nat) =>
    if saxis = 0 then scaleOf r (c / 32) else scaleOf c (r / 32)
  let elems := fun (br bc : Nat) => (List.range 16).map (fun i => (List.range 16).map (fun j =>
    (pats.getD (16 * br + i) []).getD (16 * bc + j) 0))
  let bad := fun (br bc : Nat) => (List.range 16).any (fun i => (List.range 16).any (fun j =>
    (fmtMx f && under (16 * br + i) (16 * bc + j) == 255) ||
    (match decodeElem f true true ((pats.getD (16 * br + i) []).getD (16 * bc + j) 0) with
      | .fin _ _ _ => false
      | _ => true)))
  let at_ := (List.range nr).flatMap (fun br => (List.range nc).map (fun bc => (br, bc)))
  let nfs := at_.filter (fun b => bad b.1 b.2)
  let here := at_.filter (fun b => bitOf (8 * b.1 + b.2) force || nfs.contains b || (elems b.1 b.2).any (fun r => r.any (fun p => p != 0)))
  let present := sumOf (here.map (fun b => 2 ^ (8 * b.1 + b.2)))
  { present := present, nf := sumOf (nfs.map (fun b => 2 ^ (8 * b.1 + b.2))), fmt := f, saxis := saxis,
    scales := if fmtMx f then (subBlocks present).map (fun k =>
        (k, (List.range 32).map (fun i => BitVec.ofNat 8
          (if saxis = 0 then scaleOf (32 * (k / 4) + i) (k % 4) else scaleOf (32 * (k % 4) + i) (k / 4))))) else [],
    blocks := here.map (fun b => (8 * b.1 + b.2, (elems b.1 b.2).flatMap (packRow f))),
    conv := outs.foldl (fun (acc : ConvOut) o => { acc.append o.1 with bits := [] }) { bits := [] } }

/-- The map entry of a panel. -/
def PanelOut.map (p : PanelOut) (cap : Nat) : Nat := mapEntry p.present p.nf 0 p.fmt p.saxis cap

/-- The transport form of a panel (R232). -/
def PanelOut.transport (p : PanelOut) (cap : Nat) : List Byte :=
  leBytes 32 (p.map cap) ++ p.scales.flatMap (fun e => e.2) ++ p.blocks.flatMap (fun e => e.2)

/-- The sub-block of a map bit. -/
def subOf (bit : Nat) : Nat := 4 * (bit / 16) + bit % 8 / 2

/-- A panel written into the scratchpad areas of R230: blocks in map order, scales, and last the map entry. The blocks of
`owed`, and the scales of their sub-blocks, are left out (R250). -/
def putPanel (s : State) (p : PanelOut) (cap map scale block : Nat) (owed : Nat := 0) : State :=
  let s := ((List.range p.blocks.length).zip p.blocks).foldl
    (fun s e => if bitOf e.2.1 owed then s else store s (block + blockStride p.fmt * e.1) e.2.2) s
  let subs := ((List.range 64).filter (fun b => bitOf b owed)).map subOf
  let s := p.scales.foldl (fun s e => if subs.contains e.1 then s else store s (scale + 32 * e.1) e.2) s
  store s map (leBytes 32 (mapEntry p.present (p.nf &&& (2 ^ 64 - 1 - owed % 2 ^ 64)) owed p.fmt p.saxis cap))

/-- The next 128-byte boundary (R232). -/
def align128 (a : Nat) : Nat := (a + 127) / 128 * 128

/-- A matrix cut into panels, row panels first (log 30). -/
def panelsOf (rows : List (List Num)) : List (List (List Num)) :=
  let w := (rows.head?.map List.length).getD 0
  (List.range ((rows.length + 127) / 128)).flatMap (fun i =>
    (List.range ((w + 127) / 128)).map (fun j =>
      ((rows.drop (128 * i)).take 128).map (fun r => (r.drop (128 * j)).take 128)))

/-- The transport bytes of rows as tiles of panels in a format, each panel on a 128-byte boundary (R104, R232). -/
def tilesOf (strict : Bool) (fmt : Nat) (rows : List (List Num)) : List Byte :=
  (panelsOf rows).foldl (fun bs p =>
    let t := (compressPanel (plainConv fmt strict) 0 p).transport 64
    let pad := align128 bs.length - bs.length
    bs ++ List.replicate pad 0 ++ t) []

/-! Panels one after another. Outside the scratchpads each stands in transport form on a 128-byte boundary (R232). In a scratchpad each
has the three areas of R230, which here follow one another (DESIGN CHOICE, log 47). -/

/-- A device address lies in the tile windows. -/
def inTiles (a : Nat) : Bool := decide (tileBase 0 ≤ a)

/-- Where the scales and the block slots of a panel laid out at an address begin, and where the next panel may. -/
def laidScale (a : Nat) : Nat := a + 128
def laidBlock (m a : Nat) : Nat := a + 128 + (if fmtMx (mapFmt m) then 512 else 0)
def laidEnd (m a : Nat) : Nat := laidBlock m a + mapCap m * blockStride (mapFmt m)

/-- The panel whose map entry stands at an address. -/
def panelAt (s : State) (a : Nat) : PanelSrc :=
  if inTiles a then spadPanel s a (laidScale a) (laidBlock (loadNat s a 32) a) else transportPanel s a

/-- Where the panel after the one at `a` may begin. -/
def panelNext (s : State) (a : Nat) : Nat :=
  let m := loadNat s a 32
  if inTiles a then laidEnd m a else align128 (a + transportBytes m)

/-- Where `n` panels from `a` on begin. -/
def panelStarts (s : State) : Nat → Nat → List Nat
  | 0, _ => []
  | n + 1, a => a :: panelStarts s n (panelNext s a)

/-- The panels of a matrix. -/
def panelCount (rows width : Nat) : Nat := (rows + 127) / 128 * ((width + 127) / 128)

/-- The elements of a matrix that stands in panels at a device address: rows and width. -/
def readTiles (s : State) (a rows width : Nat) : List (List Num) :=
  let nc := (width + 127) / 128
  let ps := (panelStarts s (panelCount rows width) a).map (panelAt s)
  (List.range rows).map (fun r => (List.range width).map (fun c =>
    match ps[r / 128 * nc + c / 128]? with
    | some p => panelElem s (strictMode s) true p (r % 128) (c % 128)
    | none => .fin false 0 0))

/-- The length of the panels of a matrix at a device address. -/
def tilesBytes (s : State) (a rows width : Nat) : Nat := iter (panelNext s) (panelCount rows width) a - a

/-- The first panel of a matrix that may not be read, and why (R229). -/
def badPanel (s : State) (a rows width : Nat) : Option (Nat × Nat) :=
  (panelStarts s (panelCount rows width) a).findSome? (fun b =>
    let m := loadNat s b 32
    (mapReason m (mapFmt m)).map (fun r => (b, r)))

/-- Map bits of the present blocks, in order. -/
def presentBits (m : Nat) : List Nat := (List.range 64).filter (fun i => bitOf i (mapPresent m))

/-- The areas of a panel gathered into its transport form (R232). -/
def gatherPanel (s : State) (a : Nat) : List Byte :=
  let p := panelAt s a
  load s a 32 ++ (if fmtMx (mapFmt p.map) then (subBlocks (mapPresent p.map)).flatMap (fun k => load s (p.scaleAt k) 32) else []) ++
  (presentBits p.map).flatMap (fun i => load s (p.blockAt i) (blockBytes (mapFmt p.map)))

/-- A panel in transport form at `b` of `src` rebuilt at `a` of a scratchpad (R232). -/
def rebuildPanel (src : State) (b : Nat) (s : State) (a : Nat) : State :=
  let p := transportPanel src b
  let f := mapFmt p.map
  let s := (presentBits p.map).foldl (fun s i =>
    store s (laidBlock p.map a + blockStride f * blockRank (mapPresent p.map) i) (load src (p.blockAt i) (blockBytes f))) s
  let s := if fmtMx f then (subBlocks (mapPresent p.map)).foldl (fun s k =>
      store s (laidScale a + 32 * k) (load src (p.scaleAt k) 32)) s else s
  store s a (load src b 32)

/-- A panel formed from rows and laid out in a scratchpad. -/
def layPanel (s : State) (a : Nat) (p : PanelOut) (cap : Nat) : State :=
  putPanel s p cap a (laidScale a) (laidBlock (p.map cap) a)

/-- Received bytes as a memory of their own. -/
def asMemory (s : State) (bs : List Byte) : State := store { s with mem := [], bad := [], weak := [] } 0 bs

/-- A number as an FP32 word. -/
def numW (strict : Bool) (x : Num) : BitVec 32 := (exactRes fpFP32 strict x).w

end Sys2Proof.Machine
end

