-- ==== Sys2Proof/Machine/Graph.lean ====
section
/-! DEFINITION. The graph engine's sampler (04): ownership, the sample tree, draws, the path journal, placement, and the
commands `SAMPLE`, `DRAW`'s effect and `PLACE`'s effect. -/

namespace Sys2Proof.Machine

/-- The valid shard ranges (R80): low, high, part, stack. -/
def shards (s : State) : List (Nat × Nat × Nat × Nat) :=
  ((List.range 128).filter (fun n => fld s GRE_SHARD_VALID 0 n == 1)).map (fun n =>
    (fld s GRE_SHARD_LO 0 n, fld s GRE_SHARD_HI 0 n, fld s GRE_SHARD_PART 0 n, fld s GRE_SHARD_STACK 0 n))

/-- The owner of a node: part, stack, local index (R80). -/
def owner (s : State) (node : Nat) : Option (Nat × Nat × Nat) :=
  ((shards s).find? (fun e => decide (e.1 ≤ node) && decide (node < e.2.1))).map
    (fun e => (e.2.2.1, e.2.2.2, node - e.1))

/-- The sample that holds no node (R90). -/
def emptyNode : Nat := 2 ^ 48

/-- The key of a sample: home part, step parity, micro-batch, sample index. -/
def treeKey (hp step mb i : Nat) : Nat := ((hp * 2 + step % 2) * 256 + mb) * 2 ^ 24 + i

/-- A hop of a sampling plan (R92): valid, fanout, mode. -/
def planValid (plan h : Nat) : Bool := bitOf (16 * (h - 1) + 10) plan
def planFan (plan h : Nat) : Nat := bitsOf (16 * (h - 1)) 8 plan + 1
def planMode (plan h : Nat) : Nat := bitsOf (16 * (h - 1) + 8) 2 plan

/-- H: the valid hops of a plan. -/
def planHops (plan : Nat) : Nat := ((List.range 4).takeWhile (fun i => planValid plan (i + 1))).length

/-- The plan of a micro-batch (R92, R472). -/
def planOf (s : State) (mb : Nat) : Nat := kGetD s.job.plans (kGetD s.job.mbPlans mb 0) 0

/-- N_h and B_h (R86). -/
def treeN (seeds plan : Nat) : Nat → Nat
  | 0 => seeds
  | h + 1 => treeN seeds plan h * planFan plan (h + 1)
def treeB (seeds plan : Nat) : Nat → Nat
  | 0 => 0
  | h + 1 => treeB seeds plan h + treeN seeds plan h

/-- The step as it was taken in (R18). -/
def takenOf (s : State) (step : Nat) : Option TakenStep := s.step.taken.find? (fun t => t.step == step)

/-- `GRE_FAULT` and the fault (R81, R83, R87, R98, R100). -/
def greFault (s : State) (k code mb hop node slot home : Nat) : State :=
  let s := firstRecord s GRE_FAULT_VALID k 0 (fun s =>
    setFld (setFld (setFld (setFld (setFld (setFld (setFld s GRE_FAULT_MB mb k) GRE_FAULT_HOP hop k)
      GRE_FAULT_CODE code k) GRE_FAULT_NODE node k) GRE_FAULT_SLOT slot k) GRE_FAULT_HOME_PART home k)
      GRE_FAULT_PANE (pane s) k)
  fault s code (some (GRE_FAULT.at k 0))

/-- A read by a base die of `n` bytes: the value, or an uncorrectable error (R72, R73). -/
def greRead (s : State) (a n : Nat) : State × Nat :=
  let r := dramRead s a n 1
  (r.1, if r.2 then loadNat r.1 a n else 0)

/-- The record of a node (R84). -/
def nodeAddr (s : State) (k loc : Nat) : Nat := fld s GRE_GRAPH_NODE_BASE k + 16 * loc

/-- A node's record read: from the row cache where `NODE_CACHE_EN` lets it stand there (R115, R123), else from memory, and then it
enters. Only rows count as hits and misses (R142). -/
def nodeRead (s : State) (k loc : Nat) : State × Nat :=
  if fld s GRE_CFG_NODE_CACHE_EN k = 0 then greRead s (nodeAddr s k loc) 16
  else if cacheHolds s k nodeTable 0 loc then (s, loadNat s (nodeAddr s k loc) 16)
  else
    let r := greRead s (nodeAddr s k loc) 16
    if faulted r.1 then r else (cacheEnter r.1 k nodeTable 0 loc 16 false, r.2)

/-- The token of an engine request (R42): through the one-pane lag when the request completes as it is served. -/
def lagToken (s : State) (site tok : Nat) : State :=
  if tok = 0xFFFF then s
  else
    let at_ : Fin 104 := ⟨site % 104, Nat.mod_lt _ (by decide)⟩
    let q : MemReq :=
      { site := at_, issuePane := pane s, isWrite := false, addr := 0, len := 0, data := [], region := 0,
        regionStack := 0, token := some tok, requester := .graphEngine, phase := .issue }
    { s with sched := { s.sched with memReqs := s.sched.memReqs ++ [{ req := q, ecc := some .clean, landed := true }] } }

/-! Fields of an engine request (R99). -/

def rqOp (r : Word32B) : Nat := bitsOf 0 8 r.toNat
def rqMode (r : Word32B) : Nat := bitsOf 8 4 r.toNat
def rqHop (r : Word32B) : Nat := bitsOf 12 2 r.toNat + 1
def rqMb (r : Word32B) : Nat := bitsOf 16 8 r.toNat
def rqLayer (r : Word32B) : Nat := bitsOf 24 8 r.toNat
def rqFanout (r : Word32B) : Nat := bitsOf 32 16 r.toNat
def rqTable (r : Word32B) : Nat := bitsOf 48 6 r.toNat
def rqPlan (r : Word32B) : Nat := bitsOf 54 8 r.toNat
def rqFirst (r : Word32B) : Nat := bitsOf 64 24 r.toNat
def rqCount (r : Word32B) : Nat := bitsOf 88 24 r.toNat
def rqOutFmt (r : Word32B) : Nat := bitsOf 112 4 r.toNat
def rqAddr (r : Word32B) : Nat := bitsOf 128 48 r.toNat
def rqRaises (r : Word32B) : Nat := bitsOf 176 16 r.toNat
def rqParam (r : Word32B) : BitVec 32 := BitVec.ofNat 32 (bitsOf 192 32 r.toNat)
def rqWidth (r : Word32B) : Nat := bitsOf 224 16 r.toNat
def rqFirstHi (r : Word32B) : Nat := bitsOf 240 10 r.toNat

/-- The reserved bits of a request are 0. -/
def rqReserved (r : Word32B) : Bool :=
  bitsOf 14 2 r.toNat == 0 && bitsOf 62 2 r.toNat == 0 && bitsOf 116 12 r.toNat == 0 && bitsOf 250 6 r.toNat == 0

/-- The checks of an engine request (R92, R99): `PARAM` is 0 in a request that is not edge-softmax. -/
def rqOk (s : State) (r : Word32B) : Bool :=
  rqReserved r && decide (1 ≤ rqOp r) && decide (rqOp r ≤ 5) &&
  decide (1 ≤ rqFanout r) && decide (rqFanout r ≤ 256) && decide (1 ≤ rqCount r) && decide (rqCount r ≤ 2 ^ 23) &&
  decide (rqOutFmt r ≤ 2) && (rqRaises r == 0xFFFF || (kGet? s.sched.tokens (rqRaises r)).isSome) &&
  (rqFirstHi r == 0 || rqOp r == 3) && (rqPlan r == 0 || rqOp r == 1) &&
  (rqParam r == 0 || (rqMode r == 4 && rqOp r != 1 && rqOp r != 5)) &&
  (if rqOp r = 1 then
    decide (rqMode r ≤ 3) && rqWidth r == 0 && rqPlan r == kGetD s.job.mbPlans (rqMb r) 0 &&
    (kGet? s.job.plans (rqPlan r)).isSome && planValid (planOf s (rqMb r)) (rqHop r) &&
    planFan (planOf s (rqMb r)) (rqHop r) == rqFanout r && planMode (planOf s (rqMb r)) (rqHop r) == rqMode r
   else
    decide (rqMode r ≤ 4) && decide (16 ≤ rqWidth r) && decide (rqWidth r ≤ 1024) && rqWidth r % 16 == 0)

/-- Whether a site's running task may issue this request now: the job runs, the engine is enabled and a task runs. -/
def engineTask (s : State) (k : Nat) : Option WinTask :=
  if running s && decide (fld s GRE_CFG_EN k = 1) && !faulted s then (site s (96 + k)).run else none

/-- The step is being run again from its journal (R287, R295): it draws nothing. -/
def rerunning (s : State) (step : Nat) : Bool :=
  (fld s PANE_COMMIT_STATUS_PHASE == 4 || fld s PANE_COMMIT_STATUS_PHASE == 6) && s.step.current == step

/-! Drawing. -/

/-- The record of an edge (R84). -/
def edgeAddr (s : State) (k i : Nat) : Nat := fld s GRE_GRAPH_EDGE_BASE k + 16 * i

/-- The fields of an edge record (R84). -/
def edgeNbr (e : Nat) : Nat := bitsOf 0 48 e
def edgeValue (e : Nat) : Nat := bitsOf 64 32 e
def edgeCum (e : Nat) : Nat := bitsOf 96 32 e

/-- Mode 0 of R88 beyond the degree: the edges chosen so far, in order. -/
def drawNoRepl (word : Nat → Nat) (d f : Nat) : List Nat :=
  (List.range f).foldl (fun chosen t =>
    let j := d - f + t
    let r := word t * (j + 1) / 2 ^ 32
    chosen ++ [if chosen.contains r then j else r]) []

/-- The rank of edge values in mode 3 (R88): larger first, NaN last, ties to the lower edge. -/
def edgeBefore (a b : Nat × Num) : Bool :=
  if isNan a.2 then isNan b.2 && decide (a.1 < b.1)
  else if isNan b.2 then true
  else match cmpNum a.2 b.2 with
    | .gt => true
    | .lt => false
    | .eq => decide (a.1 < b.1)

/-- The edges of a draw (R88), `none` for an empty slot. `vals` and `cums` are the stored values and running sums. -/
def drawEdges (mode f d total : Nat) (word : Nat → Nat) (vals cums : List Nat) : List (Option Nat) :=
  match mode with
  | 1 => (List.range f).map (fun t => if d = 0 then none else some (word t * d / 2 ^ 32))
  | 2 => (List.range f).map (fun t =>
      if total = 0 then none
      else
        let r := word t * total / 2 ^ 32
        some ((cums.takeWhile (fun c => decide (c ≤ r))).length))
  | m =>
    if d ≤ f then (List.range f).map (fun t => if t < d then some t else none)
    else if m = 0 then (drawNoRepl word d f).map some
    else
      let ranked := sortBy edgeBefore ((List.range d).zip (vals.map (decodeFp fpFP32)))
      let keep := (ranked.take f).map (fun e => e.1)
      ((List.range d).filter (fun i => keep.contains i)).map some

/-- The words that a draw takes (R88). -/
def wordsTaken (mode f d total : Nat) : Nat :=
  match mode with
  | 0 => if d ≤ f then 0 else f
  | 1 => if d = 0 then 0 else f
  | 2 => if total = 0 then 0 else f
  | _ => 0

/-- The base die's generator counts the words of `n` coordinates from `c` on, and the evaluations of F that they share four to one
(R303, R311). -/
def drewWords (s : State) (k c n : Nat) : State :=
  if n = 0 then s
  else
    let g := graph s k
    let g : GraphS := { g with words := g.words + n, blocks := g.blocks + ((c + n - 1) / 4 - c / 4 + 1) }
    let units := fun (x : Nat) => min (x / 1024) (2 ^ 32 - 1)
    setFld (setFld (setGraph s k g) BRNG_EVT_WORDS (units g.words) k) BRNG_EVT_BLOCKS (units g.blocks) k

/-- A journal entry (R95). -/
def journalEntry (node slot hop home value step mb : Nat) (empty : Bool) : Nat :=
  (if empty then 0 else node) + slot * 2 ^ 48 + (hop - 1) * 2 ^ 72 + b2n empty * 2 ^ 74 + home * 2 ^ 75 +
  (if empty then 0 else value) * 2 ^ 80 + (step % 256) * 2 ^ 112 + (mb % 256) * 2 ^ 120

/-- The journal half of a step parity at a stack (R96): base and bytes. -/
def journalHalf (s : State) (k parity : Nat) : Nat × Nat :=
  match region s 3 k with
  | none => (0, 0)
  | some (b, size) => (b + parity * (size / 2), size / 2)

/-- `n` bytes taken in a journal half (R96); past its end is past the region (R64). -/
def journalTake (s : State) (k step n : Nat) : State × Option Nat :=
  let (b, size) := journalHalf s k (step % 2)
  let off := kGetD (graph s k).jNext (step % 2) 0
  if size < off + n then (regionBound s 3 k, none)
  else (setGraph s k { graph s k with jNext := kSet (graph s k).jNext (step % 2) (off + n) }, some (b + off))

/-- A destination's directory record, beside its entries (R96; its layout: log 41). -/
def directoryRecord (key a n : Nat) : List Byte := leBytes 8 (a + n * 2 ^ 48) ++ leBytes 8 key

/-- The entries of one destination written contiguously, with its directory record behind them (R96). -/
def journalWrite (s : State) (k key step : Nat) (entries : List Nat) : State :=
  match journalTake s k step (16 * entries.length + 16) with
  | (s, none) => s
  | (s, some a) =>
    let s := dramWrite s a (entries.flatMap (leBytes 16) ++ directoryRecord key a entries.length) 1
    setGraph s k { graph s k with jdir := kSet (graph s k).jdir key (a, entries.length) }

/-- The key of a side array (R96): 0 score terms, 1 a hand-down row, 2 attention weights, 3 a max route, of a sample or destination in
a layer; 4 and 5 the weights and the route of a local node in `FULL_AGGREGATE`. -/
def sideKey (kind layer key : Nat) : Nat := (kind * 256 + layer) * 2 ^ 40 + key
def nodeKey (step loc : Nat) : Nat := step % 2 * 2 ^ 32 + loc % 2 ^ 32 + loc / 2 ^ 32 * 2 ^ 33

/-- Words written to a side array (R96): where it stands already, else at the half's next free place. -/
def sideWrite (s : State) (k step key : Nat) (ws : List (BitVec 32)) : State :=
  let put := fun (s : State) (a : Nat) => dramWrite s a (wordBytes ws) 1
  match (kGet? (graph s k).side key).filter (fun e => e.2 == ws.length) with
  | some e => put s e.1
  | none =>
    match journalTake s k step (4 * ws.length) with
    | (s, none) => s
    | (s, some a) => put (setGraph s k { graph s k with side := kSet (graph s k).side key (a, ws.length) }) a

/-- A side array holds words under this key. -/
def sideHeld (s : State) (k key : Nat) : Bool := (kGet? (graph s k).side key).isSome

/-- The words of a side array; `none` where it holds none or they cannot be read (R73). -/
def sideRead (s : State) (k key : Nat) : State × Option (List (BitVec 32)) :=
  match kGet? (graph s k).side key with
  | none => (s, none)
  | some (a, n) =>
    let r := dramRead s a (4 * n) 1
    (r.1, if r.2 then some (loadWords r.1 a n) else none)

/-- The sampling token of a micro-batch (R94, R473). -/
def samplingToken (s : State) (mb : Nat) : Option Nat :=
  (s.sched.tokens.find? (fun e => e.2.role == 2 && e.2.mb == mb)).map (fun e => e.1)

/-- Destinations marked done in a placement map. -/
def placedCount (g : GraphS) (base n : Nat) : Nat :=
  (g.place.filter (fun e => decide (base ≤ e.1) && decide (e.1 < base + n))).length

/-- A placement record taken by the home stack (R94, R100). A second one for a destination is recorded in that stack's `GRE_FAULT`, with the
destination's slot and with 0 in `HOP` and `NODE` (DESIGN CHOICE, log 121). -/
def placeDone (s : State) (step mb i part stack : Nat) : State :=
  let k := mb % 8
  let g := graph s k
  let hp := partId s
  let key := treeKey hp step mb i
  match takenOf s step with
  | none => s
  | some t =>
    let plan := planOf s mb
    if (kGet? g.place key).isSome then greFault s k 0x2084 mb 0 0 (i - t.perMb) hp
    else
      let g := { g with place := kSet g.place key (0x80 + part % 16 + 16 * (stack % 8)) }
      let s := setGraph s k g
      let s := endAwait { s with sbn := { s.sbn with draws := s.sbn.draws.filter (fun e => e.2 != key) } } 0x04 part key
      if placedCount g (treeKey hp step mb 0) (2 ^ 24) = treeB t.perMb plan (planHops plan) then
        match samplingToken s mb with
        | some tok => raiseToken s tok
        | none => s
      else s

/-- A destination's placement record, to the home stack here or on another part (R94; the message's layout: log 31). -/
def placeRecord (s : State) (k hp step mb i children : Nat) : State :=
  if hp = partId s then placeDone s step mb i hp k
  else sbnSend s (jobMsg s hp 0x05 1 (mb % 8) (mb + 256 * (step % 2))
    (leBytes 16 (i + partId s * 2 ^ 24 + k * 2 ^ 28 + children * 2 ^ 32)))

/-- A remote draw request (R91) for one destination and its remaining hops. -/
def sendDraw (s : State) (k part stack hp step mb h left i node : Nat) : State :=
  let plan := kGetD s.job.mbPlans mb 0
  let p := planOf s mb
  let hdr := leBytes 8 step ++ leBytes 1 mb ++ leBytes 1 ((h - 1) + 4 * planMode p h) ++ leBytes 2 (planFan p h) ++
    leBytes 1 (hp + 16 * (mb % 8)) ++ leBytes 1 1 ++ leBytes 1 left ++ leBytes 1 plan ++ leBytes 16 0 ++
    leBytes 16 (node + i * 2 ^ 48)
  let s := countRun_ (sbnSend s (jobMsg s part 0x04 0 stack 0 hdr)) k 1 1
  if hp = partId s then { s with sbn := { s.sbn with draws := s.sbn.draws ++ [(part, treeKey hp step mb i)] } } else s

/-- The draw of one destination at its holder and, below it, of every empty child and (for a destination that came in a draw
request) of every child this part owns: `n` hops left to draw, from hop `h` (R88–R92, R95). -/
def drawTree : Nat → State → (k hp step mb h i node : Nat) → (auto : Bool) → State
  | 0, s, _, _, _, _, _, _, _, _ => s
  | n + 1, s, k, hp, step, mb, h, i, node, auto =>
    match takenOf s step with
    | none => s
    | some tk =>
      let plan := planOf s mb
      let f := planFan plan h
      let c0 := treeB tk.perMb plan h + (i - treeB tk.perMb plan (h - 1)) * f
      let key := treeKey hp step mb i
      let isEmpty := decide (node = emptyNode)
      let loc := match owner s node with | some o => o.2.2 | none => 0
      let (s, recd) := if isEmpty then (s, 0) else nodeRead s k loc
      let start := bitsOf 0 40 recd
      let deg := bitsOf 40 32 recd
      let total := bitsOf 72 32 recd
      if faulted s then s
      else if !isEmpty && decide (fld s GRE_GRAPH_EDGE_COUNT k < start + deg) then
        greFault s k 0x2085 mb (h - 1) node (c0 - tk.perMb) hp
      else
        let mode := planMode plan h
        let all := !isEmpty && (mode == 2 || (mode == 3 && decide (f < deg)))
        let (s, recs) := if all then
            (List.range deg).foldl (fun (acc : State × List Nat) e =>
              let r := greRead acc.1 (edgeAddr acc.1 k (start + e)) 16
              (r.1, acc.2 ++ [r.2])) (s, [])
          else (s, [])
        let cums := recs.map edgeCum
        let badCum := mode == 2 && !isEmpty &&
          (((cums.zip (cums.drop 1)).any (fun p => decide (p.2 < p.1))) || (cums.getLast?.getD 0) != total)
        if faulted s then s
        else if badCum then greFault s k 0x2085 mb (h - 1) node (c0 - tk.perMb) hp
        else
          let word := fun t => (rngWord s.job.seed step 1 h mb (c0 + t)).toNat
          let picks := if isEmpty then List.replicate f none
            else drawEdges mode f deg total word (recs.map edgeValue) cums
          let s := if isEmpty then s else drewWords s k c0 (wordsTaken mode f deg total)
          let (s, kids) := picks.foldl (fun (acc : State × List (Option (Nat × Nat))) p =>
            match p with
            | none => (acc.1, acc.2 ++ [none])
            | some e =>
              let r := greRead acc.1 (edgeAddr acc.1 k (start + e)) 16
              (r.1, acc.2 ++ [some (edgeNbr r.2, edgeValue r.2)])) (s, [])
          let unknown := ((List.range f).zip kids).find? (fun e => match e.2 with
            | some c => (owner s c.1).isNone
            | none => false)
          if faulted s then s
          else match unknown with
          | some (d, some c) => greFault s k 0x2081 mb (h - 1) c.1 (c0 + d - tk.perMb) hp
          | _ =>
            let entries := ((List.range f).zip kids).map (fun e => match e.2 with
              | none => journalEntry 0 (c0 + e.1 - tk.perMb) h hp 0 step mb true
              | some c => journalEntry c.1 (c0 + e.1 - tk.perMb) h hp c.2 step mb false)
            let s := journalWrite s k key step entries
            let s := if auto && hp == partId s then
                setGraph s k { graph s k with byDraw := key :: (graph s k).byDraw } else s
            let nonEmpty := (kids.filter Option.isSome).length
            let s := event (bump s GRE_EVT_EMPTY (f - nonEmpty) k) 0x2002 (f - nonEmpty)
            let s := if !isEmpty && nonEmpty == 0 then event (bump s GRE_EVT_ZERO_DEG 1 k) 0x2003 else s
            let s := if isEmpty then s else countRun_ s k 0 f
            if faulted s then s
            else
              let s := placeRecord s k hp step mb i nonEmpty
              ((List.range f).zip kids).foldl (fun s e =>
                if faulted s then s
                else match e.2 with
                | none =>
                  let s := if n = 0 then s else setGraph s k { graph s k with
                    nodes := kSet (graph s k).nodes (treeKey hp step mb (c0 + e.1)) emptyNode }
                  drawTree n s k hp step mb (h + 1) (c0 + e.1) emptyNode auto
                | some c =>
                  if n = 0 then s
                  else match owner s c.1 with
                  | none => s
                  | some (p, k', _) =>
                    if p = partId s then
                      let s := setGraph s k' { graph s k' with
                        nodes := kSet (graph s k').nodes (treeKey hp step mb (c0 + e.1)) c.1 }
                      if auto then drawTree n s k' hp step mb (h + 1) (c0 + e.1) c.1 auto else s
                    else sendDraw s k p k' hp step mb (h + 1) (n - 1) (c0 + e.1) c.1) s

/-- The stack of this part that holds a destination of one of its micro-batches, and the destination's node. -/
def holderOf (s : State) (hp step mb i : Nat) : Option (Nat × Nat) :=
  (List.range 8).findSome? (fun k => (kGet? (graph s k).nodes (treeKey hp step mb i)).map (fun n => (k, n)))

/-- One destination of a `SAMPLE` request (R100): served now, or not yet because its own draw is not in place. One drawn for a draw
request, here or at another part, is served once it is placed (R91). -/
def serveDest (s : State) (req : Word32B) (step i : Nat) : State × Bool :=
  let mb := rqMb req
  let hp := partId s
  let plan := planOf s mb
  let key := treeKey hp step mb i
  match holderOf s hp step mb i with
  | none => (s, (kGet? (graph s (mb % 8)).place key).isSome)
  | some (k, node) =>
    if node = emptyNode ∨ (graph s k).byDraw.contains key = true then (s, true)
    else (drawTree (planHops plan + 1 - rqHop req) s k hp step mb (rqHop req) i node false, true)

/-- The destinations of a request served in ascending order; what is left. -/
def serveReq (s : State) (req : Word32B) (step : Nat) (l : List Nat) : State × List Nat :=
  l.foldl (fun (acc : State × List Nat) i =>
    if faulted acc.1 then acc
    else
      let r := serveDest acc.1 req step i
      (r.1, if r.2 then acc.2 else acc.2 ++ [i])) (s, [])

/-- Waiting `SAMPLE` requests tried again after draws; one served whole raises its token (R43, R100). -/
def serveWaiting (s : State) : State :=
  (List.range 8).foldl (fun s k =>
    let l := (graph s k).waitDraw
    let s := setGraph s k { graph s k with waitDraw := [] }
    l.foldl (fun s e =>
      let r := serveReq s e.1 e.2.1 e.2.2
      if r.2 = [] then (if rqRaises e.1 = 0xFFFF then r.1 else raiseToken r.1 (rqRaises e.1))
      else setGraph r.1 k { graph r.1 k with waitDraw := (graph r.1 k).waitDraw ++ [(e.1, e.2.1, r.2)] }) s) s

/-- `GRE_STATUS.BUSY` of a stack: requests in flight (R115). -/
def refreshBusy (s : State) : State :=
  (List.range 8).foldl (fun s k =>
    let g := graph s k
    setFld s GRE_STATUS_BUSY (b2n (g.wait != [] || g.waitDraw != [] || g.heldReqs != [])) k) s

/-- The checks of R100 on a `SAMPLE` request. -/
def sampleOk (s : State) (req : Word32B) (t : TakenStep) : Bool :=
  let plan := planOf s (rqMb req)
  rqOp req == 1 && rqOk s req && decide (rqMb req < t.mbCount) &&
  decide (treeB t.perMb plan (rqHop req - 1) ≤ rqFirst req) &&
  decide (rqFirst req + rqCount req ≤ treeB t.perMb plan (rqHop req))

/-- `SAMPLE` (R88–R92, R99, R100): the request draws its destinations, each at its holder in this part. A request that fails its
checks is recorded at the stack of the engine that fetched it, with its `HOP` and with 0 in `NODE` and `SLOT` (DESIGN CHOICE, log
121). -/
def sample (k : Nat) (req : Word32B) (s : State) : State :=
  match engineTask s k with
  | none => s
  | some t =>
    match takenOf s t.pass with
    | none => s
    | some tk =>
      if !sampleOk s req tk then greFault s k 0x2084 (rqMb req) (rqHop req - 1) 0 0 (partId s)
      else if rerunning s t.pass then lagToken s (96 + k) (rqRaises req)
      else
        let r := serveReq s req t.pass ((List.range (rqCount req)).map (fun i => rqFirst req + i))
        let s := r.1
        let s := if r.2 = [] then lagToken s (96 + k) (rqRaises req)
          else setGraph s k { graph s k with waitDraw := (graph s k).waitDraw ++ [(req, t.pass, r.2)] }
        if faulted s then s else refreshBusy (iter serveWaiting 4 s)

def execSample (stack : Fin 8) (req : Word32B) (s : State) : Host.Outcome State Fault Refusal :=
  runCmd (sample stack.val req) s

/-- A `DRAW` message at its destination (R91–R93): every hop left is drawn below its destinations, by the plan. It waits
until this part has taken in the step, which gives it the seeds per micro-batch (log 33). -/
def deliverDraw (m : SbnMsg) (s : State) : State :=
  let step := leAt m.data 0 8
  let mb := leAt m.data 8 1
  let h := leAt m.data 9 1 % 4 + 1
  let hp := leAt m.data 12 1 % 16
  let n := leAt m.data 13 1
  let left := leAt m.data 14 1
  let plan := kGetD s.job.plans (leAt m.data 15 1) 0
  let k := m.addr % 8
  match takenOf s step with
  | none => setGraph s k { graph s k with heldReqs := (graph s k).heldReqs ++ [m] } |> refreshBusy
  | some tk =>
    if !(planValid plan h && planFan plan h == leAt m.data 10 2 && planMode plan h == leAt m.data 9 1 / 4 % 16 &&
        leAt m.data 15 1 == kGetD s.job.mbPlans mb 0) then
      greFault s k 0x2084 mb (h - 1) 0 0 hp
    else
      (List.range n).foldl (fun s j =>
        if faulted s then s
        else
          let w := leAt m.data (32 + 16 * j) 16
          let node := bitsOf 0 48 w
          let i := bitsOf 48 23 w
          match owner s node with
          | none => greFault s k 0x2081 mb (h - 1) node (i - tk.perMb) hp
          | some (_, k', _) =>
            let s := setGraph s k' { graph s k' with nodes := kSet (graph s k').nodes (treeKey hp step mb i) node }
            drawTree (left + 1) s k' hp step mb h i node true) s

/-- A `PLACE` message at the home stack (R94): its records, and the draws that waited for them. -/
def deliverPlace (m : SbnMsg) (s : State) : State :=
  let mb := m.arg % 256
  let par := m.arg / 256 % 2
  match s.step.taken.find? (fun t => t.step % 2 == par) with
  | none => s
  | some t =>
    let s := (List.range (m.data.length / 16)).foldl (fun s j =>
      if faulted s then s
      else
        let w := leAt m.data (16 * j) 16
        placeDone s t.step mb (bitsOf 0 23 w) (bitsOf 24 4 w) (bitsOf 28 3 w)) s
    if faulted s then s else refreshBusy (iter serveWaiting 4 s)

end Sys2Proof.Machine
end

