-- ==== Sys2Proof/Machine/Embed.lean ====
section
/-! DEFINITION. Embedding tables at a stack (05): descriptors, rows and look-ups, prefetch, scatter rounds and the delta log,
migrations; and the scatter-adder of 04. -/

namespace Sys2Proof.Machine

/-! Table descriptors (R117). -/

/-- The live descriptor of a table at a stack. -/
def tdesc (s : State) (k t : Nat) : Nat := fld s EMB_TDESC_DESC k t

def tdValid (d : Nat) : Bool := bitOf 24 d
def tdVersion (d : Nat) : Nat := bitsOf 8 16 d
def tdOpt (d : Nat) : Nat := bitsOf 25 3 d
def tdFixed (d : Nat) : Bool := bitOf 28 d
def tdFixedClass (d : Nat) : Nat := bitsOf 29 2 d
def tdWidth (d : Nat) : Nat := bitsOf 32 11 d
def tdRows (d : Nat) : Nat := bitsOf 64 34 d
def tdMap (d : Nat) : Nat := bitsOf 128 48 d
def tdBase (d c : Nat) : Nat := bitsOf (192 + 64 * c) 48 d
def tdCap (d c : Nat) : Nat := bitsOf (240 + 64 * c) 16 d * 262144
def tdState (d : Nat) : Nat := bitsOf 384 48 d
def tdUp16 (d : Nat) : Nat := bitsOf 448 8 d
def tdDn16 (d : Nat) : Nat := bitsOf 456 8 d
def tdUp8 (d : Nat) : Nat := bitsOf 464 8 d
def tdDn8 (d : Nat) : Nat := bitsOf 472 8 d

/-- The classes permitted for a descriptor (R116). -/
def permitted (d : Nat) : List Nat :=
  ([0, 1, 2] : List Nat).filter (fun c => decide (tdCap d c ≠ 0) && (!tdFixed d || c == tdFixedClass d))

/-- The element format of a class (R118). -/
def classFmt (c : Nat) : Nat := if c = 0 then 8 else if c = 1 then 3 else 0

/-- Slot and scale bytes of a class (R118). -/
def slotBytes (d c : Nat) : Nat := if c = 0 then 2 * tdWidth d else if c = 1 then tdWidth d else tdWidth d / 2
def scaleBytes (d c : Nat) : Nat := if c = 0 then 0 else tdWidth d / 32

/-- Bytes of an optimiser state entry (R133). -/
def stateBytes (d : Nat) : Nat :=
  match tdOpt d with
  | 0 => 0 | 1 => 4 * tdWidth d | 2 => 4 | _ => 8 + 8 * tdWidth d

/-- A range lies in the local part of stack `k` (R63). -/
def inLocal (s : State) (k a n : Nat) : Bool :=
  decide (8 * ilvBytes s + k * (2 ^ 36 - ilvBytes s) ≤ a) &&
  decide (a + n ≤ 8 * ilvBytes s + (k + 1) * (2 ^ 36 - ilvBytes s))

/-- The regions of a descriptor: row map, class regions, state array. -/
def tdRegions (d : Nat) : List (Nat × Nat) :=
  (tdMap d, 8 * tdRows d) ::
  ((permitted d).map (fun c => (tdBase d c, tdCap d c * (slotBytes d c + scaleBytes d c))) ++
   (if tdOpt d = 0 then [] else [(tdState d, stateBytes d * tdRows d)]))

/-- The checks of R116 on a descriptor whose `VALID` is 1. -/
def descOk (s : State) (k d : Nat) : Bool :=
  decide (16 ≤ tdWidth d) && decide (tdWidth d ≤ 1024) && tdWidth d % 16 == 0 && decide (tdOpt d ≤ 4) &&
  !(tdFixed d && tdFixedClass d == 3) && decide (permitted d ≠ []) &&
  !((permitted d).any (fun c => c != 0) && tdWidth d % 32 != 0) &&
  (tdRegions d).all (fun r => inLocal s k r.1 r.2 && !inRetained r.1 r.2)

/-! Row-map entries (R120). -/

def rmClass (e : Nat) : Nat := bitsOf 0 2 e
def rmPresent (e : Nat) : Bool := bitOf 2 e
def rmMigr (e : Nat) : Bool := bitOf 3 e
def rmSlot (e : Nat) : Nat := bitsOf 4 34 e
def rmPop (e : Nat) : Nat := bitsOf 38 8 e

/-- A row-map entry with these fields. -/
def rowMap (cls slot pop : Nat) (present migr : Bool) : Nat :=
  cls + b2n present * 4 + b2n migr * 8 + slot * 16 + pop * 2 ^ 38

/-- The check of R120 on the entry of a present row. -/
def rmOk (d e : Nat) : Bool :=
  (permitted d).contains (rmClass e) && bitsOf 46 18 e == 0 && decide (rmSlot e < tdCap d (rmClass e))

/-- The entry of row `r`. -/
def mapAddr (d r : Nat) : Nat := tdMap d + 8 * r

/-- `EMB_FAULT` and the fault (R121, R129, R141). -/
def embFault (s : State) (k code reason t row mb part step : Nat) : State :=
  let s := firstRecord s EMB_FAULT_VALID k 0 (fun s =>
    setFld (setFld (setFld (setFld (setFld (setFld (setFld (setFld (setFld s EMB_FAULT_REASON reason k)
      EMB_FAULT_TABLE t k) EMB_FAULT_CODE code k) EMB_FAULT_VERSION (tdVersion (tdesc s k t)) k) EMB_FAULT_MB mb k)
      EMB_FAULT_REQ_PART part k) EMB_FAULT_INDEX row k) EMB_FAULT_STEP step k) EMB_FAULT_PANE (pane s) k)
  fault s code (some (EMB_FAULT.at k 0))

/-- A row's map entry under the checks of R121 and R141: `none` where the job has faulted. -/
def resolveRow (s : State) (k t row mb part step : Nat) : State × Option Nat :=
  let d := tdesc s k t
  if !tdValid d then (embFault s k 0x2880 2 t row mb part step, none)
  else if !descOk s k d then (embFault s k 0x2882 2 t row mb part step, none)
  else if tdRows d ≤ row then (embFault s k 0x2880 0 t row mb part step, none)
  else
    let (s, e) := greRead s (mapAddr d row) 8
    if faulted s then (s, none)
    else if !rmPresent e then (embFault s k 0x2880 1 t row mb part step, none)
    else if !rmOk d e then (embFault s k 0x2882 2 t row mb part step, none)
    else (s, some e)

/-- Where a place's elements and scales lie (R118). -/
def slotAddr (d c slot : Nat) : Nat := tdBase d c + slot * slotBytes d c
def scaleAddr (d c slot : Nat) : Nat := tdBase d c + tdCap d c * slotBytes d c + slot * scaleBytes d c

/-- The granules of a place's bytes. -/
def placeGranules (d c slot : Nat) : List Nat :=
  granules (slotAddr d c slot) (slotBytes d c) ++ granules (scaleAddr d c slot) (scaleBytes d c)

/-- The bytes of a place: elements, then scales. -/
def placeBytes (s : State) (d c slot : Nat) : List Byte :=
  load s (slotAddr d c slot) (slotBytes d c) ++ load s (scaleAddr d c slot) (scaleBytes d c)

/-- The values of a row's bytes. -/
def decodeRow (strict : Bool) (d c : Nat) (bs : List Byte) : List (BitVec 32) :=
  let f := classFmt c
  let scales := bs.drop (slotBytes d c)
  ((List.range (tdWidth d)).zip (unpackRow f (tdWidth d) bs)).map (fun e =>
    let x := decodeElem f strict true e.2
    numW strict (if c = 0 then x else scaleNum (scales.getD (e.1 / 32) 0).toNat x))

/-- A row's bytes in a class, with scales clamped (R119); and the elements beyond the class's range (R134). -/
def encodeRow (strict : Bool) (c : Nat) (vals : List (BitVec 32)) : List Byte × Nat :=
  let how : ConvHow := { plainConv (classFmt c) strict with lo := -110, hi := 110 }
  let (o, scales) := convRun how (((List.range vals.length).zip vals).map (fun e => (e.1, f32 strict e.2)))
  (packRow (classFmt c) o.bits ++ scales.map (BitVec.ofNat 8), o.sat)

/-- A place's bytes stored by the base die (R469). -/
def storePlace (s : State) (d c slot : Nat) (bs : List Byte) : State :=
  let s := dramWrite s (slotAddr d c slot) (bs.take (slotBytes d c)) 1
  if c = 0 ∨ faulted s = true then s else dramWrite s (scaleAddr d c slot) (bs.drop (slotBytes d c)) 1

/-- A gather of row `row` of table `t` at its owning stack (R121, R125): its values, and `POP` raised. -/
def gatherRow (s : State) (k t row mb part step : Nat) : State × List (BitVec 32) :=
  match resolveRow s k t row mb part step with
  | (s, none) => (s, [])
  | (s, some e) =>
    let d := tdesc s k t
    let c := rmClass e
    let ver := tdVersion d
    let r := if cacheHolds s k t ver row then (s, true) else readGranules s (placeGranules d c (rmSlot e)) 1
    if !r.2 then (r.1, [])
    else
      let vals := decodeRow (strictMode r.1) d c (placeBytes r.1 d c (rmSlot e))
      let s := if rmPop e < 255 then dramWrite r.1 (mapAddr d row) (leBytes 8 (e + 2 ^ 38)) 1 else r.1
      if faulted s then (s, []) else (countRun_ (cacheTouch s k t ver row) k 3 1, vals)

/-! Prefetch (R20, R123). -/

/-- The rows of a node staged: of every table that holds one which a gather would read without a fault. -/
def stageNode (k : Nat) (s : State) (node : Nat) : State :=
  match owner s node with
  | none => s
  | some (p, k', row) =>
    if p ≠ partId s ∨ k' ≠ k then s
    else (List.range 64).foldl (fun s t =>
      let d := tdesc s k t
      if tdValid d && descOk s k d && decide (row < tdRows d) then
        let e := loadNat s (mapAddr d row) 8
        if rmPresent e && rmOk d e && !cacheHolds s k t (tdVersion d) row &&
            (firstBad s (granules (mapAddr d row) 8 ++ placeGranules d (rmClass e) (rmSlot e))).isNone then
          countRun_ (cacheEnter s k t (tdVersion d) row (fld s EMB_CFG_PF_WAYS k) true) k 6 1
        else s
      else s) s

/-- The children that a directory's entries name: nodes, without the empty slots. -/
def entryNodes (s : State) (e : Nat × Nat) : List Nat :=
  (((List.range e.2).map (fun i => loadNat s (e.1 + 16 * i) 16)).filter (fun w => !bitOf 74 w)).map (bitsOf 0 48)

/-- The children of the step taken in but not latched, whose journal entries are written (R123). -/
def nextNodes (s : State) : List Nat :=
  if s.step.takenStep = s.step.latchedStep then []
  else (List.range 8).flatMap (fun k =>
    ((graph s k).jdir.filter (fun e => decide (e.1 / 2 ^ 32 % 2 = s.step.takenStep % 2))).flatMap (fun e => entryNodes s e.2))

/-- The seeds of slot s + 1, where its `STEP` reads s + 1 (R20). -/
def nextSeeds (s : State) : List Nat :=
  match nextSlot s with
  | none => []
  | some a =>
    let n := loadNat s (a + 8) 2 * loadNat s (a + 12) 4
    if 0x40 + 8 * n ≤ s.job.slotSize then (List.range n).map (fun i => loadNat s (a + 0x40 + 8 * i) 6) else []

/-- `PEEPHOLE_PREFETCH` (R20, R123): it changes no value, counts no popularity and never faults. -/
def peepholePrefetch (k : Nat) (s : State) : State :=
  if running s && decide (fld s EMB_CFG_PF_EN k = 1) && decide (0 < fld s EMB_CFG_PF_WAYS k) then
    (nextSeeds s ++ nextNodes s).foldl (stageNode k) s
  else s

def execPeepholePrefetch (stack : Fin 8) (s : State) : Host.Outcome State Fault Refusal :=
  runCmd (peepholePrefetch stack.val) s

/-! Scatter rounds (R110–R112). -/

/-- The rounds of a step in order: micro-batches ascending, layers descending. -/
def roundsOf (s : State) (mbs : Nat) : List (Nat × Nat) :=
  (List.range mbs).flatMap (fun mb => (([4, 3, 2, 1] : List Nat).filter (fun l => bitOf l s.job.scatterLayers)).map
    (fun l => (mb, l)))

/-- The micro-batches of the step that runs: the one that latched last, or the one run again. -/
def stepMbs (s : State) : Nat := ((takenOf s s.step.current).map (fun t => t.mbCount)).getD 0

/-- The first round of the step that has not been issued at stack `k`. -/
def openRound (s : State) (k : Nat) : Option (Nat × Nat) :=
  (roundsOf s (stepMbs s)).find? (fun r => !(emb s k).closed.contains r)

/-- The parts of this part's group (R346). -/
def groupOf (s : State) : List Nat := if s.job.extra.groupParts = [] then [partId s] else s.job.extra.groupParts

/-- The markers of a round still awaited at stack `k`. -/
def markersMissing (s : State) (k : Nat) (r : Nat × Nat) : Nat :=
  8 * (groupOf s).length - ((emb s k).markers.filter (fun m => m.1 == r.1 && m.2.1 == r.2)).length

/-- Something of a round has arrived. -/
def roundBegun (e : EmbS) (r : Nat × Nat) : Bool :=
  e.staged.any (fun c => c.mb == r.1 && c.layer == r.2) || e.markers.any (fun m => m.1 == r.1 && m.2.1 == r.2)

/-- `GRE_STATUS` follows the round that awaits markers (R112, R115). -/
def refreshRound (s : State) (k : Nat) : State :=
  match openRound s k with
  | some r =>
    if roundBegun (emb s k) r && !s.job.fast && markersMissing s k r != 0 then
      setFld (setFld (setFld (setFld s GRE_STATUS_ROUND_OPEN 1 k) GRE_STATUS_ROUND_MB r.1 k)
        GRE_STATUS_ROUND_LAYER (r.2 - 1) k) GRE_STATUS_MARKERS_MISSING (markersMissing s k r) k
    else setFld (setFld s GRE_STATUS_ROUND_OPEN 0 k) GRE_STATUS_MARKERS_MISSING 0 k
  | none => setFld (setFld s GRE_STATUS_ROUND_OPEN 0 k) GRE_STATUS_MARKERS_MISSING 0 k

/-- Bytes of the `DELTA` region in use: staged and issued contributions and delta records (log 36). -/
def deltaBytes (e : EmbS) : Nat :=
  let size := fun (l : List Contrib) => sumOf (l.map (fun c => 16 + 4 * c.vals.length))
  size (e.staged ++ e.early) + sumOf (e.issued.map (fun g => size g.items)) + sumOf (e.deltas.map (fun d => d.2.2))

/-- The size of the `DELTA` region of a stack. -/
def deltaSize (s : State) (k : Nat) : Nat := ((region s 4 k).map (fun r => r.2)).getD 0

/-- Staged contributions and markers. -/
def takeStaged (e : EmbS) (c : Contrib) : EmbS :=
  if c.marker then { e with markers := e.markers ++ [(c.mb, c.layer, c.srcPart, c.srcStack)] } else { e with staged := e.staged ++ [c] }

/-- A contribution or marker staged at stack `k` of this part (R110–R112). None may arrive for a round already closed; once this part
has voted, every round of its run is closed, and what comes belongs to the next run of a part that is ahead (log 124). -/
def stageContrib (s : State) (k : Nat) (c : Contrib) : State :=
  let e := emb s k
  let ahead := s.step.open_ && s.step.voted && (s.job.fast || e.closed.contains (c.mb, c.layer))
  if !ahead && !s.job.fast && e.closed.contains (c.mb, c.layer) then greFault s k 0x2084 c.mb 0 0 0 c.homePart
  else if !c.marker && decide (deltaSize s k < deltaBytes e + 16 + 4 * c.vals.length) then regionBound s 4 k
  else
    if ahead then setEmb s k { emb s k with early := (emb s k).early ++ [c] }
    else refreshRound (setEmb s k (takeStaged (emb s k) c)) k

/-- The order of R111 within a round. -/
def contribBefore (a b : Contrib) : Bool :=
  decide (a.homePart < b.homePart) || (a.homePart == b.homePart && (decide (a.sample < b.sample) ||
    (a.sample == b.sample && decide (a.kind < b.kind))))

/-- `ROUND_CLOSE` (R107, R111): markers from every source have arrived and every earlier round has been issued. -/
def roundClose (k : Nat) (s : State) : State :=
  match openRound s k with
  | none => s
  | some r =>
    if running s && !s.job.fast && roundBegun (emb s k) r && markersMissing s k r == 0 then
      let e := emb s k
      let l := sortBy contribBefore (e.staged.filter (fun c => c.mb == r.1 && c.layer == r.2))
      let segs := segmentsIn l (pane s)
      let s := setEmb s k { e with
        staged := e.staged.filter (fun c => !(c.mb == r.1 && c.layer == r.2)),
        markers := e.markers.filter (fun m => !(m.1 == r.1 && m.2.1 == r.2)),
        closed := r :: e.closed, issued := e.issued ++ segs }
      let s := event (bump s GRE_EVT_HUB (splitCount segs) k) 0x2001 (splitCount segs)
      refreshRound s k
    else s

def execRoundClose (stack : Fin 8) (s : State) : Host.Outcome State Fault Refusal := runCmd (roundClose stack.val) s

/-! Delta records and migrations (R129–R131). -/

/-- The key of a place. -/
def placeKey (t c slot : Nat) : Nat := (t * 4 + c) * 2 ^ 34 + slot

/-- The header of a delta record (R129): row, table, class and slot of its place, step and applications. -/
def deltaHead (key row step applied : Nat) : Nat :=
  bitsOf 0 34 row + key / 2 ^ 36 * 2 ^ 34 + key / 2 ^ 34 % 4 * 2 ^ 40 + key % 2 ^ 34 * 2 ^ 42 + step % 65536 * 2 ^ 76 +
  applied * 2 ^ 92

/-- A delta record as it stands in the `DELTA` region. -/
def deltaRecBytes (key : Nat) (r : DeltaRec) : List Byte := leBytes 16 (deltaHead key r.row r.step r.applied) ++ wordBytes r.vals

/-- The record that bytes of the region spell. -/
def recordOf (bs : List Byte) : DeltaRec :=
  let h := leAt bs 0 16
  { row := bitsOf 0 34 h, step := bitsOf 76 16 h, applied := bitsOf 92 32 h,
    vals := (List.range ((bs.length - 16) / 4)).map (fun i => BitVec.ofNat 32 (leAt bs (16 + 4 * i) 4)) }

/-- The record of a place read, if it has one and it can be read (R73). -/
def readDelta (s : State) (k key : Nat) : State × Option DeltaRec :=
  match kGet? (emb s k).deltas key with
  | none => (s, none)
  | some (a, n) =>
    let r := dramRead s a n 1
    (r.1, if r.2 then some (recordOf (load r.1 a n)) else none)

/-- Where a record of `n` bytes can be allocated: at the region's start or behind another record, with room for it and for what is
staged (log 36). -/
def deltaRoom (s : State) (k n : Nat) : Option Nat :=
  let e := emb s k
  match region s 4 k with
  | none => none
  | some (b, size) =>
    if size < deltaBytes e + n then none
    else (b :: e.deltas.map (fun d => d.2.1 + d.2.2)).find? (fun a => decide (a + n ≤ b + size) &&
      e.deltas.all (fun d => decide (d.2.1 + d.2.2 ≤ a) || decide (a + n ≤ d.2.1)))

/-- The record of a place written, allocated where it is new; with no room for it, `DELTA_FULL` (R129). -/
def writeDelta (s : State) (k key : Nat) (r : DeltaRec) (mb part : Nat) : State :=
  let bs := deltaRecBytes key r
  match kGet? (emb s k).deltas key with
  | some (a, _) => dramWrite s a bs 1
  | none =>
    match deltaRoom s k bs.length with
    | none => embFault s k 0x2881 3 (key / 2 ^ 36) r.row mb part s.step.current
    | some a => dramWrite (setEmb s k { emb s k with deltas := kSet (emb s k).deltas key (a, bs.length) }) a bs 1

/-- FP32 sums element by element; whether one is not finite (R102). -/
def addVals (strict : Bool) (a b : List (BitVec 32)) : List (BitVec 32) := List.zipWith (fun x y => (f32add strict x y).w) a b

/-- `n` zeros. -/
def zeroVals (n : Nat) : List (BitVec 32) := List.replicate n 0

/-- The open migration of a row. -/
def migrOf (e : EmbS) (t row : Nat) : Option MigrS := e.migrs.find? (fun m => m.table == t && m.row == row)

/-- A migration replaced. -/
def putMigr (e : EmbS) (m : MigrS) : EmbS :=
  { e with migrs := e.migrs.map (fun (x : MigrS) => if x.table == m.table && x.row == m.row then m else x) }

/-- `EMB_MIGR.ACTIVE` follows the open migrations. -/
def refreshActive (s : State) (k : Nat) : State := setFld s EMB_MIGR_ACTIVE (emb s k).migrs.length k

/-- A row's map entry with `MIGR` as given. -/
def setMigrBit (s : State) (d row : Nat) (b : Bool) : State :=
  let (s, e) := greRead s (mapAddr d row) 8
  if faulted s then s
  else dramWrite s (mapAddr d row) (leBytes 8 (rowMap (rmClass e) (rmSlot e) (rmPop e) (rmPresent e) b)) 1

/-- A migration given up before its switch (R131). -/
def abortMigr (s : State) (k : Nat) (m : MigrS) : State :=
  let e := emb s k
  let s := setEmb s k { e with
    migrs := e.migrs.filter (fun x => !(x.table == m.table && x.row == m.row)),
    migrList := (m.table, m.row, m.newCls) :: e.migrList,
    deltas := kErase e.deltas (placeKey m.table m.newCls m.newSlot) }
  let s := setMigrBit s (tdesc s k m.table) m.row false
  refreshActive (event (bump s EMB_EVT_MIGR_ABORT 1 k) 0x2802) k

/-- One application to the record of a place, created with all values 0 where it is the first (R129). -/
def applyAt (s : State) (k t row c slot step : Nat) (vals : List (BitVec 32)) (mb part : Nat) : State :=
  let key := placeKey t c slot
  let (s, old) := readDelta s k key
  if faulted s then s
  else
    let r : DeltaRec := old.getD { row := row, step := step % 65536, applied := 0, vals := zeroVals vals.length }
    let v := addVals (strictMode s) r.vals vals
    let s := if v.any nfW then setGraph s k { graph s k with ivOf := true } else s
    writeDelta s k key { r with vals := v, applied := satAdd 32 r.applied 1 } mb part

/-- One application to a row (R129–R131): to its place; logged while a migration copies; to both places from the copy to the
switch; to the new place after it, where one issued before the switch reaches the sealed place and is forwarded. -/
def applyRow (s : State) (k t row : Nat) (hub : Bool) (issued step mb part : Nat) (vals : List (BitVec 32)) : State :=
  match resolveRow s k t row mb part step with
  | (s, none) => s
  | (s, some e) =>
    let s := applyAt s k t row (rmClass e) (rmSlot e) step vals mb part
    if faulted s then s
    else match migrOf (emb s k) t row with
    | none => s
    | some m =>
      if m.phase = 0 then
        if hub || decide (4096 ≤ sumOf ((emb s k).migrs.map (fun x => x.log.length))) then abortMigr s k m
        else setEmb s k (putMigr (emb s k) { m with log := m.log ++ [vals] })
      else if m.phase = 2 then applyAt s k t row m.newCls m.newSlot step vals mb part
      else if issued < m.pane + 3 then event (bump s EMB_EVT_SEAL_FWD 1 k) 0x2806
      else s

/-- A segment applied to its row (R107, R129): its contributions one by one, or for a split target their partial as a whole. -/
def applySegment (s : State) (k : Nat) (g : SegS) : State :=
  let step := s.step.current
  let s := countRun_ s k 2 g.items.length
  match g.items with
  | [] => s
  | c :: _ =>
    if srHub g.record then
      let p := g.items.foldl (fun v (x : Contrib) => addVals (strictMode s) v x.vals) (zeroVals c.vals.length)
      applyRow s k (srTable g.record) (srTarget g.record) true g.pane step c.mb c.homePart p
    else
      foldLive (fun s (c : Contrib) => applyRow s k (srTable g.record) (srTarget g.record) false g.pane step c.mb c.homePart c.vals)
        s g.items

/-- `SCATTER_APPLY` (R111, R113): the segments issued in an earlier pane, in issue order. -/
def scatterApply (k : Nat) (s : State) : State :=
  if running s then
    let e := emb s k
    let due := e.issued.filter (fun g => decide (g.pane < pane s))
    let s := setEmb s k { e with issued := e.issued.filter (fun g => !decide (g.pane < pane s)) }
    foldLive (fun s g => applySegment s k g) s due
  else s

def execScatterApply (stack : Fin 8) (s : State) : Host.Outcome State Fault Refusal := runCmd (scatterApply stack.val) s

/-- The rows of a table that memory lists an entry for; every other row is absent. -/
def listedRows (s : State) (d : Nat) : List Nat :=
  (((s.mem.filter (fun e => decide (tdMap d ≤ e.1) && decide (e.1 < tdMap d + 8 * tdRows d))).map
    (fun e => (e.1 - tdMap d) / 8))).eraseDups

/-- The slots of a class in use: by present rows and by open migrations. -/
def usedSlots (s : State) (k t c : Nat) : List Nat :=
  let d := tdesc s k t
  let rows := (listedRows s d).map (fun r => loadNat s (mapAddr d r) 8)
  ((rows.filter (fun e => rmPresent e && rmClass e == c)).map rmSlot ++
    ((emb s k).migrs.filter (fun m => m.table == t && m.newCls == c)).map (fun m => m.newSlot) ++
    ((emb s k).migrs.filter (fun m => m.table == t && m.oldCls == c)).map (fun m => m.oldSlot)).eraseDups

/-- A free slot of a class; which one, a free value says (log 37). -/
def freeSlot (s : State) (k t c : Nat) : State × Option Nat :=
  let cap := tdCap (tdesc s k t) c
  let used := usedSlots s k t c
  let (s, v) := drawFree s
  (s, if cap = 0 then none
      else ((List.range (used.length + 1)).map (fun i => (v + i) % cap)).find? (fun x => !used.contains x))

/-- The migration engine may begin one now (R128): within a running `MIGR` task, with `MIGR_EN`, at most 16 a task and 64
open, and not before the commit that built the list has ended. -/
def migrTaskKey (t : WinTask) : Nat := dTaskId t.desc + 2 ^ 32 * t.pass
def mayMigrate (s : State) (k : Nat) : Option WinTask :=
  match (site s (96 + k)).run with
  | none => none
  | some t =>
    let e := emb s k
    if running s && dClass t.desc == 9 && decide (fld s EMB_CFG_MIGR_EN k = 1) && decide (e.migrs.length < 64) &&
        !(e.migrTask == migrTaskKey t && decide (16 ≤ e.migrCount)) &&
        !(committing s && e.listStep == s.step.current) then some t
    else none

/-- `MIGRATION_OPEN` (R128, R130, pane a): the first row of the list takes a new slot; its bytes and its record are read. -/
def migrationOpen (k : Nat) (s : State) : State :=
  match mayMigrate s k, (emb s k).migrList with
  | some task, (t, row, c) :: rest =>
    let d := tdesc s k t
    match resolveRow s k t row 0 (partId s) s.step.current with
    | (s, none) => s
    | (s, some ent) =>
      match freeSlot s k t c with
      | (s, none) => s
      | (s, some slot) =>
        let r := readGranules s (placeGranules d (rmClass ent) (rmSlot ent)) 1
        let (s, copy) := readDelta r.1 k (placeKey t (rmClass ent) (rmSlot ent))
        if faulted s then s
        else
        let e := emb s k
        let m : MigrS :=
          { table := t, row := row, oldCls := rmClass ent, oldSlot := rmSlot ent, newCls := c, newSlot := slot,
            pane := pane s, phase := 0, log := [], copy := copy,
            data := placeBytes s d (rmClass ent) (rmSlot ent) }
        let s := setEmb s k { e with
          migrList := rest, migrs := e.migrs ++ [m], migrTask := migrTaskKey task,
          migrCount := if e.migrTask = migrTaskKey task then e.migrCount + 1 else 1 }
        refreshActive (setMigrBit s d row true) k
  | _, _ => s

def execMigrationOpen (stack : Fin 8) (s : State) : Host.Outcome State Fault Refusal :=
  runCmd (migrationOpen stack.val) s

/-- Pane a + 2: the converted row, the copied record, the log replayed in order. -/
def copyOne (k : Nat) (s : State) (m : MigrS) : State :=
  let d := tdesc s k m.table
  let strict := strictMode s
  let s := storePlace s d m.newCls m.newSlot (encodeRow strict m.newCls (decodeRow strict d m.oldCls m.data)).1
  if faulted s then s
  else
  let e := emb s k
  let start := match m.copy with
    | some r => some r
    | none => if m.log = [] then none
      else some { row := m.row, step := s.step.current % 65536, applied := 0, vals := zeroVals (tdWidth d) }
  let s := setEmb s k (putMigr e { m with phase := 2, log := [], copy := none, data := [] })
  match start with
  | none => s
  | some r =>
    let r := m.log.foldl (fun (r : DeltaRec) v =>
      { r with vals := addVals strict r.vals v, applied := satAdd 32 r.applied 1 }) r
    writeDelta s k (placeKey m.table m.newCls m.newSlot) r 0 (partId s)

/-- The part still works on migrations: a job runs. -/
def migrationStep (k phase after : Nat) (f : Nat → State → MigrS → State) (s : State) : State :=
  if running s then
    foldLive (f k) s ((emb s k).migrs.filter (fun m => m.phase == phase && decide (m.pane + after ≤ pane s)))
  else s

/-- `MIGRATION_COPY` (R130). -/
def migrationCopy (k : Nat) (s : State) : State := migrationStep k 0 2 copyOne s

def execMigrationCopy (stack : Fin 8) (s : State) : Host.Outcome State Fault Refusal :=
  runCmd (migrationCopy stack.val) s

/-- The undo record ends (R293). -/
def undoEnds (s : State) : State := setFld s PANE_COMMIT_STATUS_UNDO_VALID 0

/-- Pane a + 3: the old place is sealed. -/
def switchOne (k : Nat) (s : State) (m : MigrS) : State :=
  let d := tdesc s k m.table
  let (s, e) := greRead s (mapAddr d m.row) 8
  let s := if faulted s then s
    else dramWrite s (mapAddr d m.row) (leBytes 8 (rowMap m.newCls m.newSlot (rmPop e) (rmPresent e) false)) 1
  if faulted s then s
  else undoEnds (setEmb s k (putMigr (emb s k) { m with phase := 3 }))

/-- `MIGRATION_SWITCH` (R130, R293). -/
def migrationSwitch (k : Nat) (s : State) : State := migrationStep k 2 3 switchOne s

def execMigrationSwitch (stack : Fin 8) (s : State) : Host.Outcome State Fault Refusal :=
  runCmd (migrationSwitch stack.val) s

/-- Pane a + 4: the old slot and record are freed. -/
def doneOne (k : Nat) (s : State) (m : MigrS) : State :=
  let e := emb s k
  let s := setEmb s k { e with
    migrs := e.migrs.filter (fun x => !(x.table == m.table && x.row == m.row)),
    deltas := kErase e.deltas (placeKey m.table m.oldCls m.oldSlot) }
  refreshActive (event (bump s EMB_EVT_MIGR_DONE 1 k) 0x2801) k

/-- `MIGR_DONE` (R130). -/
def migrDone (k : Nat) (s : State) : State := migrationStep k 3 4 doneOne s

def execMigrDone (stack : Fin 8) (s : State) : Host.Outcome State Fault Refusal := runCmd (migrDone stack.val) s

end Sys2Proof.Machine
end

