-- ==== Sys2Proof/Machine/Flags.lean ====
section
/-! DEFINITION. The flags of a tile's units: `FMT_FLAGS` and `FMT_FIRST` (R199), `ACC_FLAGS` and `ACC_EXCn` (R218, R219), and
the counters that conversions and results raise (R189, R192, R194, R196). -/

namespace Sys2Proof.Machine

/-- What the VFU or the compressor reports of one instruction: conditions, the first element that is invalid or non-finite
(and whether invalid), and counts. -/
structure VfuFlags where
  iv : Bool := false
  dz : Bool := false
  ovf : Bool := false
  uf : Bool := false
  nx : Bool := false
  nf : Bool := false
  first : Option (Nat × Bool) := none
  flush : Nat := 0
  negz : Nat := 0
  deriving DecidableEq, Repr

/-- One result added to a report; `i` its element. -/
def VfuFlags.add (f : Fp) (r : VfuFlags) (i : Nat) (x : FRes) : VfuFlags :=
  let nf := isNonFinite f x.bits
  { iv := r.iv || x.iv, dz := r.dz || x.dz, ovf := r.ovf || x.ovf, uf := r.uf || x.uf, nx := r.nx || x.nx,
    nf := r.nf || nf, first := minFirst r.first (if x.iv || nf then some (i, x.iv) else none),
    flush := r.flush + b2n x.flush, negz := r.negz + b2n x.negz }

/-- The report of a list of results. -/
def flagsOf (f : Fp) (l : List FRes) : VfuFlags :=
  ((List.range l.length).zip l).foldl (fun r e => r.add f e.1 e.2) {}

/-- The non-finite causes of a tile, by the class of the task that raised them (R199, R220, R285). -/
def markCause (s : State) (t : Nat) (task : WinTask) (bits : Nat) : State :=
  if bits = 0 then s
  else
    let x := tileS s t
    setTile s t (if dClass task.desc = 0 then
        { x with commitFlags := x.commitFlags ||| bits, commitLayer := x.commitLayer <|> some (dLayer task.desc) }
      else { x with plainFlags := x.plainFlags ||| bits })

/-- A field set where a condition holds; sticky flags are never cleared here. -/
def stick (s : State) (f : Field) (b : Bool) (k : Nat) : State := if b then setFld s f 1 k else s

/-- `FMT_FLAGS`, `FMT_FIRST` and the event counts of one VFU or compressor instruction (R199). `DZ`, `UF` and `NX` stick in
strict mode only. -/
def fmtReport (s : State) (t : Nat) (task : WinTask) (instr : Nat) (r : VfuFlags) : State :=
  let strict := strictMode s
  let s := stick s FMT_FLAGS_IV r.iv t
  let s := stick s FMT_FLAGS_DZ (r.dz && strict) t
  let s := stick s FMT_FLAGS_OF r.ovf t
  let s := stick s FMT_FLAGS_UF (r.uf && strict) t
  let s := stick s FMT_FLAGS_NX (r.nx && strict) t
  let s := stick s FMT_FLAGS_NF r.nf t
  let s := markCause s t task (b2n r.iv + 2 * b2n r.nf)
  let s := event (bump s FMT_EVT_FLUSH r.flush t) 0x3802 r.flush
  let s := if r.negz = 0 then s else bump s FMT_EVT_NEG_ZERO r.negz t
  match r.first with
  | none => s
  | some (i, isIv) =>
    if fld s FMT_FIRST_VALID t = 1 then s
    else
      let s := setFld (setFld (setFld (setFld (setFld (setFld s FMT_FIRST_VALID 1 t) FMT_FIRST_KIND (b2n isIv) t)
        FMT_FIRST_INSTR instr t) FMT_FIRST_TASK_ID (dTaskId task.desc) t) FMT_FIRST_ELEMENT i t) FMT_FIRST_PANE (pane s) t
      event s 0x3803

/-- `SPX_FAULT` and a fault of the sparse units (R229, R236). -/
def spxFault (s : State) (t code reason needed cap : Nat) (task : WinTask) (instr : Nat) : State :=
  let s := firstRecord s SPX_FAULT_VALID t 0 (fun s =>
    setFld (setFld (setFld (setFld (setFld (setFld (setFld s SPX_FAULT_REASON reason t) SPX_FAULT_NEEDED needed t)
      SPX_FAULT_CODE code t) SPX_FAULT_TASK_ID (dTaskId task.desc) t) SPX_FAULT_INSTR instr t) SPX_FAULT_CAP cap t)
      SPX_FAULT_PANE (pane s) t)
  fault s code (some (SPX_FAULT.at t 0))

/-- What the accumulation unit reports of one instruction for a bank: overflow, a non-finite value written, and the first
invalid operation as (kind, row, column, k-group). -/
structure AccFlags where
  ovf : Bool := false
  nf : Bool := false
  iv : Option (Nat × Nat × Nat × Nat) := none
  deriving DecidableEq, Repr

/-- The flag fields of a bank. -/
def accIV (b : Nat) : Field := if b = 0 then ACC_FLAGS_IV0 else ACC_FLAGS_IV1
def accOF (b : Nat) : Field := if b = 0 then ACC_FLAGS_OF0 else ACC_FLAGS_OF1
def accNF (b : Nat) : Field := if b = 0 then ACC_FLAGS_NF0 else ACC_FLAGS_NF1

/-- `ACC_FLAGS`, `ACC_EXCn` and the events of R218, R219. -/
def accReport (s : State) (t : Nat) (task : WinTask) (instr b : Nat) (r : AccFlags) : State :=
  let s := stick s (accIV b) r.iv.isSome t
  let s := stick s (accOF b) r.ovf t
  let s := stick s (accNF b) r.nf t
  let s := markCause s t task ((b2n r.iv.isSome + 2 * b2n r.nf) * 4 ^ (b + 1))
  let s := if r.ovf && !bitOf b (tileS s t).overflowed then
      event (bump (setTile s t { tileS s t with overflowed := (tileS s t).overflowed ||| 2 ^ b }) ACC_EVT_OVERFLOWS 1 t) 0x3805
    else s
  match r.iv with
  | none => s
  | some (kind, row, col, g) =>
    if fld s ACC_EXC_VALID t b = 1 then s
    else
      let s := setFld (setFld (setFld (setFld (setFld (setFld (setFld (setFld s ACC_EXC_VALID 1 t b) ACC_EXC_KIND kind t b)
        ACC_EXC_ROW row t b) ACC_EXC_COL col t b) ACC_EXC_KGROUP g t b) ACC_EXC_INSTR instr t b)
        ACC_EXC_TASK_ID (dTaskId task.desc) t b) ACC_EXC_PANE (pane s) t b
      event s 0x3804

/-- Results flushed to zero by a unit outside the VFU's own report (R192, R200). -/
def flushReport (s : State) (t n : Nat) : State := event (bump s FMT_EVT_FLUSH n t) 0x3802 n

/-! Masked W-parts (R265, R266). -/

/-- A bit of a bit string in memory, the least significant bit of a byte first. -/
def maskBit (s : State) (a i : Nat) : Bool := bitOf (i % 8) (memRead s.mem (a + i / 8)).toNat

/-- The 128-row granule of a row of W is masked (R266, R279; layout log 76). -/
def granuleMasked (s : State) (x : Tensor) (row : Nat) : Bool := x.masked && maskBit s x.maskBase (row / 128)

/-- An element is frozen by the masks (R266, R279; layout log 76). -/
def frozen (s : State) (x : Tensor) (row col : Nat) : Bool :=
  granuleMasked s x row ||
  (x.masked && maskBit s (x.maskBase + ((x.k + 127) / 128 + 7) / 8) (row / 16 * ((x.n + 15) / 16) + col / 16))

/-- The tensor whose masks bear on a task's results, and the row and column of W that lie at row 0 and column 0 of the bank: masked
W-parts are in force, and the results belong to a masked tensor of the task's layer (R256, R265; log 45). -/
def wMask (s : State) (task : WinTask) (e : TileEnv) : Option (Tensor × Nat × Nat) :=
  if fld s PANE_BWD_MASKED = 1 ∧ dClass task.desc = 8 then
    match e.wBlock with
    | none => none
    | some (i, br, bc) => match s.job.tensors[i]? with
      | some x => if x.masked && x.layer == dLayer task.desc then some (x, 128 * br, 128 * bc) else none
      | none => none
  else none

/-- The element at a bank row and column is frozen. -/
def bankFrozen (s : State) (m : Option (Tensor × Nat × Nat)) (row col : Nat) : Bool :=
  match m with
  | some (x, r, c) => frozen s x (r + row) (c + col)
  | none => false

/-! Writes by management and RDMA (R151, R152, R157). -/

/-- The tile of a scratchpad address. -/
def tileOfAddr (a : Nat) : Nat := (a - 0x10000000000) / 0x1000000

/-- The 128-byte lines of a tile's memory that RDMA or management writes are counted (R157). -/
def hostLines (s : State) (a n : Nat) : State :=
  if a < tileBase 0 ∨ tileBase 96 ≤ a ∨ n = 0 then s
  else bump s TILE_EVT_HOST_LINES ((a + n - 1) / 128 - a / 128 + 1) (tileOfAddr a)

/-- A non-finite word that management writes to a bank sets that bank's `NF` (R219); no `COMMIT` task raised it. -/
def hostNf (s : State) (a n : Nat) : State :=
  let t := tileOfAddr a
  let o := (a - 0x10000000000) % 0x1000000
  let b := (o - bankBase 0) / 0x10000
  if bankBase 0 ≤ o ∧ o < bankBase 2 ∧ (loadWords s (a / 4 * 4) ((a % 4 + n + 3) / 4)).any nfW = true then
    setTile (setFld s (if b = 0 then ACC_FLAGS_NF0 else ACC_FLAGS_NF1) 1 t) t
      { tileS s t with plainFlags := (tileS s t).plainFlags ||| 2 * 4 ^ (b + 1) }
  else s

/-- Bytes that management or RDMA stores in a tile's scratchpad or banks. -/
def hostStore (s : State) (a : Nat) (bs : List Byte) : State := hostNf (hostLines (store s a bs) a bs.length) a bs.length

/-- The writes that waited for tile `t`'s banks take place once its task has ended (R153). -/
def releaseWrites (s : State) (t : Nat) : State :=
  let mine := s.mgmt.heldWrites.filter (fun e => tileOfAddr e.1 == t)
  if mine = [] then s
  else
    let s := { s with mgmt := { s.mgmt with heldWrites := s.mgmt.heldWrites.filter (fun e => tileOfAddr e.1 != t) } }
    mine.foldl (fun s e => hostStore s e.1 (leBytes 8 e.2)) s

/-- A count kept exactly, reported in units of 1,024. -/
def kilo (s : State) (f : Field) (n t : Nat) : State := setFld s f (min (n / 1024) (2 ^ f.bits - 1)) t

/-- Random words that lanes drew (R196, R306): the lanes, the words and the evaluations of F, which four coordinates of one
cycle of 128 lanes share. -/
def drewReport (s : State) (t coord0 : Nat) (drew : List Nat) (lanes : Bool) : State :=
  if drew = [] then s
  else
    let blocks := ((drew.map (fun i => (i / 128, (coord0 + i) / 4))).eraseDups).length
    let x := tileS s t
    let x := { x with lanes := x.lanes + (if lanes then drew.length else 0), words := x.words + drew.length,
                      blocks := x.blocks + blocks }
    let s := setTile s t x
    kilo (kilo (kilo s FMT_EVT_SR_KLANES x.lanes t) RNG_EVT_WORDS x.words t) RNG_EVT_BLOCKS x.blocks t

/-- The report of a conversion (R194): saturations of a gradient conversion are reported to overflow replay instead of being
counted (R195). -/
def convReport (s : State) (t : Nat) (task : WinTask) (instr coord0 : Nat) (grad : Bool) (o : ConvOut) : State :=
  let s := fmtReport s t task instr
    { iv := o.iv, ovf := o.ovf, uf := o.uf, nx := o.nx, nf := o.nf, first := o.first, flush := o.flush, negz := o.negz }
  let n := if grad then 0 else o.sat
  drewReport (event (bump s FMT_EVT_SAT n t) 0x3801 n) t coord0 o.drew true

end Sys2Proof.Machine
end

