-- ==== Sys2Proof/Machine/Hazard.lean ====
section
/-! DEFINITION. When a unit instruction may issue (R53, R175, R222): the running task's list and the place it has reached, the ranges
that an instruction reads and writes, a conversion between attempts, and memory data that has not come. -/

namespace Sys2Proof.Machine

/-- The opcode of a unit instruction. -/
def insOp (w : Word32B) : Nat := bitsOf 0 8 w.toNat

/-- κ (R159). -/
def kappa (a b : Nat) : Nat := if (a == 0 && b == 0) || (a == 7 && b == 7) then 2 else 1

/-- Bytes of a dense operand of `rows` × `cols` stored elements: whole 32 × 32 sub-blocks, row-major (R147; log 49). -/
def denseBytes (fmt rows cols : Nat) : Nat := (rows + 31) / 32 * ((cols + 31) / 32) * (128 * fmtBits fmt)
def denseScaleBytes (fmt rows cols : Nat) : Nat := if fmtMx fmt then (rows + 31) / 32 * ((cols + 31) / 32) * 32 else 0

/-- The pair record of a sparse instruction (R230): the two map addresses. -/
def pairRecord (s : State) (t : Nat) (w : Word32B) : Nat × Nat :=
  let r := leNat (tload s t (bitsOf 192 23 w.toNat) 16)
  (bitsOf 0 23 r, bitsOf 32 23 r)

/-- The instruction list of the running task: the items of its piece, or its list in the image (R474). -/
def taskItems (s : State) (task : WinTask) : List Word32B :=
  match task.items with
  | some l => l
  | none => match kGet? s.job.lists (dTaskId task.desc) with
    | none => []
    | some (a, n) => (List.range n).map (fun i => wordAt s (a + 32 * i))

/-- An issued word is the one at its index in the list; in a cut task an `MMA` of the list carries the splitter's range in the bits
from 216 on (R243). -/
def listHas (l : List Word32B) (i : TileIns) : Bool :=
  l == [] || (match l[i.index]? with
    | some w => w == i.word || (insOp w == 0x10 && w.toNat % 2 ^ 215 == i.word.toNat)
    | none => false)

/-- The instruction is the running task's next (R175). -/
def isNext (s : State) (t : Nat) (task : WinTask) (i : TileIns) : Bool :=
  i.index == (tileS s t).place && listHas (taskItems s task) i

/-- Ranges of a tile's window, as offset and length, that share a byte. -/
def spansMeet (a b : List (Nat × Nat)) : Bool :=
  a.any (fun x => b.any (fun y => decide (x.1 < y.1 + y.2) && decide (y.1 < x.1 + x.2)))

/-- The rows of a bank as a range. -/
def bankSpan (b row0 rows : Nat) : Nat × Nat := (bankBase b + 512 * row0, 512 * rows)

/-- One operand of a product as ranges: dense, or a panel's map entry, block slots and scale area (R230). -/
def opndSpans (s : State) (t fmt addr scale rows cols : Nat) (panel : Option Nat) : List (Nat × Nat) :=
  match panel with
  | none => [(addr, denseBytes fmt rows cols), (scale, denseScaleBytes fmt rows cols)]
  | some m => [(m, 32), (addr, mapCap (leNat (tload s t m 32)) * blockStride fmt), (scale, if fmtMx fmt then 512 else 0)]

/-- What an `MMA` or `MVM` reads in the scratchpad. -/
def prodReads (s : State) (t : Nat) (w : Word32B) : List (Nat × Nat) :=
  let v := w.toNat
  let fa := bitsOf 16 4 v
  let fb := bitsOf 20 4 v
  let sparse := insOp w == 0x10 && bitOf 30 v
  let maps := if sparse then pairRecord s t w else (0, 0)
  let k := if insOp w = 0x10 then 16 * kappa fa fb * (bitsOf 8 3 v + 1) else 32 * (bitsOf 40 5 v + 1)
  let n := if insOp w = 0x10 then 16 * (bitsOf 12 3 v + 1) else bitsOf 8 3 v + 1
  (if sparse then [(bitsOf 192 23 v, 16)] else []) ++
  opndSpans s t fa (bitsOf 64 23 v) (bitsOf 128 23 v) (bitsOf 32 7 v + 1) k (if sparse then some maps.1 else none) ++
  opndSpans s t fb (bitsOf 96 23 v) (bitsOf 160 23 v) n k (if sparse then some maps.2 else none)

/-- The bank rows of an `MMA` or `MVM`; with pairs those of both banks (R206, R207). -/
def prodRows (w : Word32B) : List (Nat × Nat) :=
  let v := w.toNat
  let row0 := if insOp w = 0x10 then bitsOf 40 7 v else 0
  let one := fun (b : Nat) => bankSpan b row0 (bitsOf 32 7 v + 1)
  if bitOf 58 v then [one 0, one 1] else [one (bitsOf 28 1 v)]

/-- Elements of a VFU instruction (R197, R308). -/
def laneCount (w : Word32B) : Nat :=
  let n := if insOp w = 0x23 then bitsOf 128 21 w.toNat else bitsOf 192 21 w.toNat
  if n = 0 then 2097152 else n

/-- Bytes of the FP32 rows of a bank instruction, with a second area for pairs (R210). -/
def bankBytes (w : Word32B) : Nat := 512 * (bitsOf 24 7 w.toNat + 1) + 4 * (bitsOf 40 7 w.toNat + 1) * (bitsOf 24 7 w.toNat + 1)

/-- The ranges of its tile's window that an instruction reads. -/
def insReads (s : State) (t : Nat) (w : Word32B) : List (Nat × Nat) :=
  let v := w.toNat
  let rows := fun (b : Nat) => bankSpan b (bitsOf 16 7 v) (bitsOf 24 7 v + 1)
  match insOp w with
  | 0x10 => prodReads s t w ++ (if bitOf 29 v then [] else prodRows w)
  | 0x11 => prodReads s t w ++ (if bitOf 29 v then [] else prodRows w)
  | 0x20 => [(bitsOf 64 24 v, fmtBytes (bitsOf 16 4 v) (laneCount w)),
      (bitsOf 96 24 v, if bitOf 222 v then 4 else fmtBytes (bitsOf 16 4 v) (laneCount w)),
      (bitsOf 128 24 v, if bitsOf 8 8 v = 0x04 then fmtBytes (bitsOf 20 4 v) (laneCount w) else 0)]
  | 0x21 => [(bitsOf 64 24 v, fmtBytes (bitsOf 16 4 v) (laneCount w)),
      (bitsOf 96 24 v, if fmtMx (bitsOf 16 4 v) then (laneCount w + 1023) / 1024 * 32 else 0)]
  | 0x22 => [(bitsOf 64 23 v, 16)]
  | 0x30 => [rows 0, rows 1]
  | 0x31 => [(bitsOf 64 23 v, bankBytes w)]
  | 0x40 => [(bitsOf 64 23 v, if bitOf 17 v then 0 else 1024 * (bitsOf 32 3 v + 1) * (bitsOf 36 3 v + 1))]
  | 0x50 => [(bitsOf 64 23 v, bitsOf 96 32 v)]
  | _ => []

/-- The ranges of its tile's window that an instruction writes. -/
def insWrites (s : State) (t : Nat) (task : WinTask) (w : Word32B) : List (Nat × Nat) :=
  let v := w.toNat
  let rows := fun (b : Nat) => bankSpan b (bitsOf 16 7 v) (bitsOf 24 7 v + 1)
  let grad := fun (f : Nat) => fmtBytes f (2 * laneCount w)
  match insOp w with
  | 0x10 => prodRows w
  | 0x11 => prodRows w
  | 0x20 => [(bitsOf 128 24 v, fmtBytes (bitsOf 20 4 v) (laneCount w))]
  | 0x21 =>
    let f := if bitOf 29 v && bitsOf 20 4 v != 10 then fld s PANE_GFC_FMT 0 (dLayer task.desc) else bitsOf 20 4 v
    let below := if bitOf 29 v then 32 else 0
    [(bitsOf 128 24 v - below, below + (if bitOf 28 v then grad f else fmtBytes f (laneCount w))),
      (bitsOf 160 24 v, if fmtMx f then (laneCount w + 1023) / 1024 * 64 else 0)]
  | 0x23 => [(bitsOf 64 24 v, if bitsOf 8 2 v = 1 then (laneCount w + 7) / 8 else 4 * laneCount w)]
  | 0x30 => if bitOf 10 v then [] else [(bitsOf 64 23 v, bankBytes w)]
  | 0x31 => [rows 0, rows 1]
  | 0x32 => [rows (bitsOf 8 1 v)]
  | 0x40 =>
    let f := if bitOf 18 v then fld s PANE_GFC_FMT 0 (dLayer task.desc) else bitsOf 8 4 v
    [(bitsOf 96 23 v, bitsOf 224 7 v * blockStride f), (bitsOf 128 23 v, if fmtMx f then 512 else 0), (bitsOf 160 23 v - 32, 64)]
  | 0x51 => [(bitsOf 64 23 v, ((s.stash.recs.find? (fun r => r.step == task.pass && r.mb == dMb task.desc && r.layer == bitsOf 16 8 v &&
      r.kind == bitsOf 8 2 v && r.seq == bitsOf 24 16 v)).map (fun r => r.bytes)).getD 0)]
  | _ => []

/-- A conversion between attempts holds an instruction back that would touch its destination or write its source, and those of its own
unit (R175, R222). -/
def attemptHolds (s : State) (t : Nat) (task : WinTask) (w : Word32B) : Bool :=
  match (tileS s t).attempt with
  | none => false
  | some a =>
    [0x20, 0x21, 0x23, 0x40].contains (insOp w) ||
    spansMeet (insReads s t w ++ insWrites s t task w) (insWrites s t task a.word) ||
    spansMeet (insWrites s t task w) (insReads s t a.word)

/-- Data that a memory-side request of this tile has not yet brought (R53). -/
def missingSpans (s : State) (t : Nat) : List (Nat × Nat) :=
  (s.sched.memReqs.filter (fun o => o.req.site.val == t && !o.req.isWrite && !o.landed)).map (fun o => (o.req.dst, o.req.len))

/-- The instruction reads data that has not come (R53). -/
def dataMissing (s : State) (t : Nat) (w : Word32B) : Bool :=
  missingSpans s t != [] && spansMeet (insReads s t w) (missingSpans s t)

/-- An instruction issues: it is the next of its task's list, and neither a conversion's attempts nor missing data hold it (R53, R175,
R222). -/
def mayIssue (s : State) (t : Nat) (task : WinTask) (i : TileIns) : Bool :=
  isNext s t task i && !attemptHolds s t task i.word && !dataMissing s t i.word

/-- The task's place after an instruction has issued. -/
def issued (s : State) (t : Nat) (i : TileIns) : State := setTile s t { tileS s t with place := i.index + 1 }

end Sys2Proof.Machine
end

