-- ==== Sys2Proof/Machine/Array.lean ====
section
/-! DEFINITION. The matrix array, the matrix-vector path and the accumulation unit (06, 07, 09), with the sparse front end and
the activity predictor (10) and masked W-parts (11): `MMA`, `MVM`, `LOUVRE_CLOSE`, `DRAIN`, `LOAD`, `ZERO`. -/

namespace Sys2Proof.Machine

/-! A unit instruction within its task. -/

/-- The opcodes of unit instructions (R160, R197, R210, R233, R242, R259, R270, R308, R335). -/
def knownOps : List Nat := [0x10, 0x11, 0x20, 0x21, 0x22, 0x23, 0x30, 0x31, 0x32, 0x40, 0x41, 0x50, 0x51, 0x60]

/-- `MXA_FAULT` and a fault of an array or MVP instruction (R161, R170, R207). -/
def mxaFault (s : State) (t code row : Nat) (task : WinTask) (instr : Nat) : State :=
  let s := firstRecord s MXA_FAULT_VALID t 0 (fun s =>
    setFld (setFld (setFld (setFld (setFld s MXA_FAULT_ROW row t) MXA_FAULT_CODE code t)
      MXA_FAULT_TASK_ID (dTaskId task.desc) t) MXA_FAULT_INSTR instr t) MXA_FAULT_PANE (pane s) t)
  fault s code (some (MXA_FAULT.at t 0))

/-- `INSTR_INVALID` (R161). -/
def instrInvalid (s : State) (t : Nat) (task : WinTask) (instr : Nat) : State := mxaFault s t 0x3081 0xFF task instr

/-- A scratchpad word corrected (R149). -/
def sramCe (s : State) (t : Nat) : State := event (bump s TILE_ECC_CE 1 t) 0x3001

/-- An uncorrectable scratchpad read (R149): `TILE_UE_LOG`. -/
def sramUeLog (s : State) (t a : Nat) : State :=
  firstRecord s TILE_UE_LOG_VALID t 0 (fun s =>
    setFld (setFld (setFld s TILE_UE_LOG_BANK (bitsOf 7 5 a) t) TILE_UE_LOG_ADDR a t) TILE_UE_LOG_PANE (pane s) t)

/-- `SRAM_UE` (R149). -/
def sramUe (s : State) (t a : Nat) : State := fault (sramUeLog s t a) 0x3080 (some (TILE_UE_LOG.at t 0))

/-- A scratchpad word that a read finds in error (R149). -/
def wordFound (s : State) (t a : Nat) : Ecc → State
  | .clean => s
  | .corrected => sramCe s t
  | .uncorrectable => sramUe s t a

/-- `ACC_PARITY` (R224). -/
def accParity (s : State) (t bank row col : Nat) : State :=
  let s := firstRecord s ACC_PAR_VALID t 0 (fun s =>
    setFld (setFld (setFld (setFld s ACC_PAR_BANK bank t) ACC_PAR_ROW row t) ACC_PAR_COL col t) ACC_PAR_PANE (pane s) t)
  fault s 0x3880 (some (ACC_PAR.at t 0))

/-- What befell the instruction below the model: bank waits (R146), port waits (R209), the scratchpad's and the banks' checks
(R149, R224). -/
def unitEnv (s : State) (t : Nat) (e : TileEnv) : State :=
  let s := if e.bankWait = 0 then s else bump s TILE_EVT_BANK_WAIT e.bankWait t
  let s := if e.portWait = 0 then s else bump s ACC_EVT_PORT_WAIT e.portWait t
  let s := event (if e.rngStall = 0 then s else bump s RNG_EVT_STALL e.rngStall t) 0x3007 e.rngStall
  let s := e.sram.foldl (fun s x => wordFound s t x.1 x.2) s
  match e.bankParity with
  | some (b, r, c) => accParity s t b r c
  | none => s

/-- An access to a tile's window by device addresses: its waits, the words in error among those it reads, and the parity of the bank
words; whether its data may be delivered (R149, R224). -/
def spadCheck (s : State) (a n : Nat) (f : Found) : State × Bool :=
  if a < tileBase 0 ∨ tileBase 96 ≤ a then (s, true)
  else
    let t := (a - tileBase 0) / 0x1000000
    let o := (a - tileBase 0) % 0x1000000
    let here := fun (x : Nat) => decide (o ≤ x) && decide (x < o + n)
    let s := if f.wait = 0 then s else bump s TILE_EVT_BANK_WAIT f.wait t
    let l := f.sram.filter (fun x => here x.1 && decide (x.1 < spadBytes))
    let s := l.foldl (fun s x => wordFound s t x.1 x.2) s
    let lost := l.any (fun x => x.2 == .uncorrectable)
    match f.parity with
    | some (b, r, c) =>
      if (List.range 4).any (fun i => here (bankBase b + 512 * r + 4 * c + i)) then (accParity s t b r c, false) else (s, !lost)
    | none => (s, !lost)

/-- A unit instruction as its tile's running task issues it, in the order of its list (R175): one that is not its next, or that must
wait, has no effect yet. A word with a reserved opcode is invalid (R161); a word of another unit's opcode is not this command. -/
def unitIns (op : Nat) (f : State → Nat → WinTask → TileIns → State) (i : TileIns) (s : State) : State :=
  let t := i.tile.val
  match (site s t).run with
  | none => s
  | some task =>
    if !jobLive s || faulted s || !mayIssue s t task i then s
    else if insOp i.word = op then
      let s := unitEnv s t i.env
      if faulted s then s
      else
        let s := f s t task i
        if faulted s then s else issued s t i
    else if knownOps.contains (insOp i.word) then s
    else instrInvalid s t task i.index

/-! Operands of products. -/

/-- A value with its exponent moved (R259). -/
def shiftNum (d : Int) : Num → Num
  | .fin s m e => .fin s m (e + d)
  | x => x

/-- How one operand of a product is read: format, signedness, exponent shift, orientation, its element and scale areas, and
for a sparse instruction its panel. -/
structure Opnd where
  fmt : Nat
  sgn : Bool
  shift : Int
  orient : Nat
  addr : Nat
  scale : Nat
  panel : Option Nat
  deriving DecidableEq, Repr

/-- An element of a dense operand at a stored row and column; `other` is its coordinate across k (R187). -/
def denseElem (s : State) (t : Nat) (o : Opnd) (cols row col other : Nat) : Num :=
  let b := fmtBits o.fmt
  let idx := row / 32 * ((cols + 31) / 32) + col / 32
  let w := leNat (tload s t (o.addr + idx * (128 * b) + row % 32 * (4 * b)) (4 * b))
  let x := decodeElem o.fmt (strictMode s) o.sgn (bitsOf (col % 32 * b) b w)
  if fmtMx o.fmt then scaleNum (leNat (tload s t (o.scale + 32 * idx + other % 32) 1)) x else x

/-- The element of an operand at `i` across k and `k` along it. -/
def opndElem (s : State) (t : Nat) (o : Opnd) (acrossIsRow : Bool) (across klen i k : Nat) : Num :=
  let rowIsI := if acrossIsRow then o.orient == 0 else o.orient == 1
  let row := if rowIsI then i else k
  let col := if rowIsI then k else i
  let x := match o.panel with
    | some m => panelElem s (strictMode s) o.sgn
        (spadPanel s (tileBase t + m) (tileBase t + o.scale) (tileBase t + o.addr)) row col
    | none => denseElem s t o (if rowIsI then klen else across) row col i
  shiftNum o.shift x

/-- A product as an instruction names it: `k` elements from `k0` on, of the `kAll` that its operands hold (a piece of a cut
instruction forms part of them, R243). `kmask` and `vmask` are the k-blocks written and the m-blocks streamed (R238); none stands for
all of them. -/
structure Prod where
  m : Nat
  n : Nat
  k : Nat
  k0 : Nat
  kAll : Nat
  a : Opnd
  b : Opnd
  bank : Nat
  row0 : Nat
  col0 : Nat
  init : Bool
  group : Nat
  pair : Bool
  kmask : Option (List Nat) := none
  vmask : Option (List Nat) := none
  deriving DecidableEq, Repr

/-- g of `ACCM` (R204). -/
def accGroup (a : Nat) : Nat := match a % 4 with | 0 => 4 | 1 => 8 | _ => 16

/-- The formats of a pair may meet (R159). -/
def pairOk (a b : Nat) : Bool :=
  (fmtMx a && fmtMx b) || (fmtInt a && fmtInt b) || (a == b && (a == 8 || a == 9 || a == 10))

/-- P and b of a format (R159). -/
def passes (f : Nat) : Nat := if f = 10 then 32 else if f = 8 ∨ f = 9 then 8 else 1
def writes (f : Nat) : Nat := if f = 10 then 4 else if f = 8 ∨ f = 9 then 2 else 1

/-- The replay record a `GTAG` named, as it bears on a gradient operand: format and exponent shift (R259). -/
def gradShift (r : Nat) : Nat × Int := (bitsOf 20 4 r, signed 8 r - 12 - signed 8 (r / 256))

/-- An operand under the record in force. -/
def underGtag (g : Option Nat) (isGrad : Bool) (o : Opnd) : Opnd :=
  match g with
  | some r => if isGrad then { o with fmt := (gradShift r).1, shift := (gradShift r).2 } else o
  | none => o

/-- A part of an `MMA` as the splitter writes it (R243): the k-blocks from `x` up to `y` of the word, in units of `KB`. The
range stands in bits that are reserved in every word an image may hold. -/
def cutWord (w : Word32B) (x y : Nat) : Word32B :=
  let v := w.toNat % 2 ^ 216
  let v := if x = 0 then v else v - (bitsOf 29 1 v) * 2 ^ 29
  BitVec.ofNat 256 (v + x * 2 ^ 216 + y * 2 ^ 224)

/-- The k-blocks of an `MMA` word, in units of `KB`: the whole instruction, or the part the splitter left. -/
def kRange (w : Word32B) : Nat × Nat :=
  let v := w.toNat
  (bitsOf 216 8 v, if bitsOf 224 8 v = 0 then bitsOf 8 3 v + 1 else bitsOf 224 8 v)

/-- The word that an issued word stands for: in a cut task, the splitter's part at its index (R243). -/
def effWord (task : WinTask) (i : TileIns) : Word32B :=
  match task.items with
  | none => i.word
  | some l => match l[i.index]? with
    | some w => if w.toNat % 2 ^ 215 = i.word.toNat then w else i.word
    | none => i.word

/-- The product of an `MMA` word (R160), under the `GTAG` in force for a task of class `cls`. -/
def mmaProd (s : State) (t cls : Nat) (g : Option Nat) (w : Word32B) : Prod :=
  let v := w.toNat
  let sparse := bitOf 30 v
  let maps := if sparse then pairRecord s t w else (0, 0)
  let a := underGtag g (cls == 1)
    { fmt := bitsOf 16 4 v, sgn := bitOf 24 v, shift := 0, orient := bitsOf 26 1 v, addr := bitsOf 64 23 v,
      scale := bitsOf 128 23 v, panel := if sparse then some maps.1 else none }
  let b := underGtag g (cls == 8)
    { fmt := bitsOf 20 4 v, sgn := bitOf 25 v, shift := 0, orient := bitsOf 27 1 v, addr := bitsOf 96 23 v,
      scale := bitsOf 160 23 v, panel := if sparse then some maps.2 else none }
  let u := 16 * kappa a.fmt b.fmt
  let r := kRange w
  { m := bitsOf 32 7 v + 1, n := 16 * (bitsOf 12 3 v + 1), k := u * (r.2 - r.1), k0 := u * r.1,
    kAll := u * (bitsOf 8 3 v + 1), a := a, b := b,
    bank := bitsOf 28 1 v, row0 := bitsOf 40 7 v, col0 := bitsOf 48 7 v, init := bitOf 29 v,
    group := accGroup (bitsOf 56 4 v), pair := bitOf 58 v }

/-- The product of an `MVM` word (R177): the held vectors take the place of the stationary operand. `KLEN` stands where an
`MMA` has `ROW0`, so results land from row 0 on (DEDUCED, log 50). -/
def mvmProd (cls : Nat) (g : Option Nat) (w : Word32B) : Prod :=
  let v := w.toNat
  let a := underGtag g (cls == 1)
    { fmt := bitsOf 16 4 v, sgn := bitOf 24 v, shift := 0, orient := bitsOf 26 1 v, addr := bitsOf 64 23 v,
      scale := bitsOf 128 23 v, panel := none }
  let b := underGtag g (cls == 8)
    { fmt := bitsOf 20 4 v, sgn := bitOf 25 v, shift := 0, orient := 1, addr := bitsOf 96 23 v,
      scale := bitsOf 160 23 v, panel := none }
  let k := 32 * (bitsOf 40 5 v + 1)
  { m := bitsOf 32 7 v + 1, n := bitsOf 8 3 v + 1, k := k, k0 := 0, kAll := k, a := a, b := b,
    bank := bitsOf 28 1 v, row0 := 0, col0 := bitsOf 48 7 v, init := bitOf 29 v,
    group := accGroup (bitsOf 56 4 v), pair := bitOf 58 v }

/-- An operand's range lies in the scratchpad; of a panel, its scale area and at least one block slot (R161, R230). -/
def opndOk (o : Opnd) (acrossIsRow : Bool) (across klen : Nat) : Bool :=
  match o.panel with
  | some _ => inSpad o.addr (blockStride o.fmt) && inSpad o.scale (if fmtMx o.fmt then 512 else 0)
  | none =>
    let rowIsI := if acrossIsRow then o.orient == 0 else o.orient == 1
    let r := if rowIsI then across else klen
    let c := if rowIsI then klen else across
    inSpad o.addr (denseBytes o.fmt r c) && inSpad o.scale (denseScaleBytes o.fmt r c)

/-- A panel's map entry lies in the scratchpad, and with it every slot of its block area (R161, R230). -/
def panelFits (s : State) (t : Nat) (o : Opnd) : Bool :=
  match o.panel with
  | none => true
  | some m => inSpad m 32 && inSpad o.addr (mapCap (leNat (tload s t m 32)) * blockStride o.fmt)

/-- The axis of the MX tensor that holds a dense operand's scale area, where the tile itself wrote it: the newest mark that meets the
area and whose bytes still stand (R186). -/
def markedAxis (s : State) (t addr len : Nat) : Option Nat :=
  ((tileS s t).axes.find? (fun (m : AxisMark) => decide (m.addr < addr + len) && decide (addr < m.addr + m.bytes.length) &&
    tload s t m.addr m.bytes.length == m.bytes)).map (fun m => m.axis)

/-- The scale axis of a dense MX operand lies along k, as far as the axis that `look` finds for its scale area says (R187; log 132):
with the row axis, the elements of one stored row share a scale. -/
def denseAxisOk (look : Nat → Nat → Option Nat) (o : Opnd) (acrossIsRow : Bool) (across klen : Nat) : Bool :=
  let rowIsI := if acrossIsRow then o.orient == 0 else o.orient == 1
  if o.panel.isSome || !fmtMx o.fmt then true
  else match look o.scale (denseScaleBytes o.fmt (if rowIsI then across else klen) (if rowIsI then klen else across)) with
    | some a => a == (if rowIsI then 0 else 1)
    | none => true

/-- Both operands' scale axes. -/
def axesOk (look : Nat → Nat → Option Nat) (p : Prod) : Bool :=
  denseAxisOk look p.a true p.m p.kAll && denseAxisOk look p.b false p.n p.kAll

/-- The checks at run time that a product's operands need beside R161's (R161, R187). -/
def operandsOk (s : State) (t : Nat) (p : Prod) : Bool := panelFits s t p.a && panelFits s t p.b && axesOk (markedAxis s t) p

/-- The checks of R161 that an `MMA` and an `MVM` share. -/
def prodOk (p : Prod) (accm : Nat) : Bool :=
  fmtOk p.a.fmt && fmtOk p.b.fmt && pairOk p.a.fmt p.b.fmt && (!p.a.sgn || fmtInt p.a.fmt) && (!p.b.sgn || fmtInt p.b.fmt) &&
  decide (p.row0 + p.m ≤ 128) && decide (p.col0 + p.n ≤ 128) && accm % 4 != 3 && accm / 8 == 0 &&
  opndOk p.a true p.m p.kAll && opndOk p.b false p.n p.kAll

/-- The gradient operand of a task of class `BPART` or `WPART` (R257, R259): a `GTAG` is in force and the format field lies in
the layer's group. -/
def gradOk (s : State) (cls layer : Nat) (tagged : Bool) (w : Word32B) : Bool :=
  let f := if cls = 1 then bitsOf 16 4 w.toNat else bitsOf 20 4 w.toNat
  (cls != 1 && cls != 8) ||
    (tagged && (if layer < 64 ∧ fld s PANE_GFC_WIDE 0 layer = 1 then f == 8 else f == 2 || f == 3 || f == 4))

/-- Reserved fields of an array word are 0. -/
def mmaReserved (w : Word32B) : Bool :=
  let v := w.toNat
  let z := fun (lo n : Nat) => bitsOf lo n v == 0
  z 11 1 && z 15 1 && z 31 1 && z 39 1 && z 47 1 && z 55 1 && z 60 4 && z 87 9 && z 119 9 && z 151 9 && z 183 9 && z 215 41

/-- The checks of an `MMA` (R161, R237). -/
def mmaOk (p : Prod) (w : Word32B) : Bool :=
  prodOk p (bitsOf 56 4 w.toNat) && mmaReserved w &&
  (if bitOf 30 w.toNat then decide (p.kAll ≤ 128) && inSpad (bitsOf 192 23 w.toNat) 16 else bitsOf 192 23 w.toNat == 0)

/-- Reserved fields of an `MVM` word are 0; FP32 is not permitted (R177). -/
def mvmOk (p : Prod) (w : Word32B) : Bool :=
  let v := w.toNat
  let z := fun (lo n : Nat) => bitsOf lo n v == 0
  prodOk p (bitsOf 56 4 v) && p.a.fmt != 10 && z 11 1 && z 12 4 && z 27 1 && z 30 2 && z 39 1 && z 45 3 && z 55 1 && z 60 4 &&
  z 87 9 && z 119 9 && z 151 9 && z 183 9 && z 192 64

/-! Sums (R202–R206, R193). -/

/-- A tree node's value in the 24-bit format (R203): rounded to nearest even, +0 below 2^-126. -/
def treeRes (neg : Bool) (m : Nat) (e : Int) : FRes :=
  let r := roundTo 15 (-1000000) .rne neg m e
  if r.n = 0 ∨ (Nat.log2 r.n : Int) + r.q < -126 then { bits := 0 }
  else roundRes fpTree false .rne neg r.n r.q

/-- A node or a product in a tree format. -/
def treeAdd (f : Fp) (a b : Num) : FRes :=
  match a, b with
  | .fin s m e, .fin t n d =>
    if f = fpTree then
      let z := addExact .rne s m e t n d
      treeRes z.1 z.2.1 z.2.2
    else addNum f false .rne a b
  | _, _ => addNum f false .rne a b
def treeMul (f : Fp) (a b : Num) : FRes :=
  match a, b with
  | .fin s m e, .fin t n d => if f = fpTree then treeRes (s != t) (m * n) (e + d) else mulNum f false .rne a b
  | _, _ => mulNum f false .rne a b

/-- What the operations of a sum raise: the first invalid one of R218 as (kind, k-group), a signalling NaN met in strict mode (R190),
overflow, underflow and inexactness, and how many results were flushed (R192). -/
structure SumFlags where
  iv : Option (Nat × Nat) := none
  snan : Bool := false
  ovf : Bool := false
  uf : Bool := false
  nx : Bool := false
  flush : Nat := 0
  deriving DecidableEq, Repr

/-- The first invalid operation. -/
def firstIv (a : Option (Nat × Nat)) (b : Bool) (kind g : Nat) : Option (Nat × Nat) :=
  match a with
  | some x => some x
  | none => if b then some (kind, g) else none

/-- One operation of a sum added: `kind` 0 a product, 1 a sum; `g` its k-group. -/
def raiseOp (f : SumFlags) (x : FRes) (kind g : Nat) : SumFlags :=
  { f with iv := firstIv f.iv x.iv kind g, ovf := f.ovf || x.ovf, uf := f.uf || x.uf, nx := f.nx || x.nx,
           flush := f.flush + b2n x.flush }

/-- A running sum: the word, the compensation of pair mode, and what the operations raised. -/
structure AccCell where
  w : BitVec 32
  e : BitVec 32 := 0
  fl : SumFlags := {}
  deriving DecidableEq, Repr

/-- One level of the pairwise tree. -/
def treeLevel (f : Fp) (g : Nat) (acc : List Num × SumFlags) : List Num × SumFlags :=
  (List.range (acc.1.length / 2)).foldl (fun r i =>
    let x := treeAdd f (acc.1.getD (2 * i) (.fin false 0 0)) (acc.1.getD (2 * i + 1) (.fin false 0 0))
    (r.1 ++ [readNum f false x.bits], raiseOp r.2 x 1 g)) ([], acc.2)

/-- Exact products of integers summed exactly (R205). -/
def intSum (l : List (Num × Num)) : Num :=
  let z := l.foldl (fun (a : Int) p => match p.1, p.2 with
    | .fin s m _, .fin t n _ => if s != t then a - (m * n : Nat) else a + (m * n : Nat)
    | _, _ => a) 0
  numOfInt z 0

/-- The group sum of the products of `l`, a power of two of them: the value, and what was raised after `fl` (R202, R203). -/
def groupSum (f : Fp) (g : Nat) (l : List (Num × Num)) (fl : SumFlags) : Num × SumFlags :=
  let ps := l.foldl (fun (r : List Num × SumFlags) p =>
    let x := treeMul f p.1 p.2
    (r.1 ++ [readNum f false x.bits], raiseOp r.2 x 0 g)) ([], fl)
  let t := iter (treeLevel f g) (Nat.log2 l.length) ps
  (t.1.headD (.fin false 0 0), t.2)

/-- The tree format of a pair (R203). -/
def treeFmt (fa : Nat) : Fp := if fa = 9 ∨ fa = 10 then fpFP32 else fpTree

/-- Promotion of one group (R202, R206). -/
def promote (pair : Bool) (g : Nat) (c : AccCell) (x : Num × SumFlags) : AccCell :=
  let r := addNum fpFP32 false .rne (f32 false c.w) x.1
  let fl := raiseOp x.2 r 1 g
  if pair then
    let neg := fun (w : BitVec 32) => w ^^^ 0x80000000#32
    let gw := (exactRes fpFP32 false x.1).w
    let z := f32add false r.w (neg c.w)
    let sz := f32add false r.w (neg z.w)
    let d1 := f32add false c.w (neg sz.w)
    let d2 := f32add false gw (neg z.w)
    let d := f32add false d1.w d2.w
    let e := f32add false c.e d.w
    { w := r.w, e := e.w, fl := [z, sz, d1, d2, d, e].foldl (fun f y => raiseOp f y 1 g) fl }
  else { c with w := r.w, fl := fl }

/-- One result in fast mode (R202): the products along k in groups of `grp`; `k0` is the k-block of the first, and `kmask` names
those fed to the array (R239). -/
def sumFast (int : Bool) (f : Fp) (grp : Nat) (pair : Bool) (k0 : Nat) (kmask : Option (List Nat)) (c : AccCell)
    (l : List (Num × Num)) : AccCell :=
  (List.range ((l.length + grp - 1) / grp)).foldl (fun c i =>
    if (match kmask with | none => true | some bs => bs.contains (k0 + grp * i / 16)) then
      let seg := (l.drop (grp * i)).take grp
      promote pair i c (if int then (intSum seg, c.fl) else groupSum f i seg c.fl)
    else c) c

/-- An element decoded into binary32 (R193); a NaN stays as it is. -/
def strictElem : Num → FRes × Num
  | .nan w => ({ bits := w }, .nan w)
  | x => let r := exactRes fpFP32 true x; (r, readNum fpFP32 true r.bits)

/-- One result in strict mode (R193): fused multiply-adds in ascending k, after decoding into binary32. A product of zero with an
infinity is invalid whatever it is added to (R218). -/
def sumStrict (grp : Nat) (c : AccCell) (l : List (Num × Num)) : AccCell :=
  ((List.range l.length).zip l).foldl (fun c e =>
    let a := strictElem e.2.1
    let b := strictElem e.2.2
    let d := f32 true c.w
    let r := fmaNum fpFP32 true .rne a.2 b.2 d
    let zi := (mulExact a.2 b.2).isNone
    let nan := [a.2, b.2, d].any isNan
    let fl := raiseOp c.fl { r with iv := zi || (r.iv && !nan) } (if zi then 0 else 1) (e.1 / grp)
    { c with w := r.w, fl := { fl with
        snan := fl.snan || [a.2, b.2, d].any isSnan, ovf := fl.ovf || a.1.ovf || b.1.ovf,
        uf := fl.uf || a.1.uf || b.1.uf, nx := fl.nx || a.1.nx || b.1.nx } }) c

/-! Sentinel columns (R247). -/

/-- A significand truncated to 3 fraction bits. -/
def truncSig : Num → Num
  | .fin s m e => if 16 ≤ m then .fin s (m / 2 ^ (Nat.log2 m - 3)) (e + (Nat.log2 m - 3 : Nat)) else .fin s m e
  | x => x

/-- A sentinel's value in a format without subnormals (R192), rounded toward +∞: a negative one below the smallest normal is +0, a
positive one the smallest normal. -/
def upRes (f : Fp) (neg : Bool) (m : Nat) (e : Int) : FRes :=
  if m = 0 then { bits := 0 }
  else
    let r := roundRes f true .rup neg m e
    if 2 ^ f.fb ≤ r.bits % f.signBit then r else { bits := if neg then 0 else 2 ^ f.fb }

/-- A product of truncated operands, a positive one times 21/16, a negative one times 63/64. -/
def sentinelMul (a b : Num) : FRes :=
  match truncSig a, truncSig b with
  | .fin s m e, .fin t n d =>
    if s != t then upRes fpBF16 true (m * n * 63) (e + d - 6)
    else upRes fpBF16 false (m * n * 21) (e + d - 4)
  | x, y => mulNum fpBF16 true .rup x y

/-- A sum of a sentinel's tree or running total. -/
def sentinelAdd (f : Fp) (a b : Num) : FRes :=
  match a, b with
  | .fin s m e, .fin t n d => let z := addExact .rup s m e t n d; upRes f z.1 z.2.1 z.2.2
  | _, _ => addNum f true .rup a b

/-- One level of the sentinel tree. -/
def sentinelLevel (l : List Num) : List Num :=
  (List.range (l.length / 2)).map (fun i =>
    readNum fpBF16 false (sentinelAdd fpBF16 (l.getD (2 * i) (.fin false 0 0)) (l.getD (2 * i + 1) (.fin false 0 0))).bits)

/-- One sentinel total: an upper bound on the sum. -/
def sumSentinel (grp : Nat) (w : BitVec 32) (l : List (Num × Num)) : BitVec 32 :=
  (List.range ((l.length + grp - 1) / grp)).foldl (fun w i =>
    let seg := (l.drop (grp * i)).take grp
    let ps := seg.map (fun p => readNum fpBF16 false (sentinelMul p.1 p.2).bits)
    let g := (iter sentinelLevel (Nat.log2 seg.length) ps).headD (.fin false 0 0)
    (sentinelAdd fpFP32 (f32 false w) g).w) w

/-! A product carried out. -/

/-- The pair bit of a bank row (R207). -/
def pairBit (x : TileS) (b row : Nat) : Bool := bitOf (128 * b + row) x.pair

/-- Pair bits of rows set. -/
def setPair (x : TileS) (b row n : Nat) (v : Bool) : TileS :=
  let mask := (2 ^ n - 1) * 2 ^ (128 * b + row)
  { x with pair := if v then x.pair ||| mask else x.pair &&& (2 ^ 256 - 1 - mask) }

/-- Words of one bank row stored. -/
def putBankRow (s : State) (t b row col : Nat) (ws : List (BitVec 32)) : State :=
  tstore s t (bankBase b + 512 * row + 4 * col) (wordBytes ws)

/-- The stationary operand of a product, by column (R158). -/
def weightCols (s : State) (t : Nat) (p : Prod) : List (List Num) :=
  (List.range p.n).map (fun j => (List.range p.k).map (fun k => opndElem s t p.b false p.n p.kAll j (p.k0 + k)))

/-- One row of results: `sent` names the n-blocks in sentinel mode. -/
def prodRow (s : State) (t : Nat) (p : Prod) (sent : Nat) (bcols : List (List Num)) (i : Nat) : List (AccCell) :=
  let strict := strictMode s
  let arow := (List.range p.k).map (fun k => opndElem s t p.a true p.m p.kAll i (p.k0 + k))
  ((List.range p.n).zip bcols).map (fun e =>
    let old := bankWord s t p.bank (p.row0 + i) (p.col0 + e.1)
    let c : AccCell :=
      { w := if p.init then 0 else old,
        e := if p.init || !p.pair then 0 else bankWord s t (1 - p.bank) (p.row0 + i) (p.col0 + e.1) }
    let l := arow.zip e.2
    if bitOf (e.1 / 16) sent then { c with w := sumSentinel p.group c.w l }
    else if strict then sumStrict p.group c l
    else sumFast (fmtInt p.a.fmt) (treeFmt p.a.fmt) p.group p.pair (p.k0 / 16) p.kmask c l)

/-- An m-block streams (R239). -/
def streams (p : Prod) (mb : Nat) : Bool := match p.vmask with | none => true | some l => l.contains mb

/-- The report of a bank that one row of results adds to: overflow, non-finite values, and the first invalid operation at `row0 + i`. -/
def rowFlags (f : AccFlags) (row col0 : Nat) (cells : List (Nat × AccCell)) : AccFlags :=
  { ovf := f.ovf || cells.any (fun e => e.2.fl.ovf), nf := f.nf || cells.any (fun e => nfW e.2.w),
    iv := match f.iv with
      | some v => some v
      | none => (cells.find? (fun e => e.2.fl.iv.isSome)).map (fun e =>
          ((e.2.fl.iv.getD (0, 0)).1, row, col0 + e.1, (e.2.fl.iv.getD (0, 0)).2)) }

/-- The report of the VFU that one row of strict results adds to (R193, R199). -/
def rowVfu (v : VfuFlags) (at_ : Nat) (cells : List (Nat × AccCell)) : VfuFlags :=
  let iv := fun (c : AccCell) => c.fl.iv.isSome || c.fl.snan
  { v with
    iv := v.iv || cells.any (fun e => iv e.2), ovf := v.ovf || cells.any (fun e => e.2.fl.ovf),
    nf := v.nf || cells.any (fun e => nfW e.2.w), uf := v.uf || cells.any (fun e => e.2.fl.uf),
    nx := v.nx || cells.any (fun e => e.2.fl.nx),
    first := minFirst v.first ((cells.find? (fun e => iv e.2 || nfW e.2.w)).map (fun e => (at_ + e.1, iv e.2))) }

/-- The words of one row of results put into the banks; in strict mode a pair's compensation is +0 from `INIT` on (R206). -/
def putRow (s : State) (t : Nat) (p : Prod) (i : Nat) (row : List AccCell) : State :=
  let s1 := putBankRow s t p.bank (p.row0 + i) p.col0 (row.map (fun c => c.w))
  if p.pair && (!strictMode s || p.init) then putBankRow s1 t (1 - p.bank) (p.row0 + i) p.col0 (row.map (fun c => c.e)) else s1

/-- What a product's results raise: for its bank, for the bank of the compensations (R206, R219), for the VFU in strict mode. -/
structure ProdFlags where
  acc : AccFlags := {}
  nfE : Bool := false
  vfu : VfuFlags := {}
  flush : Nat := 0
  deriving DecidableEq, Repr

/-- One row of a product: a row of an m-block that streams nothing is +0 with `INIT` and left alone without it (R239). -/
def prodStep (s0 : State) (t : Nat) (p : Prod) (sent : Nat) (bcols : List (List Num)) (acc : State × ProdFlags) (i : Nat) :
    State × ProdFlags :=
  if streams p (i / 16) then
    let row := prodRow s0 t p sent bcols i
    let cells := ((List.range row.length).zip row).filter (fun e => !bitOf (e.1 / 16) sent)
    let f := acc.2
    (putRow acc.1 t p i row,
      { acc := rowFlags f.acc (p.row0 + i) p.col0 cells, nfE := f.nfE || (p.pair && cells.any (fun e => nfW e.2.e)),
        vfu := rowVfu f.vfu (i * p.n) cells, flush := f.flush + sumOf (cells.map (fun e => e.2.fl.flush)) })
  else
    (if p.init then putRow acc.1 t p i (List.replicate p.n { w := 0 }) else acc.1, acc.2)

/-- The results of a product written to the banks, with the flags they raise (R202, R206, R219). Sentinel totals raise no
flag: a prediction changes no result (R246; DEDUCED, log 57). -/
def runProd (s : State) (t : Nat) (task : WinTask) (instr : Nat) (p : Prod) (sent : Nat) (bcols : List (List Num)) : State :=
  let r := (List.range p.m).foldl (prodStep s t p sent bcols) (s, {})
  let s1 := accReport r.1 t task instr p.bank r.2.acc
  let s1 := if r.2.nfE then accReport s1 t task instr (1 - p.bank) { nf := true } else s1
  let s1 := if strictMode s then fmtReport s1 t task instr r.2.vfu else flushReport s1 t r.2.flush
  if p.init then setTile s1 t (setPair (tileS s1 t) p.bank p.row0 p.m p.pair) else s1

/-- Rows of the product whose pair bit differs (R207). -/
def pairClash (s : State) (t : Nat) (p : Prod) : Bool :=
  !p.init && (List.range p.m).any (fun i => pairBit (tileS s t) p.bank (p.row0 + i) != p.pair)

/-! The sparse front end (R228–R241). -/

/-- A presence bit after orientation (R231): block `i` across k and `kb` along it. -/
def mapBit (m : Nat) (rowIsI : Bool) (i kb : Nat) : Bool := if rowIsI then bitOf (8 * i + kb) m else bitOf (8 * kb + i) m

/-- The matched pairs of R238 as (m-block, k-block). -/
def matches_ (p : Prod) (ma mb : Nat) : List (Nat × Nat) :=
  let aRow := p.a.orient == 0
  let bRow := p.b.orient == 1
  let nbs := List.range ((p.n + 15) / 16)
  (List.range ((p.m + 15) / 16)).flatMap (fun i => (((List.range (p.k / 16)).map (fun kb => p.k0 / 16 + kb)).filter (fun kb =>
    (mapBit (mapPresent ma) aRow i kb && nbs.any (fun nb => mapBit (mapPresent mb) bRow nb kb)) ||
    mapBit (mapNf ma) aRow i kb || nbs.any (fun nb => mapBit (mapNf mb) bRow nb kb))).map (fun kb => (i, kb)))

/-- The k-blocks and the m-blocks of a list of pairs (R238). -/
def kMask (l : List (Nat × Nat)) : List Nat := (l.map (fun e => e.2)).eraseDups
def vMask (l : List (Nat × Nat)) : List Nat := (l.map (fun e => e.1)).eraseDups

/-- The blocks of the result with a matched `NF` pair, as (n-block, m-block) (R238, R248). -/
def nfBlocks (p : Prod) (ma mb : Nat) : List (Nat × Nat) :=
  (List.range ((p.n + 15) / 16)).flatMap (fun nb => ((List.range ((p.m + 15) / 16)).filter (fun i =>
    (List.range (p.k / 16)).any (fun kb => mapBit (mapNf ma) (p.a.orient == 0) i (p.k0 / 16 + kb) ||
      mapBit (mapNf mb) (p.b.orient == 1) nb (p.k0 / 16 + kb)))).map (fun i => (nb, i)))

/-- k′ and m′ (R238). -/
def kPrime (l : List (Nat × Nat)) : Nat := (kMask l).length
def mPrime (l : List (Nat × Nat)) : Nat := (vMask l).length

/-- The scale axis of a panel lies along k (R187): with the row axis, elements of one row share a scale. -/
def axisOk (m fmt : Nat) (rowIsI : Bool) : Bool := !fmtMx fmt || (mapSaxis m == (if rowIsI then 0 else 1))

/-! The activity predictor (R245, R246). -/

/-- The bank region of a product. -/
def regionKey (p : Prod) : Nat := ((((p.bank * 128 + p.row0) * 129 + p.m) * 128 + p.col0) * 129) + p.n

/-- The instructions of a chain after its first, and the `DRAIN` that ends it (R245). -/
def chainAfter (s : State) (t cls key : Nat) : List Word32B → List Word32B × Option Word32B
  | [] => ([], none)
  | w :: l =>
    if insOp w = 0x10 then
      let p := mmaProd s t cls none w
      if regionKey p = key then
        if p.init then ([], none)
        else let r := chainAfter s t cls key l; (w :: r.1, r.2)
      else chainAfter s t cls key l
    else if insOp w = 0x30 then
      let v := w.toNat
      let k := ((((bitsOf 8 1 v * 128 + bitsOf 16 7 v) * 129 + (bitsOf 24 7 v + 1)) * 128 + bitsOf 32 7 v) * 129) +
        (bitsOf 40 7 v + 1)
      if k = key then ([], some w) else chainAfter s t cls key l
    else chainAfter s t cls key l

/-- The predictor acts on the chain that this instruction begins (R245). -/
def predicts (s : State) (t : Nat) (task : WinTask) (instr : Nat) (p : Prod) : Bool :=
  let okFmt := fun (f : Nat) => (fmtMx f && f != 5) || f == 8
  let later := ((site s t).pieces.filter (fun u => !u.recompute)).flatMap (fun u => u.items.getD [])
  let r := chainAfter s t (dClass task.desc) (regionKey p) ((taskItems s task).drop (instr + 1) ++ later)
  !s.step.pol.predOff.contains t && !strictMode s && decide (fld s SPX_RCFG_VALID t = 1) &&
  dClass task.desc == 5 && bitOf (dLayer task.desc) (fld s SPX_PLAYER_LAYER t) && okFmt p.a.fmt && okFmt p.b.fmt && p.init &&
  r.1.all (fun w => okFmt (bitsOf 16 4 w.toNat) && okFmt (bitsOf 20 4 w.toNat)) &&
  decide (p.k + sumOf (r.1.map (fun w => (mmaProd s t (dClass task.desc) none w).k)) ≤ 65536) &&
  (match r.2 with | some d => !bitOf 10 d.toNat | none => false)

/-- The counter index of an n-block (R246). -/
def predIndex (layer baddr nb : Nat) : Nat := 32 * (layer % 32) + (bitsOf 9 5 baddr + nb) % 32

/-- `THRESH`; 0 counts as 1. -/
def predThresh (s : State) (t : Nat) : Nat := max 1 (fld s SPX_CFG_THRESH t)

/-- The n-blocks predicted inactive. -/
def predMask (s : State) (t : Nat) (task : WinTask) (p : Prod) : Nat :=
  sumOf ((List.range ((p.n + 15) / 16)).map (fun nb =>
    if predThresh s t ≤ kGetD (tileS s t).counters (predIndex (dLayer task.desc) p.b.addr nb) 0 then 2 ^ nb else 0))

/-- The chain's record and sentinel columns for an `MMA`: made at the chain's first instruction, or that of a later one; `nfs` are
the blocks of its result with a matched `NF` pair. -/
def predictor (s : State) (t : Nat) (task : WinTask) (i : TileIns) (p : Prod) (nfs : List (Nat × Nat)) : State × Nat :=
  let x := tileS s t
  if p.init then
    let x := { x with owed := x.owed.filter (fun o => o.drained || o.key != regionKey p) }
    let s := setTile s t x
    if predicts s t task i.index p then
      if 4 ≤ x.owed.length then (bump s SPX_EVT_PRED_FULL 1 t, 0)
      else
        let mask := predMask s t task p
        let o : OwedS :=
          { key := regionKey p, taskId := dTaskId task.desc, pred := mask, chain := [(effWord task i, x.gtag)],
            drained := false, addr := 0, rows := p.m, cols := p.n, mode := 0, owed := [], held := [], nfs := nfs }
        let s := setTile s t { x with owed := x.owed ++ [o] }
        (bump s SPX_EVT_PREDICTED (popCount mask * ((p.m + 15) / 16)) t, mask)
    else (s, 0)
  else match x.owed.find? (fun o => !o.drained && o.key == regionKey p) with
    | none => (s, 0)
    | some o =>
      let o' := { o with chain := o.chain ++ [(effWord task i, x.gtag)], nfs := o.nfs ++ nfs }
      (setTile s t { x with owed := x.owed.map (fun (y : OwedS) => if !y.drained && y.key == o.key then o' else y) }, o.pred)

/-! `MMA`. -/

/-- What the array counts of an `MMA` that runs (R165, R171, R181). -/
def arrayCounts (s : State) (t vectors : Nat) (e : TileEnv) : State :=
  let s := bump (bump s MXA_EVT_INSTR 1 t) MXA_EVT_VECTORS vectors t
  let s := event (if e.bubbles = 0 then s else bump s MXA_EVT_BUBBLES e.bubbles t) 0x3006 e.bubbles
  let s := setFld s MXA_STATUS_SEL (1 - fld s MXA_STATUS_SEL t) t
  let s := if e.bankStall = 0 then s else bump s ACC_EVT_BANK_STALL e.bankStall t
  openLouvre s t e.louvreWait

/-- The block written into the cells' weight register that the select bit names (R158); of a sparse one the k-blocks of kmask. -/
def writeCells (s : State) (t : Nat) (p : Prod) (bcols : List (List Num)) : State :=
  let kept := bcols.map (fun c => ((List.range c.length).zip c).filterMap (fun e =>
    match p.kmask with
    | none => some e.2
    | some l => if l.contains (p.k0 / 16 + e.1 / 16) then some e.2 else none))
  setTile s t { tileS s t with cells := kSet (tileS s t).cells (fld s MXA_STATUS_SEL t) kept }

/-- The pairs that a masked W-part leaves: an m-block whose blocks in the instruction are all masked goes (R266). -/
def unmaskedPairs (s : State) (m : Option (Tensor × Nat × Nat)) (p : Prod) (l : List (Nat × Nat)) : List (Nat × Nat) :=
  l.filter (fun e => !((List.range (min 16 (p.m - 16 * e.1))).all (fun r => (List.range p.n).all (fun c =>
    bankFrozen s m (p.row0 + 16 * e.1 + r) (p.col0 + c)))))

/-- Every row of the result lies in a masked granule (R266). -/
def allMasked (s : State) (m : Option (Tensor × Nat × Nat)) (p : Prod) : Bool :=
  match m with
  | some (x, r, _) => (List.range p.m).all (fun i => granuleMasked s x (r + p.row0 + i))
  | none => false

/-- An `MMA` that passes its checks: `p` its product, `maps` the map entries of a sparse one. In strict mode every k runs on the VFU
(R241). -/
def mmaRun (s : State) (t : Nat) (task : WinTask) (i : TileIns) (p : Prod) (maps : Option (Nat × Nat)) : State :=
  let m := wMask s task i.env
  if allMasked s m p then event (bump s PANE_BWD_EVT_MASKED_MMA) 0x4804
  else
    let found := maps.map (fun e => matches_ p e.1 e.2)
    let (s, sent) := predictor s t task i p (match maps with | some e => nfBlocks p e.1 e.2 | none => [])
    let s := match found with
      | none => s
      | some l =>
        let dense := (p.m + 15) / 16 * (p.k / 16)
        let x := tileS s t
        let x := { x with pairs := x.pairs + l.length, skipped := x.skipped + (dense - l.length) }
        kilo (kilo (setTile s t x) SPX_EVT_PAIRS x.pairs t) SPX_EVT_SKIPPED x.skipped t
    let bcols := weightCols s t p
    if strictMode s then runProd (bump s MXA_EVT_STRICT 1 t) t task i.index p sent bcols
    else
      let live := found.map (unmaskedPairs s m p)
      let p := { p with kmask := live.map kMask, vmask := live.map vMask }
      let s := arrayCounts s t (passes p.a.fmt * (match live with | none => p.m | some l => 16 * mPrime l)) i.env
      runProd (writeCells s t p bcols) t task i.index p sent bcols

/-- `MMA` (R158–R174, R193, R202–R206, R237–R241, R246, R266). -/
def mma (s : State) (t : Nat) (task : WinTask) (i : TileIns) : State :=
  let p := mmaProd s t (dClass task.desc) (tileS s t).gtag (effWord task i)
  if !mmaOk p i.word || !operandsOk s t p || !gradOk s (dClass task.desc) (dLayer task.desc) (tileS s t).gtag.isSome i.word ||
      pairClash s t p then
    instrInvalid s t task i.index
  else match i.env.parityRow with
    | some r => mxaFault s t 0x3082 r task i.index
    | none =>
      match p.a.panel, p.b.panel with
      | some ma, some mb =>
        let ea := leNat (tload s t ma 32)
        let eb := leNat (tload s t mb 32)
        match mapReason ea p.a.fmt, mapReason eb p.b.fmt with
        | some r, _ => spxFault s t 0x4081 r (mapCount ea) (mapCap ea) task i.index
        | none, some r => spxFault s t 0x4081 r (mapCount eb) (mapCap eb) task i.index
        | none, none =>
          if !axisOk ea p.a.fmt (p.a.orient == 0) || !axisOk eb p.b.fmt (p.b.orient == 1) then instrInvalid s t task i.index
          else mmaRun s t task i p (some (ea, eb))
      | _, _ => mmaRun s t task i p none

def execMma (i : TileIns) (s : State) : Host.Outcome State Fault Refusal := runCmd (unitIns 0x10 mma i) s

/-- `MVM` (R177–R179): the same sums as the array's. -/
def mvm (s : State) (t : Nat) (task : WinTask) (i : TileIns) : State :=
  let p := mvmProd (dClass task.desc) (tileS s t).gtag i.word
  if !mvmOk p i.word || !operandsOk s t p || !gradOk s (dClass task.desc) (dLayer task.desc) (tileS s t).gtag.isSome i.word ||
      pairClash s t p then
    instrInvalid s t task i.index
  else
    let x := tileS s t
    let x := { x with kmac := x.kmac + p.m * p.k * p.n }
    let s := kilo (setTile (bump s MVP_EVT_INSTR 1 t) t x) MVP_EVT_KMAC x.kmac t
    let s := event (if i.env.portShort = 0 then s else bump s MVP_EVT_PORT_WAIT i.env.portShort t) 0x3005 i.env.portShort
    let s := if i.env.bankStall = 0 then s else bump s ACC_EVT_BANK_STALL i.env.bankStall t
    runProd (setFld s MVP_STATUS_HELD p.n t) t task i.index p 0 (weightCols s t p)

def execMvm (i : TileIns) (s : State) : Host.Outcome State Fault Refusal := runCmd (unitIns 0x11 mvm i) s

/-- `LOUVRE_CLOSE` (R171–R173): the array has been idle for `IDLE` cycles and the louvre closes, as far as the `bands` still open; 0
is fully closed. With `LOUVRE_EN` 0 it stays open. -/
def louvreClose (t bands : Nat) (s : State) : State :=
  if power s < 2 then s
  else if fld s MXA_CFG_LOUVRE_EN t = 1 then
    if fld s MXA_STATUS_LOUVRE t = 0 then s
    else setFld (setFld s MXA_STATUS_LOUVRE (if bands = 0 then 0 else 3) t) MXA_STATUS_BANDS_OPEN bands t
  else openLouvre s t 0

def execLouvreClose (tile : LouvreStep) (s : State) : Host.Outcome State Fault Refusal :=
  runCmd (louvreClose tile.tile.val tile.bands.val) s

/-! The accumulation unit's own instructions (R210–R213). -/

/-- The fields of `DRAIN`, `LOAD` and `ZERO`. -/
structure BankIns where
  bank : Nat
  pairSum : Bool
  toCmp : Bool
  row0 : Nat
  rows : Nat
  col0 : Nat
  cols : Nat
  addr : Nat
  deriving DecidableEq, Repr

def bankIns (w : Word32B) : BankIns :=
  let v := w.toNat
  { bank := bitsOf 8 1 v, pairSum := bitOf 9 v, toCmp := bitOf 10 v, row0 := bitsOf 16 7 v, rows := bitsOf 24 7 v + 1,
    col0 := bitsOf 32 7 v, cols := bitsOf 40 7 v + 1, addr := bitsOf 64 23 v }

/-- The rows of a bank instruction are rows of pairs. -/
def pairRegion (s : State) (t : Nat) (b : BankIns) : Bool := (List.range b.rows).any (fun i => pairBit (tileS s t) b.bank (b.row0 + i))

/-- The checks of R210. -/
def bankOk (s : State) (t : Nat) (b : BankIns) (w : Word32B) : Bool :=
  let v := w.toNat
  let z := fun (lo n : Nat) => bitsOf lo n v == 0
  let op := insOp w
  let two := (op == 0x30 && pairRegion s t b && !b.pairSum) || (op == 0x31 && b.pairSum)
  decide (b.row0 + b.rows ≤ 128) && decide (b.col0 + b.cols ≤ 128) && z 11 5 && z 23 1 && z 31 1 && z 39 1 && z 47 17 &&
  z 87 169 && (op != 0x32 || (!b.pairSum && !b.toCmp && b.addr == 0)) && (op != 0x31 || !b.toCmp) &&
  (op != 0x30 || !b.pairSum || pairRegion s t b) && (!b.toCmp || b.addr == 0) &&
  (op == 0x32 || b.toCmp || inSpad b.addr ((if two then 512 * b.rows else 0) + 4 * b.cols * b.rows))

/-- A row of a bank. -/
def bankRow (s : State) (t b row col n : Nat) : List (BitVec 32) := loadWords s (tileBase t + bankBase b + 512 * row + 4 * col) n

/-- −0 written as +0 in fast mode, counted (R189). -/
def plusZero (s : State) (t : Nat) (l : List (BitVec 32)) : State × List (BitVec 32) :=
  if strictMode s then (s, l)
  else
    let n := (l.filter (fun w => w == 0x80000000#32)).length
    (if n = 0 then s else bump s FMT_EVT_NEG_ZERO n t, l.map (fun w => if w = 0x80000000#32 then 0 else w))

/-- Every nth predicted block of the tile is made owed (R428, `DRT_PRED`). -/
def forcedOwed (s : State) (t : Nat) : Bool × State :=
  let every := drt s DRT_PRED_EVERY
  if every ≠ 0 ∧ bitOf 7 (fld s DRT_STATUS_ARMED) = true ∧ (drt s DRT_PRED_TILE = t ∨ drt s DRT_PRED_TILE = 0x7F) then
    let x := tileS s t
    let n := x.predCount + 1
    let s := setTile s t { x with predCount := n }
    if n % every = 0 then (true, bump s DRT_EVT_PRED) else (false, s)
  else (false, s)

/-- The words of a block of a drained region. -/
def blockWords (rows : List (List (BitVec 32))) (nb mb : Nat) : List (BitVec 32) :=
  ((rows.drop (16 * mb)).take 16).flatMap (fun r => (r.drop (16 * nb)).take 16)

/-- A total that proves its element inactive: finite and below zero (R248); an exact value that `RELU` makes zero. -/
def belowZero (w : BitVec 32) : Bool := w.msb && !nfW w && w != 0x80000000#32
def inactiveExact (w : BitVec 32) : Bool := !isNan (f32 false w) && cmpNum (f32 false w) (.fin false 0 0) != .gt

/-- The test of R248 and the counters of R253 at the drain of a predicted chain. -/
def drainPredicted (s : State) (t : Nat) (b : BankIns) (rows : List (List (BitVec 32))) (o : OwedS) (layer baddr : Nat) : State :=
  let nbs := List.range ((b.cols + 15) / 16)
  let mbs := List.range ((b.rows + 15) / 16)
  let (s, owed) := nbs.foldl (fun (acc : State × List (Nat × Nat)) nb =>
    if bitOf nb o.pred then
      mbs.foldl (fun acc mb =>
        let (force, s) := forcedOwed acc.1 t
        if force || o.nfs.contains (nb, mb) || !(blockWords rows nb mb).all belowZero then
          (event (bump s SPX_EVT_MISS 1 t) 0x4002, acc.2 ++ [(nb, mb)])
        else (s, acc.2)) acc
    else acc) (s, [])
  let x := tileS s t
  let counters := nbs.foldl (fun m nb =>
    let quiet := (mbs.filter (fun mb =>
      if bitOf nb o.pred then (blockWords rows nb mb).all belowZero else (blockWords rows nb mb).all inactiveExact)).length
    let idx := predIndex layer baddr nb
    let c := kGetD m idx 0
    kPut m idx (if 7 * mbs.length ≤ 8 * quiet then min 3 (c + 1) else c - 2) 0) x.counters
  let rest := x.owed.filter (fun y => y.drained || y.key != o.key)
  let o' := { o with
    drained := true, addr := b.addr, owed := owed, mode := if b.pairSum then 1 else if pairRegion s t b then 2 else 0 }
  setTile s t { x with counters := counters, owed := if owed = [] then rest else rest ++ [o'] }

/-- Rows as a fast-mode unit writes them (R189). -/
def writtenRows (s : State) (t : Nat) (rows : List (List (BitVec 32))) : State × List (List (BitVec 32)) :=
  rows.foldl (fun (acc : State × List (List (BitVec 32))) r =>
    let q := plusZero acc.1 t r
    (q.1, acc.2 ++ [q.2])) (s, [])

/-- Drained rows with +0 in every masked block (R266). -/
def unmaskedRows (s : State) (m : Option (Tensor × Nat × Nat)) (b : BankIns) (rows : List (List (BitVec 32))) :
    List (List (BitVec 32)) :=
  if m.isNone then rows
  else ((List.range rows.length).zip rows).map (fun e => ((List.range e.2.length).zip e.2).map (fun f =>
    if bankFrozen s m (b.row0 + e.1) (b.col0 + f.1) then 0#32 else f.2))

/-- `DRAIN` (R211, R212): rows of a bank to the scratchpad or the compressor. -/
def drain (s : State) (t : Nat) (task : WinTask) (i : TileIns) : State :=
  let b := bankIns i.word
  if !bankOk s t b i.word then instrInvalid s t task i.index
  else
    let s := event (if i.env.drainWait = 0 then s else bump s ACC_EVT_DRAIN_WAIT i.env.drainWait t) 0x3808
      (if i.env.drainWait = 0 then 0 else 1)
    let m := wMask s task i.env
    let row := fun (bank j : Nat) => bankRow s t bank (b.row0 + j) b.col0 b.cols
    let sums := if b.pairSum then (List.range b.rows).map (fun j => List.zipWith (f32add (strictMode s)) (row b.bank j) (row (1 - b.bank) j))
      else []
    let s := flushReport s t (sumOf (sums.map (fun r => sumOf (r.map (fun x => b2n x.flush)))))
    let rows := if b.pairSum then sums.map (fun r => r.map (fun x => x.w)) else (List.range b.rows).map (row b.bank)
    let es := if pairRegion s t b && !b.pairSum then (List.range b.rows).map (row (1 - b.bank)) else []
    let (s, rows) := writtenRows s t (unmaskedRows s m b rows)
    let (s, es) := writtenRows s t (unmaskedRows s m b es)
    if b.toCmp then setTile s t { tileS s t with rows := some rows }
    else
      let s := ((List.range rows.length).zip rows).foldl (fun s e =>
        tstore s t (b.addr + 4 * b.cols * e.1) (wordBytes e.2)) s
      let s := ((List.range es.length).zip es).foldl (fun s e =>
        tstore s t (b.addr + 512 * b.rows + 4 * b.cols * e.1) (wordBytes e.2)) s
      let key := ((((b.bank * 128 + b.row0) * 129 + b.rows) * 128 + b.col0) * 129) + b.cols
      match (tileS s t).owed.find? (fun o => !o.drained && o.key == key) with
      | none => s
      | some o =>
        let baddr := match o.chain with | (w, _) :: _ => bitsOf 96 23 w.toNat | [] => 0
        drainPredicted s t b rows o (dLayer task.desc) baddr

def execDrain (i : TileIns) (s : State) : Host.Outcome State Fault Refusal := runCmd (unitIns 0x30 drain i) s

/-- `LOAD` (R210, R211, R216): rows of the scratchpad into a bank; with `PAIRSUM` both words of pairs. -/
def load_ (s : State) (t : Nat) (task : WinTask) (i : TileIns) : State :=
  let b := bankIns i.word
  if !bankOk s t b i.word then instrInvalid s t task i.index
  else
    let src := fun (base j : Nat) => loadWords s (tileBase t + base + 4 * b.cols * j) b.cols
    let rows := (List.range b.rows).map (src b.addr)
    let es := if b.pairSum then (List.range b.rows).map (src (b.addr + 512 * b.rows)) else []
    let put := fun (bank : Nat) (s : State) (l : List (List (BitVec 32))) =>
      ((List.range l.length).zip l).foldl (fun s e =>
        let q := plusZero s t e.2
        putBankRow q.1 t bank (b.row0 + e.1) b.col0 q.2) s
    let s := put (1 - b.bank) (put b.bank s rows) es
    let s := setTile s t (setPair (tileS s t) b.bank b.row0 b.rows b.pairSum)
    let s := accReport s t task i.index b.bank { nf := rows.any (fun r => r.any nfW) }
    if es = [] then s else accReport s t task i.index (1 - b.bank) { nf := es.any (fun r => r.any nfW) }

def execLoad (i : TileIns) (s : State) : Host.Outcome State Fault Refusal := runCmd (unitIns 0x31 load_ i) s

/-- `ZERO` (R211): +0 to each row, and its pair bit cleared. -/
def zero_ (s : State) (t : Nat) (task : WinTask) (i : TileIns) : State :=
  let b := bankIns i.word
  if !bankOk s t b i.word then instrInvalid s t task i.index
  else
    let s := (List.range b.rows).foldl (fun s j => putBankRow s t b.bank (b.row0 + j) b.col0 (zeroVals b.cols)) s
    setTile s t (setPair (tileS s t) b.bank b.row0 b.rows false)

def execZero (i : TileIns) (s : State) : Host.Outcome State Fault Refusal := runCmd (unitIns 0x32 zero_ i) s

end Sys2Proof.Machine
end

