-- ==== Sys2Proof/Machine/Vfu.lean ====
section
/-! DEFINITION. The vector and format unit (08, 13): the `VOP` functions, `CVT` with its gradient form (R195, R221, R258,
R260, R267) and `RNG`. -/

namespace Sys2Proof.Machine

/-! Words. -/

/-- The fields of a `VOP` or `CVT` word (R197). -/
structure VfuIns where
  func : Nat
  fin : Nat
  fout : Nat
  rm : Nat
  saxis : Nat
  dual : Bool
  grad : Bool
  t : Int
  src0 : Nat
  src1 : Nat
  dst : Nat
  dstScale : Nat
  count : Nat
  bcast : Bool
  coord0 : Nat

def vfuIns (w : Word32B) : VfuIns :=
  let v := w.toNat
  let n := bitsOf 192 21 v
  { func := bitsOf 8 8 v, fin := bitsOf 16 4 v, fout := bitsOf 20 4 v, rm := bitsOf 24 3 v, saxis := bitsOf 27 1 v,
    dual := bitOf 28 v, grad := bitOf 29 v, t := signed 8 (bitsOf 32 8 v), src0 := bitsOf 64 24 v, src1 := bitsOf 96 24 v,
    dst := bitsOf 128 24 v, dstScale := bitsOf 160 24 v, count := if n = 0 then 2097152 else n, bcast := bitOf 222 v,
    coord0 := bitsOf 224 32 v }

/-- Reserved fields of a VFU word are 0. -/
def vfuReserved (w : Word32B) : Bool :=
  let z := fun (lo n : Nat) => bitsOf lo n w.toNat == 0
  z 30 2 && z 40 24 && z 88 8 && z 120 8 && z 152 8 && z 184 8 && z 213 9 && z 223 1

/-- The functions with a second operand. -/
def vopBinary (func : Nat) : Bool :=
  [0x01, 0x02, 0x03, 0x04, 0x05, 0x0F, 0x10, 0x11, 0x12, 0x13, 0x14].contains func

/-- The checks of a `VOP` (R197). -/
def vopOk (strict : Bool) (w : Word32B) : Bool :=
  let v := vfuIns w
  vfuReserved w && decide (1 ≤ v.func) && decide (v.func ≤ 0x14) && (v.fin == 8 || v.fin == 10) &&
  (v.fout == 8 || v.fout == 10) && (if strict then decide (v.rm ≤ 3) else v.rm == 0 || v.rm == 4) && v.t == 0 &&
  v.dstScale == 0 && inTile v.src0 (fmtBytes v.fin v.count) &&
  (!vopBinary v.func || inTile v.src1 (if v.bcast then 4 else fmtBytes v.fin v.count)) &&
  inTile v.dst (fmtBytes v.fout v.count)

/-- Scale bytes of `n` elements: 32 per 32 × 32 sub-block (R186). -/
def scaleArea (fmt n : Nat) : Nat := if fmtMx fmt then 32 * ((n + 1023) / 1024) else 0

/-- The format that a `CVT` of a task of layer `l` writes (R195, R260). -/
def cvtFmt (s : State) (l : Nat) (grad : Bool) (fout : Nat) : Nat :=
  if grad && fout != 10 then fld s PANE_GFC_FMT 0 l else fout

/-- The checks of a `CVT` of a task of layer `l` (R197, R258, R267). -/
def cvtOk (s : State) (l : Nat) (w : Word32B) : Bool :=
  let v := vfuIns w
  let fout := cvtFmt s l v.grad v.fout
  let copies := if v.dual then 2 else 1
  vfuReserved w && v.func == 0 && fmtOk v.fin && fmtOk v.fout && fmtOk fout &&
  (if strictMode s then decide (v.rm ≤ 4) else v.rm == 0 || v.rm == 4) &&
  ((!fmtMx v.fin && !fmtMx fout) || v.count % 32 == 0) &&
  inTile v.src0 (fmtBytes v.fin v.count) && (!fmtMx v.fin || inTile v.src1 (scaleArea v.fin v.count)) &&
  inTile v.dst (copies * fmtBytes fout v.count) && inTile v.dstScale (copies * scaleArea fout v.count) &&
  (fmtMx fout || v.dstScale == 0) && (!v.grad || decide (l ≤ 63)) &&
  (!v.grad || v.fout == 10 || (decide (32 ≤ v.dst) && inTile (v.dst - 32) (32 + copies * fmtBytes fout v.count)))

/-- The word of a lane in a stream of the running task (R302, R303). -/
def laneWord (s : State) (task : WinTask) (stream c : Nat) : BitVec 32 :=
  rngWord s.job.seed task.pass stream (dLayer task.desc) (dMb task.desc) c

/-- The rounding code as the numbers take it; `r` gives the 16 random bits of the lane. -/
def rmOf (code r : Nat) : Rm :=
  match code with
  | 1 => .rtz | 2 => .rup | 3 => .rdn | 4 => .sr r | _ => .rne

/-- The bank an offset lies in. -/
def bankAt (a : Nat) : Option Nat := if a < spadBytes then none else some ((a - spadBytes) / 0x10000)

/-- `ACC_FLAGS.NF` where a non-finite value is written to a bank (R219). -/
def bankNf (s : State) (t : Nat) (task : WinTask) (instr dst : Nat) (nf : Bool) : State :=
  match bankAt dst with
  | some b => accReport s t task instr b { nf := nf }
  | none => s

/-! The functions of R198 on one lane. -/

/-- One lane: the mode, the output format, the rounding, the operands, their patterns as FP32 and the mask bit. -/
structure Lane where
  strict : Bool
  f : Fp
  rmCode : Nat
  rm : Rm
  a : Num
  b : Num
  d : Num
  wa : BitVec 32
  wb : BitVec 32
  yes : Bool

/-- A correctly rounded result; it draws bits where it is inexact. -/
def exactly (r : FRes) : FRes × Bool := (r, r.nx)

/-- An FP32 result of bounded error, rounded once more into the output format (R198 measures its error in FP32). -/
def narrowed (l : Lane) (r : FRes) : FRes × Bool :=
  if l.f.fb = 23 then (r, false)
  else
    let q := exactRes l.f l.strict (readNum fpFP32 l.strict r.bits) l.rm
    ({ q with iv := r.iv, dz := r.dz, ovf := r.ovf || q.ovf, uf := r.uf || q.uf, nx := r.nx || q.nx,
              flush := r.flush || q.flush, negz := r.negz || q.negz }, q.nx)

/-- The choice inside the error bound (log 3). -/
def pick (l : Lane) (func : Nat) : Int := Config.ulpPick func l.strict l.rmCode l.wa l.wb

def laneAdd (l : Lane) : FRes × Bool := exactly (addNum l.f l.strict l.rm l.a l.b)
def laneSub (l : Lane) : FRes × Bool := exactly (addNum l.f l.strict l.rm l.a (negNum l.b))
def laneMul (l : Lane) : FRes × Bool := exactly (mulNum l.f l.strict l.rm l.a l.b)
def laneFma (l : Lane) : FRes × Bool := exactly (fmaNum l.f l.strict l.rm l.a l.b l.d)
def laneDiv (l : Lane) : FRes × Bool :=
  if l.strict then exactly (divNum l.f true l.rm 1 l.a l.b 0) else narrowed l (divNum fpFP32 false l.rm 1 l.a l.b (pick l 0x05))
def laneSqrt (l : Lane) : FRes × Bool :=
  if l.strict then exactly (sqrtNum l.f true l.rm l.a 0) else narrowed l (sqrtNum fpFP32 false l.rm l.a (pick l 0x06))
def laneRsqrt (l : Lane) : FRes × Bool := narrowed l (rsqrtNum fpFP32 l.strict l.a (pick l 0x07))
def laneRcp (l : Lane) : FRes × Bool :=
  if l.strict then exactly (divNum l.f true l.rm 2 (.fin false 1 0) l.a 0)
  else narrowed l (divNum fpFP32 false l.rm 2 (.fin false 1 0) l.a (pick l 0x08))
def laneExp (l : Lane) : FRes × Bool := narrowed l (expNum l.strict l.a (pick l 0x09))
def laneLog (l : Lane) : FRes × Bool := narrowed l (logNum l.strict l.wa.toNat l.a (pick l 0x0A))
def laneTanh (l : Lane) : FRes × Bool := narrowed l (tanhNum l.strict l.a (pick l 0x0B))
def laneSigmoid (l : Lane) : FRes × Bool := narrowed l (sigmoidNum l.strict l.a (pick l 0x0C))
def laneGelu (l : Lane) : FRes × Bool := narrowed l (geluNum l.strict l.wa.toNat l.a (pick l 0x0D))
def laneRelu (l : Lane) : FRes × Bool := exactly (maxNum l.f l.strict false l.a (.fin false 0 0) l.rm)
def laneLrelu (l : Lane) : FRes × Bool :=
  if !isNan l.a && cmpNum l.a (.fin false 0 0) == .gt then exactly (exactRes l.f l.strict l.a l.rm)
  else
    let r := mulNum l.f l.strict l.rm l.a l.b
    exactly { r with iv := r.iv || (l.strict && isNan l.a) }
def laneMax (l : Lane) : FRes × Bool := exactly (maxNum l.f l.strict false l.a l.b l.rm)
def laneMin (l : Lane) : FRes × Bool := exactly (maxNum l.f l.strict true l.a l.b l.rm)
def laneCmplt (l : Lane) : FRes × Bool := (cmpRes l.f l.strict false l.a l.b, false)
def laneCmpeq (l : Lane) : FRes × Bool := (cmpRes l.f l.strict true l.a l.b, false)
def laneMask (l : Lane) : FRes × Bool :=
  if l.yes then exactly { exactRes l.f l.strict l.a l.rm with iv := l.strict && isSnan l.a } else ({ bits := 0 }, false)

/-- A pattern of an operand format as an FP32 pattern. -/
def widen (fmt p : Nat) : BitVec 32 := BitVec.ofNat 32 (if fmt = 8 then p * 65536 else p)

/-- 2^λ as an FP32 pattern (R287): the broadcast operand that the part supplies to a `MUL` which scales the loss gradient. -/
def lossScale (s : State) : Nat := (exactRes fpFP32 true (.fin false 1 (signed 8 (fld s PANE_COMMIT_LAMBDA_LAMBDA)))).bits

/-- The instruction is a `MUL` that the job image marks (R287). -/
def scalesLoss (s : State) (task : WinTask) (instr func : Nat) : Bool :=
  func == 0x03 && s.job.extra.lossMuls.contains (dTaskId task.desc, instr)

/-- The lanes of a `VOP`: operands are read before results are written (DEDUCED, log 51). A mask is yes where bits [15:0] of
the dropout word are below b[15:0] (R304). -/
def vopLanes (s : State) (t : Nat) (task : WinTask) (instr : Nat) (v : VfuIns) : List Lane :=
  let strict := strictMode s
  let f := fmtFp v.fin
  let as_ := unpackRow v.fin v.count (tload s t v.src0 (fmtBytes v.fin v.count))
  let loss := scalesLoss s task instr v.func
  let bcast := v.bcast || loss
  let scalar := if loss then lossScale s else leNat (tload s t v.src1 4)
  let bs := if !vopBinary v.func then List.replicate v.count 0
    else if bcast then List.replicate v.count scalar
    else unpackRow v.fin v.count (tload s t v.src1 (fmtBytes v.fin v.count))
  let ds := if v.func = 0x04 then unpackRow v.fout v.count (tload s t v.dst (fmtBytes v.fout v.count))
    else List.replicate v.count 0
  let fb := if bcast then fpFP32 else f
  ((List.range v.count).zip (as_.zip (bs.zip ds))).map (fun e =>
    let c := v.coord0 + e.1
    { strict := strict, f := fmtFp v.fout, rmCode := v.rm, rm := rmOf v.rm ((laneWord s task 3 c).toNat % 65536),
      a := readNum f strict e.2.1, b := readNum fb strict e.2.2.1, d := readNum (fmtFp v.fout) strict e.2.2.2,
      wa := widen v.fin e.2.1, wb := if bcast then BitVec.ofNat 32 e.2.2.1 else widen v.fin e.2.2.1,
      yes := decide ((laneWord s task 2 c).toNat % 65536 < e.2.2.1 % 65536) })

/-- The lanes that drew rounding bits. -/
def drewLanes (l : List (FRes × Bool)) : List Nat := (((List.range l.length).zip l).filter (fun e => e.2.2)).map (fun e => e.1)

/-- A `VOP` carried out. -/
def vopRun (fn : Lane → FRes × Bool) (s : State) (t : Nat) (task : WinTask) (i : TileIns) : State :=
  let v := vfuIns i.word
  let rs := (vopLanes s t task i.index v).map fn
  let res := rs.map (fun r => r.1)
  let s1 := tstore s t v.dst (packRow v.fout (res.map (fun r => r.bits)))
  let rep := flagsOf (fmtFp v.fout) res
  let s1 := bankNf (fmtReport s1 t task i.index rep) t task i.index v.dst rep.nf
  let s1 := if v.func = 0x14 then drewReport s1 t v.coord0 (List.range v.count) false else s1
  if v.rm = 4 then drewReport s1 t v.coord0 (drewLanes rs) true else s1

/-- The `VOP` of function `func`: its word is checked; a word of another function is not this command. -/
def vopIns (func : Nat) (fn : Lane → FRes × Bool) (i : TileIns) (s : State) : State :=
  let g := (vfuIns i.word).func
  if insOp i.word = 0x20 ∧ g ≠ func ∧ 1 ≤ g ∧ g ≤ 0x14 then s
  else
    unitIns 0x20 (fun s t task i =>
      if g = func && vopOk (strictMode s) i.word then vopRun fn s t task i
      else instrInvalid s t task i.index) i s

def execAdd (i : TileIns) (s : State) : Host.Outcome State Fault Refusal := runCmd (vopIns 0x01 laneAdd i) s
def execSub (i : TileIns) (s : State) : Host.Outcome State Fault Refusal := runCmd (vopIns 0x02 laneSub i) s
def execMul (i : TileIns) (s : State) : Host.Outcome State Fault Refusal := runCmd (vopIns 0x03 laneMul i) s
def execFma (i : TileIns) (s : State) : Host.Outcome State Fault Refusal := runCmd (vopIns 0x04 laneFma i) s
def execDiv (i : TileIns) (s : State) : Host.Outcome State Fault Refusal := runCmd (vopIns 0x05 laneDiv i) s
def execSqrt (i : TileIns) (s : State) : Host.Outcome State Fault Refusal := runCmd (vopIns 0x06 laneSqrt i) s
def execRsqrt (i : TileIns) (s : State) : Host.Outcome State Fault Refusal := runCmd (vopIns 0x07 laneRsqrt i) s
def execRcp (i : TileIns) (s : State) : Host.Outcome State Fault Refusal := runCmd (vopIns 0x08 laneRcp i) s
def execExp (i : TileIns) (s : State) : Host.Outcome State Fault Refusal := runCmd (vopIns 0x09 laneExp i) s
def execLog (i : TileIns) (s : State) : Host.Outcome State Fault Refusal := runCmd (vopIns 0x0A laneLog i) s
def execTanh (i : TileIns) (s : State) : Host.Outcome State Fault Refusal := runCmd (vopIns 0x0B laneTanh i) s
def execSigmoid (i : TileIns) (s : State) : Host.Outcome State Fault Refusal := runCmd (vopIns 0x0C laneSigmoid i) s
def execGelu (i : TileIns) (s : State) : Host.Outcome State Fault Refusal := runCmd (vopIns 0x0D laneGelu i) s
def execRelu (i : TileIns) (s : State) : Host.Outcome State Fault Refusal := runCmd (vopIns 0x0E laneRelu i) s
def execLrelu (i : TileIns) (s : State) : Host.Outcome State Fault Refusal := runCmd (vopIns 0x0F laneLrelu i) s
def execMax (i : TileIns) (s : State) : Host.Outcome State Fault Refusal := runCmd (vopIns 0x10 laneMax i) s
def execMin (i : TileIns) (s : State) : Host.Outcome State Fault Refusal := runCmd (vopIns 0x11 laneMin i) s
def execCmplt (i : TileIns) (s : State) : Host.Outcome State Fault Refusal := runCmd (vopIns 0x12 laneCmplt i) s
def execCmpeq (i : TileIns) (s : State) : Host.Outcome State Fault Refusal := runCmd (vopIns 0x13 laneCmpeq i) s
def execMask (i : TileIns) (s : State) : Host.Outcome State Fault Refusal := runCmd (vopIns 0x14 laneMask i) s

/-! Gradient conversions (R195, R221–R223, R258, R267). -/

/-- What one attempt of a conversion gives: its counts, and the figures of R267. -/
structure Tried where
  conv : ConvOut
  fig : GfcFig

/-- A pattern of an output format is a zero. -/
def patZero (fmt p : Nat) : Bool := if fmt = 5 ∨ fmtInt fmt = true then p == 0 else p % (fmtFp fmt).signBit == 0

/-- The figures of R267 of inputs and the patterns of each copy made of them: an input counts as converted to zero where some
copy holds zero (DEDUCED, log 52). -/
def gfcFig (strict : Bool) (fmt : Nat) (xs : List Num) (copies : List (List Nat)) : GfcFig :=
  ((List.range xs.length).zip xs).foldl (fun (a : GfcFig) e => match e.2 with
    | .fin _ m k =>
      if m = 0 then a
      else ⟨max a.amax (exactRes fpFP32 strict (.fin false m k)).bits, a.ovf,
        a.unf + b2n (copies.any (fun c => patZero fmt (c.getD e.1 0))), a.nz + 1⟩
    | _ => a) {}

/-- The figures of a layer's conversions so far (R267). -/
def addFig (s : State) (l replays : Nat) (f : GfcFig) : State :=
  let g := kGetD s.commit.figs l {}
  let g' : GfcFig := ⟨max g.amax f.amax, g.ovf + replays, g.unf + f.unf, g.nz + f.nz⟩
  { s with commit := { s.commit with figs := kSet s.commit.figs l g' } }

/-- The replay record (R258): 16 bytes and 16 bytes of zeros. -/
def replayRecord (s : State) (task : WinTask) (l fmt : Nat) (final : Int) (tries : Nat) : List Byte :=
  leBytes 8 (fld s PANE_GFC_T 0 l + 256 * unsigned 8 final + 65536 * tries + 2 ^ 20 * fmt + 2 ^ 24 * l +
    2 ^ 32 * dMb task.desc) ++ leBytes 8 task.pass ++ leBytes 16 0

/-- Attempts that the draught registers force to overflow (R428): judged once for each conversion of a chosen layer. -/
def forcedTries (s : State) (t l : Nat) : State × Nat :=
  if bitOf 8 (fld s DRT_STATUS_ARMED) ∧ drt s DRT_OVF_ATTEMPTS ≠ 0 ∧ (drt s DRT_OVF_ALL = 1 ∨ drt s DRT_OVF_LAYER = l) then
    let x := tileS s t
    let n := x.gradCount + 1
    (setTile s t { x with gradCount := n }, if n % (max 1 (drt s DRT_OVF_EVERY)) = 0 then drt s DRT_OVF_ATTEMPTS else 0)
  else (s, 0)

/-- One attempt of a scale conversion (R221–R223): `try_` gives what T yields, `keep` writes what a kept attempt yields, and
`recAt` is where its replay record goes. -/
def scaleConv (try_ : State → Int → Tried) (keep : State → Int → State) (recAt fmt coord0 : Nat) (s : State) (t : Nat)
    (task : WinTask) (i : TileIns) (tries forced : Nat) : State :=
  let l := dLayer task.desc
  let plan := signed 8 (fld s PANE_GFC_T 0 l)
  let tt := plan - 4 * tries
  let r := try_ s tt
  let force := decide (tries < forced)
  let ovf := force || decide (r.conv.sat ≠ 0) || decide (r.conv.toInf ≠ 0)
  let s := if force then bump s DRT_EVT_OVF else s
  if ovf && decide (tries < 3) then
    let a : Attempt := ⟨i.index, i.word, i.env, tries + 1, forced⟩
    drewReport (setTile s t { tileS s t with attempt := some a }) t coord0 r.conv.drew true
  else
    let s := setTile s t { tileS s t with attempt := none }
    let s := keep s tt
    if faulted s then s
    else
      let s := tstore s t recAt (replayRecord s task l fmt tt tries)
      let s := addFig s l tries r.fig
      let o := r.conv
      if ovf then
        let (s, v) := drawFree s
        let first := match o.first with | some f => some f | none => some (v % 2 ^ 21, false)
        event (bump (convReport s t task i.index coord0 true { o with ovf := true, nf := true, first := first })
          ACC_EVT_EXHAUSTED 1 t) 0x3807
      else convReport s t task i.index coord0 true o

/-- A replay is issued (R221): the event, its count and `ACC_REPLAY`. -/
def replayIssued (s : State) (t : Nat) (task : WinTask) (instr tries : Nat) : State :=
  let final := signed 8 (fld s PANE_GFC_T 0 (dLayer task.desc)) - 4 * tries
  let s := setFld (setFld (setFld (setFld (setFld s ACC_REPLAY_TASK_ID (dTaskId task.desc) t) ACC_REPLAY_INSTR instr t)
    ACC_REPLAY_ATTEMPTS tries t) ACC_REPLAY_FINAL_T (unsigned 8 final) t) ACC_REPLAY_PANE (pane s) t
  event (bump s ACC_EVT_REPLAYS 1 t) 0x3806

/-! `CVT`. -/

/-- The input values of a `CVT`. An MX source has the row axis: the instruction has no field for another (DESIGN CHOICE, log
53); integer sources are signed (log 29). -/
def cvtInputs (s : State) (t : Nat) (v : VfuIns) : List Num :=
  let ps := unpackRow v.fin v.count (tload s t v.src0 (fmtBytes v.fin v.count))
  let sc := tload s t v.src1 (scaleArea v.fin v.count)
  ((List.range v.count).zip ps).map (fun e =>
    let x := decodeElem v.fin (strictMode s) true e.2
    if fmtMx v.fin then scaleNum ((sc.getD (e.1 / 32) 0).toNat) x else x)

/-- The conversion's rounding of a task (R196). -/
def howOf (s : State) (task : WinTask) (fmt rm coord0 : Nat) (t : Int) : ConvHow :=
  { fmt := fmt, strict := strictMode s, t := t, rm := rm, lane := fun i => (laneWord s task 3 (coord0 + i)).toNat % 65536 }

/-- A sub-block of at most 32 rows of 32 converted along its columns: patterns row-major, and 32 scales. -/
def convColumns (how : ConvHow) (l : List (Nat × Num)) : ConvOut × List Nat :=
  let rows := (List.range ((l.length + 31) / 32)).map (fun r => (l.drop (32 * r)).take 32)
  let outs := (transposeL (0, Num.fin false 0 0) rows).map (convBlock how)
  let pats := transposeL 0 (outs.map (fun o => o.bits))
  ({ outs.foldl (fun (a : ConvOut) o => a.append o) { bits := [] } with bits := pats.flatMap (fun r => r) },
    outs.map (fun o => o.scale))

/-- One copy of a tensor along a scale axis (R186, R194): conversion and scale bytes. -/
def convCopy (how : ConvHow) (axis : Nat) (l : List (Nat × Num)) : ConvOut × List Nat :=
  if fmtMx how.fmt && axis == 1 then
    (List.range ((l.length + 1023) / 1024)).foldl (fun (a : ConvOut × List Nat) b =>
      let r := convColumns how ((l.drop (1024 * b)).take 1024)
      (a.1.append r.1, a.2 ++ r.2)) ({ bits := [] }, [])
  else convRun how l

/-- The scale axes of the copies that a `CVT` writes (R187). -/
def copyAxes (dual : Bool) (saxis : Nat) : List Nat := if dual then [0, 1] else [saxis]

/-- The copies that a `CVT` writes: one, or with `DUAL` the row axis and then the column axis (R187). -/
def cvtCopies (s : State) (t : Nat) (task : WinTask) (v : VfuIns) (fmt : Nat) (tt : Int) : List (ConvOut × List Nat) :=
  let how := howOf s task fmt v.rm v.coord0 tt
  let xs := cvtInputs s t v
  let l := (List.range xs.length).zip xs
  (copyAxes v.dual v.saxis).map (fun a => convCopy how a l)

/-- The counts of the copies together. -/
def copiesConv (l : List (ConvOut × List Nat)) : ConvOut :=
  l.foldl (fun (a : ConvOut) c => { a.append c.1 with bits := [] }) { bits := [] }

/-- A mark of an MX tensor written: it takes the place of those whose areas it meets (R186). -/
def addMark (l : List AxisMark) (m : AxisMark) : List AxisMark :=
  m :: l.filter (fun x => !(decide (x.addr < m.addr + m.bytes.length) && decide (m.addr < x.addr + x.bytes.length)))

/-- The copies written (R187): elements at `DST`, scales at `DST_SCALE`, with the axis of each MX copy (R186). -/
def putCopies (s : State) (t : Nat) (v : VfuIns) (fmt : Nat) (l : List (ConvOut × List Nat)) : State :=
  ((copyAxes v.dual v.saxis).zip ((List.range l.length).zip l)).foldl (fun s x =>
    let e := x.2
    let s := tstore s t (v.dst + e.1 * fmtBytes fmt v.count) (packRow fmt e.2.1.bits)
    if fmtMx fmt then
      let bs := e.2.2.map (fun b => BitVec.ofNat 8 b)
      let at_ := v.dstScale + e.1 * scaleArea fmt v.count
      let s := tstore s t at_ bs
      setTile s t { tileS s t with axes := addMark (tileS s t).axes ⟨at_, x.1, bs⟩ }
    else s) s

/-- One attempt of a scale conversion by `CVT`. -/
def cvtAttempt (s : State) (t : Nat) (task : WinTask) (i : TileIns) (tries forced : Nat) : State :=
  let v := vfuIns i.word
  let fmt := cvtFmt s (dLayer task.desc) true v.fout
  scaleConv
    (fun s tt =>
      let cs := cvtCopies s t task v fmt tt
      { conv := copiesConv cs, fig := gfcFig (strictMode s) fmt (cvtInputs s t v) (cs.map (fun c => c.1.bits)) })
    (fun s tt =>
      let cs := cvtCopies s t task v fmt tt
      bankNf (putCopies s t v fmt cs) t task i.index v.dst (copiesConv cs).nf)
    (v.dst - 32) fmt v.coord0 s t task i tries forced

/-- `CVT` (R183–R187, R194–R197, R260). -/
def cvt (s : State) (t : Nat) (task : WinTask) (i : TileIns) : State :=
  let v := vfuIns i.word
  let l := dLayer task.desc
  if !cvtOk s l i.word then instrInvalid s t task i.index
  else if v.grad && v.fout != 10 then
    let f := forcedTries s t l
    cvtAttempt f.1 t task i 0 f.2
  else
    let tt : Int := if v.grad then -(signed 8 (fld s PANE_GFC_T 0 l) - 12) else v.t
    let cs := cvtCopies s t task v v.fout tt
    let o := copiesConv cs
    convReport (bankNf (putCopies s t v v.fout cs) t task i.index v.dst o.nf) t task i.index v.coord0 false o

def execCvt (i : TileIns) (s : State) : Host.Outcome State Fault Refusal := runCmd (unitIns 0x21 cvt i) s

/-! `RNG`. -/

/-- The fields of an `RNG` word (R308). -/
structure RngIns where
  out : Nat
  stream : Nat
  prob : Nat
  obj : Nat
  dst : Nat
  count : Nat
  coord0 : Nat

def rngIns (w : Word32B) : RngIns :=
  let v := w.toNat
  let n := bitsOf 128 21 v
  { out := bitsOf 8 2 v, stream := bitsOf 16 8 v, prob := bitsOf 32 16 v, obj := bitsOf 48 16 v, dst := bitsOf 64 24 v,
    count := if n = 0 then 2097152 else n, coord0 := bitsOf 192 64 v }

/-- Bytes that an `RNG` writes. -/
def rngBytes (r : RngIns) : Nat := if r.out = 1 then (r.count + 7) / 8 else 4 * r.count

/-- The checks of R308. -/
def rngOk (w : Word32B) : Bool :=
  let r := rngIns w
  let z := fun (lo n : Nat) => bitsOf lo n w.toNat == 0
  r.out != 3 && [0x02, 0x04, 0x05].contains r.stream && (r.out == 1 || r.prob == 0) && (r.stream == 0x04 || r.obj == 0) &&
  z 10 6 && z 24 8 && z 88 40 && z 149 43 && inTile r.dst (rngBytes r)

/-- The words of an `RNG` (R302). -/
def rngWords (s : State) (task : WinTask) (r : RngIns) : List (BitVec 32) :=
  (List.range r.count).map (fun i =>
    if r.stream = 0x04 then rngWord s.job.seed (2 ^ 64 - 1) 0x04 0 r.obj ((r.coord0 + i) % 2 ^ 64)
    else laneWord s task r.stream ((r.coord0 + i) % 2 ^ 64))

/-- The bytes of an `RNG`: words, mask bits, or uniform FP32. -/
def rngData (r : RngIns) (ws : List (BitVec 32)) : List Byte :=
  match r.out with
  | 0 => wordBytes ws
  | 1 => leBytes ((r.count + 7) / 8) (bitsToNat (ws.map (fun w => decide (w.toNat % 65536 < r.prob))))
  | _ => wordBytes (ws.map (fun w => (roundRes fpFP32 false .rne false (w.toNat / 256) (-24)).w))

/-- `RNG` (R308). -/
def rng (s : State) (t : Nat) (task : WinTask) (i : TileIns) : State :=
  if rngOk i.word then
    let r := rngIns i.word
    let ws := rngWords s task r
    let s := tstore s t r.dst (rngData r ws)
    let s := bankNf s t task i.index r.dst (r.out == 0 && ws.any nfW)
    drewReport s t r.coord0 (List.range r.count) false
  else instrInvalid s t task i.index

def execRng (i : TileIns) (s : State) : Host.Outcome State Fault Refusal := runCmd (unitIns 0x23 rng i) s

end Sys2Proof.Machine
end

