-- ==== Sys2Proof/Machine/Sparse.lean ====
section
/-! DEFINITION. The compressor, the splitter and recompute pieces (10), and `GTAG` (11). -/

namespace Sys2Proof.Machine

/-! `CMP`. -/

/-- The fields of a `CMP` word (R233). -/
structure CmpIns where
  fmt : Nat
  rm : Nat
  saxis : Nat
  act : Bool
  fromDrain : Bool
  grad : Bool
  t : Int
  rb : Nat
  cb : Nat
  src : Nat
  dst : Nat
  dstScale : Nat
  map : Nat
  coord0 : Nat
  cap : Nat

def cmpIns (w : Word32B) : CmpIns :=
  let v := w.toNat
  { fmt := bitsOf 8 4 v, rm := bitsOf 12 3 v, saxis := bitsOf 15 1 v, act := bitOf 16 v, fromDrain := bitOf 17 v,
    grad := bitOf 18 v, t := signed 8 (bitsOf 24 8 v), rb := bitsOf 32 3 v + 1, cb := bitsOf 36 3 v + 1,
    src := bitsOf 64 23 v, dst := bitsOf 96 23 v, dstScale := bitsOf 128 23 v, map := bitsOf 160 23 v,
    coord0 := bitsOf 192 32 v, cap := bitsOf 224 7 v }

/-- The format that a `CMP` of a task of layer `l` writes (R195). -/
def cmpFmt (s : State) (l : Nat) (c : CmpIns) : Nat := if c.grad then fld s PANE_GFC_FMT 0 l else c.fmt

/-- The checks of a `CMP` of a task of layer `l` (R230, R233, R258, R267). -/
def cmpOk (s : State) (l : Nat) (w : Word32B) : Bool :=
  let c := cmpIns w
  let f := cmpFmt s l c
  let z := fun (lo n : Nat) => bitsOf lo n w.toNat == 0
  fmtOk c.fmt && fmtOk f && (if strictMode s then decide (c.rm ≤ 4) else c.rm == 0 || c.rm == 4) &&
  z 19 5 && z 35 1 && z 39 25 && z 87 9 && z 119 9 && z 151 9 && z 183 9 && z 231 25 &&
  decide (1 ≤ c.cap) && decide (c.cap ≤ 64) &&
  (if c.fromDrain then c.src == 0 else inSpad c.src (1024 * c.rb * c.cb)) &&
  inSpad c.dst (c.cap * blockStride f) && (if fmtMx f then inSpad c.dstScale 512 else c.dstScale == 0) &&
  c.map % 32 == 0 && inSpad c.map 32 && (!c.grad || (decide (l ≤ 63) && decide (32 ≤ c.map)))

/-- The FP32 rows of a `CMP`: from the scratchpad, or those that the drain left, filled out with +0 (log 54). -/
def cmpWords (s : State) (t : Nat) (c : CmpIns) : List (List (BitVec 32)) :=
  let n := 16 * c.cb
  if c.fromDrain then
    let rows := (tileS s t).rows.getD []
    (List.range (16 * c.rb)).map (fun r => (List.range n).map (fun j => (rows.getD r []).getD j 0))
  else (List.range (16 * c.rb)).map (fun r => loadWords s (tileBase t + c.src + 4 * n * r) n)

/-- `RELU` of FP32 words (R198). -/
def reluRes (strict : Bool) (w : BitVec 32) : FRes := maxNum fpFP32 strict false (f32 strict w) (.fin false 0 0)

/-- The rows after `ACT`, as numbers. -/
def cmpRows (s : State) (t : Nat) (c : CmpIns) : List (List Num) :=
  (cmpWords s t c).map (fun r => r.map (fun w => f32 (strictMode s) (if c.act then (reluRes (strictMode s) w).w else w)))

/-- Whether `ACT` met a signalling NaN (R190). -/
def cmpActIv (s : State) (t : Nat) (c : CmpIns) : Bool :=
  c.act && (cmpWords s t c).any (fun r => r.any (fun w => (reluRes (strictMode s) w).iv))

/-- The panel that a `CMP` forms under T (R234). -/
def cmpPanel (s : State) (t : Nat) (task : WinTask) (c : CmpIns) (fmt : Nat) (tt : Int) (force : Nat) : PanelOut :=
  compressPanel (howOf s task fmt c.rm c.coord0 tt) c.saxis (cmpRows s t c) force

/-- What the conversion of the elements in some sub-blocks counts. -/
def convSubs (how : ConvHow) (saxis : Nat) (rows : List (List Num)) (q : Nat → Bool) : ConvOut :=
  let ix := indexRows rows
  let lines := if saxis = 0 then ix else transposeL (0, Num.fin false 0 0) ix
  ((List.range lines.length).zip lines).foldl (fun (a : ConvOut) e =>
    (List.range ((e.2.length + 31) / 32)).foldl (fun (a : ConvOut) b =>
      if q (if saxis = 0 then 4 * (e.1 / 32) + b else 4 * b + e.1 / 32) then
        { a.append (convRun how ((e.2.drop (32 * b)).take 32)).1 with bits := [] }
      else a) a) { bits := [] }

/-- Byte ranges of 64 bytes that overlap. -/
def overlap64 (a b : Nat) : Bool := decide (a < b + 64) && decide (b < a + 64)

/-- Map bits of the blocks of a `CMP`'s source that hold an owed block of a drained region (R250). -/
def owedIn (c : CmpIns) (o : OwedS) : Nat :=
  let owed := o.owed.flatMap (fun e => (List.range 16).map (fun i => o.addr + 4 * o.cols * (16 * e.2 + i) + 64 * e.1))
  sumOf ((List.range 64).map (fun bit =>
    let r := bit / 8
    let b := bit % 8
    if r < c.rb && b < c.cb && (List.range 16).any (fun i =>
        owed.any (overlap64 (c.src + 64 * c.cb * (16 * r + i) + 64 * b))) then 2 ^ bit else 0))

/-- The owed regions of a tile that lie in a `CMP`'s source. -/
def owedOf (s : State) (t : Nat) (c : CmpIns) : List OwedS :=
  if c.fromDrain then [] else (tileS s t).owed.filter (fun o => o.drained && owedIn c o != 0)

/-- The owed blocks of a `CMP`'s source. -/
def owedMask (s : State) (t : Nat) (c : CmpIns) : Nat := (owedOf s t c).foldl (fun m o => m ||| owedIn c o) 0

/-- The map bits of the sub-blocks that hold some block of a mask. -/
def heldBits (mask : Nat) : Nat :=
  let subs := ((List.range 64).filter (fun b => bitOf b mask)).map subOf
  sumOf ((List.range 64).map (fun b => if subs.contains (subOf b) then 2 ^ b else 0))

/-- Blocks that hold an element other than +0 before conversion. -/
def liveBits (rows : List (List Num)) : Nat :=
  sumOf ((List.range 64).map (fun bit =>
    if ((rows.drop (16 * (bit / 8))).take 16).any (fun r => ((r.drop (16 * (bit % 8))).take 16).any (fun x =>
      x != .fin false 0 0 && (match x with | .fin s m _ => s || m != 0 | _ => true))) then 2 ^ bit else 0))

/-- `PANEL_OVERFLOW` (R236). -/
def panelOverflow (s : State) (t : Nat) (task : WinTask) (instr needed cap : Nat) : State :=
  spxFault s t 0x4080 4 needed cap task instr

/-- A panel written by the compressor, its sub-blocks with owed blocks held (R234–R236, R250). In a held sub-block every block
that holds anything before conversion is reserved: its scale may still change (DEDUCED, log 55). -/
def cmpWrite (s : State) (t : Nat) (task : WinTask) (i : TileIns) (c : CmpIns) (fmt : Nat) (tt : Int) : State :=
  let owed := owedMask s t c
  let held := heldBits owed
  let p0 := cmpPanel s t task c fmt tt 0
  let reserve := held &&& (p0.present ||| owed ||| liveBits (cmpRows s t c))
  let p := if reserve = 0 then p0 else cmpPanel s t task c fmt tt reserve
  let n := popCount p.present
  if c.cap < n then panelOverflow s t task i.index n c.cap
  else
    let names := (owedOf s t c).map (fun o => (o.key, o.taskId, o.addr))
    let s := putPanel s p c.cap (tileBase t + c.map) (tileBase t + c.dstScale) (tileBase t + c.dst) reserve
    let x := tileS s t
    let s := setTile s t { x with owed := x.owed.map (fun (o : OwedS) =>
      if o.drained && names.contains (o.key, o.taskId, o.addr) then { o with held := o.held ++ [i.word] } else o) }
    bump (bump s SPX_EVT_PRESENT (n - popCount reserve) t) SPX_EVT_ABSENT (c.rb * c.cb - n) t

/-- The reports of a kept attempt add what `ACT` met. -/
def withAct (iv : Bool) (o : ConvOut) : ConvOut := { o with iv := o.iv || iv }

/-- One attempt of a scale conversion by `CMP`. -/
def cmpAttempt (s : State) (t : Nat) (task : WinTask) (i : TileIns) (tries forced : Nat) : State :=
  let c := cmpIns i.word
  let fmt := cmpFmt s (dLayer task.desc) c
  scaleConv
    (fun s tt =>
      let rows := cmpRows s t c
      let how := howOf s task fmt c.rm c.coord0 tt
      let p := cmpPanel s t task c fmt tt 0
      let ix := indexRows rows
      let lines := if c.saxis = 0 then ix else transposeL (0, Num.fin false 0 0) ix
      let pats := lines.map (fun l => (convRun how l).1.bits)
      { conv := withAct (cmpActIv s t c) p.conv,
        fig := gfcFig (strictMode s) fmt (lines.flatMap (fun l => l.map (fun e => e.2))) [pats.flatMap (fun b => b)] })
    (fun s tt => cmpWrite s t task i c fmt tt)
    (c.map - 32) fmt c.coord0 s t task i tries forced

/-- `CMP` (R233–R236, R250). -/
def cmp (s : State) (t : Nat) (task : WinTask) (i : TileIns) : State :=
  let c := cmpIns i.word
  let l := dLayer task.desc
  if !cmpOk s l i.word || (c.fromDrain && (tileS s t).rows.isNone) then instrInvalid s t task i.index
  else if c.grad then
    let f := forcedTries s t l
    cmpAttempt f.1 t task i 0 f.2
  else
    let owed := owedMask s t c
    let o := if owed = 0 then (cmpPanel s t task c c.fmt c.t 0).conv
      else convSubs (howOf s task c.fmt c.rm c.coord0 c.t) c.saxis (cmpRows s t c)
        (fun k => !((List.range 64).any (fun b => subOf b == k && bitOf b (heldBits owed))))
    let o := withAct (cmpActIv s t c) o
    let s := cmpWrite s t task i c c.fmt c.t
    if faulted s then s
    else
      let s := setTile s t { tileS s t with rows := if c.fromDrain then none else (tileS s t).rows }
      convReport s t task i.index c.coord0 false o

def execCmp (i : TileIns) (s : State) : Host.Outcome State Fault Refusal := runCmd (unitIns 0x40 cmp i) s

/-- `OVF_REPLAY` (R221–R223): the next attempt of the tile's conversion; `env` is what its reads meet (R149, R224). -/
def ovfReplay (t : Nat) (env : TileEnv) (s : State) : State :=
  match (tileS s t).attempt, (site s t).run with
  | some a, some task =>
    if !jobLive s then s
    else
      let s := unitEnv (replayIssued s t task a.index a.tries) t env
      let i : TileIns := { tile := Fin.ofNat 96 t, index := a.index, word := a.word, env := a.env }
      if faulted s then s
      else if insOp a.word = 0x21 then cvtAttempt s t task i a.tries a.forced
      else
        let s := cmpAttempt s t task i a.tries a.forced
        if (tileS s t).attempt.isNone && (cmpIns a.word).fromDrain then setTile s t { tileS s t with rows := none } else s
  | _, _ => s

def execOvfReplay (tile : TileAct) (s : State) : Host.Outcome State Fault Refusal :=
  runCmd (ovfReplay tile.tile.val tile.env) s

/-! `SPLIT` (R242–R244). -/

/-- The block steps of an `MMA` word (R243). -/
def stepsOf (s : State) (t cls : Nat) (w : Word32B) : Nat :=
  if insOp w = 0x10 then
    let p := mmaProd s t cls none w
    let k := kappa p.a.fmt p.b.fmt
    match p.a.panel, p.b.panel with
    | some ma, some mb =>
      let l := matches_ p (leNat (tload s t ma 32)) (leNat (tload s t mb 32))
      max (passes p.a.fmt * mPrime l) (writes p.a.fmt * ((kPrime l + k - 1) / k))
    | _, _ => max ((passes p.a.fmt * p.m + 15) / 16) (writes p.a.fmt * (p.k / (16 * k)))
  else 0

/-- The splitter's cut as it goes: pieces closed, the current piece and its steps. -/
structure Cut where
  done : List (List Word32B)
  cur : List Word32B
  steps : Nat
  deriving DecidableEq, Repr

/-- The current piece closed. -/
def Cut.close (c : Cut) : Cut := if c.cur = [] then c else { done := c.done ++ [c.cur], cur := [], steps := 0 }

/-- The largest part of the k-blocks `x` up to `y` whose steps fit: where its end lies. -/
def fitTo (s : State) (t cls budget : Nat) (w : Word32B) (x : Nat) : Nat → Nat
  | 0 => x
  | n + 1 => if stepsOf s t cls (cutWord w x (x + n + 1)) ≤ budget then x + n + 1 else fitTo s t cls budget w x n

/-- An `MMA` from k-block `x` on enters the pieces: whole, cut after the last whole k-block that fits, or, where not even one
k-block fits an empty piece, one k-block by itself (log 56). -/
def cutMma (s : State) (t cls budget : Nat) (w : Word32B) : Nat → Cut → Nat → Cut
  | 0, c, _ => c
  | fuel + 1, c, x =>
    let y := (kRange w).2
    let rest := if x = 0 then w else cutWord w x y
    let n := stepsOf s t cls rest
    if c.steps + n ≤ budget then { c with cur := c.cur ++ [rest], steps := c.steps + n }
    else
      let e := fitTo s t cls (budget - c.steps) w x (y - x - 1)
      if x < e then
        cutMma s t cls budget w fuel (Cut.close { c with cur := c.cur ++ [cutWord w x e] }) e
      else if c.steps = 0 then
        if x + 1 < y then cutMma s t cls budget w fuel (Cut.close { c with cur := c.cur ++ [cutWord w x (x + 1)] }) (x + 1)
        else { c with cur := c.cur ++ [rest], steps := n }
      else cutMma s t cls budget w fuel c.close x

/-- One instruction of a splittable task. -/
def cutItem (s : State) (t cls budget : Nat) (c : Cut) (w : Word32B) : Cut :=
  if insOp w = 0x10 then cutMma s t cls budget w 20 c 0 else { c with cur := c.cur ++ [w] }

/-- The checks of a `SPLIT` (R242): first in its task and alone. -/
def splitOk (items : List Word32B) (index : Nat) (w : Word32B) : Bool :=
  bitsOf 8 8 w.toNat == 0 && bitsOf 32 224 w.toNat == 0 && bitsOf 16 16 w.toNat != 0 && index == 0 &&
  !((items.drop 1).any (fun u => insOp u == 0x41))

/-- A descriptor with `CONT` set (R32, R38). -/
def contDesc (d : Word32B) : Word32B := d ||| 0x800000000000#256

/-- `SPLIT` (R242–R244): the task in hand becomes the first piece, and the others are pending at its site. -/
def split (s : State) (t : Nat) (task : WinTask) (i : TileIns) : State :=
  let items := taskItems s task
  if !splitOk items i.index i.word then instrInvalid s t task i.index
  else if task.items.isSome then s
  else
    let cls := dClass task.desc
    let budget := bitsOf 16 16 i.word.toNat
    if sumOf (items.map (stepsOf s t cls)) ≤ budget then s
    else
      let c := (items.foldl (cutItem s t cls budget) ⟨[], [], 0⟩).close
      match c.done with
      | [] => s
      | first :: rest =>
        let n := rest.length
        let mk := fun (e : Nat × List Word32B) =>
          ({ task with desc := contDesc task.desc, k := e.1 + 1, items := some e.2, lastPiece := e.1 + 1 == n, adm := 0,
                       ready := false, queued := false, credits := [] } : WinTask)
        let x := site s t
        let s := setSite s t { x with
          run := some { task with items := some first, lastPiece := n == 0 },
          pieces := x.pieces ++ ((List.range n).zip rest).map mk }
        event (bump s SPX_EVT_SPLITS n t) 0x4001 n

def execSplit (i : TileIns) (s : State) : Host.Outcome State Fault Refusal := runCmd (unitIns 0x41 split i) s

/-! `GTAG` (R259). -/

/-- `PANE_BWD_FAULT` and a fault of the backward pass (R274, R275). -/
def bwdFault (s : State) (t code : Nat) (task : WinTask) (layer : Nat) : State :=
  let s := firstRecord s PANE_BWD_FAULT_VALID 0 0 (fun s =>
    setFld (setFld (setFld (setFld (setFld (setFld s PANE_BWD_FAULT_LAYER layer) PANE_BWD_FAULT_CODE code)
      PANE_BWD_FAULT_MB (dMb task.desc)) PANE_BWD_FAULT_TILE t) PANE_BWD_FAULT_STEP task.pass) PANE_BWD_FAULT_PANE (pane s))
  fault s code (some PANE_BWD_FAULT.base)

/-- The checks of a `GTAG`. -/
def gtagOk (w : Word32B) : Bool :=
  bitsOf 8 56 w.toNat == 0 && bitsOf 87 169 w.toNat == 0 && inSpad (bitsOf 64 23 w.toNat) 16

/-- `GTAG` (R259): the replay record in force for the gradient operands that follow. -/
def gtag (s : State) (t : Nat) (task : WinTask) (i : TileIns) : State :=
  if !gtagOk i.word then instrInvalid s t task i.index
  else
    let r := leNat (tload s t (bitsOf 64 23 i.word.toNat) 16)
    if bitsOf 64 64 r = task.pass ∧ bitsOf 24 8 r = dLayer task.desc then
      setTile s t { tileS s t with gtag := some (r % 2 ^ 64) }
    else bwdFault s t 0x4881 task (dLayer task.desc)

def execGtag (i : TileIns) (s : State) : Host.Outcome State Fault Refusal := runCmd (unitIns 0x22 gtag i) s

/-! Recompute pieces (R251, R252). -/

/-- The estimate of the recompute piece of some owed blocks (R251). -/
def recomputeCycles (o : OwedS) (p : Prod) (held : Nat) : Nat :=
  let nbs := (o.owed.map (fun e => e.1)).eraseDups
  sumOf (nbs.map (fun nb =>
    let ms := (o.owed.filter (fun e => e.1 == nb)).length
    o.chain.length * max (passes p.a.fmt * 16 * ms) (writes p.a.fmt * (p.kAll / kappa p.a.fmt p.b.fmt)) + 275)) + 16 * held + 24

/-- One row of one n-block of a chain's product, at full precision, after `c`. -/
def fullRow (s : State) (t : Nat) (p : Prod) (nb i : Nat) (c : List AccCell) : List AccCell :=
  let arow := (List.range p.k).map (fun k => opndElem s t p.a true p.m p.kAll i (p.k0 + k))
  ((List.range 16).zip c).map (fun e =>
    let c0 : AccCell := if p.init then { w := 0 } else { e.2 with fl := {} }
    let col := (List.range p.k).map (fun k => opndElem s t p.b false p.n p.kAll (16 * nb + e.1) (p.k0 + k))
    sumFast (fmtInt p.a.fmt) (treeFmt p.a.fmt) p.group p.pair (p.k0 / 16) none c0 (arow.zip col))

/-- One instruction of a chain re-run for an n-block over the rows `is` into the recompute window, with its flags and pair bits. -/
def fullStep (s : State) (t : Nat) (task : WinTask) (nb instr : Nat) (is : List Nat) (w : Word32B × Option Nat)
    (c : List (List AccCell)) : State × List (List AccCell) :=
  let p := mmaProd s t 5 w.2 w.1
  let r := (is.zip c).map (fun e => fullRow s t p nb e.1 e.2)
  let bank := fld s SPX_RCFG_BANK t
  let f := (is.zip r).foldl (fun f e => rowFlags f e.1 (fld s SPX_RCFG_COL0 t) ((List.range 16).zip e.2)) {}
  let s := accReport (arrayCounts s t (passes p.a.fmt * is.length) {}) t task instr bank f
  let s := if p.pair && r.any (fun l => l.any (fun c => nfW c.e)) then accReport s t task instr (1 - bank) { nf := true } else s
  let s := flushReport s t (sumOf (r.map (fun l => sumOf (l.map (fun c => c.fl.flush)))))
  let s := if p.init then is.foldl (fun s i => setTile s t (setPair (tileS s t) bank i 1 p.pair)) s else s
  (s, r)

/-- The owed blocks of one n-block formed and written over the drained region after `RELU` (R251). -/
def recomputeNb (t : Nat) (task : WinTask) (o : OwedS) (acc : State × Nat) (nb : Nat) : State × Nat :=
  let s := acc.1
  let is := (((o.owed.filter (fun e => e.1 == nb)).map (fun e => e.2)).flatMap (fun mb =>
    (List.range 16).map (fun i => 16 * mb + i))).filter (fun i => decide (i < o.rows))
  let start := is.map (fun _ => (List.range 16).map (fun _ => ({ w := 0 } : AccCell)))
  let r := o.chain.foldl (fun (a : State × List (List AccCell) × Nat) w =>
    let x := fullStep a.1 t task nb a.2.2 is w a.2.1
    (x.1, x.2, a.2.2 + 1)) (s, start, acc.2)
  let bank := fld s SPX_RCFG_BANK t
  let s := (is.zip r.2.1).foldl (fun s e =>
    let s := putBankRow s t bank e.1 (fld s SPX_RCFG_COL0 t) (e.2.map (fun c => c.w))
    let s := if pairBit (tileS s t) bank e.1 then
        putBankRow s t (1 - bank) e.1 (fld s SPX_RCFG_COL0 t) (e.2.map (fun c => c.e)) else s
    let ws := e.2.map (fun c => (reluRes false (if o.mode = 1 then (f32add false c.w c.e).w else c.w)).w)
    let s := tstore s t (o.addr + 4 * o.cols * e.1 + 64 * nb) (wordBytes ws)
    if o.mode = 2 then
      tstore s t (o.addr + 512 * o.rows + 4 * o.cols * e.1 + 64 * nb) (wordBytes (e.2.map (fun c => c.e)))
    else s) r.1
  (s, r.2.2)

/-- The held sub-blocks of a panel written once their owed blocks are known: the map keeps its `PRESENT` (R250, R251). -/
def cmpRest (s : State) (t : Nat) (task : WinTask) (instr : Nat) (w : Word32B) (before : Nat) : State :=
  let c := cmpIns w
  let m := loadNat s (tileBase t + c.map) 32
  let still := mapOwed m &&& heldBits (owedMask s t c)
  let now := heldBits (mapOwed m) &&& heldBits before &&& (2 ^ 64 - 1 - heldBits still)
  let p := cmpPanel s t task c (mapFmt m) c.t (mapPresent m)
  let blocks := ((List.range p.blocks.length).zip p.blocks).filter (fun e => bitOf e.2.1 now && bitOf e.2.1 (mapPresent m))
  let s := blocks.foldl (fun s e =>
    store s (tileBase t + c.dst + blockStride p.fmt * blockRank (mapPresent m) e.2.1) e.2.2) s
  let s := p.scales.foldl (fun s e =>
    if ((List.range 64).any (fun b => subOf b == e.1 && bitOf b now)) then store s (tileBase t + c.dstScale + 32 * e.1) e.2 else s) s
  let nf := (mapNf m &&& (2 ^ 64 - 1 - now)) ||| (p.nf &&& now &&& mapPresent m)
  let o := convSubs (howOf s task (mapFmt m) c.rm c.coord0 c.t) c.saxis (cmpRows s t c)
    (fun k => (List.range 64).any (fun b => subOf b == k && bitOf b now))
  let s := store s (tileBase t + c.map) (leBytes 32 (mapEntry (mapPresent m) nf still (mapFmt m) (mapSaxis m) (mapCap m)))
  convReport (bump s SPX_EVT_PRESENT blocks.length t) t task instr c.coord0 false o

/-- The part of an owed map that lies in one n-block. -/
def OwedS.nb (o : OwedS) (nb : Nat) : OwedS := { o with owed := o.owed.filter (fun e => e.1 == nb) }

/-- What a recompute piece does (R251): the chain at full precision for the owed blocks of its n-block, the region, and every `CMP`
that held sub-blocks of it, for those that nothing else is owed in. With the last owed block the region's place is free (R248). -/
def recompute (s : State) (t : Nat) (task : WinTask) (o : OwedS) : State :=
  let mine := o.nb task.owedNb
  let (s, instr) := recomputeNb t task o (s, 0) task.owedNb
  let x := tileS s t
  let o' : OwedS := { o with owed := o.owed.filter (fun e => e.1 != task.owedNb) }
  let s := setTile s t { x with owed := (x.owed.map (fun y => if y = o then o' else y)).filter (fun y => !y.drained || y.owed != []) }
  o.held.foldl (fun s w => cmpRest s t task instr w (owedIn (cmpIns w) mine)) s

end Sys2Proof.Machine
end

