-- ==== Sys2Proof/Machine/Stash.lean ====
section
/-! DEFINITION. The stash (11): `STASH` and `REFILL` (R270–R273). -/

namespace Sys2Proof.Machine

/-- The fields of a `STASH` or `REFILL` word (R270). -/
structure StashIns where
  kind : Nat
  layer : Nat
  seq : Nat
  addr : Nat
  bytes : Nat
  last : Nat

def stashIns (w : Word32B) : StashIns :=
  let v := w.toNat
  { kind := bitsOf 8 2 v, layer := bitsOf 16 8 v, seq := bitsOf 24 16 v, addr := bitsOf 64 23 v, bytes := bitsOf 96 32 v,
    last := bitsOf 128 32 v }

/-- The checks of R270. -/
def stashOk (w : Word32B) : Bool :=
  let x := stashIns w
  let z := fun (lo n : Nat) => bitsOf lo n w.toNat == 0
  x.kind != 3 && z 10 6 && z 40 24 && z 87 9 && z 160 96 &&
  (if insOp w = 0x50 then inSpad x.addr x.bytes else x.bytes == 0 && x.last == 0)

/-- The lines in use in an area. -/
def usedLines (s : State) (spilled : Bool) (t : Nat) : List Nat :=
  (s.stash.recs.filter (fun r => r.spilled == spilled && (spilled || r.tile == t))).flatMap (fun r => r.lines)

/-- Where a free run of `n` lines may begin in an area of `total`: at its start or right after lines in use. -/
def runStarts (total n : Nat) (used : List Nat) : List Nat :=
  ((0 :: used.map (· + 1)).eraseDups).filter (fun a =>
    decide (a + n ≤ total) && !used.any (fun u => decide (a ≤ u) && decide (u < a + n)))

/-- The first `n` free lines of an area of `total`, from line `a` on, `used` in rising order. -/
def freeLines (total : Nat) : Nat → Nat → List Nat → List Nat
  | n, a, [] => (List.range (min n (total - a))).map (a + ·)
  | n, a, u :: l =>
    let k := min n (u - a)
    (List.range k).map (a + ·) ++ freeLines total (n - k) (u + 1) l

/-- Lines of a run whose place the part chooses (log 48). -/
def chosenRun (s : State) (n : Nat) (starts : List Nat) : State × List Nat :=
  let (s, v) := drawFree s
  let a := starts.getD (v % starts.length) 0
  (s, (List.range n).map (a + ·))

/-- The scratchpad offset of a line of a tile's stash area: the lines of the whole banks of `TILE_STASH` (R146, R148; log 48). -/
def stashLine (s : State) (t line : Nat) : Nat :=
  let n := max 1 (fld s TILE_STASH_BANKS t)
  line / n * 4096 + (fld s TILE_STASH_BASE_BANK t + line % n) * 128

/-- A byte string in lines of 128. -/
def inLines (bs : List Byte) : List (List Byte) := (List.range ((bs.length + 127) / 128)).map (fun i => slice bs (128 * i) 128)

/-- A record's key matches. -/
def keyIs (task : WinTask) (x : StashIns) (r : StashRec) : Bool :=
  r.step == task.pass && r.mb == dMb task.desc && r.layer == x.layer && r.kind == x.kind && r.seq == x.seq

/-- A record joins the stash; one of the same key gives way (log 47). -/
def addRec (s : State) (task : WinTask) (x : StashIns) (t : Nat) (spilled : Bool) (lines : List Nat) : State :=
  let r : StashRec :=
    { step := task.pass, mb := dMb task.desc, layer := x.layer, kind := x.kind, seq := x.seq, last := x.last, tile := t,
      spilled := spilled, lines := lines, bytes := x.bytes }
  refreshStash { s with stash := { s.stash with recs := s.stash.recs.filter (fun y => !keyIs task x y) ++ [r] } }

/-- A record spilled to the `STASH` region (R65, R271, R273). -/
def spill (s : State) (t : Nat) (task : WinTask) (x : StashIns) (bs : List Byte) : State :=
  let key := mbKey task.pass (dMb task.desc)
  let held := kGetD s.stash.spilled key 0
  match region s 2 0 with
  | none => bwdFault s t 0x4880 task x.layer
  | some (base, size) =>
    let used := usedLines s true 0
    let n := (bs.length + 127) / 128
    let total := size / 128
    if stashBound s < held + bs.length then bwdFault s t 0x4880 task x.layer
    else
      let starts := runStarts total n used
      let (s, lines) := if starts = [] then (s, freeLines total n 0 (sortBy (fun a b => decide (a < b)) used))
        else chosenRun s n starts
      if lines.length < n then bwdFault s t 0x4880 task x.layer
      else
        let s := (lines.zip (inLines bs)).foldl (fun s e => dramWrite s (base + 128 * e.1) e.2 0) s
        if faulted s then s
        else
          let s := { s with stash := { s.stash with spilled := kSet s.stash.spilled key (held + bs.length) } }
          event (bump (addRec s task x t true lines) PANE_BWD_EVT_SPILLS) 0x4801

/-- The panels from `a` on gathered in transport form until `n` bytes stand, each from a 128-byte boundary of the record (R232; log 47);
the first panel that may not be read, with the reason, ends it (R229). -/
def gatherPanels (s : State) (n : Nat) : Nat → Nat → List Byte → List Byte × Option (Nat × Nat)
  | 0, _, bs => (bs.take n, none)
  | fuel + 1, a, bs =>
    if n ≤ bs.length then (bs.take n, none)
    else
      let m := loadNat s a 32
      match mapReason m (mapFmt m) with
      | some r => (bs, some (m, r))
      | none =>
        gatherPanels s n fuel (laidEnd m a) (bs ++ List.replicate (align128 bs.length - bs.length) 0 ++ gatherPanel s a)

/-- `STASH` (R271): the panels in transport form, into the tile's stash area where a free run exists, else spilled. -/
def stash (s : State) (t : Nat) (task : WinTask) (i : TileIns) : State :=
  if !stashOk i.word then instrInvalid s t task i.index
  else
    let x := stashIns i.word
    match gatherPanels s x.bytes (x.bytes / 32 + 1) (tileBase t + x.addr) [] with
    | (_, some (m, r)) => spxFault s t 0x4081 r (mapCount m) (mapCap m) task i.index
    | (bs, none) =>
      let n := (x.bytes + 127) / 128
      let starts := runStarts (fld s TILE_STASH_BANKS t * 2048) n (usedLines s false t)
      if starts = [] then spill s t task x bs
      else
        let (s, lines) := chosenRun s n starts
        addRec ((lines.zip (inLines bs)).foldl (fun s e => tstore s t (stashLine s t e.1) e.2) s) task x t false lines

def execStash (i : TileIns) (s : State) : Host.Outcome State Fault Refusal := runCmd (unitIns 0x50 stash i) s

/-- Where the lines of a record begin, as device addresses. -/
def recAddrs (s : State) (r : StashRec) : List Nat :=
  if r.spilled then r.lines.map (fun l => ((region s 2 0).map (fun g => g.1)).getD 0 + 128 * l)
  else r.lines.map (fun l => tileBase r.tile + stashLine s r.tile l)

/-- The panels of a record, at `b` of `src`, rebuilt one after another from `a` on, `n` bytes of them (R232; log 47): where a panel's
map may not be read, or its areas leave the scratchpad, nothing more is written. -/
inductive Rebuilt where
  | whole (s : State)
  | badMap (m reason : Nat)
  | past
  deriving DecidableEq, Repr

def rebuildPanels (src : State) (n top : Nat) : Nat → Nat → State → Nat → Rebuilt
  | 0, _, s, _ => .whole s
  | fuel + 1, b, s, a =>
    if n ≤ b then .whole s
    else
      let m := loadNat src b 32
      match mapReason m (mapFmt m) with
      | some r => .badMap m r
      | none =>
        if top < laidEnd m a then .past
        else rebuildPanels src n top fuel (align128 (b + transportBytes m)) (rebuildPanel src b s a) (laidEnd m a)

/-- `REFILL` (R271): the record, wherever it lies, rebuilt at `ADDR`. -/
def refill (s : State) (t : Nat) (task : WinTask) (i : TileIns) : State :=
  if !stashOk i.word then instrInvalid s t task i.index
  else
    let x := stashIns i.word
    match s.stash.recs.find? (keyIs task x) with
    | none => bwdFault s t 0x4882 task x.layer
    | some r =>
      let addrs := recAddrs s r
      let x1 := if r.spilled then readGranules s (addrs.flatMap (fun a => granules a 128)) 0 else (s, true)
      if x1.2 then
        let src := asMemory x1.1 ((addrs.flatMap (fun a => load x1.1 a 128)).take r.bytes)
        match rebuildPanels src r.bytes (tileBase t + spadBytes) (r.bytes / 32 + 1) 0 x1.1 (tileBase t + x.addr) with
        | .whole s => s
        | .badMap m reason => spxFault x1.1 t 0x4081 reason (mapCount m) (mapCap m) task i.index
        | .past => instrInvalid x1.1 t task i.index
      else x1.1

def execRefill (i : TileIns) (s : State) : Host.Outcome State Fault Refusal := runCmd (unitIns 0x51 refill i) s

end Sys2Proof.Machine
end

