-- ==== Sys2Proof/Machine/Reduce.lean ====
section
/-! DEFINITION. The segment reducer and the reverse walk (04): `AGGREGATE`, `FULL_AGGREGATE`, `REVERSE`, `OWN_SCATTER`, and
what the messages `ROWREQ`, `ROWS`, `PARTIAL`, `HANDDOWN` and `SCATTER` do at their destination. -/

namespace Sys2Proof.Machine

/-- A destination held in this part: its home part, sample index (local node index in `FULL_AGGREGATE`), holder stack, node. -/
structure Dest where
  hp : Nat
  i : Nat
  k : Nat
  node : Nat
  deriving DecidableEq, Repr

/-- A non-empty child of a destination: its ordinal among the edges (slot or edge order), sample index, node, edge value, the part
and stack that own its row, its local index, whether the row was handed down to the holder (R105), its score (R101). -/
structure Kid where
  ord : Nat
  c : Nat
  node : Nat
  value : BitVec 32
  part : Nat
  stack : Nat
  loc : Nat
  down : Bool := false
  score : BitVec 32 := 0
  deriving DecidableEq, Repr

/-! The sample tree as a request sees it. -/

/-- The depth of a sample (R86). -/
def depthOf (seeds plan c : Nat) : Option Nat :=
  (List.range (planHops plan + 1)).find? (fun h => decide (treeB seeds plan h ≤ c) && decide (c < treeB seeds plan h + treeN seeds plan h))

/-- The parent of a sample (R86). -/
def parentOf (seeds plan c : Nat) : Option Nat :=
  match depthOf seeds plan c with
  | some (h + 1) => some (treeB seeds plan h + (c - treeB seeds plan (h + 1)) / planFan plan (h + 1))
  | _ => none

/-- The children of a destination: the first one's sample index and how many slots (R86); none below the last hop. -/
def childrenOf (seeds plan i : Nat) : Nat × Nat :=
  match depthOf seeds plan i with
  | some h =>
    if h < planHops plan then
      (treeB seeds plan (h + 1) + (i - treeB seeds plan h) * planFan plan (h + 1), planFan plan (h + 1))
    else (0, 0)
  | none => (0, 0)

/-- A sample that a `SAMPLE` request of its micro-batch draws: one above the last hop of a micro-batch of the step (R94, R100). -/
def drawn (s : State) (req : Word32B) (step i : Nat) : Bool :=
  match takenOf s step with
  | none => false
  | some t =>
    let plan := planOf s (rqMb req)
    decide (rqMb req < t.mbCount) && decide (i < treeB t.perMb plan (planHops plan))

/-- The placement of a sample of this part: part and stack of its holder (R94). -/
def placeOf (s : State) (step mb i : Nat) : Option (Nat × Nat) :=
  (kGet? (graph s (mb % 8)).place (treeKey (partId s) step mb i)).map (fun b => (b % 16, b / 16 % 8))

/-- The sample indices of a request's range. -/
def rangeOf (req : Word32B) : List Nat := (List.range (rqCount req)).map (fun j => rqFirst req + j)

/-- Seeds per micro-batch of a step, S. -/
def seedsOf (s : State) (step : Nat) : Nat := ((takenOf s step).map (fun t => t.perMb)).getD 0

/-- The first local node of a `FULL_AGGREGATE` request (R99). -/
def fullFirst (req : Word32B) : Nat := rqFirst req + 2 ^ 24 * rqFirstHi req

/-- The node id of a local index at stack `k` of this part. -/
def nodeOf (s : State) (k loc : Nat) : Nat :=
  (((shards s).find? (fun e => e.2.2.1 == partId s && e.2.2.2 == k)).map (fun e => e.1)).getD 0 + loc

/-- The destinations of a request that this part holds: those of its own range, or the one that another home part asks for. -/
def heldDests (s : State) (k : Nat) (w : WaitAgg) : List Dest :=
  let mb := rqMb w.req
  let at_ := fun (hp i : Nat) => (holderOf s hp w.step mb i).map (fun e => (⟨hp, i, e.1, e.2⟩ : Dest))
  match w.origin with
  | some (p, _, _) => (at_ p (rqFirst w.req)).toList
  | none =>
    if rqOp w.req = 3 then (List.range (rqCount w.req)).map (fun j =>
      ⟨partId s, fullFirst w.req + j, k, nodeOf s k (fullFirst w.req + j)⟩)
    else (rangeOf w.req).filterMap (fun i => if drawn s w.req w.step i then at_ (partId s) i else none)

/-- The destinations of a request that other parts hold, with the part. -/
def awayDests (s : State) (w : WaitAgg) : List (Nat × Nat × Nat) :=
  if w.origin.isSome ∨ rqOp w.req = 3 then []
  else (rangeOf w.req).filterMap (fun i => match placeOf s w.step (rqMb w.req) i with
    | some (p, k) => if p = partId s then none else some (i, p, k)
    | none => none)

/-- Every destination that the request waits for has been drawn. -/
def allPlaced (s : State) (w : WaitAgg) : Bool :=
  match w.origin with
  | some (p, _, _) => (holderOf s p w.step (rqMb w.req) (rqFirst w.req)).isSome
  | none => rqOp w.req == 3 || (rangeOf w.req).all (fun i =>
      !drawn s w.req w.step i || (placeOf s w.step (rqMb w.req) i).isSome)

/-! Children. -/

/-- The journal entries of a destination in `SLOT` order (R95, R96). -/
def journalOf (s : State) (k key : Nat) : List Nat :=
  match kGet? (graph s k).jdir key with
  | none => []
  | some (a, n) => (List.range n).map (fun e => loadNat s (a + 16 * e) 16)

/-- The journal entries of a destination read by the walk of a reduction (R72, R73). -/
def journalRead (s : State) (k key : Nat) : State × List Nat :=
  match kGet? (graph s k).jdir key with
  | none => (s, [])
  | some (a, n) =>
    let r := dramRead s a (16 * n) 1
    (r.1, if r.2 then journalOf r.1 k key else [])

/-- The non-empty children of journal entries; `seeds` is S (R86, R95). -/
def kidsOf (s : State) (seeds : Nat) (l : List Nat) : List Kid :=
  (((List.range l.length).zip l).filter (fun e => !bitOf 74 e.2)).map (fun e =>
    let node := bitsOf 0 48 e.2
    let o := (owner s node).getD (0, 0, 0)
    { ord := e.1, c := bitsOf 48 24 e.2 + seeds, node := node, value := BitVec.ofNat 32 (bitsOf 80 32 e.2),
      part := o.1, stack := o.2.1, loc := o.2.2 })

/-- The stored edges of a local node as children (R101: stored edge order). -/
def fullKids (s : State) (d : Dest) : State × List Kid :=
  let (s, recd) := nodeRead s d.k d.i
  let start := bitsOf 0 40 recd
  let deg := bitsOf 40 32 recd
  if faulted s then (s, [])
  else if fld s GRE_GRAPH_EDGE_COUNT d.k < start + deg then (greFault s d.k 0x2085 0 0 d.node 0 (partId s), [])
  else
    (List.range deg).foldl (fun (acc : State × List Kid) e =>
      if faulted acc.1 then acc
      else
        let (s, r) := greRead acc.1 (edgeAddr acc.1 d.k (start + e)) 16
        match owner s (edgeNbr r) with
        | none => (greFault s d.k 0x2081 0 0 (edgeNbr r) 0 (partId s), acc.2)
        | some o =>
          let c : Kid :=
            { ord := e, c := edgeNbr r, node := edgeNbr r, value := BitVec.ofNat 32 (edgeValue r), part := o.1, stack := o.2.1,
              loc := o.2.2 }
          (s, acc.2 ++ [c])) (s, [])

/-- The input row of a sample is one handed down to its parent's holder: above the first layer, and for edge-softmax wherever one
has come (R101, R105; log 122). -/
def rowDown (s : State) (w : WaitAgg) (d : Dest) (c : Nat) : Bool :=
  rqOp w.req != 3 && (decide (2 ≤ rqLayer w.req) ||
    (rqMode w.req == 4 && sideHeld s d.k (sideKey 1 (rqLayer w.req) (treeKey d.hp w.step (rqMb w.req) c))))

/-- Children as a request takes them: a row that was handed down stands at the holder (R105). -/
def asTaken (s : State) (w : WaitAgg) (d : Dest) (l : List Kid) : List Kid :=
  l.map (fun c => if rowDown s w d c.c then { c with part := partId s, stack := d.k, down := true } else c)

/-- The children of a destination in `SLOT` or edge order. An empty sample has none (R90). -/
def kidsAt (s : State) (w : WaitAgg) (d : Dest) : State × List Kid :=
  if rqOp w.req = 3 then fullKids s d
  else if d.node = emptyNode then (s, [])
  else
    let r := journalRead s d.k (treeKey d.hp w.step (rqMb w.req) d.i)
    (r.1, asTaken r.1 w d (kidsOf r.1 (seedsOf r.1 w.step) r.2))

/-- The children of each destination that the request holds. -/
def destKids (s : State) (k : Nat) (w : WaitAgg) : State × List (Dest × List Kid) :=
  (heldDests s k w).foldl (fun (acc : State × List (Dest × List Kid)) d =>
    if faulted acc.1 then acc
    else
      let r := kidsAt acc.1 w d
      (r.1, acc.2 ++ [(d, r.2)])) (s, [])

/-- Children in the canonical order of R103: by owner ascending, in edge order within one. -/
def ownerOrder (l : List Kid) : List Kid :=
  sortBy (fun a b => decide (a.part * 8 + a.stack < b.part * 8 + b.stack)) l

/-- The owners in order. -/
def ownersOf (l : List Kid) : List (Nat × Nat) := (l.map (fun c => (c.part, c.stack))).eraseDups

/-- Children in canonical order cut as they are reduced: segments (R107), and in each the rows of one owner (R103). -/
def groupsOf (ks : List Kid) (segs : List Nat) : List (List (List Kid)) :=
  segs.map (fun r =>
    let seg := ofSegment r ks
    (ownersOf seg).map (fun o => seg.filter (fun c => c.part == o.1 && c.stack == o.2)))

/-- The segment records of a destination (R106): its sample or local node, and where its first slot or edge stands. -/
def destSegments (s : State) (w : WaitAgg) (d : Dest) (n : Nat) : List Nat :=
  let seeds := seedsOf s w.step
  let c0 := (childrenOf seeds (planOf s (rqMb w.req)) d.i).1 - seeds
  segmentsOf d.i 0 n (fun e => if rqOp w.req = 3 then e % 2 ^ 32 else (c0 + e) % 2 ^ 24)

/-! Partials (R103). -/

/-- A partial (R103): the row, n, the max route, and m and s of the running softmax. -/
structure Part where
  row : List (BitVec 32)
  n : Nat := 0
  route : List Nat := []
  m : BitVec 32 := 0
  z : BitVec 32 := 0
  deriving DecidableEq, Repr

/-- A number as FP32 (exact for the counts that occur). -/
def f32OfNat (n : Nat) : BitVec 32 := (roundRes fpFP32 true .rne false n 0).w

/-- A row times a factor. -/
def scaleVals (strict : Bool) (x : BitVec 32) (l : List (BitVec 32)) : List (BitVec 32) :=
  l.map (fun v => (f32mul strict x v).w)

/-- The larger of two FP32 words. -/
def f32max (strict : Bool) (a b : BitVec 32) : BitVec 32 := (maxNum fpFP32 strict false (f32 strict a) (f32 strict b)).w

/-- `x * exp(a - m)` of R103; its accuracy is open (log 4). -/
def expFactor (strict : Bool) (a m : BitVec 32) : BitVec 32 := Config.baseDieExp (f32add strict a (m ^^^ 0x80000000#32)).w

/-- LeakyReLU (R101). -/
def leaky (strict : Bool) (slope x : BitVec 32) : BitVec 32 := if x.msb then (f32mul strict slope x).w else x

/-- The running maximum changes from `x` to `w` (R102): to another number, or to or from NaN. -/
def maxChanged (strict : Bool) (x w : BitVec 32) : Bool :=
  let a := f32 strict x
  let b := f32 strict w
  if isNan a || isNan b then isNan a != isNan b else cmpNum b a == .gt

/-- Two partials combined (R103). -/
def combine (strict : Bool) (mode : Nat) (a b : Part) : Part :=
  if b.n = 0 then a
  else if a.n = 0 then b
  else match mode with
  | 2 =>
    let pick := List.zipWith (fun (x : BitVec 32 × Nat) (y : BitVec 32 × Nat) =>
      let w := f32max strict x.1 y.1
      (w, if maxChanged strict x.1 w then y.2 else x.2)) (a.row.zip a.route) (b.row.zip b.route)
    { row := pick.map (fun e => e.1), route := pick.map (fun e => e.2), n := a.n + b.n }
  | 4 =>
    let m := f32max strict a.m b.m
    let fa := expFactor strict a.m m
    let fb := expFactor strict b.m m
    { row := addVals strict (scaleVals strict fa a.row) (scaleVals strict fb b.row), n := a.n + b.n, m := m,
      z := (f32add strict (f32mul strict a.z fa).w (f32mul strict b.z fb).w).w }
  | _ => { row := addVals strict a.row b.row, n := a.n + b.n }

/-- The partial of one row: `ord` its ordinal, `value` its edge value, `e` its score. -/
def single (strict : Bool) (mode ord : Nat) (value e : BitVec 32) (row : List (BitVec 32)) : Part :=
  match mode with
  | 2 => { row := row, n := 1, route := row.map (fun _ => ord) }
  | 3 => { row := scaleVals strict value row, n := 1 }
  | 4 => { row := row, n := 1, m := e, z := 0x3F800000#32 }
  | _ => { row := row, n := 1 }

/-- Partials combined in the order given, from a zero row. -/
def reduceRun (strict : Bool) (mode : Nat) (l : List Part) : Part := l.foldl (combine strict mode) { row := [] }

/-- The output row of a reduction (R101); `blank` stands where the spec states none (a maximum over no child). -/
def outRow (strict : Bool) (mode width : Nat) (blank : List (BitVec 32)) (p : Part) : List (BitVec 32) :=
  if p.n = 0 then (if mode = 2 then blank else zeroVals width)
  else match mode with
  | 1 => p.row.map (fun x => (f32div strict x (f32OfNat p.n)).w)
  | 4 => p.row.map (fun x => (f32div strict x p.z).w)
  | _ => p.row

/-- A row brought to a width. -/
def fitRow (w : Nat) (l : List (BitVec 32)) : List (BitVec 32) := l.take w ++ zeroVals (w - l.length)

/-- Free words. -/
def drawWords : Nat → State → State × List (BitVec 32)
  | 0, s => (s, [])
  | n + 1, s =>
    let (s, v) := drawFree s
    let (s, l) := drawWords n s
    (s, BitVec.ofNat 32 v :: l)

/-- The words of a side array, free where it holds none: the spec states none there (log 122). -/
def sideOr (s : State) (k key n : Nat) : State × List (BitVec 32) :=
  match sideRead s k key with
  | (s, some l) => (s, fitRow n l)
  | (s, none) => drawWords n s

/-! Tiles on the wire (R14, R103–R105). -/

/-- Rows as numbers. -/
def numRows (s : State) (l : List (List (BitVec 32))) : List (List Num) := l.map (fun r => r.map (f32 (strictMode s)))

/-- Rows as tiles of FP32 in transport form, filled out to a 128-byte boundary (R103, R104). -/
def wireTiles (s : State) (rows : List (List (BitVec 32))) : List Byte :=
  let t := tilesOf (strictMode s) 10 (numRows s rows)
  t ++ List.replicate (align128 t.length - t.length) 0

/-- The rows of tiles received. -/
def wireRows (s : State) (bs : List Byte) (rows width : Nat) : List (List (BitVec 32)) :=
  (readTiles (asMemory s bs) 0 rows width).map (fun r => r.map (numW (strictMode s)))

/-- What follows tiles received. -/
def afterTiles (s : State) (bs : List Byte) (rows width : Nat) : List Byte := bs.drop (tilesBytes (asMemory s bs) 0 rows width)

/-- The 32-bit words of bytes. -/
def wordsAt (bs : List Byte) (off n : Nat) : List (BitVec 32) := (List.range n).map (fun j => BitVec.ofNat 32 (leAt bs (off + 4 * j) 4))

/-- An answer longer than a message goes as several; `ARG` says how many bytes are still to come (log 38). -/
def sendLong (s : State) (part op tag : Nat) (bs : List Byte) : State :=
  let cs := chunks 7904 (bs.length / 7904 + 1) bs
  ((List.range cs.length).zip cs).foldl (fun s c =>
    sbnSend s (jobMsg s part op 1 0 (bs.length - (c.1 * 7904 + c.2.length)) c.2 0xFFFF tag)) s

/-- A partial as it travels (R103): its row as a tile, then n, m, s and the route (log 38). -/
def partBytes (s : State) (w : Nat) (p : Part) : List Byte :=
  wireTiles s [fitRow w p.row] ++ leBytes 4 p.n ++ leBytes 4 p.m.toNat ++ leBytes 4 p.z.toNat ++ p.route.flatMap (leBytes 4)

/-- The partial that bytes spell. -/
def partOf (s : State) (mode w : Nat) (bs : List Byte) : Part :=
  let rest := afterTiles s bs 1 w
  let n := leAt rest 0 4
  { row := if n = 0 then [] else (wireRows s bs 1 w).headD [], n := n, m := BitVec.ofNat 32 (leAt rest 4 4),
    z := BitVec.ofNat 32 (leAt rest 8 4),
    route := if mode = 2 ∧ n ≠ 0 then (List.range w).map (fun j => leAt rest (12 + 4 * j) 4) else [] }

/-! Input rows and scores. -/

/-- The row of a table at a stack of this part (R121). -/
def tableRow (s : State) (w : WaitAgg) (stack loc part : Nat) : State × List (BitVec 32) :=
  let r := gatherRow s stack (rqTable w.req) loc (rqMb w.req) part w.step
  (r.1, fitRow (rqWidth w.req) r.2)

/-- The input row of a child at this part (R101): handed down, or a row of the table. -/
def kidRow (s : State) (w : WaitAgg) (d : Dest) (c : Kid) : State × List (BitVec 32) :=
  if c.down then sideOr s d.k (sideKey 1 (rqLayer w.req) (treeKey d.hp w.step (rqMb w.req) c.c)) (rqWidth w.req)
  else tableRow s w c.stack c.loc (partId s)

/-- The input row of a destination itself (R104). -/
def ownRow (s : State) (w : WaitAgg) (d : Dest) : State × List (BitVec 32) :=
  if rowDown s w d d.i then sideOr s d.k (sideKey 1 (rqLayer w.req) (treeKey d.hp w.step (rqMb w.req) d.i)) (rqWidth w.req)
  else match owner s d.node with
    | some o => tableRow s w o.2.1 o.2.2 (partId s)
    | none => (greFault s d.k 0x2081 (rqMb w.req) 0 d.node 0 d.hp, [])

/-- The two score terms of a sample in a layer, source and destination (R105). -/
def termOf (s : State) (w : WaitAgg) (d : Dest) (c : Nat) : State × BitVec 32 × BitVec 32 :=
  let r := if rqOp w.req = 3 then drawWords 2 s
    else sideOr s d.k (sideKey 0 (rqLayer w.req) (treeKey d.hp w.step (rqMb w.req) c)) 2
  (r.1, r.2.getD 0 0, r.2.getD 1 0)

/-- The sums t_dst + t_src of a destination's children. -/
def termSums (s : State) (w : WaitAgg) (d : Dest) (kids : List Kid) : State × List (BitVec 32) :=
  let (s, _, tdst) := termOf s w d d.i
  kids.foldl (fun (acc : State × List (BitVec 32)) c =>
    let (s, tsrc, _) := termOf acc.1 w d c.c
    (s, acc.2 ++ [(f32add (strictMode s) tdst tsrc).w])) (s, [])

/-- The scores e_c of a destination's children (R101); none but in an edge-softmax. -/
def scoresOf (s : State) (w : WaitAgg) (d : Dest) (kids : List Kid) : State × List (BitVec 32) :=
  if rqMode w.req = 4 then
    let r := termSums s w d kids
    (r.1, r.2.map (leaky (strictMode s) (rqParam w.req)))
  else (s, [])

/-- Children with the scores that the request keeps. -/
def withScores (kids : List Kid) (l : List (BitVec 32)) : List Kid :=
  ((List.range kids.length).zip kids).map (fun e => { e.2 with score := l.getD e.1 0 })

/-! Questions to other parts (R93, R103, R122, R333; their layout: log 38). -/

/-- A tag for a question. -/
def newTag (s : State) : State × Nat :=
  ({ s with sbn := { s.sbn with nextTag := (s.sbn.nextTag + 1) % 65536 } }, s.sbn.nextTag)

/-- The header of a `ROWREQ` (R333). -/
def rowreqHeader (step table mb n : Nat) : List Byte :=
  leBytes 8 step ++ leBytes 1 table ++ leBytes 1 mb ++ leBytes 2 n ++ leBytes 4 0

/-- Rows of nodes asked of their owner, at most 986 in a message (R333). -/
def askRows (s : State) (w : WaitAgg) (d : Dest) (o : Nat × Nat) (nodes : List Nat) : State × List Asked :=
  (chunks 986 (nodes.length / 986 + 1) nodes).foldl (fun (acc : State × List Asked) l =>
    let (s, tag) := newTag acc.1
    let m := jobMsg s o.1 0x06 0 o.2 0 (rowreqHeader w.step (rqTable w.req) (rqMb w.req) l.length ++ l.flatMap (leBytes 8)) 0xFFFF tag
    (sbnSend s m, acc.2 ++ [{ part := o.1, tag := tag, kind := 0, dest := d.i, nodes := l }])) (s, [])

/-- The factor of a row in its partial: the edge's value, or the score. -/
def factorOf (mode : Nat) (c : Kid) : BitVec 32 := if mode = 4 then c.score else c.value

/-- The partial of one owner's rows asked of it: 654 rows in a message, `ARG` bit 4 where more follow. -/
def askPartial (s : State) (w : WaitAgg) (d : Dest) (group : Nat) (l : List Kid) : State × List Asked :=
  let (s, tag) := newTag s
  let o := ((l.head?.map (fun c => (c.part, c.stack)))).getD (0, 0)
  let cs := chunks 654 (l.length / 654 + 1) l
  let s := ((List.range cs.length).zip cs).foldl (fun s c =>
    sbnSend s (jobMsg s o.1 0x06 0 o.2 (1 + 16 * b2n (c.1 + 1 != cs.length))
      (rowreqHeader w.step (rqTable w.req) (rqMb w.req) c.2.length ++ c.2.flatMap (fun x => leBytes 8 x.node) ++
        leBytes 32 w.req.toNat ++ c.2.flatMap (fun x => leBytes 4 (factorOf (rqMode w.req) x).toNat)) 0xFFFF tag)) s
  (s, [{ part := o.1, tag := tag, kind := 1, dest := d.i, group := group }])

/-- A request's word for one destination. -/
def oneDest (req : Word32B) (i : Nat) : Word32B :=
  BitVec.ofNat 256 (req.toNat - rqFirst req * 2 ^ 64 - rqCount req * 2 ^ 88 + i * 2 ^ 64 + 2 ^ 88)

/-- The work on one destination asked of its holder (R82, R93), with the gradient that comes to it as a tile. -/
def askDest (s : State) (w : WaitAgg) (i part stack : Nat) (g : List (BitVec 32)) : State × Asked :=
  let (s, tag) := newTag s
  let bs := if g = [] then [] else wireTiles s [g]
  let cs := if bs = [] then [[]] else chunks 7848 (bs.length / 7848 + 1) bs
  let s := ((List.range cs.length).zip cs).foldl (fun s c =>
    sbnSend s (jobMsg s part 0x06 0 stack (2 + 16 * b2n (c.1 + 1 != cs.length))
      (rowreqHeader w.step (rqTable w.req) (rqMb w.req) 1 ++ leBytes 8 i ++ leBytes 32 (oneDest w.req i).toNat ++ c.2) 0xFFFF tag)) s
  (s, { part := part, tag := tag, kind := 2, dest := i })

/-- The answer to a question that has come. -/
def answerTo (s : State) (k : Nat) (a : Asked) : List Byte := kGetD (graph s k).got a.tag []

/-- Every question has its answer. -/
def answered (s : State) (k : Nat) (asked : List Asked) : Bool := asked.all (fun a => (kGet? (graph s k).got a.tag).isSome)

/-- The answers to a request are dropped when it completes. -/
def dropGot (s : State) (k : Nat) (asked : List Asked) : State :=
  setGraph s k { graph s k with got := (graph s k).got.filter (fun e => !asked.any (fun a => a.tag == e.1)) }

/-- `MAP_INVALID` of a request of stack `k` that reads a panel at a device address (R229); a tile records it where the panel lies in its
scratchpad. -/
def requestMapFault (s : State) (k : Nat) (req : Word32B) (a reason : Nat) : State :=
  let m := loadNat s a 32
  match (site s (96 + k)).run with
  | some t => if inTiles a then
      spxFault s (tileOfAddr a) 0x4081 reason (mapCount m) (mapCap m) t ((taskItems s t).idxOf req)
    else fault s 0x4081
  | none => fault s 0x4081

/-- The gradient rows that a request's tiles hold (R109), in the order of its range; a panel with an invalid map is not read (R229). -/
def operandRows (s : State) (k : Nat) (w : WaitAgg) : State × List (List (BitVec 32)) :=
  let a := rqAddr w.req
  let (s, ok) := if a < dramTop then dramRead s a (tilesBytes s a (rqCount w.req) (rqWidth w.req)) 1 else (s, true)
  if ok then
    match badPanel s a (rqCount w.req) (rqWidth w.req) with
    | some (b, r) => (requestMapFault s k w.req b r, [])
    | none => (s, (readTiles s a (rqCount w.req) (rqWidth w.req)).map (fun r => r.map (numW (strictMode s))))
  else (s, [])

/-- A row handed down is not needed of another part, a table row that this part holds neither. -/
def farRows (s : State) (kids : List Kid) : List Kid := kids.filter (fun c => !c.down && c.part != partId s)

/-- The questions for one destination held here: the partials of other parts' rows for a reduction, the rows themselves for the
scores' gradients (R103, R108). -/
def askFor (s : State) (w : WaitAgg) (d : Dest) (kids : List Kid) : State × List Asked :=
  match rqOp w.req with
  | 5 => (s, [])
  | 4 =>
    if rqMode w.req = 4 then
      (ownersOf (ownerOrder (farRows s kids))).foldl (fun (acc : State × List Asked) o =>
        let nodes := ((farRows acc.1 kids).filter (fun c => (c.part, c.stack) == o)).map (fun c => c.node)
        let r := askRows acc.1 w d o nodes
        (r.1, acc.2 ++ r.2)) (s, [])
    else (s, [])
  | _ =>
    let gs := (groupsOf (ownerOrder kids) (destSegments s w d kids.length)).flatMap (fun x => x)
    ((List.range gs.length).zip gs).foldl (fun (acc : State × List Asked) e =>
      if farRows acc.1 e.2 = [] then acc
      else
        let r := askPartial acc.1 w d e.1 e.2
        (r.1, acc.2 ++ r.2)) (s, [])

/-- A request begins once its destinations are placed: the scores of its edge-softmax are formed and its questions go out. -/
def begin_ (s : State) (k : Nat) (w : WaitAgg) : State × WaitAgg :=
  let (s, l) := destKids s k w
  let (s, gs) := if w.origin = none ∧ rqOp w.req = 4 then operandRows s k w else (s, [])
  if faulted s then (s, w)
  else
    let (s, scores, asked) := l.foldl (fun (acc : State × List (List (BitVec 32)) × List Asked) e =>
      let (s, sc) := if rqOp w.req ≤ 3 then scoresOf acc.1 w e.1 e.2 else (acc.1, [])
      let (s, as) := askFor s w e.1 (withScores e.2 sc)
      (s, acc.2.1 ++ [sc], acc.2.2 ++ as)) (s, [], [])
    let (s, away) := (awayDests s w).foldl (fun (acc : State × List Asked) e =>
      let r := askDest acc.1 w e.1 e.2.1 e.2.2 (if rqOp w.req = 4 then gs.getD (e.1 - rqFirst w.req) [] else [])
      (r.1, acc.2 ++ [r.2])) (s, [])
    (s, { w with begun := true, scores := scores, asked := asked ++ away })

/-! Reduction. -/

/-- One group of a destination's children reduced by its owner in canonical order (R103): here, or by the part that was asked. The
ordinals of a maximum count on from `at_`. -/
def groupPart (s : State) (k : Nat) (w : WaitAgg) (d : Dest) (group at_ : Nat) (l : List Kid) : State × Part :=
  let mode := rqMode w.req
  if farRows s l = [] then
    let (s, parts) := ((List.range l.length).zip l).foldl (fun (acc : State × List Part) e =>
      if faulted acc.1 then acc
      else
        let (s, row) := kidRow acc.1 w d e.2
        (s, acc.2 ++ [single (strictMode s) mode (at_ + e.1) e.2.value e.2.score row])) (s, [])
    (s, reduceRun (strictMode s) mode parts)
  else
    match w.asked.find? (fun a => a.kind == 1 && a.dest == d.i && a.group == group) with
    | none => (s, { row := [] })
    | some a =>
      let p := partOf s mode (rqWidth w.req) (answerTo s k a)
      (s, { p with route := p.route.map (fun o => o + at_) })

/-- A segment's partial: those of its owners combined in their order (R103, R107); `next` counts groups and contributions. -/
def segmentPart (s : State) (k : Nat) (w : WaitAgg) (d : Dest) (next : Nat × Nat) (gs : List (List Kid)) :
    State × Part × Nat × Nat :=
  let r := gs.foldl (fun (acc : State × List Part × Nat × Nat) l =>
    if faulted acc.1 then acc
    else
      let (s, p) := groupPart acc.1 k w d acc.2.2.1 acc.2.2.2 l
      (s, acc.2.1 ++ [p], acc.2.2.1 + 1, acc.2.2.2 + l.length)) (s, [], next)
  (r.1, reduceRun (strictMode s) (rqMode w.req) r.2.1, r.2.2)

/-- A destination's partials combined, segment after segment (R107). -/
def destPart (s : State) (k : Nat) (w : WaitAgg) (d : Dest) (gs : List (List (List Kid))) : State × Part :=
  let r := gs.foldl (fun (acc : State × List Part × Nat × Nat) seg =>
    if faulted acc.1 then acc
    else
      let (s, p, n) := segmentPart acc.1 k w d acc.2.2 seg
      (s, acc.2.1 ++ [p], n)) (s, [], 0, 0)
  (r.1, reduceRun (strictMode s) (rqMode w.req) r.2.1)

/-- The key of a destination's weights (`kind` 2) or route (3) in its layer (R101). -/
def stateKey (w : WaitAgg) (d : Dest) (kind : Nat) : Nat :=
  if rqOp w.req = 3 then sideKey (kind + 2) (rqLayer w.req) (nodeKey w.step d.i)
  else sideKey kind (rqLayer w.req) (treeKey d.hp w.step (rqMb w.req) d.i)

/-- What the reverse walk needs of a reduction is written to the side arrays (R96, R101): the route of a maximum, the weights of an
edge-softmax in edge order. -/
def keepState (s : State) (w : WaitAgg) (d : Dest) (kids : List Kid) (p : Part) : State :=
  if p.n = 0 then s
  else match rqMode w.req with
  | 2 => sideWrite s d.k w.step (stateKey w d 3) (p.route.map (BitVec.ofNat 32))
  | 4 => sideWrite s d.k w.step (stateKey w d 2) (kids.map (fun c =>
      (f32div (strictMode s) (expFactor (strictMode s) c.score p.m) p.z).w))
  | _ => s

/-- One destination reduced (R101–R104): its aggregated row and its own input row. The rows of an empty sample are zero (R90). -/
def reduceDest (s : State) (k : Nat) (w : WaitAgg) (d : Dest) (kids : List Kid) : State × List (BitVec 32) × List (BitVec 32) :=
  let width := rqWidth w.req
  if d.node = emptyNode then (s, zeroVals width, zeroVals width)
  else
    let segs := destSegments s w d kids.length
    let s := setGraph s d.k { graph s d.k with segs := segs }
    let (s, own) := ownRow s w d
    let (s, p) := if faulted s then (s, { row := [] }) else destPart s k w d (groupsOf (ownerOrder kids) segs)
    if faulted s then (s, [], [])
    else
      let (s, blank) := if rqMode w.req = 2 ∧ p.n = 0 then drawWords width s else (s, [])
      let row := outRow (strictMode s) (rqMode w.req) width blank p
      let s := keepState s w d kids p
      let s := setGraph s d.k { graph s d.k with ivOf := (graph s d.k).ivOf || row.any nfW || p.row.any nfW }
      let hub := b2n (decide (1 < segs.length))
      (event (bump s GRE_EVT_HUB hub d.k) 0x2001 hub, row, own)

/-- Bytes written by an engine (R66): outside the address map or into `RETAINED` the job faults. -/
def engineWrite (s : State) (a : Nat) (bs : List Byte) : State :=
  if bs = [] then s
  else if a + bs.length ≤ dramTop then
    if inRetained a bs.length then fault s 0x5083 else dramWrite s a bs 1
  else if memExists a && memExists (a + bs.length - 1) then store s a bs
  else fault s 0x5083

/-- The element format of `OUT_FMT` (R99). -/
def outFmt (req : Word32B) : Nat := if rqOutFmt req = 0 then 10 else if rqOutFmt req = 1 then 8 else 3

/-- Rows laid out as panels in a scratchpad, as the receiving unit rebuilds them (R232): panel after panel, while each fits. -/
def layTiles (s : State) (fmt a : Nat) (rows : List (List Num)) : State × Nat :=
  (panelsOf rows).foldl (fun (acc : State × Nat) p =>
    let o := compressPanel (plainConv fmt (strictMode s)) 0 p
    let e := laidEnd (o.map 64) acc.2
    if faulted acc.1 then acc
    else if memExists acc.2 && memExists (e - 1) then (layPanel acc.1 acc.2 o 64, e)
    else (fault acc.1 0x5083, e)) (s, a)

/-- Blocks of rows written one after the other as tiles, each from the next 128-byte boundary (R104; log 30), in a scratchpad as the
panels' areas (R230, R232). -/
def writeBlocks (s : State) (a : Nat) : List (Nat × List (List (BitVec 32))) → State
  | [] => s
  | (fmt, rows) :: l =>
    if faulted s then s
    else if inTiles a then
      let r := layTiles s fmt a (numRows s rows)
      writeBlocks r.1 (align128 r.2) l
    else
      let t := tilesOf (strictMode s) fmt (numRows s rows)
      writeBlocks (engineWrite s a t) (align128 (a + t.length)) l

/-- The rows of a destination that the spec gives none: one that its step's tree does not hold (log 122). -/
def noRows (s : State) (n width : Nat) : State × List (List (BitVec 32)) :=
  (List.range n).foldl (fun (acc : State × List (List (BitVec 32))) _ =>
    let r := drawWords width acc.1
    (r.1, acc.2 ++ [r.2])) (s, [])

/-- The aggregated and the own row of each destination held here, by home sample. -/
def heldRows (s : State) (k : Nat) (w : WaitAgg) : State × List (Nat × List (BitVec 32) × List (BitVec 32)) :=
  let (s, l) := destKids s k w
  ((List.range l.length).zip l).foldl (fun (acc : State × List (Nat × List (BitVec 32) × List (BitVec 32))) e =>
    if faulted acc.1 then acc
    else
      let r := reduceDest acc.1 k w e.2.1 (withScores e.2.2 (w.scores.getD e.1 []))
      (r.1, acc.2 ++ [(e.2.1.i, r.2.1, r.2.2)])) (s, [])

/-- `AGGREGATE` and `FULL_AGGREGATE` with every answer here (R101–R104): the rows of the range written in order, or the one
destination's rows sent to its home part. -/
def reduceAll (s : State) (k : Nat) (w : WaitAgg) : State :=
  let width := rqWidth w.req
  let (s, outs) := heldRows s k w
  if faulted s then s
  else match w.origin with
  | some (p, tag, _) =>
    let o := (outs.head?).getD (0, zeroVals width, zeroVals width)
    sendLong s p 0x08 tag (wireTiles s [o.2.1, o.2.2])
  | none =>
    let range := if rqOp w.req = 3 then (List.range (rqCount w.req)).map (fun j => fullFirst w.req + j) else rangeOf w.req
    let (s, rows) := range.foldl (fun (acc : State × List (List (BitVec 32) × List (BitVec 32))) i =>
      match outs.find? (fun o => o.1 == i) with
      | some o => (acc.1, acc.2 ++ [o.2])
      | none =>
        match w.asked.find? (fun a => a.kind == 2 && a.dest == i) with
        | some a =>
          let l := wireRows acc.1 (answerTo acc.1 k a) 2 width
          (acc.1, acc.2 ++ [(l.getD 0 [], l.getD 1 [])])
        | none =>
          let r := noRows acc.1 2 width
          (r.1, acc.2 ++ [(r.2.getD 0 [], r.2.getD 1 [])])) (s, [])
    let s := writeBlocks s (rqAddr w.req) [(outFmt w.req, rows.map (fun r => r.1)), (outFmt w.req, rows.map (fun r => r.2))]
    dropGot s k w.asked

/-! The reverse walk (R108, R109). -/

/-- Sums over a pairwise tree (R108): neighbours are added, an odd last element is carried up; where the width is no power of two the
spec does not give the shape (DESIGN CHOICE, log 123). -/
def treeDot (strict : Bool) : Nat → List (BitVec 32) → BitVec 32
  | 0, l => l.headD 0
  | n + 1, l =>
    if l.length ≤ 1 then l.headD 0
    else
      let pairs := (List.range ((l.length + 1) / 2)).map (fun i =>
        if 2 * i + 1 < l.length then (f32add strict (l.getD (2 * i) 0) (l.getD (2 * i + 1) 0)).w else l.getD (2 * i) 0)
      treeDot strict n pairs

/-- g · h over a fixed pairwise tree (R108). -/
def dotOf (strict : Bool) (g h : List (BitVec 32)) : BitVec 32 :=
  treeDot strict 12 (List.zipWith (fun a b => (f32mul strict a b).w) g h)

/-- A destination's part of the reverse walk, slot by slot (R108): the children's gradients, their nodes (none where a slot is empty)
and score gradients, and the destination's own. -/
structure Walk where
  rows : List (List (BitVec 32))
  nodes : List (Option Nat)
  dz : List (BitVec 32)
  dst : BitVec 32
  deriving DecidableEq, Repr

/-- The input rows of a destination's children for their scores' gradients. -/
def scoreRows (s : State) (k : Nat) (w : WaitAgg) (d : Dest) (kids : List Kid) : State × List (List (BitVec 32)) :=
  kids.foldl (fun (acc : State × List (List (BitVec 32))) c =>
    if faulted acc.1 then acc
    else
      match w.asked.find? (fun a => a.kind == 0 && a.dest == d.i && a.nodes.contains c.node && !c.down) with
      | some a =>
        let width := tdWidth (tdesc acc.1 d.k (rqTable w.req))
        let rows := wireRows acc.1 (answerTo acc.1 k a) a.nodes.length width
        (acc.1, acc.2 ++ [fitRow (rqWidth w.req) (rows.getD ((a.nodes.takeWhile (fun n => n != c.node)).length) [])])
      | none =>
        let r := kidRow acc.1 w d c
        (r.1, acc.2 ++ [r.2])) (s, [])

/-- The child gradients of one destination (R108) from its incoming gradient `g`, by non-empty child in `SLOT` order: gradient
and score gradient. -/
def childGrads (s : State) (k : Nat) (w : WaitAgg) (d : Dest) (kids : List Kid) (g : List (BitVec 32)) :
    State × List (List (BitVec 32) × BitVec 32) :=
  let strict := strictMode s
  let n := kids.length
  match rqMode w.req with
  | 1 => (s, kids.map (fun _ => (g.map (fun x => (f32div strict x (f32OfNat n)).w), 0#32)))
  | 2 =>
    let (s, route) := if kids = [] then (s, []) else sideOr s d.k (stateKey w d 3) g.length
    let ks := ownerOrder kids
    (s, kids.map (fun c =>
      let rank := (ks.takeWhile (fun x => x.c != c.c)).length
      (((List.range g.length).zip g).map (fun x => if (route.getD x.1 0).toNat = rank then x.2 else 0), 0#32)))
  | 3 => (s, kids.map (fun c => (scaleVals strict c.value g, 0#32)))
  | 4 =>
    let (s, alpha) := if kids = [] then (s, []) else sideOr s d.k (stateKey w d 2) n
    let (s, sums) := termSums s w d kids
    let (s, rows) := scoreRows s k w d kids
    let dots := rows.map (dotOf strict g)
    let mean := (alpha.zip dots).foldl (fun a e => (f32add strict a (f32mul strict e.1 e.2).w).w) 0#32
    (s, (List.range n).map (fun j =>
      let a := alpha.getD j 0
      let de := (f32mul strict a (f32add strict (dots.getD j 0) (mean ^^^ 0x80000000#32)).w).w
      let dz := if cmpNum (f32 strict (sums.getD j 0)) (.fin false 0 0) = .gt then de else (f32mul strict (rqParam w.req) de).w
      (scaleVals strict a g, dz)))
  | _ => (s, kids.map (fun _ => (g, 0#32)))

/-- One destination walked (R98, R108). -/
def walkDest (s : State) (k : Nat) (w : WaitAgg) (d : Dest) (g : List (BitVec 32)) : State × Walk :=
  let width := rqWidth w.req
  let f := (childrenOf (seedsOf s w.step) (planOf s (rqMb w.req)) d.i).2
  let none_ : Walk := ⟨List.replicate f (zeroVals width), List.replicate f none, List.replicate f 0, 0⟩
  if d.node = emptyNode then (s, none_)
  else
    let (s, es) := journalRead s d.k (treeKey d.hp w.step (rqMb w.req) d.i)
    let stale := fun (e : Nat) => bitsOf 112 8 e != w.step % 256 || bitsOf 120 8 e != rqMb w.req % 256
    match es.find? stale with
    | some e => (greFault s d.k 0x2083 (rqMb w.req) (bitsOf 72 2 e) (bitsOf 0 48 e) (bitsOf 48 24 e) d.hp, none_)
    | none =>
      let kids := asTaken s w d (kidsOf s (seedsOf s w.step) es)
      let (s, grads) := childGrads s k w d kids g
      let strict := strictMode s
      let dst := grads.foldl (fun a e => (f32add strict a e.2).w) 0#32
      let bad := grads.any (fun e => e.1.any nfW || nfW e.2)
      let s := setGraph s d.k { graph s d.k with ivOf := (graph s d.k).ivOf || bad }
      let at_ := fun (j : Nat) => (kids.zip grads).find? (fun e => e.1.ord == j)
      (s, { rows := (List.range f).map (fun j => ((at_ j).map (fun e => e.2.1)).getD (zeroVals width)),
            nodes := (List.range f).map (fun j => (at_ j).map (fun e => e.1.node)),
            dz := (List.range f).map (fun j => ((at_ j).map (fun e => e.2.2)).getD 0), dst := dst })

/-- A walk as it travels to the home part (R109; log 38). -/
def walkBytes (s : State) (x : Walk) : List Byte :=
  wireTiles s x.rows ++ wireTiles s (x.dz.map (fun z => [z])) ++ leBytes 4 x.dst.toNat ++
  x.nodes.flatMap (fun n => leBytes 8 (n.getD emptyNode))

/-- The walk of a destination with `f` slots that bytes spell. -/
def walkOf (s : State) (f width : Nat) (bs : List Byte) : Walk :=
  let l1 := afterTiles s bs f width
  let l2 := afterTiles s l1 f 1
  { rows := wireRows s bs f width, dz := (wireRows s l1 f 1).map (fun r => r.headD 0), dst := BitVec.ofNat 32 (leAt l2 0 4),
    nodes := (List.range f).map (fun j =>
      let n := leAt l2 (4 + 8 * j) 8
      if n = emptyNode then none else some n) }

/-- A contribution's header (R109). -/
def contribHeader (c : Contrib) : List Byte :=
  leBytes 16 (c.row + c.table * 2 ^ 34 + c.kind * 2 ^ 40 + c.sample * 2 ^ 41 + c.homePart * 2 ^ 64 + c.mb * 2 ^ 68 +
    (c.layer - 1) * 2 ^ 76 + b2n c.marker * 2 ^ 78 + c.vals.length * 2 ^ 80 + c.srcStack * 2 ^ 96 + c.srcPart * 2 ^ 99)

/-- A contribution to the owning stack, here or on another part. -/
def sendContrib (s : State) (part stack : Nat) (c : Contrib) : State :=
  if part = partId s then stageContrib s stack c
  else sbnSend s (jobMsg s part 0x0A 3 stack 0 (contribHeader c ++ wordBytes c.vals))

/-- A layer scatters (R110). -/
def scatters (s : State) (layer : Nat) : Bool := decide (1 ≤ layer) && decide (layer ≤ 4) && bitOf layer s.job.scatterLayers

/-- The columns that belong to the embedding table: the last ones, as many as the table is wide (log 39). -/
def tableCols (s : State) (k t : Nat) (l : List (BitVec 32)) : List (BitVec 32) :=
  let w := tdWidth (tdesc s k t)
  if tdValid (tdesc s k t) ∧ w ≤ l.length then l.drop (l.length - w) else l

/-- A gradient of a sample of this part becomes a contribution to its node's row (R109): `kind` 1 an edge's, 0 an own row's. The home
part sends it, from the stack of the request (log 40). -/
def contribute (s : State) (k : Nat) (w : WaitAgg) (kind sample node : Nat) (g : List (BitVec 32)) : State :=
  match owner s node with
  | none => s
  | some (p, k', loc) =>
    sendContrib s p k'
      { row := loc, table := rqTable w.req, kind := kind, sample := sample, homePart := partId s, mb := rqMb w.req,
        layer := rqLayer w.req, marker := false, srcStack := k, srcPart := partId s, vals := tableCols s k (rqTable w.req) g }

/-- The walks of a request's destinations held here. -/
def heldWalks (s : State) (k : Nat) (w : WaitAgg) (gs : List (List (BitVec 32))) : State × List (Nat × Walk) :=
  (heldDests s k w).foldl (fun (acc : State × List (Nat × Walk)) d =>
    if faulted acc.1 then acc
    else
      let r := walkDest acc.1 k w d (gs.getD (d.i - rqFirst w.req) [])
      (r.1, acc.2 ++ [(d.i, r.2)])) (s, [])

/-- `REVERSE` with every answer here (R108, R109): the children's gradients after the operand tiles, in sample order, then the score
gradients of the children and of the destinations; a layer that scatters sends the edges' contributions. For another home part
the destination's walk is sent there. -/
def reverseAll (s : State) (k : Nat) (w : WaitAgg) : State :=
  let width := rqWidth w.req
  match w.origin with
  | some (p, tag, g) =>
    let (s, l) := heldWalks s k w [g]
    if faulted s then s else match l with
      | [] => s
      | x :: _ => sendLong s p 0x08 tag (walkBytes s x.2)
  | none =>
    let (s, gs) := operandRows s k w
    let (s, l) := if faulted s then (s, []) else heldWalks s k w gs
    if faulted s then s
    else
      let seeds := seedsOf s w.step
      let plan := planOf s (rqMb w.req)
      let walks := (rangeOf w.req).map (fun i =>
        let f := (childrenOf seeds plan i).2
        match l.find? (fun x => x.1 == i) with
        | some x => (i, x.2)
        | none => match w.asked.find? (fun a => a.kind == 2 && a.dest == i) with
          | some a => (i, walkOf s f width (answerTo s k a))
          | none => (i, (⟨[], [], [], 0⟩ : Walk)))
      let s := if scatters s (rqLayer w.req) then
          foldLive (fun s (x : Nat × Walk) =>
            foldLive (fun s (e : Nat × Option Nat × List (BitVec 32)) => match e.2.1 with
              | none => s
              | some n => contribute s k w 1 ((childrenOf seeds plan x.1).1 + e.1) n e.2.2)
              s ((List.range x.2.nodes.length).zip (x.2.nodes.zip x.2.rows))) s walks
        else s
      if faulted s then s
      else
        let a := align128 (rqAddr w.req + tilesBytes s (rqAddr w.req) (rqCount w.req) width)
        let scores := [(10, (walks.flatMap (fun x => x.2.dz)).map (fun z => [z])), (10, walks.map (fun x => [x.2.dst]))]
        let s := writeBlocks s a ((outFmt w.req, walks.flatMap (fun x => x.2.rows)) ::
          (if rqMode w.req = 4 then scores else []))
        dropGot s k w.asked

/-- `OWN_SCATTER` with every answer here (R109): the own-row gradients of a request's destinations become contributions; a
destination held elsewhere has its node told by its holder. -/
def ownScatterAll (s : State) (k : Nat) (w : WaitAgg) : State :=
  match w.origin with
  | some (p, tag, _) => sendLong s p 0x08 tag (leBytes 8 (((heldDests s k w).head?.map (fun d => d.node)).getD emptyNode))
  | none =>
    let (s, gs) := operandRows s k w
    if faulted s then s
    else
      let held := (heldDests s k w).map (fun d => (d.i, d.node))
      let away := (w.asked.filter (fun a => a.kind == 2)).map (fun a => (a.dest, leAt (answerTo s k a) 0 8))
      let s := foldLive (fun s (i : Nat) =>
        match (held ++ away).find? (fun e => e.1 == i && e.2 != emptyNode) with
        | none => s
        | some e => contribute s k w 0 i e.2 (gs.getD (i - rqFirst w.req) [])) s (rangeOf w.req)
      dropGot s k w.asked

/-- The round-end markers of this part for a round (R110): from each of its stacks to each stack of the group. -/
def sendMarkers (s : State) (mb layer : Nat) : State :=
  (groupOf s).foldl (fun s p => (List.range 8).foldl (fun s dk => (List.range 8).foldl (fun s sk =>
    let c : Contrib :=
      { row := 0, table := 0, kind := 0, sample := 0, homePart := partId s, mb := mb, layer := layer, marker := true,
        srcStack := sk, srcPart := partId s, vals := [] }
    sendContrib s p dk c) s) s) s

/-- This part has no contribution of a round left to send (R110): its `SCATTER` tasks have retired, and no walk or own-row request
of the round waits. -/
def roundSent (s : State) (mb layer : Nat) : Bool :=
  !tasksLeft s s.step.current (fun d => dClass d == 2 && dMb d == mb && dLayer d == layer) &&
  !s.graphs.any (fun e => e.2.wait.any (fun w => w.origin.isNone && decide (4 ≤ rqOp w.req) && w.step == s.step.current &&
    rqMb w.req == mb && rqLayer w.req == layer))

/-- The markers of every round of the step that has ended here and has not sent them, in the order of the rounds (R110). -/
def roundEnds (s : State) : State :=
  if !s.step.open_ then s
  else foldLive (fun s (r : Nat × Nat) =>
    if s.step.ended.contains r ∨ roundSent s r.1 r.2 = false then s
    else sendMarkers { s with step := { s.step with ended := r :: s.step.ended } } r.1 r.2) s (roundsOf s (stepMbs s))

/-! Requests. -/

/-- A gather of table `t` for step `step` is held (R122, R137): this part's commit of the step before has not completed, for
an embedding table, or a flip of the table for this step or an earlier one is pending. -/
def gatherHeld (s : State) (k t step : Nat) : Bool :=
  (tdValid (tdesc s k t) && tdOpt (tdesc s k t) != 0 &&
    decide (2 ^ 63 ≤ (s.step.committedStep + 2 ^ 64 + 1 - step) % 2 ^ 64)) ||
  (decide (fld s EMB_FLIP_PENDING k = 1) && bitOf t (fld s EMB_FLIP_TABLES k) &&
    decide ((step + 2 ^ 64 - fld s EMB_FLIP_STEP k) % 2 ^ 64 < 2 ^ 63))

/-- The stacks of this part whose table rows a request gathers: of its destinations and of their children (R82). -/
def gatherStacks (s : State) (k : Nat) (w : WaitAgg) : List Nat :=
  if rqOp w.req = 5 ∨ (rqOp w.req = 4 ∧ rqMode w.req ≠ 4) then []
  else ((heldDests s k w).flatMap (fun d =>
    (if rowDown s w d d.i then [] else [d.k]) ++ (((kidsAt s w d).2.filter (fun c => !c.down && c.part == partId s)).map
      (fun c => c.stack)))).eraseDups

/-- The stack at which a request's gathers are held (R122). -/
def heldAt (s : State) (k : Nat) (w : WaitAgg) : Option Nat :=
  (gatherStacks s k w).find? (fun j => gatherHeld s j (rqTable w.req) w.step)

/-- A request may be served now: every answer here and no gather held. -/
def mayServe (s : State) (k : Nat) (w : WaitAgg) : Bool := w.begun && answered s k w.asked && (heldAt s k w).isNone

/-- A request served (R101, R108, R109). -/
def serve (s : State) (k : Nat) (w : WaitAgg) : State :=
  match rqOp w.req with
  | 4 => reverseAll s k w
  | 5 => ownScatterAll s k w
  | _ => reduceAll s k w

/-- A request put aside until draws, answers, a commit or a flip let it go on. -/
def setAside (s : State) (k : Nat) (w : WaitAgg) : State :=
  setGraph s k { graph s k with wait := (graph s k).wait ++ [w] }

/-- A request goes as far as it can: it begins, and it is served or put aside; `tell` raises its token. -/
def advance (s : State) (k : Nat) (w : WaitAgg) (tell : State → State) : State :=
  let (s, w) := if !w.begun && allPlaced s w then begin_ s k w else (s, w)
  if faulted s then s
  else if mayServe s k w then
    let s := serve s k w
    if faulted s ∨ w.origin.isSome = true then s else tell s
  else setAside s k w

/-- Requests put aside, tried again; one served raises its token at once (R43). -/
def serveAside (s : State) : State :=
  let s := (List.range 8).foldl (fun s k =>
    let l := (graph s k).wait
    if l = [] then s
    else
      let s := setGraph s k { graph s k with wait := [] }
      foldLive (fun s (w : WaitAgg) =>
        advance s k w (fun s => if rqRaises w.req = 0xFFFF then s else raiseToken s (rqRaises w.req))) s l) s
  if faulted s then s else roundEnds (refreshBusy s)

/-- Whether a request passes its checks (R99, R100). -/
def requestOk (s : State) (op : Nat) (req : Word32B) : Bool := rqOp req == op && rqOk s req

/-- An engine request other than `SAMPLE`, issued by the task that runs at the engine's site. -/
def engineRequest (op k : Nat) (req : Word32B) (s : State) : State :=
  match engineTask s k with
  | none => s
  | some t =>
    if !requestOk s op req then greFault s k 0x2084 (rqMb req) (rqHop req - 1) 0 0 (partId s)
    else refreshBusy (advance s k { req := req, step := t.pass, begun := false } (fun s => lagToken s (96 + k) (rqRaises req)))

def execAggregate (stack : Fin 8) (req : Word32B) (s : State) : Host.Outcome State Fault Refusal :=
  runCmd (engineRequest 2 stack.val req) s

def execFullAggregate (stack : Fin 8) (req : Word32B) (s : State) : Host.Outcome State Fault Refusal :=
  runCmd (engineRequest 3 stack.val req) s

def execReverse (stack : Fin 8) (req : Word32B) (s : State) : Host.Outcome State Fault Refusal :=
  runCmd (engineRequest 4 stack.val req) s

def execOwnScatter (stack : Fin 8) (req : Word32B) (s : State) : Host.Outcome State Fault Refusal :=
  runCmd (engineRequest 5 stack.val req) s

/-! Messages at their destination. -/

/-- A question for rows served (R121, R122, R333): the rows gathered at the owning stack, as FP32 tiles. -/
def rowsFor (s : State) (m : SbnMsg) (nodes : List Nat) : State × List (List (BitVec 32)) :=
  nodes.foldl (fun (acc : State × List (List (BitVec 32))) node =>
    if faulted acc.1 then acc
    else
      let mb := leAt m.data 9 1
      match owner acc.1 node with
      | none => (greFault acc.1 (m.addr % 8) 0x2081 mb 0 node 0 m.src.val, acc.2)
      | some (_, k', row) =>
        let r := gatherRow acc.1 k' (leAt m.data 8 1 % 64) row mb m.src.val (leAt m.data 0 8)
        (r.1, acc.2 ++ [r.2])) (s, [])

/-- The rows that a `ROWREQ` names. -/
def askedNodes (m : SbnMsg) : List Nat := (List.range (leAt m.data 10 2)).map (fun j => leAt m.data (16 + 8 * j) 6)

/-- The rows asked for are sent back (R333). -/
def serveRows (s : State) (m : SbnMsg) : State :=
  let (s, rows) := rowsFor s m (askedNodes m)
  if faulted s ∨ rows = [] then s else sendLong s m.src.val 0x07 m.tag (wireTiles s rows)

/-- What arrives for a question in pieces: by the part that asks and its tag. -/
def askKey (m : SbnMsg) : Nat := (m.src.val + 1) * 2 ^ 16 + m.tag
def moreComes (m : SbnMsg) : Bool := bitOf 4 m.arg

/-- A partial asked for: its rows are collected, with 12 bytes each, until the last has come, reduced in their order, sent back
(R93, R103). -/
def servePartial (s : State) (m : SbnMsg) : State :=
  let k := m.addr % 8
  let n := leAt m.data 10 2
  let req := BitVec.ofNat 256 (leAt m.data (16 + 8 * n) 32)
  let mine := (List.range n).flatMap (fun j => slice m.data (16 + 8 * j) 8 ++ slice m.data (48 + 8 * n + 4 * j) 4)
  let bs := kGetD (graph s k).rowsIn (askKey m) [] ++ mine
  if moreComes m then setGraph s k { graph s k with rowsIn := kSet (graph s k).rowsIn (askKey m) bs }
  else
    let s := setGraph s k { graph s k with rowsIn := kErase (graph s k).rowsIn (askKey m) }
    let at_ := List.range (bs.length / 12)
    let (s, rows) := rowsFor s m (at_.map (fun j => leAt bs (12 * j) 6))
    if faulted s then s
    else
      let f := fun (j : Nat) => BitVec.ofNat 32 (leAt bs (12 * j + 8) 4)
      let p := reduceRun (strictMode s) (rqMode req) ((at_.zip rows).map (fun e =>
        single (strictMode s) (rqMode req) e.1 (f e.1) (f e.1) (fitRow (rqWidth req) e.2)))
      let s := setGraph s k { graph s k with ivOf := (graph s k).ivOf || p.row.any nfW }
      sendLong s m.src.val 0x08 m.tag (partBytes s (rqWidth req) p)

/-- The work on a destination asked for by its home part (R82, R93): once its gradient has come whole, it begins here. -/
def serveDestWork (s : State) (m : SbnMsg) : State :=
  let k := m.addr % 8
  let req := BitVec.ofNat 256 (leAt m.data 24 32)
  let bs := kGetD (graph s k).rowsIn (askKey m) [] ++ m.data.drop 56
  if moreComes m then setGraph s k { graph s k with rowsIn := kSet (graph s k).rowsIn (askKey m) bs }
  else
    let s := setGraph s k { graph s k with rowsIn := kErase (graph s k).rowsIn (askKey m) }
    let g := if bs = [] then [] else (wireRows s bs 1 (rqWidth req)).headD []
    advance s k { req := req, step := leAt m.data 0 8, begun := false, origin := some (m.src.val, m.tag, g) } (fun s => s)

/-- A question for rows or a partial is held (R122). -/
def rowreqHeld (s : State) (m : SbnMsg) : Bool :=
  m.arg % 16 != 2 && gatherHeld s (m.addr % 8) (leAt m.data 8 1 % 64) (leAt m.data 0 8)

/-- `ROWREQ` at the stack it names: served, or held (R122). -/
def deliverRowreq (m : SbnMsg) (s : State) : State :=
  let k := m.addr % 8
  let s := if rowreqHeld s m then setGraph s k { graph s k with heldReqs := (graph s k).heldReqs ++ [m] }
    else match m.arg % 16 with
      | 1 => servePartial s m
      | 2 => serveDestWork s m
      | _ => serveRows s m
  refreshBusy s

/-- Held requests tried again: after a commit, a flip, or an intake. -/
def serveHeld (s : State) : State :=
  let s := (List.range 8).foldl (fun s k =>
    let l := (graph s k).heldReqs
    if l = [] then s
    else
      let s := setGraph s k { graph s k with heldReqs := [] }
      foldLive (fun s m => if m.op = 4 then deliverDraw m s else deliverRowreq m s) s l) s
  if faulted s then s else serveAside s

/-- Each pane in which a request is held counts, at the stack that holds it (R122). -/
def countHeld (s : State) : State :=
  (List.range 8).foldl (fun s k =>
    let asked := ((graph s k).heldReqs.filter (fun m => m.op == 6)).length
    let own := sumOf (s.graphs.map (fun e => (e.2.wait.filter (fun w => w.begun && heldAt s e.1 w == some k)).length))
    event (bump s EMB_EVT_REMOTE_HOLD (asked + own) k) 0x2807 (asked + own)) s

/-- An answer to a question, once its last message has come; the request that waits goes on (R43). -/
def deliverAnswer (m : SbnMsg) (s : State) : State :=
  match (List.range 8).find? (fun k => (graph s k).wait.any (fun w => w.asked.any (fun a => a.tag == m.tag && a.part == m.src.val))) with
  | none => s
  | some k =>
    let g := graph s k
    let bs := kGetD g.rowsIn m.tag [] ++ m.data
    if m.arg ≠ 0 then setGraph s k { g with rowsIn := kSet g.rowsIn m.tag bs }
    else serveAside (setGraph (endAwait s 0x06 m.src.val m.tag) k { g with rowsIn := kErase g.rowsIn m.tag, got := kSet g.got m.tag bs })

/-- `ROWS` at the requester, `PARTIAL` at the holder's reducer or at the home part (R103, R333). -/
def deliverRows (m : SbnMsg) (s : State) : State := deliverAnswer m s
def deliverPartial (m : SbnMsg) (s : State) : State := deliverAnswer m s

/-- The step of a parity among those taken in. -/
def stepOfParity (s : State) (p : Nat) : Option TakenStep := s.step.taken.find? (fun t => t.step % 2 == p)

/-- A sample's terms and row kept beside a holder's journal (R96, R105). -/
def keepDown (s : State) (k hp step mb layer c : Nat) (terms row : List (BitVec 32)) : State :=
  let key := treeKey hp step mb c
  let s := sideWrite s k step (sideKey 0 layer key) terms
  if faulted s then s else sideWrite s k step (sideKey 1 layer key) row

/-- What `ADDR` of a `HANDDOWN` holds beside its stack: samples, their width in steps of 16 and the bytes still to come (log 38). -/
def hdStack (a : Nat) : Nat := a % 8
def hdCount (a : Nat) : Nat := bitsOf 3 16 a
def hdWidth (a : Nat) : Nat := 16 * bitsOf 19 7 a
def hdLeft (a : Nat) : Nat := bitsOf 26 22 a

/-- Rows and terms of one holder's samples sent on to it (R105), in as many messages as they take. -/
def sendDown (s : State) (part stack tag arg width : Nat) (bs : List Byte) : State :=
  let cs := chunks 7904 (bs.length / 7904 + 1) bs
  ((List.range cs.length).zip cs).foldl (fun s c =>
    let left := bs.length - (c.1 * 7904 + c.2.length)
    sbnSend s (jobMsg s part 0x09 3 (stack + 8 + width / 16 * 2 ^ 19 + left * 2 ^ 26) arg c.2 0xFFFF tag)) s

/-- A sample's row and terms as the home stack forwards them (R105): to the holder of its parent and to its own. -/
def forwardDown (s : State) (t : TakenStep) (mb layer c tag : Nat) (terms row : List (BitVec 32)) : State :=
  let hp := partId s
  let idx := (parentOf t.perMb (planOf s mb) c).toList ++ [c]
  let holders := (idx.filterMap (placeOf s t.step mb)).eraseDups
  foldLive (fun s (b : Nat × Nat) =>
    if b.1 = hp then keepDown s b.2 hp t.step mb layer c terms row
    else sendDown s b.1 b.2 tag (c + layer * 2 ^ 24) row.length (wireTiles s [row] ++ wireTiles s [terms])) s holders

/-- `HANDDOWN` (R14, R105): tiles of layer input rows and of score terms for consecutive samples. From the tiles, at the home stack, they
are forwarded to the holders; from another part they are kept by the stack they name (log 38). -/
def deliverHanddown (m : SbnMsg) (s : State) : State :=
  let mb := m.tag % 256
  let k := hdStack m.addr
  let n := hdCount m.addr
  let w := hdWidth m.addr
  let layer := m.arg / 2 ^ 24
  let key := 2 ^ 40 + askKey m
  let bs := kGetD (graph s k).rowsIn key [] ++ m.data
  if hdLeft m.addr ≠ 0 then setGraph s k { graph s k with rowsIn := kSet (graph s k).rowsIn key bs }
  else
    let s := setGraph s k { graph s k with rowsIn := kErase (graph s k).rowsIn key }
    let rows := wireRows s bs n w
    let terms := wireRows s (afterTiles s bs n w) n 2
    match stepOfParity s (m.tag / 256 % 2) with
    | none => s
    | some t =>
      foldLive (fun s (e : Nat × List (BitVec 32) × List (BitVec 32)) =>
        let c := m.arg % 2 ^ 24 + e.1
        if m.src.val = partId s then forwardDown s t mb layer c m.tag e.2.2 e.2.1
        else keepDown s k m.src.val t.step mb layer c e.2.2 e.2.1) s ((List.range n).zip (rows.zip terms))

/-- The contributions and markers of a payload (R109, R110). -/
def parseContribs : Nat → List Byte → List Contrib
  | 0, _ => []
  | n + 1, bs =>
    if bs.length < 16 then []
    else
      let h := leAt bs 0 16
      let w := if bitOf 78 h then 0 else bitsOf 80 16 h
      let c : Contrib :=
        { row := bitsOf 0 34 h, table := bitsOf 34 6 h, kind := bitsOf 40 1 h, sample := bitsOf 41 23 h,
          homePart := bitsOf 64 4 h, mb := bitsOf 68 8 h, layer := bitsOf 76 2 h + 1, marker := bitOf 78 h,
          srcStack := bitsOf 96 3 h, srcPart := bitsOf 99 4 h, vals := wordsAt bs 16 w }
      c :: parseContribs n (bs.drop (16 + 4 * w))

/-- `SCATTER` at the owning stack: staged (R110–R112). -/
def deliverScatter (m : SbnMsg) (s : State) : State :=
  foldLive (fun s c => stageContrib s (m.addr % 8) c) s (parseContribs (m.data.length / 16) m.data)

end Sys2Proof.Machine
end

