-- ==== Sys2Proof/Machine/Steps.lean ====
section
/-! DEFINITION. Steps (01): the mullion as a command, the intake of seeds and the latch of a step; the step journal record of
12. -/

namespace Sys2Proof.Machine

/-- `MULLION` (R28) with what the base dies count at it (R122). -/
def mullionAll (s : State) : State := if power s < 2 then s else countHeld (mullion s)

def execMullion (s : State) : Host.Outcome State Fault Refusal := runCmd mullionAll s

/-! Intake (R18, R19, R81, R83, R87). -/

/-- `SLOT_INVALID` with the first failing check (R19). -/
def slotFault (s : State) (n check : Nat) : State :=
  let s := firstRecord s PANE_SLOT_FAULT_VALID 0 0 (fun s =>
    setFld (setFld (setFld s PANE_SLOT_FAULT_SLOT (n % 2)) PANE_SLOT_FAULT_CHECK check) PANE_SLOT_FAULT_STEP n)
  fault s 0x1082 (some PANE_SLOT_FAULT.base)

/-- The first check of R19 that a slot fails. -/
def slotCheck (s : State) (mbs per : Nat) : Option Nat :=
  if mbs = 0 ∨ 256 < mbs then some 0
  else if per = 0 ∨ 65536 < per then some 1
  else if s.job.slotSize < 0x40 + mbs * per * 8 then some 2
  else none

/-- The lowest micro-batch whose sample tree is too large (R87). -/
def overLimit (s : State) (mbs per : Nat) : Option Nat :=
  (List.range mbs).find? (fun mb =>
    let plan := planOf s mb
    let h := planHops plan
    decide (2 ^ 23 < treeB per plan h + treeN per plan h))

/-- The first seed that is unknown or owned by another part (R81, R83): its position, node and code. -/
def badSeed (s : State) (seeds : List Nat) : Option (Nat × Nat × Nat) :=
  ((List.range seeds.length).zip seeds).findSome? (fun e =>
    match owner s e.2 with
    | none => some (e.1, e.2, 0x2081)
    | some o => if o.1 = partId s then none else some (e.1, e.2, 0x2080))

/-- The parity of a sample key. -/
def keyParity (key : Nat) : Nat := key / 2 ^ 32 % 2

/-- A stack's records of one step parity forgotten: the next step of the parity uses their area (R96, R97). -/
def clearParity (p : Nat) (g : GraphS) : GraphS :=
  { g with
    nodes := g.nodes.filter (fun e => keyParity e.1 != p), jdir := g.jdir.filter (fun e => keyParity e.1 != p),
    jNext := kErase g.jNext p, place := g.place.filter (fun e => keyParity e.1 != p),
    byDraw := g.byDraw.filter (fun e => keyParity e != p), side := g.side.filter (fun e => keyParity e.1 != p) }

/-- `EVENT` tokens that satisfy `q` count from 0 again (R39). -/
def zeroEvents (s : State) (q : TokenS → Bool) : State :=
  { s with sched := { s.sched with tokens := s.sched.tokens.map (fun (e : Nat × TokenS) =>
    if e.2.kind = 1 ∧ q e.2 = true then (e.1, { e.2 with count := 0 }) else e) } }

/-- The tokens of a step's parity (R39). -/
def ofParity (step : Nat) (t : TokenS) : Bool := t.parity == step % 2

/-- A seed in its owner's queue: the sample with its own index (R83, R86). -/
def placeSeed (step mb per : Nat) (s : State) (e : Nat × Nat) : State :=
  match owner s e.2 with
  | none => s
  | some o =>
    let g := graph s o.2.1
    setGraph s o.2.1 { g with nodes := kSet g.nodes (treeKey (partId s) step (mb + e.1 / per) (e.1 % per)) e.2 }

/-- The slot at `a` checked and taken in as step `n` (R18, R19, R81, R87): the slot's fields, then the seeds, read by the base dies
(R79). -/
def takeSlot (a n : Nat) (s : State) : State :=
  let mbs := loadNat s (a + 8) 2
  let per := loadNat s (a + 12) 4
  match slotCheck s mbs per with
  | some c => slotFault s n c
  | none =>
    let r := dramRead s (a + 0x40) (mbs * per * 8) 1
    let s := r.1
    if !r.2 then s
    else
      let seeds := (List.range (mbs * per)).map (fun i => loadNat s (a + 0x40 + 8 * i) 6)
      let s := match overLimit s mbs per with
        | none => s
        | some mb => greFault s (mb % 8) 0x2082 mb 0 0 0 (partId s)
      match badSeed s seeds with
      | some (i, node, code) => greFault s (i / per % 8) code (i / per) 0 node (i % per) (partId s)
      | none =>
        if faulted s then s
        else
          let s := { s with
            graphs := s.graphs.map (fun (e : Nat × GraphS) => (e.1, clearParity (n % 2) e.2)),
            step := { s.step with
              taken := s.step.taken.filter (fun t => t.step % 2 != n % 2) ++ [⟨n, mbs, per, seeds⟩], takenStep := n } }
          let s := ((List.range seeds.length).zip seeds).foldl (placeSeed n 0 per) s
          let s := zeroEvents s (ofParity n)
          serveHeld (writeIndexStatus s 0x10 n)

/-- `SEED_INTAKE` (R18): where the conditions hold at this mullion, once the slot's fields can be read (R73). -/
def seedIntake (s : State) : State :=
  match intakeDue s with
  | none => s
  | some a =>
    let r := dramRead s a 0x40 1
    if r.2 then takeSlot a (nextStep s.step.takenStep) r.1 else r.1

def execSeedIntake (s : State) : Host.Outcome State Fault Refusal := runCmd seedIntake s

/-! The step journal record (R292). -/

/-- The base of stack 0's `UNDO` region and P. -/
def undoBase (s : State) : Nat := ((region s 5 0).map (fun r => r.1)).getD 0
def recordPitch (s : State) : Nat := 4096 + (s.job.slotSize - 0x40 + 4095) / 4096 * 4096

/-- Where the record of a step begins; `none` without the region. -/
def recordAt (s : State) (step : Nat) : Option Nat :=
  (region s 5 0).map (fun r => r.1 + step % 2 * recordPitch s)

/-- The live version of a table at the lowest-numbered stack that has it (R292). -/
def liveVersion (s : State) (t : Nat) : Nat :=
  (((List.range 8).find? (fun k => tdValid (tdesc s k t))).map (fun k => tdVersion (tdesc s k t))).getD 0

/-- A format choice of a layer as the record holds it: T and format. -/
def gfcHalf (s : State) (l : Nat) : Nat := fld s PANE_GFC_T 0 l + 256 * fld s PANE_GFC_FMT 0 l

/-- `RUNS` of a record: 1 and the re-runs. -/
def runsByte (s : State) : Nat := 1 + s.commit.reruns

/-- The 4 KiB of a record. -/
def recordBytes (s : State) (t : TakenStep) (version outcome digest : Nat) (flags : Nat) : List Byte :=
  leBytes 8 t.step ++ leBytes 4 version ++ leBytes 2 t.mbCount ++ leBytes 1 outcome ++ leBytes 1 (runsByte s) ++
  leBytes 4 t.perMb ++ leBytes 1 (fld s PANE_COMMIT_LAMBDA_LAMBDA) ++ leBytes 1 flags ++ leBytes 10 0 ++
  leBytes 8 digest ++ leBytes 24 0 ++ (List.range 64).flatMap (fun t => leBytes 2 (liveVersion s t)) ++
  (List.range 64).flatMap (fun l => leBytes 2 (gfcHalf s l)) ++ leBytes (4096 - 0x140) 0

/-- A memory-side write into stack 0's `UNDO` region (R64). -/
def undoWrite (s : State) (k a : Nat) (bs : List Byte) : State :=
  if pastRegion s 5 k a bs.length then regionBound s 5 k else dramWrite s a bs 1

/-- The record of the step filled at its latch, with its seed copy. -/
def latchRecord (s : State) (t : TakenStep) : State :=
  match recordAt s t.step with
  | none => s
  | some a =>
    let s := undoWrite s 0 a (recordBytes s t (fld s PANE_SASH_VERSION) 0 0 0)
    if faulted s then s else undoWrite s 0 (a + 4096) (t.seeds.flatMap (leBytes 8))

/-! The latch (R18). -/

/-- The step can latch now (R18, R290). -/
def latchReady (s : State) : Bool :=
  running s && !s.job.wicket && decide (s.step.takenStep ≠ s.step.latchedStep) && !s.step.open_ &&
  decide (s.step.halt = 0) && !stopsAtEnd s

/-- The policies as they hold at the latch (R23, R49, R283). -/
def latchPolicies (s : State) : LatchedPol :=
  { cfg := regNat s PANE_COMMIT_CFG, lamMin := fld s PANE_COMMIT_LAMBDA_LAMBDA_MIN,
    lamMax := fld s PANE_COMMIT_LAMBDA_LAMBDA_MAX, raiseEvery := fld s PANE_COMMIT_RAISE_RAISE_EVERY,
    gfcCfg := regNat s PANE_GFC_CFG, gfcThr := regNat s PANE_GFC_THR,
    horizons := (List.range 16).map (fun c => fld s PANE_HORIZON_HORIZON 0 c),
    predOff := (List.range 96).filter (fun t => fld s SPX_CFG_PRED_EN t == 0) }

/-- Word 7 of a descriptor replaced (R125). -/
def setThresholds (d w : Nat) : Nat := d % 2 ^ 448 + w % 2 ^ 32 * 2 ^ 448

/-- Changes held at a stack until the latch (R115, R135, R142). -/
def latchStack (s : State) (k : Nat) : State :=
  let e := emb s k
  let s := e.optPending.foldl (fun s x => setReg s EMB_OPT x.2 k x.1) s
  let s := e.thrPending.foldl (fun s x => setReg s EMB_TDESC (setThresholds (tdesc s k x.1) x.2) k x.1) s
  let s := match e.sharePending with | none => s | some v => setFld s GRE_CFG_REMOTE_SHARE v k
  let s := match e.cfgPending with | none => s | some v => setFld (setFld s EMB_CFG_PF_WAYS (v % 16) k) EMB_CFG_DECAY (v / 16) k
  setEmb s k { emb s k with optPending := [], thrPending := [], sharePending := none, cfgPending := none }

/-- `RNG_CHECK` (R309): a slice whose evaluation differs. -/
def rngCheck (s : State) (site core : Nat) : State :=
  if site < 96 then
    let s := firstRecord s RNG_FAULT_VALID site 0 (fun s =>
      setFld (setFld (setFld s RNG_FAULT_SITE site site) RNG_FAULT_CORE core site) RNG_FAULT_PANE (pane s) site)
    fault (setFld s RNG_STATUS_SELFTEST_OK 0 site) 0x3083 (some (RNG_FAULT.at site 0))
  else
    let k := site - 96
    let s := firstRecord s BRNG_FAULT_VALID k 0 (fun s =>
      setFld (setFld (setFld s BRNG_FAULT_SITE site k) BRNG_FAULT_CORE core k) BRNG_FAULT_PANE (pane s) k)
    fault (setFld s BRNG_STATUS_SELFTEST_OK 0 k) 0x3083 (some (BRNG_FAULT.at k 0))

/-- The micro-batches of a step tagged with V (R277). -/
def tagStep (s : State) (step mbs : Nat) : State :=
  let v := fld s PANE_SASH_VERSION
  refreshSash { s with step := { s.step with
    tags := s.step.tags.filter (fun t => t.1 != step) ++ (List.range mbs).map (fun mb => (step, mb, v % 2)) } }

/-- The format that a rung or a wide layer uses (R257, R269). -/
def rungFmt (rung : Nat) : Nat := if rung = 0 then 2 else if rung = 1 then 3 else if rung = 2 then 4 else 8

/-- The controller's choices, as (layer, (rung, age, T)), take effect (R269). -/
def applyChoices (s : State) : State :=
  let s := s.commit.nextGfc.foldl (fun s e =>
    setFld (setFld (setFld (setFld s PANE_GFC_RUNG e.2.1 0 e.1) PANE_GFC_FMT (rungFmt e.2.1) 0 e.1)
      PANE_GFC_AGE e.2.2.1 0 e.1) PANE_GFC_T e.2.2.2 0 e.1) s
  { s with commit := { s.commit with
    nextGfc := [], ages := s.commit.hist.map (fun e => (e.1, fld s PANE_GFC_AGE 0 e.1)) } }

/-- A hinge flip for the step that would latch has not taken place yet (R137). -/
def flipFirst (s : State) : Bool :=
  fld s EMB_FLIP_PENDING == 1 && fld s EMB_FLIP_STEP == s.step.takenStep

/-- `SPX_CFG.PRED_ACTIVE` of every tile: the predictor acts for this job (R245). -/
def showPredictor (s : State) : State :=
  (List.range 96).foldl (fun s t => setFld s SPX_CFG_PRED_ACTIVE
    (b2n (fld s SPX_CFG_PRED_EN t == 1 && !s.job.strict && fld s SPX_RCFG_VALID t == 1)) t) s

/-- Every generator slice has passed its test (R309, R311). -/
def slicesPassed (s : State) : State :=
  let s := (List.range 96).foldl (fun s t => setFld (setFld s RNG_STATUS_SELFTEST_OK 1 t) RNG_STATUS_CORES 0x20 t) s
  (List.range 8).foldl (fun s k => setFld (setFld s BRNG_STATUS_SELFTEST_OK 1 k) BRNG_STATUS_CORES 4 k) s

/-- Step `t` begins (R15, R18): it is latched with the policies, the choices and the registers held for it. `EVENT` tokens of no
parity count from 0, one that the commit's end raised at this very mullion among them (DESIGN CHOICE, log 118). -/
def beginStep (t : TakenStep) (s : State) : State :=
  let s := { s with
    step := { s.step with
      latchedStep := t.step, current := t.step, open_ := true, latchPane := pane s, voted := false,
      voteDone := false, jobNf := false, localNf := false, outcome := 0, denseDone := false, embDone := [],
      replay := none, ended := [], flagged := [] },
    commit := { s.commit with
      reruns := 0, stepPanes := 0, retirePanes := 0, idxPanes := 0, reduced := [], figs := [] },
    sched := { s.sched with throttledStep := false },
    embs := s.embs.map (fun (e : Nat × EmbS) => (e.1, { e.2 with closed := [] })) }
  let s := applyChoices (slicesPassed s)
  let s := writeIndexStatus s 0 t.step
  let s := setFld (setFld (setFld s PANE_COMMIT_STATUS_STEP t.step) PANE_COMMIT_STATUS_PHASE 0)
    PANE_COMMIT_STATUS_RUNS 1
  let s := tagStep s t.step t.mbCount
  let s := (List.range 8).foldl latchStack s
  let s := showPredictor { s with step := { s.step with
    pol := latchPolicies s, pols := kSet s.step.pols (t.step % 2) (latchPolicies s) } }
  let s := zeroEvents s (fun x => x.parity != 0 && x.parity != 1)
  let s := latchRecord s t
  if faulted s then s else roundEnds s

/-- `STEP_LATCH` (R18): the first mullion from the commit end of the step before at which the step has been taken in. Every
generator slice evaluates the test input at it; `sliceFail` names those that differ, each with a core (R309). -/
def stepLatch (sliceFail : List (Fin 104 × Nat)) (s : State) : State :=
  if latchReady s && !flipFirst s then
    match takenOf s s.step.takenStep with
    | none => s
    | some t =>
      match sliceFail with
      | [] => beginStep t s
      | l => l.foldl (fun s e => rngCheck s e.1.val e.2) (slicesPassed s)
  else s

def execStepLatch (sliceFail : List (Fin 104 × Nat)) (s : State) : Host.Outcome State Fault Refusal :=
  runCmd (stepLatch sliceFail) s

end Sys2Proof.Machine
end

