-- ==== Sys2Proof/Machine/Retire.lean ====
section
/-! DEFINITION. The end of a task (01, 02): its token, its sash tag, its stash records, its stage queues, the round-end markers,
and the recompute pieces that follow it (R251, R252). -/

namespace Sys2Proof.Machine

/-- The sash tag of a micro-batch is released when its last weight-reading task retires (R277). -/
def releaseTag (s : State) (t : WinTask) : State :=
  let mbs := (s.job.extra.lastReaders.filter (fun e => e.2 == dTaskId t.desc)).map (fun e => e.1)
  if mbs = [] then s
  else refreshSash { s with step := { s.step with
    tags := s.step.tags.filter (fun g => !(g.1 == t.pass && mbs.contains g.2.1)) } }

/-- Stash records removed, and the spilled bytes of their micro-batches with them. -/
def dropRecs (s : State) (q : StashRec → Bool) : State :=
  let gone := s.stash.recs.filter q
  if gone = [] then s
  else
    let spilled := (gone.filter (fun r => r.spilled)).foldl (fun (m : Kmap Nat) r =>
      kPut m (mbKey r.step r.mb) (kGetD m (mbKey r.step r.mb) 0 - r.bytes) 0) s.stash.spilled
    refreshStash { s with stash := { s.stash with recs := s.stash.recs.filter (fun r => !q r), spilled := spilled } }

/-- The reservation of a micro-batch is cut to what it has spilled once its last `FWD` task retires (R272). -/
def cutReservation (s : State) (t : WinTask) : State :=
  let key := mbKey t.pass (dMb t.desc)
  if dClass t.desc == 5 && (kGet? s.stash.reserved key).isSome &&
      !tasksLeft s t.pass (fun d => dClass d == 5 && dMb d == dMb t.desc) then
    refreshStash { s with stash := { s.stash with reserved := kErase s.stash.reserved key } }
  else s

/-- Fields of a stage queue (R353). -/
def sqUp (q : Word32B) : Nat := bitsOf 8 4 q.toNat
def sqDown (q : Word32B) : Nat := bitsOf 12 4 q.toNat
def sqSlots (q : Word32B) : Nat := bitsOf 16 8 q.toNat
def sqSlotBytes (q : Word32B) : Nat := bitsOf 32 32 q.toNat
def sqBase (q : Word32B) : Nat := bitsOf 64 48 q.toNat
def sqFree (q : Word32B) : Nat := bitsOf 128 16 q.toNat
def sqFull (q : Word32B) : Nat := bitsOf 144 16 q.toNat
def sqUpSite (q : Word32B) : Nat := bitsOf 160 7 q.toNat
def sqDownSite (q : Word32B) : Nat := bitsOf 168 7 q.toNat

/-- The `WRITE` messages that fill a slot (R354); which bytes the task wrote the spec leaves to the task (log 43). -/
def writeSlot (s : State) (q : Word32B) (at_ : Nat) : Nat → Nat → State
  | _, 0 => s
  | off, n + 1 =>
    let left := sqSlotBytes q - off
    let len := min left 7904
    let (s, v) := drawFree s
    let tok := if left ≤ 7904 then sqFull q else 0xFFFF
    writeSlot (sbnSend s (jobMsg s (sqDown q) 0x01 3 (at_ + off) 0 (leBytes len v) tok)) q at_ (off + len) n

/-- A task's stage queues (R354): a producer fills the next slot, a consumer gives its slot back. -/
def stageQueues (s : State) (i : Nat) (t : WinTask) : State :=
  s.job.queues.foldl (fun s e =>
    let q := e.2
    let s := if sqUp q = partId s ∧ sqUpSite q = i ∧ (dAwaits t.desc).contains (sqFree q) then
        let n := kGetD s.job.queueNext e.1 0
        let s := writeSlot s q (sqBase q + n % (max 1 (sqSlots q)) * sqSlotBytes q) 0 ((sqSlotBytes q + 7903) / 7904)
        { s with job := { s.job with queueNext := kSet s.job.queueNext e.1 (n + 1) } }
      else s
    if sqDown q = partId s ∧ sqDownSite q = i ∧ (dAwaits t.desc).contains (sqFull q) then
      sbnSend s (jobMsg s (sqUp q) 0x0B 0 0 0 [] (sqFree q))
    else s) s

/-- What follows once a task's whole effect is in place: its stage queues and its token (R32, R40, R250). -/
def finishTask (s : State) (i : Nat) (t : WinTask) : State :=
  let s := stageQueues s i t
  if dRaises t.desc = 0xFFFF then s else raiseToken s (dRaises t.desc)

/-- The held sub-blocks of a drained region, over every panel that holds some. -/
def heldSubs (o : OwedS) : Nat :=
  sumOf (o.held.map (fun w =>
    let m := heldBits (owedIn (cmpIns w) o)
    (((List.range 64).filter (fun b => bitOf b m)).map subOf).eraseDups.length))

/-- The recompute pieces of a task (R251): one for each owed n-block of its drained regions (the estimate's sum: log 44). -/
def recomputePieces (s : State) (i : Nat) (t : WinTask) : List WinTask :=
  let l := ((tileS s i).owed.filter (fun o => o.drained && o.taskId == dTaskId t.desc)).flatMap (fun o =>
    ((o.owed.map (fun e => e.1)).eraseDups).map (fun nb => (o, nb)))
  l.map (fun e =>
    let o := e.1.nb e.2
    let p := mmaProd s i (dClass t.desc) none ((o.chain.head?.map (fun w => w.1)).getD 0)
    { t with desc := contDesc t.desc, recompute := true, items := none, owedAt := o.key, owedNb := e.2, estimate := max 1 (recomputeCycles o p (heldSubs o)), adm := 0, ready := false, queued := false,
             credits := [], k := 0 })

/-- A recompute piece not yet judged in this pane. -/
def unjudged (t : WinTask) : Bool := t.recompute && t.k == 0

/-- The recompute piece has its cycles left before the mullion (R252). -/
def pieceFits (s : State) (i : Nat) (t : WinTask) : Bool :=
  !bitOf i (fld s PANE_CARRIED_SITE) && decide (t.estimate ≤ paneLen s - (site s i).runTime)

/-- A site without work left in the pane (R252): the first recompute piece that has its cycles left starts; those that have not wait
for the next pane, which `k` marks. -/
def judgePiece (s : State) (i : Nat) : State :=
  let late := fun (t : WinTask) => unjudged t && !pieceFits s i t
  let n := ((site s i).pieces.filter late).length
  let ps := (site s i).pieces.map (fun t => if late t then { t with k := 1 } else t)
  let s := setSite s i { site s i with pieces := ps }
  let s := if n = 0 then s else event (bump s SPX_EVT_RC_NEXT n i) 0x4003 n
  match removeFirst unjudged ps with
  | some (p, rest) => bump (startTask (setSite s i { site s i with pieces := rest }) i { p with k := 1 }) SPX_EVT_RC_SAME 1 i
  | none => s

/-- The site goes on in its pane: its next queued task, else its recompute piece. -/
def siteGoesOn (s : State) (i : Nat) : State :=
  if admittedOf { site s i with window := (site s i).window.filter (fun t => t.queued) } ≠ [] then startNext s i
  else judgePiece s i

/-- The site is idle; a retirement counts for the detectors (R443). The next task's list begins at its first instruction (R175), and
what waited for the tile's banks takes place (R153). -/
def endRun (s : State) (i : Nat) : State :=
  let s := setSite s i { site s i with run := none }
  let s := { s with commit := { s.commit with retiredIn := true } }
  if i < 96 then releaseWrites (setTile (setFld s TILE_STATUS_BUSY 0 i) i { tileS s i with place := 0 }) i else s

/-- A task whole or its last piece retires (R32, R271, R272, R277). -/
def retireWhole (s : State) (i : Nat) (t : WinTask) : State :=
  let x := tileS s i
  let s := if i < 96 then
      setTile s i { x with gtag := none, rows := none, owed := x.owed.filter (fun o => o.drained || o.taskId != dTaskId t.desc) }
    else s
  let s := releaseTag s t
  let s := dropRecs s (fun r => r.last == dTaskId t.desc && r.step == t.pass)
  let s := cutReservation s t
  let l := if i < 96 then recomputePieces s i t else []
  if l = [] then finishTask s i t
  else
    let y := site s i
    setSite s i { y with pieces := y.pieces ++ l }

/-- `TASK_RETIRE` (R32): the running task of a site has ended. A faulted job's task ends without effect (R448); a recompute
piece ends with its work (`RECOMPUTE_PIECE`), a conversion between attempts has not ended (R222). -/
def taskRetire (i : Nat) (s : State) : State :=
  match (site s i).run with
  | none => s
  | some t =>
    if t.recompute || (tileS s i).attempt.isSome && decide (i < 96) then s
    else if !jobLive s then endRun s i
    else
      let s := endRun s i
      let s := if t.lastPiece then retireWhole s i t else s
      if faulted s then s else siteGoesOn (roundEnds s) i

def execTaskRetire (site : Fin 104) (s : State) : Host.Outcome State Fault Refusal := runCmd (taskRetire site.val) s

/-- No other recompute piece of a task is left at its site. -/
def lastRecompute (s : State) (i : Nat) (t : WinTask) : Bool :=
  !(site s i).pieces.any (fun u => u.recompute && dTaskId u.desc == dTaskId t.desc && u.pass == t.pass)

/-- `RECOMPUTE_PIECE` (R251): the tile's running recompute piece does its work and ends; `env` is what its reads meet (R149, R224).
With the last of its parent's pieces the parent's token is raised. -/
def recomputePiece (i : Nat) (env : TileEnv) (s : State) : State :=
  match (site s i).run with
  | none => s
  | some t =>
    if !t.recompute then s
    else if !jobLive s then endRun s i
    else
      let s := unitEnv s i env
      let s := match (tileS s i).owed.find? (fun o => o.drained && o.key == t.owedAt && o.taskId == dTaskId t.desc) with
        | none => s
        | some o => if faulted s then s else recompute s i t o
      if faulted s then s
      else
        let s := endRun s i
        let s := if lastRecompute s i t then finishTask s i t else s
        if faulted s then s else siteGoesOn s i

def execRecomputePiece (tile : TileAct) (s : State) : Host.Outcome State Fault Refusal :=
  runCmd (recomputePiece tile.tile.val tile.env) s

end Sys2Proof.Machine
end

