-- ==== Sys2Proof/Machine/Roce.lean ====
section
/-! DEFINITION. What the other units use of the Ethernet message engine (16): a queue pair's sending side, pauses, and the
first record of a refusal or an Ethernet fault. Times are in microseconds. -/

namespace Sys2Proof.Machine

/-- A queue pair's private state. -/
def qpS (s : State) (q : Nat) : QpS := kGetD s.eth.qps q {}

/-- A queue pair's private state replaced. -/
def setQp (s : State) (q : Nat) (x : QpS) : State := { s with eth := { s.eth with qps := kPut s.eth.qps q x {} } }

/-- The path MTU (R361). -/
def pmtu (s : State) : Nat := match fld s ETH_CFG_PMTU with | 0 => 1024 | 1 => 2048 | _ => 4096

/-- Packets of a message of `n` bytes. -/
def packets (s : State) (n : Nat) : Nat := max 1 ((n + pmtu s - 1) / pmtu s)

/-- PSNs are 24 bits. -/
def psnAdd (a n : Nat) : Nat := (a + n) % 2 ^ 24

/-- `a` lies before `b` in PSN order. -/
def psnBefore (a b : Nat) : Bool := a != b && decide ((b + 2 ^ 24 - a) % 2 ^ 24 < 2 ^ 23)

/-- A RoCEv2 packet goes out with the 802.1Q priority and the DSCP of `ETH_CFG`, marked ECT(0) (R368): its marks go before it. -/
def sendPacket (s : State) (port : Nat) (e : Emit) : State :=
  emit (emit s (.marks port (fld s ETH_CFG_PRIO) (fld s ETH_CFG_DSCP))) e

/-- What a paused port would send is held back (R368). -/
def ethOut (s : State) (port : Nat) (e : Emit) : State :=
  if (kGet? s.eth.paused port).isSome then { s with eth := { s.eth with held := s.eth.held ++ [(port, e)] } }
  else sendPacket s port e

/-- No pause holds the port any more, and nothing waits behind one. -/
def dropHeld (s : State) (port : Nat) : State :=
  { s with eth := { s.eth with
    paused := kErase s.eth.paused port, storm := s.eth.storm.filter (fun p => p != port),
    held := s.eth.held.filter (fun e => e.1 != port) } }

/-- A pause has ended: what was held back goes out, in order. -/
def unpause (s : State) (port : Nat) : State :=
  (s.eth.held.filter (fun e => e.1 == port)).foldl (fun s e => sendPacket s port e.2) (dropHeld s port)

/-- Pauses whose time has run out by `t`. -/
def expirePauses (s : State) (t : Nat) : State :=
  (s.eth.paused.filter (fun e => decide (e.2.2 ≤ t))).foldl (fun s e => unpause s e.1) s

/-- A queue pair is connected: ready to receive, or to send too (R362). -/
def qpUp (s : State) (q : Nat) : Bool := fld s ETH_QP_STATE 0 q == 2 || fld s ETH_QP_STATE 0 q == 3

/-- A message sent on a queue pair (R361, R363, R372): it takes the next PSNs and is kept until it is acknowledged. -/
def qpSend (s : State) (q n : Nat) (e : Nat → Emit) : State :=
  if fld s ETH_QP_STATE 0 q = 3 then
    let psn := fld s ETH_QP_SEND_PSN 0 q
    let k := packets s n
    let s := setFld s ETH_QP_SEND_PSN (psnAdd psn k) 0 q
    let x := qpS s q
    ethOut (setQp s q { x with unacked := x.unacked ++ [(psn, k, e psn)] }) (fld s ETH_QP_PORT 0 q) (e psn)
  else s

/-- Board-stage data (R372): SENDs with immediate of at most a path MTU each. -/
def sendBoard (s : State) (q arg : Nat) (bs : List Byte) : State :=
  let n := pmtu s
  let k := max 1 ((bs.length + n - 1) / n)
  (List.range k).foldl (fun s i =>
    let d := slice bs (i * n) n
    qpSend s q d.length (fun psn => .send q psn (some arg) d)) s

/-- `ETH_LOG` (R374): the first refusal or Ethernet fault since the last clear. -/
def ethLog (s : State) (reason q code addr : Nat) : State :=
  firstRecord s ETH_LOG_VALID 0 0 (fun s =>
    setFld (setFld (setFld (setFld (setFld (setFld s ETH_LOG_REASON reason) ETH_LOG_PORT (fld s ETH_QP_PORT 0 q))
      ETH_LOG_QP q) ETH_LOG_CODE code) ETH_LOG_ADDR addr) ETH_LOG_PANE (pane s))

end Sys2Proof.Machine
end

