-- ==== Sys2Proof/Machine/Coll.lean ====
section
/-! DEFINITION. Collectives (14, R335–R338; board stage R371, R372): descriptors, the chain of members, the board stage,
`CSTART` and `COLL_TIMEOUT`. A barrier's stream has one element that is neither sent nor written. -/

namespace Sys2Proof.Machine

/-- Word `i` of a collective's descriptor (R335). -/
def collWord (s : State) (id i : Nat) : Nat := leAt (kGetD s.job.colls id []) (8 * i) 8

def collKind (s : State) (id : Nat) : Nat := bitsOf 8 3 (collWord s id 0)
def collRed (s : State) (id : Nat) : Nat := bitsOf 11 2 (collWord s id 0)
def collN (s : State) (id : Nat) : Nat := bitsOf 13 5 (collWord s id 0)
def collBoards (s : State) (id : Nat) : Bool := bitOf 18 (collWord s id 0)
def collElems (s : State) (id : Nat) : Nat := bitsOf 32 32 (collWord s id 0)
def collMember (s : State) (id i : Nat) : Nat := bitsOf (4 * i) 4 (collWord s id 1)
def collSrc (s : State) (id : Nat) : Nat := tileBase (bitsOf 24 7 (collWord s id 2)) + bitsOf 0 23 (collWord s id 2)
def collDstTile (s : State) (id : Nat) : Nat := bitsOf 56 7 (collWord s id 2)
def collDst (s : State) (id : Nat) : Nat := tileBase (collDstTile s id) + bitsOf 32 23 (collWord s id 2)
def collRaises (s : State) (id : Nat) : Nat := bitsOf 0 16 (collWord s id 3)
def collGroups (s : State) (id : Nat) : Nat := bitsOf 0 5 (collWord s id 4)
def collPosn (s : State) (id : Nat) : Nat := bitsOf 8 4 (collWord s id 4)
def collNext (s : State) (id : Nat) : Nat := bitsOf 0 8 (collWord s id 6)
def collPrev (s : State) (id : Nat) : Nat := bitsOf 8 8 (collWord s id 6)

/-- The `ARG` of a collective's messages: its id and the digest of words 0–1 of the descriptor (R335). -/
def collArg (s : State) (id : Nat) : Nat :=
  id + shaNat (slice (kGetD s.job.colls id []) 0 16) % 65536 * 65536

/-- This part's place among the members. -/
def collPlace (s : State) (id : Nat) : Option Nat :=
  (List.range (collN s id)).find? (fun i => collMember s id i == partId s)

/-- The elements of the stream. -/
def collTotal (s : State) (id : Nat) : Nat := max 1 (collElems s id)

/-- This part's own elements from `j` on. -/
def collOwn (s : State) (c : CollS) (j n : Nat) : List (BitVec 32) :=
  match c.vote with
  | some w => List.replicate n w
  | none =>
    if collElems s c.id = 0 then List.replicate n 0
    else if collKind s c.id = 3 then (loadWords s (collSrc s c.id + 4 * j) n).map (fun w => w &&& 1#32)
    else loadWords s (collSrc s c.id + 4 * j) n

/-- A collective's elements are FP32 numbers, not bits (R335, R336). -/
def collFp (s : State) (id : Nat) : Bool := collKind s id == 1 || (collKind s id == 0 && collRed s id != 2)

/-- One element combined (R336): bits are ORed, numbers added or the greater taken under the job's arithmetic mode. -/
def combineW (strict fp : Bool) (red : Nat) (a b : BitVec 32) : FRes :=
  if !fp then { bits := (a ||| b).toNat }
  else if red = 1 then maxNum fpFP32 strict false (f32 strict a) (f32 strict b)
  else f32add strict a b

/-- Elements that this part puts on a link or in a scratchpad: in fast mode −0 goes as +0, counted at the tile (R189). -/
def collPlus (s : State) (id t : Nat) (ws : List (BitVec 32)) : State × List (BitVec 32) :=
  if collFp s id then plusZero s t ws else (s, ws)

/-- A run of elements combined, with `SBN_COLL.IV` and `NF`; flushed results and negative zeros are counted at the tile of the
source range (R189, R192; log 138). -/
def combineRun (s : State) (id : Nat) (a b : List (BitVec 32)) : State × List (BitVec 32) :=
  let fp := collFp s id
  let r := List.zipWith (combineW (strictMode s) fp (collRed s id)) a b
  let t := bitsOf 24 7 (collWord s id 2)
  let count := fun (s : State) (f : Field) (n : Nat) => if n = 0 then s else bump s f n t
  let s := if r.any (fun x => x.iv) then setFld s SBN_COLL_IV 1 else s
  let s := if fp && r.any (fun x => nfW x.w) then setFld s SBN_COLL_NF 1 else s
  let s := count (count s FMT_EVT_FLUSH (r.filter (fun x => x.flush)).length) FMT_EVT_NEG_ZERO (r.filter (fun x => x.negz)).length
  (s, r.map (fun x => x.w))

/-- The bytes of elements as a message carries them. -/
def collBytes (s : State) (id : Nat) (ws : List (BitVec 32)) : List Byte :=
  if collElems s id = 0 then [] else wordBytes ws

/-- Elements streamed to another member in messages of at most 7,904 B. -/
def collSend (s : State) (part id : Nat) (ws : List (BitVec 32)) : State :=
  let bs := collBytes s id ws
  (List.range (max 1 ((bs.length + 7903) / 7904))).foldl (fun s i =>
    sbnSend s (jobMsg s part 0x10 2 0 (collArg s id) (slice bs (7904 * i) 7904))) s

/-- The collectives that run, and those that wait for a place (`SBN_COLL`). -/
def refreshColl (s : State) : State :=
  setFld (setFld s SBN_COLL_ACTIVE (s.sbn.colls.filter (fun c => c.active)).length)
    SBN_COLL_WAITING (min 255 (s.sbn.colls.filter (fun c => !c.active)).length)

/-- The running collective of an id. -/
def collOf (s : State) (id : Nat) : Option CollS := s.sbn.colls.find? (fun c => c.active && c.id == id)

/-- A running collective replaced. -/
def putColl (s : State) (c : CollS) : State :=
  { s with sbn := { s.sbn with colls := s.sbn.colls.map (fun (x : CollS) => if x.active && x.id == c.id then c else x) } }

/-- A running collective taken away. -/
def dropColl (s : State) (id : Nat) : State :=
  refreshColl { s with sbn := { s.sbn with colls := s.sbn.colls.filter (fun c => !(c.active && c.id == id)) } }

/-- Final elements written to the destination range, a vote's result to the commit unit as well (R282, R336). -/
def collWrite (s : State) (c : CollS) (ws : List (BitVec 32)) : State :=
  let s := if collElems s c.id = 0 then s else store s (collDst s c.id + 4 * c.written) (wordBytes ws)
  let s := if c.vote.isSome && ws.any (fun w => w != 0) then { s with step := { s.step with jobNf := true } } else s
  putColl s { c with written := c.written + ws.length }

/-- The whole range is written: the token, and what waits for the collective in the commit unit (R282, R337). -/
def collEnd (s : State) (id : Nat) : State :=
  match collOf s id with
  | none => s
  | some c =>
    if c.written < collTotal s id then s
    else
      let s := dropColl s id
      let s := { s with commit := { s.commit with reduced := s.commit.reduced ++ [id] } }
      let s := if c.vote.isSome then { s with step := { s.step with voteDone := true } } else s
      if collRaises s id = 0xFFFF then s else raiseToken s (collRaises s id)

/-- Final elements at the root (R336): written, streamed back along the chain and, at a root that has a board before it,
back towards the first board (R372). -/
def collFinal (s : State) (c : CollS) (ws : List (BitVec 32)) : State :=
  let s := collWrite s c ws
  let n := collN s c.id
  let s := if 1 < n then collSend s (collMember s c.id (n - 2)) c.id ws else s
  let s := if collBoards s c.id && collPosn s c.id != 0 then
      sendBoard s (collPrev s c.id) (collArg s c.id) (collBytes s c.id ws)
    else s
  collEnd s c.id

/-- Elements formed at the root go through the board stage (R336, R372): the first board's root sends its own, each further
root combines what came with its own and sends it on, the last forms the final elements. -/
def collBoard (s : State) (c : CollS) : State :=
  let id := c.id
  if collPosn s id = 0 then
    let s := putColl s { c with formed := [] }
    if c.formed = [] then s else sendBoard s (collNext s id) (collArg s id) (collBytes s id c.formed)
  else
    let k := min c.formed.length c.boardIn.length
    if k = 0 then putColl s c
    else
      let (s, r) := combineRun s id (c.boardIn.take k) (c.formed.take k)
      let c : CollS := { c with formed := c.formed.drop k, boardIn := c.boardIn.drop k }
      let s := putColl s c
      if collPosn s id + 1 < collGroups s id then sendBoard s (collNext s id) (collArg s id) (collBytes s id r)
      else collFinal s c r

/-- Elements formed at the root of the group. -/
def collRoot (s : State) (c : CollS) (ws : List (BitVec 32)) : State :=
  if collBoards s c.id then collBoard s { c with formed := c.formed ++ ws } else collFinal s c ws

/-- The elements a payload carries. -/
def collWords (s : State) (id : Nat) (bs : List Byte) : List (BitVec 32) :=
  if collElems s id = 0 then [0]
  else (List.range (bs.length / 4)).map (fun j => BitVec.ofNat 32 (leAt bs (4 * j) 4))

/-- Elements arrive from the member before: combined and passed on, or formed at the root; of a broadcast, written and passed
on (R336). -/
def collChain (s : State) (c : CollS) (i : Nat) (ws : List (BitVec 32)) : State :=
  let id := c.id
  let ws := ws.take (collTotal s id - c.seen)
  let n := collN s id
  let c : CollS := { c with seen := c.seen + ws.length }
  if ws = [] then s
  else if collKind s id = 1 then
    let (s, ws) := collPlus s id (collDstTile s id) ws
    let s := collWrite s c ws
    let s := if i + 1 < n then collSend s (collMember s id (i + 1)) id ws else s
    collEnd s id
  else
    let (s, r) := combineRun s id ws (collOwn s c (c.seen - ws.length) ws.length)
    let s := putColl s c
    if i + 1 < n then collSend s (collMember s id (i + 1)) id r else collRoot s c r

/-- Final elements arrive from the member after: written and passed on (R336). -/
def collBack (s : State) (c : CollS) (i : Nat) (ws : List (BitVec 32)) : State :=
  let id := c.id
  let ws := ws.take (collTotal s id - c.written)
  if ws = [] then s
  else
    let (s, ws) := collPlus s id (collDstTile s id) ws
    let s := collWrite s c ws
    let s := if 0 < i then collSend s (collMember s id (i - 1)) id ws else s
    collEnd s id

/-- A `COLL` message waits until this part has started the collective (R337). -/
def collHeld (s : State) (m : SbnMsg) : Bool := (collOf s (m.arg % 256)).isNone

/-- A digest that differs from this part's own (R335). -/
def collMismatch (s : State) (id part : Nat) : State := sbnFault s 0x6083 2 part id 0

/-- A `COLL` message of a collective that runs here. -/
def deliverColl (m : SbnMsg) (s : State) : State :=
  let id := m.arg % 256
  if m.arg ≠ collArg s id then collMismatch s id m.src.val
  else match collOf s id, collPlace s id with
    | some c, some i =>
      let ws := collWords s id m.data
      if 0 < i ∧ m.src.val = collMember s id (i - 1) then collChain s c i ws
      else if i + 1 < collN s id ∧ m.src.val = collMember s id (i + 1) then collBack s c i ws
      else s
    | _, _ => s

/-- Board-stage data of a collective that runs at this root (R372): from the board before, or final from the board after. -/
def deliverBoard (s : State) (c : CollS) (q : Nat) (bs : List Byte) : State :=
  let ws := collWords s c.id bs
  if collPosn s c.id ≠ 0 ∧ q = collPrev s c.id then collBoard s { c with boardIn := c.boardIn ++ ws }
  else if collPosn s c.id + 1 < collGroups s c.id ∧ q = collNext s c.id then
    let (s, ws) := collPlus s c.id (collDstTile s c.id) (ws.take (collTotal s c.id - c.written))
    collFinal s c ws
  else s

/-- What a member does of itself once its collective runs (R336): the first member streams its source range. -/
def collBegin (s : State) (c : CollS) : State :=
  let id := c.id
  match collPlace s id with
  | some 0 =>
    let n := collN s id
    let (s, own) := collPlus s id (bitsOf 24 7 (collWord s id 2)) (collOwn s c 0 (collTotal s id))
    let c : CollS := { c with seen := own.length }
    if collKind s id = 1 then
      let s := collWrite s c own
      let s := if 1 < n then collSend s (collMember s id 1) id own else s
      collEnd s id
    else if n = 1 then collRoot s c own
    else collSend (putColl s c) (collMember s id 1) id own
  | _ => s

/-- The collectives that get a place: at most 32 run, one of an id at a time, in `CSTART` order (R338). -/
def collPlaces : Nat → State → State
  | 0, s => s
  | n + 1, s =>
    let run := s.sbn.colls.filter (fun c => c.active)
    if 32 ≤ run.length then s
    else match removeFirst (fun (c : CollS) => !c.active && !run.any (fun x => x.id == c.id)) s.sbn.colls with
      | none => s
      | some (c, rest) =>
        let c : CollS := { c with active := true }
        let s := refreshColl { s with sbn := { s.sbn with colls := rest ++ [c] } }
        collPlaces n (if faulted s then s else collBegin s c)

/-- A collective started at this part (R335, R338), by `CSTART` or, as the step's vote, by the commit unit. -/
def collStart (s : State) (id : Nat) (vote : Option (BitVec 32)) : State :=
  let c : CollS := { id := id, vote := vote }
  let s := refreshColl { s with sbn := { s.sbn with colls := s.sbn.colls ++ [c] } }
  collPlaces (s.sbn.colls.length) s

/-- A collective completed with `SHUTTERED_MEMBER` (R341): its destination range reads +0, no token is raised. -/
def collShuttered (s : State) (c : CollS) (part : Nat) : State :=
  let s := store s (collDst s c.id) (List.replicate (4 * collElems s c.id) 0)
  let s := refreshColl { s with sbn := { s.sbn with colls := s.sbn.colls.filter (fun x => x.id != c.id) } }
  sbnFault s 0x6081 2 part c.id 0

/-- `COLL_TIMEOUT` (R338, R55): judged at the mullion as many panes after the one at which the timer was armed as it was armed
with. -/
def collTimeout (id : Nat) (s : State) : State :=
  if jobLive s && s.sbn.colls.any (fun c => c.id == id &&
      (match c.armed with | some p => p + c.length == pane s | none => false)) then
    sbnFault s 0x6082 2 (partId s) id 0
  else s

def execCollTimeout (coll : Fin 256) (s : State) : Host.Outcome State Fault Refusal := runCmd (collTimeout coll.val) s

end Sys2Proof.Machine
end

