-- ==== Sys2Proof/Machine/Sirben.lean ====
section
/-! DEFINITION. The Sirben fabric (14): flits and link retry, ports, credits and arbitration, routing, the transport with its
acknowledgements and windows, remote operations and notices. -/

namespace Sys2Proof.Machine

/-! Messages and flits (R314, R315, R327). -/

/-- A message as bytes: transport header, check, payload (R327). -/
def encMsg (m : SbnMsg) : List Byte := sbnHeader m ++ leBytes 4 m.ecrc ++ m.data

/-- The message that bytes spell, `hop` links on its way, brought by flits of a channel (R314, R327). -/
def decMsg (hop chan : Nat) (bs : List Byte) : SbnMsg :=
  let b2 := leAt bs 2 1
  { src := finPart (leAt bs 0 1 % 16), dst := finPart (leAt bs 0 1 / 16), op := leAt bs 1 1, vc := b2 % 8,
    ce := bitOf 3 b2, mcast := bitOf 4 b2, retx := bitOf 5 b2, tseq := leAt bs 4 4, job := leAt bs 8 4,
    token := leAt bs 14 2, addr := leAt bs 16 6, tag := leAt bs 22 2, arg := leAt bs 24 4, ecrc := leAt bs 28 4, hop := hop,
    chan := some chan, data := slice bs 32 (leAt bs 12 2) }

/-- The payload area of a flit filled out with zeros. -/
def padTo (n : Nat) (bs : List Byte) : List Byte := bs ++ List.replicate (n - bs.length) 0

/-- A flit of these five header bytes and payload (R314, R315). -/
def flitOf (hdr : Nat) (payload : List Byte) : List Byte :=
  let h := leBytes 5 hdr
  let p := padTo 248 payload
  h ++ leBytes 3 (crc24 (h ++ p)).toNat ++ p

/-- The check of a flit (R315). -/
def flitGood (bs : List Byte) : Bool :=
  bs.length == 256 && leAt bs 5 3 == (crc24 (slice bs 0 5 ++ slice bs 8 248)).toNat

/-- A port's state. -/
def port (s : State) (p : Nat) : SbPort := kGetD s.sbn.ports p {}

/-- A port's state replaced. -/
def setPort (s : State) (p : Nat) (x : SbPort) : State :=
  { s with sbn := { s.sbn with ports := kPut s.sbn.ports p x {} } }

/-- The credits of a pool that one return carries: at most 15 (R314), and at most `DRT_CREDIT.CEILING` where that perturbation is
armed for the port and the channel (R428). -/
def returnCap (s : State) (p key : Nat) : Nat :=
  if bitOf 4 (fld s DRT_STATUS_ARMED) && bitOf p (drt s DRT_CREDIT_PORTS) && bitOf (key / 4) (drt s DRT_CREDIT_VCS) then
    drt s DRT_CREDIT_CEILING
  else 15

/-- The pools of a port that have credits to return and may return them. -/
def returnable (s : State) (p : Nat) : List (Nat × Nat) := (port s p).owed.filter (fun e => returnCap s p e.1 != 0)

/-- The credits to return next on a port: pool and flits (R314, R320). -/
def nextReturn (s : State) (p : Nat) : Nat × Nat :=
  match returnable s p with
  | [] => (0, 0)
  | e :: _ => (e.1, min (returnCap s p e.1) e.2)

/-- A flit as it goes out: with `DRT_CRC` armed for the port, the check of one data flit in `EVERY` is spoilt by a free value that is
not 0 (R428, R431; log 93). -/
def wireFlit (s : State) (p : Nat) (data : Bool) (flit : List Byte) : State :=
  let x := port s p
  if data && bitOf 5 (fld s DRT_STATUS_ARMED) && bitOf p (drt s DRT_CRC_PORTS) then
    let n := x.sent + 1
    if n < drt s DRT_CRC_EVERY then emit (setPort s p { x with sent := n }) (.flit p flit)
    else
      let spoil := 1 + Config.freeValue s.free % (2 ^ 24 - 1)
      let s := bump (setPort { s with free := s.free + 1 } p { x with sent := 0 }) DRT_EVT_CRC
      emit s (.flit p (slice flit 0 5 ++ leBytes 3 (leAt flit 5 3 ^^^ spoil) ++ slice flit 8 248))
  else emit s (.flit p flit)

/-- A flit leaves a port, with the port's `ACK` and a credit return (R314). -/
def sendFlit (s : State) (p low lseq : Nat) (payload : List Byte) : State :=
  let x := port s p
  let (key, n) := nextReturn s p
  let hdr := low + lseq * 2 ^ 9 + (x.rxSeq + 2047) % 2048 * 2 ^ 20 + key / 4 * 2 ^ 31 + key % 4 * 2 ^ 34 + n * 2 ^ 36
  let s := setPort s p { x with owed := kPut x.owed key (kGetD x.owed key 0 - n) 0 }
  wireFlit s p (low % 4 == 0) (flitOf hdr payload)

/-- An idle flit, as a port sends in every slot without another flit (R316). -/
def sendIdle (s : State) (p : Nat) : State := sendFlit s p 1 0 []

/-- Idle flits until every credit freed that may be returned has been. -/
def returnCredits (s : State) (p : Nat) : State :=
  iter (fun s => if returnable s p = [] then s else sendIdle s p) (sumOf ((port s p).owed.map (fun e => e.2))) s

/-- The receive credits of a channel and hop class (R319). -/
def creditLimit (vc cls : Nat) : Nat :=
  ((match vc with
    | 0 => [64, 32, 16, 16] | 1 => [80, 40, 20, 20] | 2 => [112, 56, 28, 28] | 3 => [192, 96, 48, 48]
    | _ => [32, 16, 8, 8]) : List Nat).getD cls 0

/-- Buffers of `n` flits freed at a receiving port (R320); port 10 is none. -/
def freeBuffers (s : State) (p vc cls n : Nat) : State :=
  if 10 ≤ p ∨ fld s SBN_PORT_UP 0 p = 0 then s
  else
    let x := port s p
    let key := vc * 4 + cls
    returnCredits (setPort s p { x with owed := kSet x.owed key (kGetD x.owed key 0 + n) }) p

/-! Arbitration (R320, R321). -/

/-- The message of a channel that may send its next flit: the one begun, else the first with a credit of its class. -/
def candidate (x : SbPort) (vc : Nat) : Option (SbnMsg × Nat) :=
  let hasCredit := fun (e : SbnMsg × Nat) => decide (kGetD x.used (vc * 4 + e.1.hop) 0 < creditLimit vc e.1.hop)
  match x.outq.find? (fun e => chanOf e.1 == vc && decide (0 < e.2)) with
  | some e => if hasCredit e then some e else none
  | none => x.outq.find? (fun e => chanOf e.1 == vc && hasCredit e)

/-- The round-robin's channels and weights, in the order of `SBN_ARB`'s fields (DESIGN CHOICE, log 63). -/
def arbOrder (i : Nat) : Nat := ([2, 1, 0, 3] : List Nat).getD (i % 4) 0
def arbWeight (s : State) (i : Nat) : Nat :=
  max 1 (match i % 4 with
    | 0 => fld s SBN_ARB_W_COLL
    | 1 => fld s SBN_ARB_W_RESP
    | 2 => fld s SBN_ARB_W_REQ
    | _ => fld s SBN_ARB_W_BULK)

/-- The next flit of a port: its message, and the round-robin's turn after it. -/
def arbitrate (s : State) (x : SbPort) : Option ((SbnMsg × Nat) × Nat × Nat) :=
  match candidate x 5, candidate x 4 with
  | some e, _ => some (e, x.turn, x.left)
  | none, some e => some (e, x.turn, x.left)
  | none, none =>
    match (if x.left = 0 then none else candidate x (arbOrder x.turn)) with
    | some e => some (e, x.turn, x.left - 1)
    | none => ([1, 2, 3, 4] : List Nat).findSome? (fun j =>
        (candidate x (arbOrder (x.turn + j))).map (fun e => (e, (x.turn + j) % 4, arbWeight s (x.turn + j) - 1)))

/-- One data flit sent: it takes an `LSEQ`, a credit and a place in the replay buffer (R317, R320). -/
def sendData (s : State) (p : Nat) (e : SbnMsg × Nat) (turn left : Nat) : State :=
  let x := port s p
  let n := flitCount e.1
  let last := e.2 + 1 == n
  let low := 4 * chanOf e.1 + 32 * b2n (e.2 == 0) + 64 * b2n last + 128 * (e.1.hop % 4)
  let payload := slice (encMsg e.1) (248 * e.2) 248
  let key := chanOf e.1 * 4 + e.1.hop
  let outq := match removeFirst (fun y => y == e) x.outq with
    | some (_, rest) => if last then rest else x.outq.map (fun y => if y == e then (e.1, e.2 + 1) else y)
    | none => x.outq
  let s := setPort s p { x with
    outq := outq, turn := turn, left := left, txSeq := (x.txSeq + 1) % 2048,
    used := kSet x.used key (kGetD x.used key 0 + 1), replay := x.replay ++ [(x.txSeq, low, payload)] }
  sendFlit s p low x.txSeq payload

/-- A port sends what it may: it carries data only while `SBN_ID.VALID` is 1, and nothing new while its replay buffer of 512
flits is full (R317). -/
def pumpN : Nat → Nat → State → State
  | 0, _, s => s
  | n + 1, p, s =>
    let x := port s p
    if fld s SBN_PORT_UP 0 p = 0 ∨ fld s SBN_ID_VALID = 0 ∨ 512 ≤ x.replay.length then s
    else match arbitrate s x with
      | none => s
      | some (e, turn, left) => pumpN n p (sendData s p e turn left)

/-- Flits a port has queued, on every channel or on one. -/
def queued (x : SbPort) (q : SbnMsg → Bool) : Nat :=
  sumOf ((x.outq.filter (fun e => q e.1)).map (fun e => flitCount e.1 - e.2))

/-- A port sends what it may. -/
def pump (s : State) (p : Nat) : State := pumpN (queued (port s p) (fun _ => true)) p s

/-! Routing (R323–R326). -/

/-- The port of rank `r` among those of a set, in ascending number. -/
def portOfRank (set r : Nat) : Nat := (((List.range 10).filter (fun p => bitOf p set)).getD r 0)

/-- Ports in a set. -/
def portCount (set : Nat) : Nat := ((List.range 10).filter (fun p => bitOf p set)).length

/-- `CE` set in a message that starts through a queue deeper than `CE_THRESH`; its check follows the bit (R332; log 64). -/
def markCe (s : State) (p : Nat) (m : SbnMsg) : SbnMsg :=
  if fld s SBN_XPORT_CE_THRESH < queued (port s p) (fun x => chanOf x == chanOf m) then
    let m' := { m with ce := true }
    { m' with ecrc := m.ecrc ^^^ sbnCheck m ^^^ sbnCheck m' }
  else m

/-- A message is given to a port, or dropped (R324, R325); one for this part itself crosses no link. -/
def route (s : State) (m : SbnMsg) : State :=
  if m.dst.val = partId s then { s with sbn := { s.sbn with arrived := s.sbn.arrived ++ [(10, m)] } }
  else
    let n := m.dst.val
    let set := fld s SBN_ROUTE_USABLE 0 n
    if 3 < m.hop then event (bump s SBN_EVT_HOP_LIMIT) 0x6006
    else if fld s SBN_ROUTE_VALID 0 n = 0 ∨ portCount set = 0 then event (bump s SBN_EVT_UNREACHABLE) 0x6005
    else
      let p := portOfRank set ((6 * m.src.val + chanOf m) % portCount set)
      let x := port s p
      pump (setPort s p { x with outq := x.outq ++ [(markCe s p m, 0)] }) p

/-! Starting messages (R329, R332). -/

/-- The window W of a connection. -/
def windowOf (s : State) (c : TxConn) : Nat :=
  if fld s SBN_CFG_THROTTLE_EN = 0 ∨ c.window = 0 then fld s SBN_XPORT_W_MAX else c.window

/-- Bytes of the send buffer in use. -/
def sendBuffer (s : State) : Nat :=
  sumOf (s.sbn.tx.map (fun e => sumOf (e.2.unacked.map (fun m => 32 + m.data.length))))

/-- The bytes that the whole response to a request may take (R91, R94, R322, R333); 0 where none comes to this part. -/
def responseBytes (s : State) (m : SbnMsg) : Nat :=
  if m.op = 0x02 then m.arg
  else if m.op = 0x04 then (if leAt m.data 12 1 % 16 = partId s then 16 * leAt m.data 13 1 else 0)
  else if m.op = 0x06 then leAt m.data 10 2 * (64 + 4 * tdWidth (tdesc s (m.addr % 8) (leAt m.data 8 1)))
  else 0

/-- The tag by which a request's response is known: for a draw, which has none, the destination it draws. -/
def awaitTag (s : State) (m : SbnMsg) : Nat :=
  if m.op = 0x04 then treeKey (partId s) (leAt m.data 0 8) (leAt m.data 8 1) (leAt m.data 38 3) else m.tag

/-- The receive space for responses: 8 MiB (DESIGN CHOICE, log 129). -/
def receiveSpace : Nat := 8388608

/-- The part holds receive space for the whole response (R322); a response larger than the space has all of it alone. -/
def hasSpace (s : State) (m : SbnMsg) : Bool :=
  let held := sumOf (s.sbn.awaits.map (fun e => e.2.2.2))
  responseBytes s m == 0 || held == 0 || decide (held + responseBytes s m ≤ receiveSpace)

/-- A message may start: fewer than W of its connection are unacknowledged, the 8 MiB send buffer has room and so has the receive
space for what it asks; recovery messages are neither counted nor kept, and a faulted job starts no job message (R448). -/
def mayStart (s : State) (m : SbnMsg) : Bool :=
  m.vc == 5 || (!(decide (m.vc ≤ 3) && faulted s) && decide ((txConn s m.dst.val m.vc).unacked.length < windowOf s (txConn s m.dst.val m.vc)) &&
    decide (sendBuffer s + 32 + m.data.length ≤ 8388608) && hasSpace s m)

/-- An own message starts: kept until it is acknowledged, and routed. -/
def startMsg (s : State) (m : SbnMsg) : State :=
  let m := { m with ecrc := sbnCheck m }
  let s := if m.vc = 5 then s
    else
      let c := txConn s m.dst.val m.vc
      setTx s m.dst.val m.vc { c with unacked := c.unacked ++ [m] }
  let s := if responseBytes s m = 0 then s
    else { s with sbn := { s.sbn with awaits := s.sbn.awaits ++ [(m.op, m.dst.val, awaitTag s m, responseBytes s m)] } }
  route s m

/-- The first message of the queue that may start; later messages of a connection wait for earlier ones. -/
def firstStart (s : State) : List SbnMsg → List (Nat × Nat) → Option SbnMsg
  | [], _ => none
  | m :: l, blocked =>
    if blocked.contains (m.dst.val, m.vc) then firstStart s l blocked
    else if mayStart s m then some m
    else firstStart s l ((m.dst.val, m.vc) :: blocked)

/-- The next message of this part: one to be routed again, else the first that may start. -/
def forwardOwn (s : State) : State :=
  if fld s SBN_ID_VALID = 0 then s
  else match s.sbn.reroute with
    | m :: rest => route { s with sbn := { s.sbn with reroute := rest } } m
    | [] =>
      match firstStart s s.sbn.txq [] with
      | none => s
      | some m =>
        match removeFirst (fun x => x == m) s.sbn.txq with
        | some (_, rest) => startMsg { s with sbn := { s.sbn with txq := rest } } m
        | none => s

/-- The parts of a set, in ascending id. -/
def partsIn (set : BitVec 16) : List Nat := (List.range 16).filter (fun p => bitOf p set.toNat)

/-- The message of a transfer to one part (R327, R333). -/
def transferMsg (s : State) (x : Transfer) (part tag : Nat) : SbnMsg :=
  let vc := if x.op = 0x01 then 3 else 0
  let arg := if x.op = 0x02 then x.len else 0
  { jobMsg s part x.op vc x.addr arg x.data x.token tag with mcast := x.mcast }

/-- Multicasts whose copies have all been acknowledged raise their token (R339). -/
def endMcasts (s : State) : State :=
  let ended := s.sbn.mcasts.filter (fun c => c.waits.isEmpty)
  let s := { s with sbn := { s.sbn with mcasts := s.sbn.mcasts.filter (fun c => !c.waits.isEmpty) } }
  ended.foldl (fun s c => if c.token = 0xFFFF ∨ faulted s then s else raiseToken s c.token) s

/-- A transfer starts (R322, R333, R339): a multicast gives one copy to each destination's connection in ascending part id; the copy
to a shuttered part is dropped before injection and its token does not wait for it. A `READ` keeps where its data goes. -/
def startTransfer (x : Transfer) (s : State) : State :=
  if !jobLive s then s
  else if x.mcast then
    let live := (partsIn x.dsts).filter (fun p => !shuttered s p)
    let vc := if x.op = 0x01 then 3 else 0
    let c : McastS := { token := x.done, waits := live.map (fun p => (connKey p vc, (txConn s p vc).next)) }
    let s := (partsIn x.dsts).foldl (fun s p => sbnSend s (transferMsg s x p 0)) s
    endMcasts { s with sbn := { s.sbn with mcasts := s.sbn.mcasts ++ [c] } }
  else
    match partsIn x.dsts with
    | [] => s
    | p :: _ =>
      if x.op = 0x02 then
        let (s, tag) := newTag s
        sbnSend { s with sbn := { s.sbn with reads := s.sbn.reads ++ [{ part := p, tag := tag, back := x.back, len := x.len }] } }
          (transferMsg s x p tag)
      else sbnSend s (transferMsg s x p 0)

/-- `MESSAGE_FORWARD` (R324–R327, R332, R339): this part's next message, after a transfer that starts now, or a message in transit
picks a port. A message in transit gives up the buffers it held here. -/
def messageForward (transit : Option SbnMsg) (start : Option Transfer) (s : State) : State :=
  let s := match start with
    | some x => startTransfer x s
    | none => s
  match transit with
  | none => forwardOwn s
  | some m =>
    if fld s SBN_ID_VALID = 0 ∨ m.dst.val = partId s then s
    else match removeFirst (fun (e : Nat × SbnMsg) => e.2 == m) s.sbn.transit with
      | some (e, rest) =>
        route (freeBuffers { s with sbn := { s.sbn with transit := rest } } e.1 (chanOf m) (m.hop - 1) (flitCount m)) m
      | none => route s m

def execMessageForward (what : Forward) (s : State) : Host.Outcome State Fault Refusal :=
  runCmd (messageForward what.transit what.start) s

/-! Ports up and down (R313, R318, R326). -/

/-- A port's `SBN_PORTn` fields that say what it is now. -/
def setLanes (s : State) (p lanes : Nat) : State :=
  if fld s SBN_PORT_LANES 0 p = lanes then s
  else setFld { s with sbn := { s.sbn with widthChanged := true } } SBN_PORT_LANES lanes 0 p

/-- A port declared down (R318): out of every route, its replay buffer and the rest of messages partly sent discarded, whole
messages back to routing, a retrain where `AUTO_RETRAIN` is 1. -/
def portDown (s : State) (p : Nat) : State :=
  if fld s SBN_PORT_UP 0 p = 0 then s
  else
    let whole := ((port s p).outq.filter (fun e => e.2 == 0)).map (fun e => e.1)
    let detach := fun (e : Nat × SbnMsg) => if e.1 = p then (10, e.2) else e
    let s := setPort s p {}
    let s := { s with sbn := { s.sbn with
      reroute := s.sbn.reroute ++ whole, arrived := s.sbn.arrived.map detach, transit := s.sbn.transit.map detach,
      pool := s.sbn.pool.map detach } }
    let s := setLanes (setFld s SBN_PORT_UP 0 0 p) p 0
    let s := setFld s SBN_PORT_TRAINING (b2n (fld s SBN_CFG_AUTO_RETRAIN == 1 && fld s SBN_CFG_EN == 1)) 0 p
    refreshRoutes (event (bump s SBN_PORT_DOWNS 1 0 p) 0x6002)

/-- The lanes of a training: 8, 4, 2 or none (R313). -/
def trainedLanes (ok : Nat) : Nat :=
  if ok % 256 = 255 then 8
  else if ok % 16 = 15 ∨ ok / 16 % 16 = 15 then 4
  else if ([0, 2, 4, 6] : List Nat).any (fun i => bitOf i ok && bitOf (i + 1) ok) then 2
  else 0

/-- `SBN_CFG.MIN_LANES` as a number of lanes. -/
def minLanes (s : State) : Nat := match fld s SBN_CFG_MIN_LANES with | 0 => 2 | 1 => 4 | _ => 8

/-- `LINK_UP` (R313, R326): a training ends. A width below `MIN_LANES` leaves the port down. -/
def linkUp (p : Nat) (laneOk : BitVec 8) (peerPart peerPort : Nat) (s : State) : State :=
  if fld s SBN_PORT_TRAINING 0 p = 0 ∨ fld s SBN_CFG_EN = 0 then s
  else
    let w := trainedLanes laneOk.toNat
    let s := setFld (setFld s SBN_PORT_LANE_OK laneOk.toNat 0 p) SBN_PORT_TRAINING 0 0 p
    if w < minLanes s then s
    else
      let s := setLanes s p (if w = 8 then 3 else if w = 4 then 2 else 1)
      let s := setFld (setFld (setFld s SBN_PORT_UP 1 0 p) SBN_PORT_PEER_PART peerPart 0 p) SBN_PORT_PEER_PORT peerPort 0 p
      let s := setPort s p { returnAt := true }
      let s := event s 0x6003
      if w = 8 then s else event s 0x6004

def execLinkUp (port : Fin 10) (laneOk : BitVec 8) (peerPart : Fin 16) (peerPort : Fin 10) (s : State) :
    Host.Outcome State Fault Refusal := runCmd (linkUp port.val laneOk peerPart.val peerPort.val) s

/-- `LINK_DOWN_NOTICE`, `FEC_LOCK_LOSS`, `NO_GOOD_FLIT_TIMEOUT` (R318). -/
def execLinkDownNotice (port : Fin 10) (s : State) : Host.Outcome State Fault Refusal :=
  runCmd (fun s => portDown s port.val) s
def execFecLockLoss (port : Fin 10) (s : State) : Host.Outcome State Fault Refusal :=
  runCmd (fun s => portDown s port.val) s
def execNoGoodFlitTimeout (port : Fin 10) (s : State) : Host.Outcome State Fault Refusal :=
  runCmd (fun s => portDown s port.val) s

/-- `SBN_PORT_ENABLE` (R313, R345): with `EN` 1 the ports that are down train; with 0 none runs. -/
def sbnPortEnable (en : Bool) (s : State) : State :=
  let s := setFld s SBN_CFG_EN (b2n en)
  (List.range 10).foldl (fun s p =>
    if en then (if fld s SBN_PORT_UP 0 p = 1 then s else setFld s SBN_PORT_TRAINING 1 0 p)
    else setFld (portDown s p) SBN_PORT_TRAINING 0 0 p) s

def execSbnPortEnable (en : Bool) (s : State) : Host.Outcome State Fault Refusal := runCmd (sbnPortEnable en) s

/-! Link retry (R317). -/

/-- The flits of the replay buffer from an `LSEQ` on. -/
def replayFrom (l : List (Nat × Nat × List Byte)) (lseq : Nat) : List (Nat × Nat × List Byte) :=
  l.dropWhile (fun e => e.1 != lseq)

/-- A resend (R317, R318): one `LINK_RETRY`; a `RETRY_BUDGET` of them with no advance of `ACK` takes the port down. -/
def resend (s : State) (p : Nat) (l : List (Nat × Nat × List Byte)) : State :=
  if l = [] then s
  else
    let x := port s p
    let s := setPort s p { x with resends := x.resends + 1 }
    let s := event (bump s SBN_PORT_REPLAYS 1 0 p) 0x6001
    let s := l.foldl (fun s e => sendFlit s p e.2.1 e.1 e.2.2) s
    if fld s SBN_LINK_RETRY_BUDGET ≤ x.resends + 1 then portDown s p else s

/-- `RETRY` (R317): the sender resends from the named flit. -/
def retry (p lseq : Nat) (s : State) : State :=
  if fld s SBN_PORT_UP 0 p = 0 then s else resend s p (replayFrom (port s p).replay lseq)

def execRetry (port : Fin 10) (lseq : Nat) (s : State) : Host.Outcome State Fault Refusal := runCmd (retry port.val lseq) s

/-- `LINK_RETRY_TIMEOUT` (R317, R56): with everything acknowledged the timer never fires. -/
def linkRetryTimeout (p : Nat) (s : State) : State :=
  if fld s SBN_PORT_UP 0 p = 0 then s else resend s p (port s p).replay

def execLinkRetryTimeout (port : Fin 10) (s : State) : Host.Outcome State Fault Refusal :=
  runCmd (linkRetryTimeout port.val) s

/-- What `ACK` leaves in the replay buffer (R314, R317). -/
def afterAck (l : List (Nat × Nat × List Byte)) (a : Nat) : List (Nat × Nat × List Byte) :=
  if l.any (fun e => e.1 == a) then (l.dropWhile (fun e => e.1 != a)).drop 1 else l

/-- The header's `ACK` and credit return taken in (R314, R317, R320). -/
def takeHeader (s : State) (p hdr : Nat) : State :=
  let x := port s p
  let l := afterAck x.replay (bitsOf 20 11 hdr)
  let key := bitsOf 31 3 hdr * 4 + bitsOf 34 2 hdr
  let used := kPut x.used key (kGetD x.used key 0 - bitsOf 36 4 hdr) 0
  setPort s p { x with replay := l, used := used, resends := if l.length < x.replay.length then 0 else x.resends }

/-- A reassembled message: for this part, or in transit on its next link (R324, R327). -/
def takeMessage (s : State) (p hop chan : Nat) (bs : List Byte) : State :=
  let m := decMsg hop chan bs
  if m.dst.val = partId s then { s with sbn := { s.sbn with arrived := s.sbn.arrived ++ [(p, m)] } }
  else { s with sbn := { s.sbn with transit := s.sbn.transit ++ [(p, { m with hop := hop + 1 })] } }

/-- A good data flit (R314, R317): accepted in `LSEQ` order only. -/
def takeData (s : State) (p hdr : Nat) (payload : List Byte) : State :=
  let x := port s p
  if fld s SBN_ID_VALID = 0 ∨ bitsOf 9 11 hdr ≠ x.rxSeq then s
  else
    let vc := bitsOf 2 3 hdr
    let bs := (if bitOf 5 hdr then [] else kGetD x.partials vc []) ++ payload
    let s := setPort s p { x with
      rxSeq := (x.rxSeq + 1) % 2048,
      partials := if bitOf 6 hdr then kErase x.partials vc else kSet x.partials vc bs }
    let s := if bitOf 6 hdr then takeMessage s p (bitsOf 7 2 hdr) vc bs else s
    sendIdle s p

/-- Codewords that a Sirben port's FEC corrected, counted in units of 1,024 (R345). -/
def sbnCorrected (s : State) (p n : Nat) : State :=
  if n = 0 then s
  else
    let m := kGetD s.sbn.fec p 0 + n
    bump { s with sbn := { s.sbn with fec := kPut s.sbn.fec p (m % 1024) 0 } } SBN_PORT_FEC_CORR (m / 1024) 0 p

/-- `FLIT_RECEIVE` (R312, R314–R318): a flit arrives at a port, with the codewords that its FEC corrected since the last. A bad one (its
check, or an uncorrectable codeword) is answered with `RETRY` naming the `LSEQ` expected. -/
def flitReceive (p : Nat) (flit : List Byte) (fecBad : Bool) (corrected : Nat) (s : State) : State :=
  if fld s SBN_PORT_UP 0 p = 0 then s
  else
  let s := sbnCorrected s p corrected
  if fecBad || !flitGood flit then
    let s := bump (if fecBad then bump s SBN_PORT_FEC_UNCORR 1 0 p else s) SBN_PORT_CRC_ERR 1 0 p
    let x := port s p
    sendFlit s p 2 0 (leBytes 1 1 ++ leBytes 2 x.rxSeq)
  else
    let hdr := leAt flit 0 5
    let s := takeHeader s p hdr
    let s := match bitsOf 0 2 hdr with
      | 0 => takeData s p hdr (slice flit 8 248)
      | 2 => if leAt flit 8 1 = 1 then retry p (leAt flit 9 2 % 2048) s
             else if leAt flit 8 1 = 2 then portDown s p else s
      | _ => s
    pump s p

def execFlitReceive (port : Fin 10) (flit : List Byte) (fec : FecReport) (s : State) : Host.Outcome State Fault Refusal :=
  runCmd (flitReceive port.val flit fec.bad fec.corrected) s

/-! Acknowledgements (R329, R330, R332). -/

/-- The cumulative `ACK` of a connection: the last `TSEQ` delivered, the channel in `ARG`, `CE` echoed (R329, R332; log 65). -/
def sendAck (s : State) (src vc : Nat) : State :=
  let c := rxConn s src vc
  let m : SbnMsg :=
    { src := finPart (partId s), dst := finPart src, op := 0x30, vc := 5, ce := c.ce, tseq := (c.expected + 2 ^ 32 - 1) % 2 ^ 32,
      job := s.job.id, arg := vc }
  let s := setRx s src vc { c with since := 0, ce := false }
  if shuttered s src then s else { s with sbn := { s.sbn with txq := s.sbn.txq ++ [m] } }

/-- `ACK_TIMER` (R329): 256 cycles after a delivery. -/
def ackTimer (src vc : Nat) (s : State) : State := if (rxConn s src vc).since = 0 then s else sendAck s src vc

def execAckTimer (src : Fin 16) (vc : Fin 6) (s : State) : Host.Outcome State Fault Refusal :=
  runCmd (ackTimer src.val vc.val) s

/-- `a` is not after `b` in `TSEQ` order. -/
def tseqUpTo (a b : Nat) : Bool := decide ((b + 2 ^ 32 - a) % 2 ^ 32 < 2 ^ 31)

/-- The window after `n` messages were acknowledged at cycle `t` (R332). -/
def adaptWindow (s : State) (dst vc n t : Nat) (ce : Bool) : State :=
  let c := txConn s dst vc
  let w := windowOf s c
  if fld s SBN_CFG_THROTTLE_EN = 0 then setTx s dst vc { c with window := 0, run := 0 }
  else if ce then
    if (match c.lastHalve with | some u => decide (u + 4096 ≤ t) | none => true) then
      let s := setTx s dst vc { c with window := max (w / 2) (fld s SBN_XPORT_W_MIN), run := 0, lastHalve := some t }
      event (bump s SBN_EVT_THROTTLE) 0x6008
    else setTx s dst vc { c with run := 0 }
  else if w ≤ c.run + n then
    setTx s dst vc { c with window := min (w + 1) (fld s SBN_XPORT_W_MAX), run := c.run + n - w }
  else setTx s dst vc { c with run := c.run + n }

/-- `TRANSPORT_RETX` (R330, R56): the connection's timer expires; after `BUDGET` expiries with no advancing `ACK` the job faults
with `LINK_LOST`, else every unacknowledged message is resent with `RETX`. -/
def transportRetx (dst vc : Nat) (s : State) : State :=
  let c := txConn s dst vc
  match (if vc ≤ 3 ∧ faulted s = true then [] else c.unacked) with
  | [] => s
  | m :: _ =>
    let s := event (bump s SBN_EVT_RETX) 0x6007
    let s := setTx s dst vc { c with expiries := c.expiries + 1 }
    if fld s SBN_XPORT_BUDGET ≤ c.expiries + 1 then sbnFault s 0x6080 vc dst 0xFF m.tseq
    else
      let again := c.unacked.map (fun (x : SbnMsg) =>
        let y := { x with retx := true }
        { y with ecrc := sbnCheck y })
      let old := s.sbn.reroute.filter (fun x => !(x.src.val == partId s && x.dst.val == dst && x.vc == vc))
      { s with sbn := { s.sbn with reroute := old ++ again } }

def execTransportRetx (dst : Fin 16) (vc : Fin 6) (s : State) : Host.Outcome State Fault Refusal :=
  runCmd (transportRetx dst.val vc.val) s

/-! Shutters (R340, R341). -/

/-- An operation of this part waits on part `x`: rows asked of it, a draw or a `READ` sent to it, an open scatter round without its
markers (R341). -/
def waitsOn (s : State) (x : Nat) : Bool :=
  s.graphs.any (fun e => e.2.wait.any (fun w => w.asked.any (fun a => a.part == x && (kGet? e.2.got a.tag).isNone))) ||
  s.sbn.draws.any (fun d => d.1 == x) || s.sbn.reads.any (fun r => r.part == x) ||
  ((groupOf s).contains x && s.step.open_ && !s.job.fast && (List.range 8).any (fun k =>
    match openRound s k with
    | some r => roundBegun (emb s k) r &&
        decide (((emb s k).markers.filter (fun m => m.1 == r.1 && m.2.1 == r.2 && m.2.2.1 == x)).length < 8)
    | none => false))

/-- The collectives started here that have part `x` among their members. -/
def collsWith (s : State) (x : Nat) : List CollS :=
  s.sbn.colls.filter (fun c => (List.range (collN s c.id)).any (fun i => collMember s c.id i == x))

/-- Part `x` is shuttered (R340, R341). -/
def shutterPart (s : State) (x : Nat) : State :=
  if shuttered s x then s
  else
    let s := event (setFldBit s SBN_SHUTTER_MASK x true) 0x600B
    let drop := (s.sbn.txq.filter (fun m => m.dst.val == x)).length
    let own := fun (m : SbnMsg) => m.dst.val == x && m.src.val == partId s
    let s := event (bump s SBN_EVT_SHUTTER_DROP drop) 0x600C drop
    let s := { s with sbn := { s.sbn with
      txq := s.sbn.txq.filter (fun m => m.dst.val != x), reroute := s.sbn.reroute.filter (fun m => !own m),
      tx := s.sbn.tx.map (fun (e : Nat × TxConn) => if e.1 / 8 = x then (e.1, { e.2 with unacked := [] }) else e),
      mcasts := s.sbn.mcasts.map (fun (c : McastS) => { c with waits := c.waits.filter (fun w => w.1 / 8 != x) }) } }
    if !jobLive s then s
    else
      let s := endMcasts s
      let s := (collsWith s x).foldl (fun s c => collShuttered s c x) s
      if waitsOn s x then sbnFault s 0x6081 0 x 0xFF 0 else s

/-! Delivery (R328, R331, R333, R334). -/

/-- Addresses a `WRITE` may reach, and a `READ` (R334). -/
def writeReach (a n : Nat) : Bool :=
  (decide (a + n ≤ dramTop) && !inRetained a n) ||
  (decide (0x10000000000 ≤ a) && decide (a + n ≤ tileBase 96) && inSpad ((a - 0x10000000000) % 0x1000000) n)
def readReach (a n : Nat) : Bool :=
  writeReach a n ||
  (decide (0x10000000000 ≤ a) && decide (a + n ≤ tileBase 96) && inBank ((a - 0x10000000000) % 0x1000000) n)

/-- `WRITE` at its destination (R334). -/
def deliverWrite (m : SbnMsg) (s : State) : State :=
  if !writeReach m.addr m.data.length then fault s 0x5083
  else if m.addr < dramTop then dramWrite s m.addr m.data 0
  else store (spadCheck s m.addr 0 m.found).1 m.addr m.data

/-- `READ` at its destination (R334): `READ_DATA` with the request's `TAG`, and its token for the requester. A length
outside 1–7,904 has no answer (log 66). -/
def deliverRead (m : SbnMsg) (s : State) : State :=
  if !readReach m.addr m.arg then fault s 0x5083
  else if m.arg = 0 ∨ 7904 < m.arg then s
  else
    let r := if m.addr < dramTop then dramRead s m.addr m.arg 0 else spadCheck s m.addr m.arg m.found
    if r.2 then sbnSend r.1 (jobMsg r.1 m.src.val 0x03 1 0 0 (load r.1 m.addr m.arg) m.token m.tag) else r.1

/-- `READ_DATA` at the requester (R333): the data goes where the transfer named, and the receive space is free again. -/
def deliverReadData (m : SbnMsg) (s : State) : State :=
  match s.sbn.reads.find? (fun r => r.part == m.src.val && r.tag == m.tag) with
  | none => s
  | some r =>
    let s := endAwait { s with sbn := { s.sbn with reads := s.sbn.reads.filter (fun x => x != r) } } 0x02 m.src.val m.tag
    let bs := m.data.take r.len
    if r.back < dramTop then dramWrite s r.back bs 0 else store s r.back bs

/-- `SHUTTER`, `FAULT_NOTICE`, `COLL_CTL` (R340, R342). The peer class is the management channel, whatever the header names (R2): on
another channel a notice has no effect (log 120). -/
def deliverNotice (m : SbnMsg) (s : State) : State :=
  let subject := leAt m.data 0 1 % 16
  if chanOf m ≠ 4 then s
  else if m.op = 0x40 then shutterPart s subject
  else if m.op = 0x41 then sbnFault s 0x6084 4 m.src.val 0xFF 0
  else if leAt m.data 1 1 = 1 then
    match s.sbn.colls.find? (fun c => c.id == m.arg % 256) with
    | some c => collShuttered s c subject
    | none => s
  else event (bump s SBN_EVT_PEER_DROP) 0x600D

/-- The notices that the management channel carries (R2, R4). -/
def noticeOp (op : Nat) : Bool := decide (0x40 ≤ op) && decide (op ≤ 0x42)

/-- The operations of R333. -/
def knownOp (op : Nat) : Bool := (decide (1 ≤ op) && decide (op ≤ 0xB)) || op == 0x10 || op == 0x30 || noticeOp op

/-- The effect of a message by its operation, then its token (R333, R334). -/
def deliverOp (m : SbnMsg) (s : State) : State :=
  let s := match m.op with
    | 0x01 => deliverWrite m s
    | 0x02 => deliverRead m s
    | 0x03 => deliverReadData m s
    | 0x04 => deliverDraw m s
    | 0x05 => deliverPlace m s
    | 0x06 => deliverRowreq m s
    | 0x07 => deliverRows m s
    | 0x08 => deliverPartial m s
    | 0x09 => deliverHanddown m s
    | 0x0A => deliverScatter m s
    | 0x10 => deliverColl m s
    | 0x40 => deliverNotice m s
    | 0x41 => deliverNotice m s
    | 0x42 => deliverNotice m s
    | _ => s
  if faulted s ∨ m.op = 0x02 ∨ m.token = 0xFFFF then s else raiseToken s m.token

/-- A message must wait although its turn has come (R337). -/
def mustHold (s : State) (m : SbnMsg) : Bool := m.op == 0x10 && m.arg == collArg s (m.arg % 256) && collHeld s m

/-- A message delivered: the connection moves on, and after eight deliveries an `ACK` goes back (R328, R329). -/
def deliver (s : State) (m : SbnMsg) : State :=
  let c := rxConn s m.src.val m.vc
  let s := setRx s m.src.val m.vc { expected := (c.expected + 1) % 2 ^ 32, since := c.since + 1, ce := c.ce || m.ce }
  let s := deliverOp m s
  if 8 ≤ (rxConn s m.src.val m.vc).since then sendAck s m.src.val m.vc else s

/-- Messages held whose turn has come are delivered, in order. -/
def drainPool : Nat → State → State
  | 0, s => s
  | n + 1, s =>
    if faulted s then s
    else match removeFirst (fun (e : Nat × SbnMsg) =>
        e.2.tseq == (rxConn s e.2.src.val e.2.vc).expected && !mustHold s e.2) s.sbn.pool with
      | none => s
      | some (e, rest) =>
        let s := freeBuffers { s with sbn := { s.sbn with pool := rest } } e.1 (chanOf e.2) e.2.hop (flitCount e.2)
        drainPool n (deliver s e.2)

/-- Everything that can now be delivered. -/
def sbnSettle (s : State) : State := drainPool s.sbn.pool.length s

/-- A message that has passed its checks enters its connection's order (R328). -/
def inOrder (s : State) (p : Nat) (m : SbnMsg) : State :=
  let c := rxConn s m.src.val m.vc
  let free := fun (s : State) => freeBuffers s p (chanOf m) m.hop (flitCount m)
  let keep := fun (s : State) (q : Nat) => { s with sbn := { s.sbn with pool := s.sbn.pool ++ [(q, m)] } }
  let room := decide (s.sbn.pool.length < 256) && !s.sbn.pool.any (fun e => e.2.src == m.src && e.2.vc == m.vc && e.2.tseq == m.tseq)
  if m.tseq = c.expected then
    if mustHold s m then (if room then keep s p else free s)
    else sbnSettle (deliver (free s) m)
  else if tseqUpTo m.tseq c.expected then sendAck (free s) m.src.val m.vc
  else if room then keep (free s) 10
  else free s

/-- The operation of an `ACK` (R329, R330, R332). -/
def takeAck (m : SbnMsg) (t : Nat) (s : State) : State :=
  let dst := m.src.val
  let vc := m.arg % 8
  let c := txConn s dst vc
  let left := c.unacked.filter (fun x => !tseqUpTo x.tseq m.tseq)
  let n := c.unacked.length - left.length
  let s := { s with sbn := { s.sbn with
    reroute := s.sbn.reroute.filter (fun x => !(x.src.val == partId s && x.dst.val == dst && x.vc == vc && tseqUpTo x.tseq m.tseq)) } }
  let s := endMcasts { s with sbn := { s.sbn with mcasts := s.sbn.mcasts.map (fun (c : McastS) =>
    { c with waits := c.waits.filter (fun w => !(w.1 == connKey dst vc && tseqUpTo w.2 m.tseq)) }) } }
  if n = 0 ∧ m.ce = false then s
  else adaptWindow (setTx s dst vc { c with unacked := left, expiries := if n = 0 then c.expiries else 0 }) dst vc n t m.ce

/-- A message arrives whole at this part: the checks of R331, R4, R341, R342 and R448, then its order. `ops` are the operations of
the command's row; a message of another row is left alone, one of a reserved operation is judged here. A message dropped under R4 is
neither acknowledged nor counted in its connection's order: R4 names no answer at the transport (DESIGN CHOICE, log 120). -/
def takeIn (ops : List Nat) (t : Nat) (m : SbnMsg) (s : State) : State :=
  if m.dst.val ≠ partId s ∨ (knownOp m.op && !ops.contains m.op) = true then s
  else
    let (p, s) := match removeFirst (fun (e : Nat × SbnMsg) => { e.2 with found := m.found } == m) s.sbn.arrived with
      | some (e, rest) => (e.1, { s with sbn := { s.sbn with arrived := rest } })
      | none => (10, s)
    let drop := fun (s : State) => freeBuffers s p (chanOf m) m.hop (flitCount m)
    if sbnCheck m ≠ m.ecrc then event (bump (drop s) SBN_EVT_ECRC_ERR) 0x600A
    else if jobLoaded s = false ∨ m.job ≠ s.job.id then event (bump (drop s) SBN_EVT_JOB_DROP) 0x6009
    else if chanOf m = 4 ∧ noticeOp m.op = false then event (bump (drop s) SBN_EVT_PEER_DROP) 0x600D
    else if shuttered s m.src.val ∨ (m.vc ≤ 3 ∧ faulted s = true) then drop s
    else if !knownOp m.op then sbnFault (drop s) 0x6085 (m.vc % 8) m.src.val 0xFF 0
    else if m.op = 0x30 then takeAck m t (drop s)
    else inOrder s p m

def execWrite (m : SbnMsg) (s : State) : Host.Outcome State Fault Refusal := runCmd (takeIn [0x01] 0 m) s
def execRead (m : SbnMsg) (s : State) : Host.Outcome State Fault Refusal := runCmd (takeIn [0x02] 0 m) s
def execReadData (m : SbnMsg) (s : State) : Host.Outcome State Fault Refusal := runCmd (takeIn [0x03] 0 m) s
def execDraw (m : SbnMsg) (s : State) : Host.Outcome State Fault Refusal := runCmd (takeIn [0x04] 0 m) s
def execPlace (m : SbnMsg) (s : State) : Host.Outcome State Fault Refusal := runCmd (takeIn [0x05] 0 m) s
def execRowreq (m : SbnMsg) (s : State) : Host.Outcome State Fault Refusal := runCmd (takeIn [0x06] 0 m) s
def execRows (m : SbnMsg) (s : State) : Host.Outcome State Fault Refusal := runCmd (takeIn [0x07] 0 m) s
def execPartialRows (m : SbnMsg) (s : State) : Host.Outcome State Fault Refusal := runCmd (takeIn [0x08] 0 m) s

/-- `HANDDOWN` (R105): one from this part's own tiles comes over the mesh and not through the transport. -/
def handdown (m : SbnMsg) (s : State) : State :=
  if m.op = 0x09 ∧ m.src.val = partId s then (if jobLive s then deliverHanddown m s else s) else takeIn [0x09] 0 m s

def execHanddown (m : SbnMsg) (s : State) : Host.Outcome State Fault Refusal := runCmd (handdown m) s
def execScatter (m : SbnMsg) (s : State) : Host.Outcome State Fault Refusal := runCmd (takeIn [0x0A] 0 m) s
def execToken (m : SbnMsg) (s : State) : Host.Outcome State Fault Refusal := runCmd (takeIn [0x0B] 0 m) s
def execColl (m : SbnMsg) (s : State) : Host.Outcome State Fault Refusal := runCmd (takeIn [0x10] 0 m) s
def execAck (m : SbnMsg) (t : Nat) (s : State) : Host.Outcome State Fault Refusal := runCmd (takeIn [0x30] t m) s
def execShutterNotice (m : SbnMsg) (s : State) : Host.Outcome State Fault Refusal := runCmd (takeIn [0x40] 0 m) s
def execFaultNotice (m : SbnMsg) (s : State) : Host.Outcome State Fault Refusal := runCmd (takeIn [0x41] 0 m) s
def execCollCtl (m : SbnMsg) (s : State) : Host.Outcome State Fault Refusal := runCmd (takeIn [0x42] 0 m) s

/-! `CSTART` (R335, R337, R338). -/

/-- The checks of `CSTART`: its reserved bits, and a declared collective. -/
def cstartOk (s : State) (w : Word32B) : Bool :=
  bitsOf 16 240 w.toNat == 0 && (kGet? s.job.colls (bitsOf 8 8 w.toNat)).isSome

/-- `CSTART`: the collective starts at this part. -/
def cstart (s : State) (t : Nat) (task : WinTask) (i : TileIns) : State :=
  if cstartOk s i.word then
    let s := collStart s (bitsOf 8 8 i.word.toNat) none
    if faulted s then s else sbnSettle s
  else instrInvalid s t task i.index

def execCstart (i : TileIns) (s : State) : Host.Outcome State Fault Refusal := runCmd (unitIns 0x60 cstart i) s

end Sys2Proof.Machine
end

