-- ==== Sys2Proof/Machine/Optim.lean ====
section
/-! DEFINITION. The optimisers of a commit (05, R133; 12, R284): weight tensors and sashes (R279–R281), the dense phase on the
owner tiles, the embedding phase on the base dies with its class decisions (R125–R127) and undo entries (R293). -/

namespace Sys2Proof.Machine

/-! FP32 arithmetic. -/

/-- a − b. -/
def f32sub (st : Bool) (a b : BitVec 32) : FRes := addNum fpFP32 st .rne (f32 st a) (negNum (f32 st b))

/-- 1.0. -/
def wOne : BitVec 32 := 0x3F800000

/-- λ (R286). -/
def lambda (s : State) : Int := signed 8 (fld s PANE_COMMIT_LAMBDA_LAMBDA)

/-- A gradient multiplied by 2^−λ: exact but where the result is flushed or leaves the range (R284). -/
def unscaled (st : Bool) (lam : Int) (w : BitVec 32) : FRes := mulNum fpFP32 st .rne (.fin false 1 (-lam)) (f32 st w)

/-- The hyperparameters `LR`, `MOM_B1`, `B2`, `EPS`, `WD` (R133). -/
structure Hyper where
  lr : BitVec 32
  b1 : BitVec 32
  b2 : BitVec 32
  eps : BitVec 32
  wd : BitVec 32
  deriving DecidableEq, Repr

/-- Hyperparameters from their words. -/
def hyperOf (f : Nat → Nat) : Hyper :=
  let x := fun i => BitVec.ofNat 32 (f i)
  ⟨x 0, x 1, x 2, x 3, x 4⟩

/-- `EMB_OPTn` at a stack. -/
def embHyper (s : State) (k t : Nat) : Hyper :=
  hyperOf (fun i => fld s (([EMB_OPT_LR, EMB_OPT_MOM_B1, EMB_OPT_B2, EMB_OPT_EPS, EMB_OPT_WD]).getD i EMB_OPT_LR) k t)

/-- `PANE_DOPTn`. -/
def denseHyper (s : State) (t : Nat) : Hyper :=
  hyperOf (fun i => fld s (([PANE_DOPT_LR, PANE_DOPT_MOM_B1, PANE_DOPT_B2, PANE_DOPT_EPS, PANE_DOPT_WD]).getD i PANE_DOPT_LR) 0 t)

/-- A weight, its optimiser state and what the operations that formed them gave. -/
structure OptEl where
  w : BitVec 32
  m : BitVec 32 := 0
  v : BitVec 32 := 0
  ops : List FRes := []
  deriving DecidableEq, Repr

/-- B^k by binary exponentiation over the bits of k, least significant first (R133), with its operations. -/
def powW (st : Bool) : Nat → Nat → BitVec 32 → BitVec 32 → List FRes → BitVec 32 × List FRes
  | 0, _, _, r, l => (r, l)
  | n + 1, k, b, r, l =>
    if k = 0 then (r, l)
    else
      let p := f32mul st r b
      let q := f32mul st b b
      if k % 2 = 1 then powW st n (k / 2) q.w p.w (l ++ [p, q]) else powW st n (k / 2) q.w r (l ++ [q])

/-- SGD with momentum: the new w and m (R133). -/
def sgdStep (st : Bool) (h : Hyper) (g w m : BitVec 32) : OptEl :=
  let d := f32mul st h.wd w
  let g := f32add st g d.w
  let p := f32mul st h.b1 m
  let m := f32add st p.w g.w
  let u := f32mul st h.lr m.w
  let w := f32sub st w u.w
  ⟨w.w, m.w, 0, [d, g, p, m, u, w]⟩

/-- 1 − B1^k and 1 − B2^k, with their operations. -/
structure Bias where
  b1 : BitVec 32 := 0
  b2 : BitVec 32 := 0
  ops : List FRes := []
  deriving DecidableEq, Repr

def adamBias (st : Bool) (h : Hyper) (k : Nat) : Bias :=
  let p := powW st 64 k h.b1 wOne []
  let q := powW st 64 k h.b2 wOne []
  let a := f32sub st wOne p.1
  let b := f32sub st wOne q.1
  ⟨a.w, b.w, p.2 ++ q.2 ++ [a, b]⟩

/-- Adam, or AdamW, after k counted up: the new w, m and v (R133). -/
def adamStep (st isW : Bool) (h : Hyper) (bias : Bias) (g w m v : BitVec 32) : OptEl :=
  let d := f32mul st h.wd w
  let gd := f32add st g d.w
  let (g, pre) := if isW then (g, []) else (gd.w, [d, gd])
  let m1 := f32mul st h.b1 m
  let c1 := f32sub st wOne h.b1
  let m2 := f32mul st c1.w g
  let m' := f32add st m1.w m2.w
  let v1 := f32mul st h.b2 v
  let c2 := f32sub st wOne h.b2
  let v2 := f32mul st c2.w g
  let v3 := f32mul st v2.w g
  let v' := f32add st v1.w v3.w
  let mh := f32div st m'.w bias.b1
  let num := f32mul st h.lr mh.w
  let vh := f32div st v'.w bias.b2
  let rt := f32sqrt st vh.w
  let den := f32add st rt.w h.eps
  let up := f32div st num.w den.w
  let w1 := f32sub st w up.w
  let l := pre ++ [m1, c1, m2, m', v1, c2, v2, v3, v', mh, num, vh, rt, den, up, w1]
  if isW then
    let lw := f32mul st h.lr h.wd
    let dw := f32mul st lw.w w
    let w2 := f32sub st w1.w dw.w
    ⟨w2.w, m'.w, v'.w, l ++ [lw, dw, w2]⟩
  else ⟨w1.w, m'.w, v'.w, l⟩

/-- The fixed pairwise tree over element index. -/
def wTree (st : Bool) : Nat → List (BitVec 32) → BitVec 32
  | 0, l => l.headD 0
  | n + 1, l =>
    if l.length ≤ 1 then l.headD 0
    else wTree st n ((List.range ((l.length + 1) / 2)).map (fun i =>
      match l[2 * i]?, l[2 * i + 1]? with
      | some a, some b => (f32add st a b).w
      | some a, none => a
      | _, _ => 0))

/-- Row-wise Adagrad: the new row and G (R133). -/
def adagradRow (st : Bool) (h : Hyper) (gs ws : List (BitVec 32)) (big : BitVec 32) : List (BitVec 32) × BitVec 32 :=
  let gs := List.zipWith (fun g w => (f32add st g (f32mul st h.wd w).w).w) gs ws
  let mean := (f32div st (wTree st 12 (gs.map (fun g => (f32mul st g g).w))) (f32OfNat gs.length)).w
  let big := (f32add st big mean).w
  let den := (f32add st (f32sqrt st big).w h.eps).w
  (List.zipWith (fun g w => (f32sub st w (f32div st (f32mul st h.lr g).w den).w).w) gs ws, big)

/-! Weight tensors (R279–R281). -/

/-- Bytes of the optimiser state of a dense tensor (R280). -/
def denseState (x : Tensor) : Nat := if x.opt = 0 then 0 else if x.opt = 1 then 4 * x.k * x.n else 8 + 8 * x.k * x.n

/-- Bytes of a dense panel in transport form. -/
def densePanel (f : Nat) : Nat := 32 + 16 * 32 + 64 * blockBytes f

/-- The dense size of a sash (R280). -/
def denseSize (x : Tensor) : Nat :=
  4 * x.k * x.n + denseState x +
    (if x.wide then 2 * x.k * x.n else 2 * ((x.k / 128) * (x.n / 128)) * densePanel x.fmt)

/-- Two ranges of bytes share one. -/
def overlap (a n b m : Nat) : Bool := decide (a < b + m) && decide (b < a + n)

/-- A descriptor of 64 bytes (R279), with what the image says of the tensor beside it. -/
def tensorOf (d : Nat) (e : TensorAt) : Tensor :=
  { tensor := bitsOf 0 8 d, layer := bitsOf 8 8 d, wide := bitOf 16 d, opt := bitsOf 17 2 d, masked := bitOf 19 d,
    fmt := bitsOf 20 4 d, k := bitsOf 32 16 d, n := bitsOf 48 16 d, sashA := bitsOf 64 48 d, sashB := bitsOf 128 48 d,
    sashBytes := bitsOf 192 32 d, maskBase := bitsOf 256 48 d,
    reservedOk := ([(24, 8), (112, 16), (176, 16), (224, 32), (304, 16), (320, 192)] : List (Nat × Nat)).all (fun f =>
      bitsOf f.1 f.2 d == 0),
    off := e.off, owners := e.owners, hyper := e.hyper }

/-- Every other region that a sash of tensor `i` may not touch: the regions of the image, and the sashes of the other tensors. -/
def otherRegions (s : State) (i : Nat) : List (Nat × Nat) :=
  ((List.range 32).filter (fun n => decide (fld s BRY_REGION_KIND 0 n ≠ 0))).map (fun n =>
    (fld s BRY_REGION_BASE 0 n, fld s BRY_REGION_SIZE 0 n)) ++
  (((List.range s.job.tensors.length).zip s.job.tensors).filter (fun y => y.1 != i)).flatMap (fun y =>
    [(y.2.sashA, y.2.sashBytes), (y.2.sashB, y.2.sashBytes)])

/-- A sash of tensor `i` at `a` lies in the interleaved part and overlaps no other region (R281). -/
def sashOk (s : State) (i : Nat) (x : Tensor) (a : Nat) : Bool :=
  decide (a + x.sashBytes ≤ 8 * ilvBytes s) && !(otherRegions s i).any (fun r => overlap a x.sashBytes r.1 r.2)

/-- The operand format is of the tensor's group (R281). -/
def fmtGroup (x : Tensor) : Bool := if x.wide then x.fmt == 8 else fmtMx x.fmt

/-- The checks of R281 on the descriptor of tensor `i`. -/
def tensorOk (s : State) (i : Nat) (x : Tensor) : Bool :=
  x.reservedOk && (x.wide || (x.k % 128 == 0 && x.n % 128 == 0)) && fmtGroup x &&
  sashOk s i x x.sashA && sashOk s i x x.sashB && !overlap x.sashA x.sashBytes x.sashB x.sashBytes &&
  decide (denseSize x ≤ x.sashBytes)

/-- The tensors that a commit writes. -/
def trainable (s : State) : List Tensor := s.job.tensors.filter (fun x => x.opt != 0)

/-- The sash of a parity (R276). -/
def sashBase (x : Tensor) (parity : Nat) : Nat := if parity = 0 then x.sashA else x.sashB

/-- The owner block of an element and its address in that block (R263; log 60). -/
def dwBlock (x : Tensor) (row col : Nat) : Nat := row / 128 * ((x.n + 127) / 128) + col / 128
def dwOwner (x : Tensor) (row col : Nat) : Nat × Nat := x.owners.getD (dwBlock x row col) (0, 0)
def dwAddr (x : Tensor) (row col : Nat) : Nat :=
  tileBase (dwOwner x row col).1 + (dwOwner x row col).2 + row % 128 * 512 + col % 128 * 4

/-! The commit's faults (R285, R297). -/

/-- `PANE_COMMIT_FAULT` and the fault. -/
def commitFault (s : State) (code tensor stack : Nat) : State :=
  let s := firstRecord s PANE_COMMIT_FAULT_VALID 0 0 (fun s =>
    setFld (setFld (setFld (setFld (setFld s PANE_COMMIT_FAULT_TENSOR tensor) PANE_COMMIT_FAULT_CODE code)
      PANE_COMMIT_FAULT_STACK stack) PANE_COMMIT_FAULT_STEP s.step.current) PANE_COMMIT_FAULT_PANE (pane s))
  fault s code (some PANE_COMMIT_FAULT.base)

/-- The tensor whose `COMMIT` work raised a flag (R285): one that the dense phase found, else that of the layer of a `COMMIT` task whose
instruction raised one, on its owner tile. -/
def flaggedTensor (s : State) : Option Nat :=
  match s.step.flagged with
  | t :: _ => some t
  | [] =>
    (s.tiles.find? (fun e => e.2.commitFlags != 0)).map (fun e =>
      let here := (trainable s).filter (fun x => x.owners.any (fun o => o.1 == e.1))
      (((here.filter (fun x => some x.layer == e.2.commitLayer)) ++ here).head?.map (fun x => x.tensor)).getD 0)

/-- The `COMMIT`-task flags are checked once both phases have ended (R284, R285). -/
def checkFlags (s : State) : State :=
  if s.step.denseDone && (List.range 8).all (fun k => s.step.embDone.contains k) then
    match flaggedTensor s with
    | some t => commitFault s 0x4883 t 0
    | none => s
  else s

/-! The dense phase (R284). -/

/-- An element of a tensor updated from the current sash at `a`; a frozen one keeps its master and its state (R265). -/
def commitElem (s : State) (x : Tensor) (h : Hyper) (bias : Bias) (a row col : Nat) : OptEl :=
  let st := strictMode s
  let e := row * x.n + col
  let at_ := fun off => loadW s (a + off + 4 * e)
  let kn := 4 * x.k * x.n
  let w := at_ 0
  let m := at_ (if x.opt = 1 then kn else kn + 8)
  let v := if x.opt = 1 then 0 else at_ (2 * kn + 8)
  if frozen s x row col then ⟨w, m, v, []⟩
  else
    let g := unscaled st (lambda s) (loadW s (dwAddr x row col))
    let r := if x.opt = 1 then sgdStep st h g.w w m else adamStep st (x.opt == 3) h bias g.w w m v
    { r with ops := g :: bias.ops ++ r.ops }

/-- A task of class `COMMIT` and of the tensor's layer on an owner tile: the one in its window, or such a task without a number. -/
def commitTask (s : State) (x : Tensor) (t : Nat) : WinTask :=
  let blank : WinTask := { desc := BitVec.ofNat 256 (t * 2 ^ 40 + x.layer * 2 ^ 96), addr := 0, pass := s.step.current }
  ((site s t).run.toList ++ (site s t).window).find? (fun u => dClass u.desc == 0 && dLayer u.desc == x.layer) |>.getD blank

/-- The report of an element's operations as a `COMMIT` task's, with the element's place in its instruction (R199). -/
def elemReport (at_ : Nat) (l : List FRes) : VfuFlags :=
  let r := flagsOf fpFP32 l
  { r with first := r.first.map (fun f => (at_, f.2)) }

/-- The operations of an element reported by its owner tile (R189, R192, R199, R200). Which instruction of its `COMMIT` task formed it, and
as which element, the spec leaves to the task: free values (log 126). -/
def elemFlags (x : Tensor) (instr at_ : Nat) (s : State) (e : Nat × Nat × OptEl) : State :=
  let t := (dwOwner x e.1 e.2.1).1
  fmtReport s t (commitTask s x t) (instr % 65536) (elemReport ((at_ + e.1 * x.n + e.2.1) % 2 ^ 21) e.2.2.ops)

/-- The bytes of an operand copy (R280), and the conversions that made it, each with the row and the column of its owner. -/
structure OpCopy where
  bytes : List Byte
  convs : List (Nat × Nat × ConvOut)
  deriving DecidableEq, Repr

/-- The operand copies of a tensor (R280): a narrow one's panel by panel, a wide one's row by row in pieces of 128. -/
def operandCopies (s : State) (x : Tensor) (rows : List (List Num)) : List OpCopy :=
  let st := strictMode s
  if x.wide then
    ((List.range rows.length).zip rows).flatMap (fun r =>
      (List.range ((x.n + 127) / 128)).map (fun j =>
        let piece := (r.2.drop (128 * j)).take 128
        let o := (convRun (plainConv 8 st) ((List.range piece.length).zip piece)).1
        ⟨packRow 8 o.bits, [(r.1, 128 * j, o)]⟩))
  else
    let ps := panelsOf rows
    ([1, 0] : List Nat).flatMap (fun ax => ((List.range ps.length).zip ps).map (fun p =>
      let c := compressPanel (plainConv x.fmt st) ax p.2
      let per := (x.n + 127) / 128
      ⟨c.transport 64, [(128 * (p.1 / per), 128 * (p.1 % per), c.conv)]⟩))

/-- What one conversion of an operand copy met, reported by the owner tile (R194, R199). -/
def copyFlags (x : Tensor) (instr : Nat) (s : State) (c : Nat × Nat × ConvOut) : State :=
  let t := (dwOwner x c.1 c.2.1).1
  convReport s t (commitTask s x t) (instr % 65536) 0 false c.2.2

/-- The conditions that a tensor's update needs of its sash at `a`: the count k of Adam and its bias (R133). -/
def denseCount (s : State) (x : Tensor) (a : Nat) : Nat := (loadNat s (a + 4 * x.k * x.n) 8 + 1) % 2 ^ 64
def denseBias (s : State) (x : Tensor) (a : Nat) : Bias :=
  if x.opt = 1 then {} else adamBias (strictMode s) (denseHyper s x.tensor) (denseCount s x a)

/-- The elements of a tensor updated from the sash at `a`, row by row. -/
def denseEls (s : State) (x : Tensor) (a : Nat) : List (List (Nat × Nat × OptEl)) :=
  (List.range x.k).map (fun r => (List.range x.n).map (fun c =>
    (r, c, commitElem s x (denseHyper s x.tensor) (denseBias s x a) a r c)))

/-- The words of one part of the elements, in row-major order. -/
def denseWords (els : List (List (Nat × Nat × OptEl))) (f : OptEl → BitVec 32) : List Byte :=
  (els.flatMap (fun r => r)).flatMap (fun e => leBytes 4 (f e.2.2).toNat)

/-- The rows of the new masters as numbers. -/
def denseRows (s : State) (els : List (List (Nat × Nat × OptEl))) : List (List Num) :=
  els.map (fun r => r.map (fun e => f32 (strictMode s) e.2.2.w))

/-- The bytes of a tensor's new version: masters, optimiser state, operand copies (R280). -/
def denseImage (s : State) (x : Tensor) (a : Nat) : List Byte :=
  let els := denseEls s x a
  let state := if x.opt = 1 then denseWords els (fun d => d.m)
    else leBytes 8 (denseCount s x a) ++ denseWords els (fun d => d.m) ++ denseWords els (fun d => d.v)
  denseWords els (fun d => d.w) ++ state ++ (operandCopies s x (denseRows s els)).flatMap (fun c => c.bytes)

/-- The reports of a tensor's update: of its elements, then of its operand copies. -/
def denseReports (x : Tensor) (a : Nat) (s : State) : State :=
  let els := denseEls s x a
  let copies := operandCopies s x (denseRows s els)
  let (s, instr) := drawFree s
  let (s, at_) := drawFree s
  let s := (els.flatMap (fun r => r)).foldl (elemFlags x instr at_) s
  (copies.flatMap (fun c => c.convs)).foldl (copyFlags x instr) s

/-- Some operation of a tensor's update was invalid or gave a non-finite value (R285). -/
def denseRaises (s : State) (x : Tensor) (a : Nat) : Bool :=
  let els := denseEls s x a
  (els.flatMap (fun r => r)).any (fun e => let r := flagsOf fpFP32 e.2.2.ops; r.iv || r.nf) ||
  ((operandCopies s x (denseRows s els)).flatMap (fun c => c.convs)).any (fun c => c.2.2.iv || c.2.2.nf)

/-- Where a tensor's masks lie, and their bytes (R266, R279). -/
def maskBytes (x : Tensor) : Nat := ((x.k + 127) / 128 + 7) / 8 + ((x.k + 15) / 16 * ((x.n + 15) / 16) + 7) / 8

/-- What a tensor's update reads: its current sash's masters and state, and its masks. -/
def denseRead (s : State) (x : Tensor) (a : Nat) : State × Bool :=
  let r := readSpan s a (4 * x.k * x.n + denseState x) 0
  if r.2 && x.masked then readSpan r.1 x.maskBase (maskBytes x) 0 else r

/-- The new version of tensor `i`, whose descriptor the commit reads from the job image (R279, R281), written into the other sash. -/
def denseTensor (s : State) (ix : Nat × Tensor) : State :=
  let x0 := ix.2
  let a0 := s.job.addr + x0.off
  let r := dramRead s a0 64 0
  if !r.2 then r.1
  else
    let s := r.1
    let x := tensorOf (loadNat s a0 64) ⟨x0.off, x0.owners, x0.hyper, []⟩
    if !tensorOk s ix.1 x then commitFault s 0x4884 x0.tensor 0
    else
      let v := fld s PANE_SASH_VERSION
      let a := sashBase x (v % 2)
      let r := denseRead s x a
      if !r.2 then r.1
      else
        let bytes := denseImage r.1 x a
        let flag := denseRaises r.1 x a
        let s := denseReports x a r.1
        let s := if flag then { s with step := { s.step with flagged := s.step.flagged ++ [x.tensor] } } else s
        dramWrite s (sashBase x ((v + 1) % 2)) bytes 0

/-- The tensors that a commit writes, with their places among the image's. -/
def denseWork (s : State) : List (Nat × Tensor) :=
  ((List.range s.job.tensors.length).zip s.job.tensors).filter (fun e => e.2.opt != 0)

/-- `DENSE_PHASE` (R278, R284): the dense writes of the commit, once no reference holds the other sash. -/
def densePhase (s : State) : State :=
  if running s && committing s && !s.step.denseDone && !sashHeld s then
    let s := foldLive denseTensor (undoEnds s) (denseWork s)
    if faulted s then s
    else checkFlags { s with step := { s.step with denseDone := true, endPane := pane s } }
  else s

def execDensePhase (s : State) : Host.Outcome State Fault Refusal := runCmd densePhase s

/-! The embedding phase (R125–R127, R133, R134, R293). -/

/-- The class that popularity chooses (R125). -/
def popClass (d c pop : Nat) : Nat :=
  if tdUp16 d ≤ pop ∨ (c = 0 ∧ tdDn16 d ≤ pop) then 0
  else if tdUp8 d ≤ pop ∨ (c ≤ 1 ∧ tdDn8 d ≤ pop) then 1
  else 2

/-- The nearest permitted class at or above it, else the nearest below (R126); class numbers fall as width grows. -/
def targetClass (d t : Nat) : Nat :=
  let p := permitted d
  match (p.filter (fun c => decide (c ≤ t))).getLast? with
  | some c => c
  | none => p.headD t

/-- What the choice of a stack's migration list carries along: the list, the slots it takes by table and class, rows left out
and promotions refused. -/
structure Choice where
  list : List (Nat × Nat × Nat) := []
  taken : Kmap Nat := []
  defer : Nat := 0
  full : Nat := 0
  deriving DecidableEq, Repr

/-- One row's class decision (R125, R126). -/
def chooseRow (s : State) (k t : Nat) (c : Choice) (row : Nat) : Choice :=
  let d := tdesc s k t
  let e := loadNat s (mapAddr d row) 8
  let cur := rmClass e
  let tgt := targetClass d (popClass d cur (rmPop e))
  let key := 4 * t + tgt
  if tgt = cur then c
  else if fld s EMB_MIGR_MAX_ROWS k ≤ c.list.length then { c with defer := c.defer + 1 }
  else if tgt < cur ∧ tdCap d tgt ≤ (usedSlots s k t tgt).length + kGetD c.taken key 0 then { c with full := c.full + 1 }
  else { c with list := c.list ++ [(t, row, tgt)], taken := kSet c.taken key (kGetD c.taken key 0 + 1) }

/-- The present rows of a table at a stack, ascending. -/
def presentRows (s : State) (d : Nat) : List Nat := (listedRows s d).filter (fun r => rmPresent (loadNat s (mapAddr d r) 8))

/-- The largest finite magnitude of a class (R118, R119). -/
def classMax (c : Nat) : BitVec 32 := if c = 0 then 0x7F7F0000 else if c = 1 then 0x7AE00000 else 0x77C00000

/-- A value beyond the class's range is that magnitude with its sign (R134). -/
def clampVal (st : Bool) (c : Nat) (v : BitVec 32) : BitVec 32 × Bool :=
  let ovf := match f32 st v with
    | .nan _ => false
    | .inf _ => true
    | x => c == 0 && isNonFinite fpBF16 (exactRes fpBF16 st x).bits
  (if ovf then classMax c ||| (v &&& 0x80000000#32) else v, ovf)

/-- A row rounded into a class: its values, and how many were clamped (R127, R134). -/
def roundInto (st : Bool) (d c : Nat) (vals : List (BitVec 32)) : List (BitVec 32) × Nat :=
  let l := vals.map (clampVal st c)
  let (bs, sat) := encodeRow st c (l.map (fun e => e.1))
  (decodeRow st d c bs, (l.filter (fun e => e.2)).length + sat)

/-- The state entry of a row. -/
def stateAddr (d row : Nat) : Nat := tdState d + row * stateBytes d

/-- The undo entry of a row that is about to be written (R293). -/
def undoEntry (s : State) (k t row : Nat) (d c slot : Nat) : State :=
  if !bitOf 3 s.step.pol.cfg then s
  else
    let body := placeBytes s d c slot ++ load s (stateAddr d row) (stateBytes d)
    let head := leBytes 16 (row + t * 2 ^ 34 + c * 2 ^ 40 + slot * 2 ^ 42 + body.length * 2 ^ 76)
    match region s 5 k with
    | none => regionBound s 5 k
    | some (b, _) =>
      let e := emb s k
      let n := (head ++ body).length
      undoWrite (setEmb s k { e with undoNext := e.undoNext + n }) k (b + e.undoNext) (head ++ body)

/-- A row's new values and state entry from its gradient (R133). -/
def rowStep (s : State) (k t row : Nat) (vals : List (BitVec 32)) (g : List (BitVec 32)) : List (BitVec 32) × List Byte :=
  let d := tdesc s k t
  let st := strictMode s
  let h := embHyper s k t
  let gs := g.map (fun w => (unscaled st (lambda s) w).w)
  let a := stateAddr d row
  let n := tdWidth d
  match tdOpt d with
  | 0 => (vals, [])
  | 1 =>
    let r := List.zipWith (fun (gw : BitVec 32 × BitVec 32) m => sgdStep st h gw.1 gw.2 m) (gs.zip vals) (loadWords s a n)
    (r.map (fun e => e.w), wordBytes (r.map (fun e => e.m)))
  | 2 =>
    let r := adagradRow st h gs vals (loadW s a)
    (r.1, wordBytes [r.2])
  | o =>
    let kk := (loadNat s a 4 + 1) % 2 ^ 32
    let bias := adamBias st h kk
    let r := List.zipWith (fun (gw : BitVec 32 × BitVec 32) (mv : BitVec 32 × BitVec 32) =>
      adamStep st (o == 4) h bias gw.1 gw.2 mv.1 mv.2) (gs.zip vals) ((loadWords s (a + 8) n).zip (loadWords s (a + 8 + 4 * n) n))
    (r.map (fun e => e.w), leBytes 4 kk ++ leBytes 4 0 ++ wordBytes (r.map (fun e => e.m)) ++ wordBytes (r.map (fun e => e.v)))

/-- A word is NaN. -/
def nanW (w : BitVec 32) : Bool := isNan (f32 true w)

/-- A row's optimiser formed a NaN, in its values or its state entry (R285). -/
def rowNan (d : Nat) (ws : List (BitVec 32)) (state : List Byte) : Bool :=
  let first := if 3 ≤ tdOpt d then 2 else 0
  ws.any nanW ||
  (List.range (state.length / 4)).any (fun i => decide (first ≤ i) && nanW (BitVec.ofNat 32 (leAt state (4 * i) 4)))

/-- A row's values, its state entry and its delta record read for the commit (R73): whether all of it came. -/
def commitRead (s : State) (d c slot row : Nat) : State × Bool :=
  readGranules s (placeGranules d c slot ++ granules (stateAddr d row) (stateBytes d)) 1

/-- A row's place written at the commit, from its gradient where it has one (R133), rounded into class `into` (R127, R134). -/
def commitRow (k t row c slot into : Nat) (delta : Option DeltaRec) (s : State) : State :=
  let d := tdesc s k t
  let st := strictMode s
  let vals := decodeRow st d c (placeBytes s d c slot)
  let (ws, state) := match delta with
    | some r => rowStep s k t row vals r.vals
    | none => (vals, [])
  if delta.isSome && rowNan d ws state then commitFault s 0x4883 0xFF k
  else
    let (vals, n) := roundInto st d into ws
    let s := event (bump s EMB_EVT_OPT_CLAMP n k) 0x2808 n
    let s := storePlace s d c slot (encodeRow st c vals).1
    if faulted s = true ∨ delta.isNone = true then s else dramWrite s (stateAddr d row) state 1

/-- One row of a table at the commit: the optimiser where it has a delta record (R133), the rounding into its target class
where that lies below its own (R127), and the decay of its counter (R125). -/
def embRow (list : List (Nat × Nat × Nat)) (k t : Nat) (s : State) (row : Nat) : State :=
  let d := tdesc s k t
  let (s, e) := greRead s (mapAddr d row) 8
  if faulted s then s
  else if !rmOk d e then embFault s k 0x2882 2 t row 0 (partId s) s.step.current
  else
    let c := rmClass e
    let slot := rmSlot e
    let into := ((list.find? (fun m => m.1 == t && m.2.1 == row)).map (fun m => max c m.2.2)).getD c
    let (s, delta) := readDelta s k (placeKey t c slot)
    let s := if delta.isNone && into == c then s
      else
        let r := commitRead s d c slot row
        if !r.2 then r.1
        else
          let s := undoEntry r.1 k t row d c slot
          if faulted s then s else commitRow k t row c slot into delta s
    if faulted s ∨ tdFixed d = true then s
    else
      let pop := rmPop e - rmPop e / 2 ^ fld s EMB_CFG_DECAY k
      dramWrite s (mapAddr d row) (leBytes 8 (rowMap c slot pop true (rmMigr e))) 1

/-- The tables in use at a stack, ascending. -/
def liveTables (s : State) (k : Nat) : List Nat := (List.range 64).filter (fun t => tdValid (tdesc s k t))

/-- One table at the commit. -/
def embTable (list : List (Nat × Nat × Nat)) (k : Nat) (s : State) (t : Nat) : State :=
  foldLive (embRow list k t) s (presentRows s (tdesc s k t))

/-- The embedding phase at one stack: class decisions, rows, and the list for the next step (R126, R128). -/
def embStack (s : State) (k : Nat) : State :=
  let ts := liveTables s k
  match ts.find? (fun t => !descOk s k (tdesc s k t)) with
  | some t => embFault s k 0x2882 2 t 0 0 (partId s) s.step.current
  | none =>
    let c := (ts.filter (fun t => !tdFixed (tdesc s k t))).foldl (fun (c : Choice) t =>
      (presentRows s (tdesc s k t)).foldl (chooseRow s k t) c) {}
    let s := setEmb s k { emb s k with undoNext := if k = 0 then 2 * recordPitch s else 0 }
    let s := foldLive (embTable c.list k) s ts
    if faulted s then s
    else
      let s := event (bump s EMB_EVT_MIGR_DEFER c.defer k) 0x2803 c.defer
      let s := event (bump s EMB_EVT_CLASS_FULL c.full k) 0x2804 c.full
      let s := setEmb s k { emb s k with migrList := c.list, listStep := s.step.current }
      { s with step := { s.step with embDone := s.step.embDone ++ [k], endPane := pane s } }

/-- `EMBEDDING_PHASE` (R128, R133, R284): every stack that has not applied its tables and whose migrations have all ended. -/
def embeddingPhase (s : State) : State :=
  let ks := (List.range 8).filter (fun k => !s.step.embDone.contains k && (emb s k).migrList == [] && (emb s k).migrs == [])
  if running s && committing s && ks != [] then
    let s := foldLive embStack (undoEnds s) ks
    if faulted s then s else checkFlags s
  else s

def execEmbeddingPhase (s : State) : Host.Outcome State Fault Refusal := runCmd embeddingPhase s

end Sys2Proof.Machine
end

