-- ==== Sys2Proof/Machine/Ethernet.lean ====
section
/-! DEFINITION. The Ethernet ports (16): frames, flow and congestion control, the communication manager's connections, RDMA
through memory windows, acknowledgements and retries, and the board stage of collectives. Times are in microseconds. -/

namespace Sys2Proof.Machine

/-! Frames (R360, R361, R368, R369). -/

/-- The enable bit of a port. -/
def ethEn (p : Nat) : Field := if p = 0 then ETH_CFG_EN0 else ETH_CFG_EN1

/-- A port carries frames. -/
def ethUp (s : State) (p : Nat) : Bool := fld s ETH_PORT_UP 0 p == 1

/-- The IPv6 link-local address of a port: the modified EUI-64 form of its MAC (R360), the MAC's first octet highest. -/
def linkLocal (s : State) (p : Nat) : Nat :=
  let m := fld s ETH_PORT_MAC 0 p
  let hi := (m / 2 ^ 24) ^^^ 0x020000
  0xFE80 * 2 ^ 112 + hi * 2 ^ 40 + 0xFFFE * 2 ^ 24 + m % 2 ^ 24

/-- A port's own address (R360). -/
def ownV4 (s : State) (p a : Nat) : Bool := fld s ETH_ADDR_V4_VALID 0 p == 1 && fld s ETH_ADDR_IPV4 0 p == a
def ownV6 (s : State) (p a : Nat) : Bool :=
  a == linkLocal s p || (fld s ETH_ADDR_V6_VALID 0 p == 1 && fld s ETH_ADDR_IPV6 0 p == a)

/-- A frame that is dropped and counted (R360). -/
def ethDrop (s : State) : State := event (bump s ETH_EVT_DROP) 0x6807

/-- The queue-pair entry of a QPN (R362). -/
def qpOf (qpn : Nat) : Option Nat := if 0x100 ≤ qpn ∧ qpn < 0x200 then some (qpn - 0x100) else none

/-- The BTH opcodes of the subset (R361) as the RoCEv2 standard numbers them (log 71). -/
def btHas (op : Nat) : Bool :=
  decide (op ≤ 0x08) || op == 0x0A || (decide (0x0C ≤ op) && decide (op ≤ 0x11)) || op == 0x81
def btRdma (op : Nat) : Bool := decide (0x06 ≤ op) && decide (op ≤ 0x10)

/-- A queue pair in the error state. -/
def qpError (s : State) (q : Nat) : State := setFld s ETH_QP_STATE 4 0 q

/-- A NAK of the responder, which moves the queue pair to the error state (R361, R366). -/
def qpNak (s : State) (q psn syndrome : Nat) : State :=
  qpError (ethOut s (fld s ETH_QP_PORT 0 q) (.nak q psn syndrome)) q

/-- Bytes of a port's receive buffer in use. -/
def rxBytes (s : State) (p : Nat) : Nat := sumOf ((s.eth.rx.filter (fun e => e.1 == p)).map (fun e => e.2.2))

/-- XOFF when the receive buffer holds more than `XOFF` KiB, XON when it holds less than `XON` KiB (R368). -/
def flowControl (s : State) (p : Nat) : State :=
  let n := rxBytes s p
  if !s.eth.xoff.contains p && decide (fld s ETH_PFC_XOFF * 1024 < n) then
    emit { s with eth := { s.eth with xoff := p :: s.eth.xoff } } (.pause p (fld s ETH_CFG_PRIO) true)
  else if s.eth.xoff.contains p && decide (n < fld s ETH_PFC_XON * 1024) then
    emit { s with eth := { s.eth with xoff := s.eth.xoff.filter (fun x => x != p) } } (.pause p (fld s ETH_CFG_PRIO) false)
  else s

/-- The first `n` frames of a queue pair leave the receive buffer: the engine has served them. -/
def serveFrames (s : State) (q n : Nat) : State :=
  let s := iter (fun (s : State) => match removeFirst (fun (e : Nat × Nat × Nat) => e.2.1 == 0x100 + q) s.eth.rx with
    | some (_, rest) => { s with eth := { s.eth with rx := rest } }
    | none => s) n s
  flowControl s (fld s ETH_QP_PORT 0 q)

/-- A CNP to the peer of a queue pair whose packet was marked CE, at most one per `CNP_GAP` µs (R369). -/
def sendCnp (s : State) (q t : Nat) : State :=
  let x := qpS s q
  if (match x.lastCnp with | some u => decide (u + fld s ETH_CC_CNP_GAP ≤ t) | none => true) then
    ethOut (bump (setQp s q { x with lastCnp := some t }) ETH_EVT_CNP_TX) (fld s ETH_QP_PORT 0 q) (.cnp q)
  else s

/-- A RoCEv2 packet (R361, R368, R369). -/
def roceFrame (s : State) (p bytes qpn opcode : Nat) (icrcOk ce : Bool) (t : Nat) : State :=
  if !icrcOk then bump s ETH_EVT_ICRC_ERR
  else match qpOf qpn with
    | none => s
    | some q =>
      if !qpUp s q ∨ fld s ETH_QP_PORT 0 q ≠ p then s
      else
        let s := if ce then sendCnp s q t else s
        if !btHas opcode || (decide (q < 8) && btRdma opcode) then qpNak s q (fld s ETH_QP_RECV_PSN 0 q) 0x61
        else flowControl { s with eth := { s.eth with rx := s.eth.rx ++ [(p, qpn, bytes)] } } p

/-- What the port's FEC found (R374): corrected codewords in units of 1,024, uncorrectable ones one by one. -/
def ethCodewords (s : State) (p corrected bad : Nat) : State :=
  let m := kGetD s.eth.fec p 0 + corrected
  bump (bump { s with eth := { s.eth with fec := kPut s.eth.fec p (m % 1024) 0 } } ETH_PORT_FEC_CORR (m / 1024) 0 p)
    ETH_PORT_FEC_UNCORR bad 0 p

/-- `ETH_FRAME` (R360): the port's own protocols answered, RoCEv2 taken into the receive buffer, anything else dropped. One of
those protocols for another address is let go uncounted (DEDUCED, log 71). A frame whose FCS is bad is none to answer or drop: it is counted (R374). -/
def ethFrame (p bytes : Nat) (frame : Frame) (t : Nat) (s : State) : State :=
  if !ethUp s p then s
  else
    let s := expirePauses s t
    if 9216 < bytes ∧ frame.whole = true then ethDrop s
    else match frame with
      | .arp a => if ownV4 s p a then emit s (.answer p frame) else s
      | .neighbour a => if ownV6 s p a then emit s (.answer p frame) else s
      | .echo a v6 => if (if v6 then ownV6 s p a else ownV4 s p a) then emit s (.answer p frame) else s
      | .roce qpn op ok ce => roceFrame s p bytes qpn op ok ce t
      | .other => ethDrop s
      | .badFcs => bump s ETH_PORT_FCS_ERR 1 0 p
      | .codewords n bad => ethCodewords s p n bad

def execEthFrame (port : Fin 2) (bytes : Nat) (frame : Frame) (t : Nat) (s : State) : Host.Outcome State Fault Refusal :=
  runCmd (ethFrame port.val bytes frame t) s

/-! Links (R359). -/

/-- A port's link drops (R359): with `AUTO_RETRAIN` it trains again. -/
def ethDown (p : Nat) (s : State) : State :=
  if !ethUp s p then s
  else
    let s := dropHeld (setFld s ETH_PORT_UP 0 0 p) p
    let s := setFld s ETH_PORT_TRAINING (b2n (fld s ETH_CFG_AUTO_RETRAIN == 1 && fld s (ethEn p) == 1)) 0 p
    event (bump s ETH_PORT_DOWNS 1 0 p) 0x6801

def execEthLinkDown (port : Fin 2) (s : State) : Host.Outcome State Fault Refusal := runCmd (ethDown port.val) s

/-- `ETH_LINK_UP` (R359): training ends. -/
def ethLinkUp (p : Nat) (s : State) : State :=
  if fld s ETH_PORT_TRAINING 0 p = 0 ∨ fld s (ethEn p) = 0 then s
  else event (setFld (setFld s ETH_PORT_TRAINING 0 0 p) ETH_PORT_UP 1 0 p) 0x6802

def execEthLinkUp (port : Fin 2) (s : State) : Host.Outcome State Fault Refusal := runCmd (ethLinkUp port.val) s

/-- `ETH_PORT_ENABLE` (R359, R374): with its bit 1 a port trains and runs; with 0 it does neither. -/
def ethPortEnable (p : Nat) (en : Bool) (s : State) : State :=
  let s := setFld s (ethEn p) (b2n en)
  if en then (if ethUp s p then s else setFld s ETH_PORT_TRAINING 1 0 p)
  else setFld (ethDown p s) ETH_PORT_TRAINING 0 0 p

def execEthPortEnable (port : Fin 2) (en : Bool) (s : State) : Host.Outcome State Fault Refusal :=
  runCmd (ethPortEnable port.val en) s

/-! Pauses (R368). -/

/-- `PFC_PAUSE` (R368): honoured for the RoCEv2 priority alone; a quantum is 512 bit times of 400 Gbit/s. -/
def pfcPause (p prio quanta t : Nat) (s : State) : State :=
  let s := expirePauses s t
  if prio ≠ fld s ETH_CFG_PRIO ∨ ethUp s p = false then s
  else if quanta = 0 then unpause s p
  else
    let since := match kGet? s.eth.paused p with | some e => e.1 | none => t
    { s with eth := { s.eth with paused := kSet s.eth.paused p (since, t + (quanta * 128 + 99999) / 100000) } }

def execPfcPause (port : Fin 2) (prio : Fin 8) (quanta : Nat) (t : Nat) (s : State) : Host.Outcome State Fault Refusal :=
  runCmd (pfcPause port.val prio.val quanta t) s

/-- `PFC_STORM` (R368): a pause without a break for `STORM` ms, reported once. -/
def pfcStorm (p t : Nat) (s : State) : State :=
  let s := expirePauses s t
  match kGet? s.eth.paused p with
  | some e =>
    if e.1 + fld s ETH_PFC_STORM * 1000 ≤ t ∧ s.eth.storm.contains p = false then
      event { s with eth := { s.eth with storm := p :: s.eth.storm } } 0x6806
    else s
  | none => s

def execPfcStorm (port : Fin 2) (t : Nat) (s : State) : Host.Outcome State Fault Refusal := runCmd (pfcStorm port.val t) s

/-! Rate control (R369). -/

/-- Line rate in 1/256 of 0.1 Gbit/s. -/
def lineRate : Nat := 1024000

/-- With rate control off every queue pair runs at line rate (R369). -/
def lineRates (s : State) : State :=
  if fld s ETH_CC_EN = 1 then s
  else (s.eth.qps.map (fun e => e.1)).foldl (fun s q => setQp s q { qpS s q with rate := lineRate }) s

/-- `CNP` (R369): a data queue pair's rate halves, at most once per `CNP_GAP` µs. -/
def cnp (q t : Nat) (s : State) : State :=
  if 256 ≤ q ∨ qpUp s q = false then s
  else
    let s := bump s ETH_EVT_CNP_RX
    let x := qpS s q
    if fld s ETH_CC_EN = 0 then (if q < 8 then s else setQp s q { x with rate := lineRate })
    else if 8 ≤ q ∧ (match x.lastCut with | some u => decide (u + fld s ETH_CC_CNP_GAP ≤ t) | none => true) = true then
      event (setQp s q { x with rate := max (x.rate / 2) (fld s ETH_CC_R_MIN * 4000), lastCut := some t }) 0x6805
    else s

def execCnp (qp : Nat) (t : Nat) (s : State) : Host.Outcome State Fault Refusal := runCmd (cnp qp t) s

/-- `RATE_RAISE` (R369): `RAISE_GAP` µs have passed with no CNP. -/
def rateRaise (q : Nat) (s : State) : State :=
  if q < 8 ∨ 256 ≤ q ∨ qpUp s q = false then s
  else
    let x := qpS s q
    setQp s q { x with rate := if fld s ETH_CC_EN = 0 then lineRate else min lineRate (x.rate + fld s ETH_CC_R_AI * 256) }

def execRateRaise (qp : Nat) (s : State) : Host.Outcome State Fault Refusal := runCmd (rateRaise qp) s

/-! The communication manager (R362). -/

/-- `CM_REQ` (R362): a mailbox entry of the port is connected, ready to receive, and REP goes back. The part's first send
PSN is its own choice: a free value. -/
def cmReq (p remoteQpn psn entry : Nat) (s : State) : State :=
  if !ethUp s p ∨ entry / 4 ≠ p ∨ qpUp s entry = true then s
  else
    let (s, v) := drawFree s
    let s := setQp s entry {}
    let s := setFld (setFld (setFld (setFld (setFld s ETH_QP_STATE 2 0 entry) ETH_QP_PORT p 0 entry)
      ETH_QP_REMOTE_QPN remoteQpn 0 entry) ETH_QP_RECV_PSN psn 0 entry) ETH_QP_SEND_PSN v 0 entry
    emit s (.cmReply p entry 0)

def execCmReq (port : Fin 2) (remoteQpn psn : Nat) (entry : Fin 8) (s : State) : Host.Outcome State Fault Refusal :=
  runCmd (cmReq port.val remoteQpn psn entry.val) s

/-- `CM_RTU` (R362): the connection is complete. -/
def cmRtu (entry : Nat) (s : State) : State :=
  if fld s ETH_QP_STATE 0 entry = 2 then setFld s ETH_QP_STATE 3 0 entry else s

def execCmRtu (entry : Fin 8) (s : State) : Host.Outcome State Fault Refusal := runCmd (cmRtu entry.val) s

/-- An entry of the table back at its reset value. -/
def qpReset (s : State) (q : Nat) : State :=
  let s := resetReg s ETH_QP 0 q
  { s with eth := { s.eth with qps := kErase s.eth.qps q, rx := s.eth.rx.filter (fun e => e.2.1 != 0x100 + q) } }

/-- `CM_DREQ` (R362): the entry is disconnected and DREP goes back. -/
def cmDreq (entry : Nat) (s : State) : State :=
  if fld s ETH_QP_STATE 0 entry = 0 then s
  else emit (qpReset s entry) (.cmReply (fld s ETH_QP_PORT 0 entry) entry 1)

def execCmDreq (entry : Fin 8) (s : State) : Host.Outcome State Fault Refusal := runCmd (cmDreq entry.val) s

/-! RDMA (R365–R367, R469). -/

/-- The window of an R_Key (R365). -/
def windowIx (s : State) (rkey : Nat) : Option Nat :=
  (List.range 64).find? (fun w => decide (fld s ETH_WIN_LENGTH 0 w ≠ 0) && fld s ETH_WIN_R_KEY 0 w == rkey)

/-- A window destroyed. -/
def dropWindow (s : State) (w : Nat) : State :=
  resetReg { s with eth := { s.eth with winPorts := kErase s.eth.winPorts w } } ETH_WIN 0 w

/-- What host-class RDMA may reach (R66, R151): the DRAM map below `RETAINED` and the scratchpads. -/
def rdmaReach (a n : Nat) : Bool :=
  (decide (a + n ≤ dramTop) && !inRetained a n) ||
  (decide (0x10000000000 ≤ a) && decide (a + n ≤ tileBase 96) && inSpad ((a - 0x10000000000) % 0x1000000) n)

/-- The regions of the live table versions (R139), each version live until its release. -/
def liveRegions (s : State) : List (Nat × Nat) :=
  (List.range 8).flatMap (fun k =>
    ((List.range 64).filter (fun t => tdValid (tdesc s k t))).flatMap (fun t => tdRegions (tdesc s k t)) ++
    (emb s k).oldLive.flatMap (fun e => tdRegions e.2))

/-- Two ranges meet. -/
def meets (a n b m : Nat) : Bool := decide (a < b + m) && decide (b < a + n)

/-- Why an RDMA access is refused (R366; before the start no version is live, R388): 0 key or window, 1 protected range, 2 live table version. -/
def rdmaRefused (s : State) (write : Bool) (rkey a n : Nat) : Option Nat :=
  match windowIx s rkey with
  | none => some 0
  | some w =>
    let b := fld s ETH_WIN_BASE 0 w
    if a < b ∨ b + fld s ETH_WIN_LENGTH 0 w < a + n ∨ fld s (if write then ETH_WIN_WRITE else ETH_WIN_READ) 0 w = 0 then some 0
    else if !rdmaReach a n then some 1
    else if write && started s && (liveRegions s).any (fun r => meets a n r.1 r.2) then some 2
    else none

/-- A refused access (R366): the remote-access NAK, the record, the error state. -/
def accessNak (s : State) (q psn reason addr : Nat) : State :=
  let s := ethLog s reason q 0x6804 addr
  event (bump (qpNak s q psn 0x62) ETH_EVT_ACCESS_NAK) 0x6804

/-- An operation of a data queue pair in PSN order (R361, R367): out of order it is answered with a sequence NAK, a repeated one
is acknowledged again. -/
def inPsnOrder (s : State) (q psn : Nat) (f : State → State) : State :=
  if 256 ≤ q ∨ qpUp s q = false then s
  else if q < 8 then qpNak s q psn 0x61
  else
    let e := fld s ETH_QP_RECV_PSN 0 q
    if psn = e then f s
    else if psnBefore psn e then ethOut s (fld s ETH_QP_PORT 0 q) (.ack q ((e + 2 ^ 24 - 1) % 2 ^ 24))
    else ethOut s (fld s ETH_QP_PORT 0 q) (.nak q e 0x60)

/-- `RDMA_WRITE` (R366, R367): checked whole, then written and acknowledged. -/
def rdmaWrite (r : Rdma) (s : State) : State :=
  inPsnOrder (serveFrames s r.qp r.packets) r.qp r.psn (fun s =>
    match rdmaRefused s true r.rkey r.addr r.data.length with
    | some why => accessNak s r.qp r.psn why r.addr
    | none =>
      let s := if r.addr < dramTop then dramWrite s r.addr r.data 0 else hostStore (spadCheck s r.addr 0 r.found).1 r.addr r.data
      let n := max 1 r.packets
      ethOut (setFld s ETH_QP_RECV_PSN (psnAdd r.psn n) 0 r.qp) (fld s ETH_QP_PORT 0 r.qp) (.ack r.qp (psnAdd r.psn (n - 1))))

def execRdmaWrite (r : Rdma) (s : State) : Host.Outcome State Fault Refusal := runCmd (rdmaWrite r) s

/-- What the checks below find as an RDMA READ reads (R73, R74, R149): whether there is data to return. -/
def rdmaReadCheck (s : State) (r : Rdma) : State × Bool :=
  if r.addr < dramTop then dramRead s r.addr r.len 0 else spadCheck s r.addr r.len r.found

/-- `RDMA_READ_REQUEST` (R366, R367): the response carries what memory holds. An uncorrectable read has no response: the error
is reported as for any requester (R73, R149), and the request is answered with an operational error (log 97). -/
def rdmaReadRequest (r : Rdma) (s : State) : State :=
  inPsnOrder (serveFrames s r.qp 1) r.qp r.psn (fun s =>
    match rdmaRefused s false r.rkey r.addr r.len with
    | some why => accessNak s r.qp r.psn why r.addr
    | none =>
      match rdmaReadCheck s r with
      | (s, false) => qpNak s r.qp r.psn 0x63
      | (s, true) =>
        let s := setFld s ETH_QP_RECV_PSN (psnAdd r.psn (packets s r.len)) 0 r.qp
        ethOut s (fld s ETH_QP_PORT 0 r.qp) (.readResponse r.qp r.psn (load s r.addr r.len)))

def execRdmaReadRequest (r : Rdma) (s : State) : Host.Outcome State Fault Refusal := runCmd (rdmaReadRequest r) s

/-- `RDMA_READ_RESPONSE` (R361, R367): data for a READ of this part's that is outstanding lands where the READ said. -/
def rdmaReadResponse (q psn addr : Nat) (data : List Byte) (s : State) : State :=
  if 256 ≤ q ∨ qpUp s q = false then s
  else
    let s := serveFrames s q (packets s data.length)
    let x := qpS s q
    match x.reads.find? (fun e => e.1 == psn && e.2.1 == addr && e.2.2 == data.length) with
    | none => s
    | some e =>
      let s := setQp s q { x with reads := x.reads.filter (fun y => y != e), retries := 0 }
      if !rdmaReach addr data.length then s
      else if addr < dramTop then dramWrite s addr data 0 else hostStore s addr data

def execRdmaReadResponse (qp psn : Nat) (addr : Nat) (data : List Byte) (s : State) : Host.Outcome State Fault Refusal :=
  runCmd (rdmaReadResponse qp psn addr data) s

/-! Acknowledgements and retries (R370). -/

/-- A queue pair has used up its retries (R370): a data queue pair faults the job, a mailbox queue pair is lost. -/
def retriesGone (s : State) (q : Nat) : State :=
  if q < 8 then event (bump (qpError s q) ETH_EVT_MBX_LOST) 0x6808
  else fault (ethLog (qpError s q) 3 q 0x6880 0) 0x6880 (some ETH_LOG.base)

/-- A resend from a PSN on (R370). -/
def qpResend (s : State) (q : Nat) (l : List (Nat × Nat × Emit)) : State :=
  let s := event (bump s ETH_EVT_RETX) 0x6803
  l.foldl (fun s e => ethOut s (fld s ETH_QP_PORT 0 q) e.2.2) s

/-- `n` of an entry's packets lie before `psn`. -/
def ackedBy (psn : Nat) (e : Nat × Nat × Emit) : Bool :=
  let last := psnAdd e.1 (e.2.1 - 1)
  last == psn || psnBefore last psn

/-- A retry of the ACK timer or after a sequence NAK: a count of 7, then the retries are used up (R370). -/
def qpRetry (s : State) (q : Nat) : State :=
  let x := qpS s q
  if x.unacked = [] then s
  else if 7 ≤ x.retries then retriesGone s q
  else qpResend (setQp s q { x with retries := x.retries + 1 }) q x.unacked

/-- `ACKNOWLEDGE` (R361, R370). An RNR NAK starts the RNR timer; a sequence NAK acknowledges what came before it; any other
NAK moves the queue pair to the error state (log 71). -/
def acknowledge (q psn : Nat) (kind : AckKind) (s : State) : State :=
  if 256 ≤ q ∨ qpUp s q = false then s
  else
    let s := serveFrames s q 1
    let x := qpS s q
    match kind with
    | .ack => setQp s q { x with unacked := x.unacked.filter (fun e => !ackedBy psn e), retries := 0, rnr := 0, rnrWait := false }
    | .rnr => setQp s q { x with rnrWait := true }
    | .seqErr =>
      let before := (psn + 2 ^ 24 - 1) % 2 ^ 24
      qpRetry (setQp s q { x with unacked := x.unacked.filter (fun e => !ackedBy before e) }) q
    | .nak _ => qpError s q

def execAcknowledge (qp psn : Nat) (kind : AckKind) (s : State) : Host.Outcome State Fault Refusal :=
  runCmd (acknowledge qp psn kind) s

/-- `LOCAL_ACK_TIMEOUT` (R370, R56): with everything acknowledged the timer never fires. -/
def localAckTimeout (q : Nat) (s : State) : State := if 256 ≤ q ∨ qpUp s q = false then s else qpRetry s q

def execLocalAckTimeout (qp : Nat) (s : State) : Host.Outcome State Fault Refusal := runCmd (localAckTimeout qp) s

/-- `RNR_RETRY` (R363, R370): the RNR timer expires. With the RNR retry count of 7 used up a mailbox reply is dropped and the queue
pair stays connected. -/
def rnrRetry (q : Nat) (s : State) : State :=
  let x := qpS s q
  if 256 ≤ q ∨ qpUp s q = false ∨ x.rnrWait = false then s
  else if x.rnr < 7 then qpResend (setQp s q { x with rnr := x.rnr + 1, rnrWait := false }) q x.unacked
  else if q < 8 then
    event (bump (setQp s q { x with rnr := 0, rnrWait := false, unacked := x.unacked.drop 1 }) ETH_EVT_MBX_LOST) 0x6808
  else retriesGone (setQp s q { x with rnrWait := false }) q

def execRnrRetry (qp : Nat) (s : State) : Host.Outcome State Fault Refusal := runCmd (rnrRetry qp) s

/-! The board stage (R372). -/

/-- Board-stage data waits for the root's own `CSTART`, and while its queue pair's 2 MiB of buffer are full. -/
def boardHeld (s : State) (id n : Nat) : Bool :=
  match collOf s id with
  | none => true
  | some c => decide (2097152 < 4 * c.boardIn.length + n)

/-- `SEND_WITH_IMMEDIATE` (R372): board-stage data on a data queue pair, combined and forwarded, or answered with an RNR NAK of
timer code 1. -/
def sendWithImmediate (q psn imm : Nat) (data : List Byte) (last : Bool) (s : State) : State :=
  let s := serveFrames s q (if last then packets s data.length else 1)
  inPsnOrder s q psn (fun s =>
    let id := imm % 256
    let port := fld s ETH_QP_PORT 0 q
    let accept := fun (s : State) =>
      let n := packets s data.length
      ethOut (setFld s ETH_QP_RECV_PSN (psnAdd psn n) 0 q) port (.ack q (psnAdd psn (n - 1)))
    if !jobLive s then accept s
    else if imm ≠ collArg s id ∨ (kGet? s.job.colls id).isNone then collMismatch (accept s) id (partId s)
    else if boardHeld s id data.length then ethOut s port (.rnrNak q psn 1)
    else match collOf s id with
      | none => s
      | some c =>
        let s := deliverBoard (accept s) c q data
        if faulted s then s else sbnSettle s)

def execSendWithImmediate (qp psn : Nat) (imm : Nat) (data : List Byte) (last : Bool) (s : State) :
    Host.Outcome State Fault Refusal := runCmd (sendWithImmediate qp psn imm data last) s

end Sys2Proof.Machine
end

