-- ==== Sys2Proof/Machine/Renvi.lean ====
section
/-! DEFINITION. The Renvi mailbox protocol (17): the opcode table (R384), arrival and queues (R378–R380), the checks of a request
(R382, R422, R435), records of completed requests (R383), replies (R381, R391), event messages (R389, R390) and the error log
(R453). -/

namespace Sys2Proof.Machine

/-! Opcodes (R384). -/

/-- A row of the opcode table: the classes it is permitted to, whether it is job-inScope, whether it changes state (R383). -/
structure OpRow where
  code : Nat
  host : Bool
  plat : Bool
  dbg : Bool
  job : Bool
  changes : Bool
  deriving DecidableEq, Repr

/-- Groups 0x01 to 0x05; `EVENT` is the part's own, and no class may send it. -/
def opRowsA : List OpRow :=
  [⟨0x0101, true, true, true, false, false⟩, ⟨0x0102, true, true, true, false, false⟩,
   ⟨0x0103, true, true, true, false, false⟩, ⟨0x0201, true, false, false, false, true⟩,
   ⟨0x0202, true, false, false, true, true⟩, ⟨0x0203, true, true, false, true, true⟩,
   ⟨0x0204, true, true, true, false, false⟩, ⟨0x0301, true, true, true, false, false⟩,
   ⟨0x0302, true, true, true, false, true⟩, ⟨0x0303, true, false, true, false, false⟩,
   ⟨0x0304, true, false, false, false, true⟩, ⟨0x0305, true, false, false, false, true⟩,
   ⟨0x0306, true, false, false, true, true⟩, ⟨0x0307, true, false, false, true, true⟩,
   ⟨0x0308, true, true, true, true, false⟩, ⟨0x0309, true, false, false, true, true⟩,
   ⟨0x030A, true, false, false, true, true⟩, ⟨0x0401, true, true, true, true, false⟩,
   ⟨0x0402, true, false, false, true, true⟩, ⟨0x0403, true, false, false, true, true⟩,
   ⟨0x0404, true, false, false, true, true⟩, ⟨0x0501, true, true, true, false, false⟩,
   ⟨0x0502, true, true, false, false, true⟩, ⟨0x0503, true, false, false, false, true⟩,
   ⟨0x0510, false, false, false, false, false⟩]

/-- Groups 0x06 to 0x0A. -/
def opRowsB : List OpRow :=
  [⟨0x0601, true, true, true, false, true⟩, ⟨0x0602, true, true, false, false, true⟩,
   ⟨0x0603, true, true, false, false, true⟩, ⟨0x0604, true, true, true, false, false⟩,
   ⟨0x0701, true, true, true, false, false⟩, ⟨0x0702, true, true, true, false, false⟩,
   ⟨0x0703, true, false, true, false, true⟩, ⟨0x0704, true, false, true, false, true⟩,
   ⟨0x0705, true, true, true, false, true⟩, ⟨0x0706, true, false, false, false, true⟩,
   ⟨0x0707, true, true, false, false, true⟩, ⟨0x0708, true, true, false, false, true⟩,
   ⟨0x0709, true, true, false, false, true⟩, ⟨0x070A, true, true, false, false, true⟩,
   ⟨0x0801, true, false, true, false, true⟩, ⟨0x0802, true, false, true, false, true⟩,
   ⟨0x0803, true, false, true, false, false⟩, ⟨0x0804, true, false, true, false, true⟩,
   ⟨0x0805, true, true, true, false, true⟩, ⟨0x0901, true, true, true, false, false⟩,
   ⟨0x0902, true, true, false, false, true⟩, ⟨0x0903, true, true, true, false, true⟩,
   ⟨0x0904, true, true, false, false, true⟩, ⟨0x0905, true, true, false, false, true⟩,
   ⟨0x0906, true, false, false, true, true⟩, ⟨0x0907, true, false, false, false, true⟩,
   ⟨0x0908, true, false, false, false, false⟩, ⟨0x0909, true, false, false, false, true⟩,
   ⟨0x0A01, true, false, false, false, true⟩, ⟨0x0A02, true, false, false, false, true⟩,
   ⟨0x0A03, true, false, false, false, true⟩, ⟨0x0A04, true, false, false, true, true⟩,
   ⟨0x0A05, true, false, false, false, true⟩, ⟨0x0A06, true, true, true, false, false⟩]

/-- The row of an opcode; none for a reserved one. -/
def opRow (op : Nat) : Option OpRow := (opRowsA ++ opRowsB).find? (fun r => r.code == op)

/-- A class may send an opcode. -/
def OpRow.permits (r : OpRow) (c : Cls) : Bool :=
  match c with
  | .host => r.host
  | .platform => r.plat
  | .debug => r.dbg

/-- A class as a number (R381). -/
def clsNo (c : Cls) : Nat := match c with | .host => 0 | .platform => 1 | .debug => 2

/-! Replies. -/

/-- What serving a request gives: the state, the status (R391) and the reply's payload, or that the reply comes later. -/
structure Answer where
  state : State
  status : Nat := 0
  payload : List Byte := []
  later : Bool := false

/-- A refusal: no effect. -/
def refuse (s : State) (status : Nat) (payload : List Byte := []) : Answer := ⟨s, status, payload, false⟩

/-- A success. -/
def done (s : State) (payload : List Byte := []) : Answer := ⟨s, 0, payload, false⟩

/-- A message to a class: over its mailbox queue pair, or its own transport. -/
def sendMsg (s : State) (cls : Cls) (qp n : Nat) (e : Emit) : State :=
  match cls with
  | .host => qpSend s qp n (fun _ => e)
  | _ => emit s e

/-- A reply (R381): it repeats the request's `SEQUENCE`. -/
def sendReply (s : State) (cls : Cls) (qp op seq job status : Nat) (dup : Bool) (hint : Nat) (payload : List Byte) : State :=
  let j := match opRow op with | some r => if r.job then job else 0 | none => 0
  sendMsg s cls qp (32 + payload.length) (.reply cls qp op seq status dup hint j (pane s) payload)

/-- A reply to a request. -/
def replyTo (s : State) (r : Req) (op status : Nat) (dup : Bool) (payload : List Byte) : State :=
  sendReply s r.cls r.qp op r.seq r.job status dup 0 payload

/-- A refused request (R382, R393): `MBX_REFUSAL`, and `MBX_REFUSED` for one its class may not send. -/
def refusedReq (s : State) (cls : Cls) (qp op seq status : Nat) : State :=
  let s := firstRecord s MBX_REFUSAL_VALID 0 0 (fun s =>
    setFld (setFld (setFld (setFld (setFld s MBX_REFUSAL_CLASS (clsNo cls)) MBX_REFUSAL_QP (if cls = .host then qp else 0xFF))
      MBX_REFUSAL_OPCODE op) MBX_REFUSAL_STATUS status) MBX_REFUSAL_SEQUENCE seq)
  if status = 0x20 then event s 0x7006 else s

/-- The reply to a `STEP_REPLAY` whose replay has come to its commit point (R295, R384), which was in service till then. -/
def answerReplay (s : State) (status : Nat) (payload : List Byte) : State :=
  match s.mgmt.replayReq with
  | none => s
  | some r =>
    replyTo (setFld { s with mgmt := { s.mgmt with replayReq := none } } MBX_STATUS_IN_SERVICE 0) r 0x0404 status false payload

/-! Arrival (R377, R378, R380). -/

/-- A message whose layout or opcode is refused before any service: among them the opcode that no class may send (R3, R384). -/
def badArrival (a : Arrival) : Option Nat :=
  if 4096 < a.length ∨ a.length ≠ a.received then some 0x22
  else match opRow a.opcode with
    | none => some 0x21
    | some r => if r.host || r.plat || r.dbg then none else some 0x20

/-- The first messages of their queue pair or transport that are refused out of hand are answered. -/
def flushBad : Nat → State → State
  | 0, s => s
  | n + 1, s =>
    if fld s MBX_STATUS_READY ≠ 1 then s
    else
      let q := s.mgmt.queue
      match removeFirst (fun (a : Arrival) => (badArrival a).isSome &&
          !((q.takeWhile (fun (b : Arrival) => b != a)).any (fun b => b.cls == a.cls && b.qp == a.qp))) q with
      | none => s
      | some (a, rest) =>
        let st := (badArrival a).getD 0
        let s := { s with mgmt := { s.mgmt with queue := rest } }
        let s := refusedReq s a.cls a.qp a.opcode a.seq st
        flushBad n (sendReply s a.cls a.qp a.opcode a.seq a.job st false 0 [])

/-- The queue depth of a class (R378). -/
def queueDepth (c : Cls) : Nat := match c with | .host => 64 | .platform => 8 | .debug => 4

/-- A `BUSY` reply of the message engine, counted (R364, R380, R392). -/
def busy (s : State) (a : Arrival) (hint : Nat) : State :=
  let s := event (bump s MBX_EVT_BUSY) 0x7001
  let s := if a.cls = .host then bump s ETH_EVT_BUSY else s
  sendReply s a.cls a.qp a.opcode a.seq a.job 0x10 false hint []

/-- The port of a class is there: host class needs a connected mailbox queue pair; in Standby only I3C and JTAG are (R394). -/
def clsReaches (s : State) (c : Cls) (qp : Nat) : Bool :=
  match c with
  | .host => decide (2 ≤ power s) && decide (qp < 8) && qpUp s qp
  | _ => decide (1 ≤ power s)

/-- What the ROM's recovery service answers (R409). -/
def romServes (cls : Cls) (op : Nat) : Bool :=
  cls == .platform && ([0x0101, 0x0103, 0x0707, 0x0708, 0x0709] : List Nat).contains op

/-- `MAILBOX_ARRIVAL`: a message enters its queue, or the message engine answers it at once. -/
def mailboxArrival (a : Arrival) (s : State) : State :=
  if !clsReaches s a.cls a.qp then s
  else if fld s MBX_STATUS_FAILED = 1 then sendReply s a.cls a.qp a.opcode a.seq a.job 0x12 false 0 []
  else if fld s MBX_STATUS_IN_RESET = 1 then busy s a (s.mgmt.resetAt * 1000 + 300000 - a.timeUs)
  else if fld s MBX_STATUS_READY ≠ 1 then s
  else if s.rst.serviceRom ∧ romServes a.cls a.opcode = false then s
  else if queueDepth a.cls ≤ queueLen s a.cls then busy s a (fld s MBX_CFG_BUSY_HINT)
  else flushBad 1 { s with mgmt := { s.mgmt with queue := s.mgmt.queue ++ [a] } }

def execMailboxArrival (a : Arrival) (s : State) : Host.Outcome State Fault Refusal := runCmd (mailboxArrival a) s

/-! Service (R379, R382, R383, R422, R435). -/

/-- The deadbolt: 0 `FACTORY`, 1 `SEALED`, 2 `OPENED`. -/
def deadbolt (s : State) : Nat := fld s SEC_STATE_DEADBOLT

/-- `FACTORY`, or `OPENED` with a scope bit, or with any where `bit` is none (R422). -/
def inScope (s : State) (bit : Option Nat) : Bool :=
  deadbolt s == 0 || (deadbolt s == 2 && (match bit with
    | none => true
    | some b => bitOf b (fld s SEC_STATE_SCOPE)))

/-- The status by which the matrix of R422 refuses an opcode: the deadbolt's column and the power state. -/
def matrixRefuses (s : State) (op : Nat) (extended : Bool) : Option Nat :=
  let p := power s
  let need := fun (bit : Option Nat) (states : List Nat) =>
    if !inScope s bit then some 0x50 else if !states.contains p then some 0x32 else none
  if op = 0x0801 then need (some 0) [2, 3, 4]
  else if op = 0x0802 ∨ op = 0x0803 then need (some 0) [2, 3, 4, 5]
  else if op = 0x0804 then need (some 2) [2, 3, 4]
  else if op = 0x0501 ∧ extended = true then need (some 3) [1, 2, 3, 4, 5]
  else if op = 0x0704 ∨ op = 0x0706 then (if deadbolt s = 0 then some 0x50 else none)
  else none

/-- The opcodes that need a stack or Sirben (R435). -/
def needsFull (op : Nat) : Bool :=
  (decide (0x0306 ≤ op) && decide (op ≤ 0x030A)) || op / 256 == 4 || (decide (0x0906 ≤ op) && decide (op ≤ 0x0909)) ||
  op == 0x0A04

/-- The first check of R382 that a request fails, and what the state forbids. -/
def requestCheck (s : State) (r : Req) (op : Nat) (extended : Bool) : Option Nat :=
  match opRow op with
  | none => some 0x21
  | some row =>
    if !row.permits r.cls then some 0x20
    else if r.cls = .debug ∧ fld s SEC_POLICY_DEBUG_MIN = 1 ∧ op / 256 ≠ 1 ∧ op / 256 ≠ 7 ∧ op ≠ 0x0805 then some 0x20
    else if row.job && !jobLoaded s then some 0x30
    else if row.job && decide (r.job ≠ s.job.id) then some 0x24
    else if fld s RST_STATUS_SERVICE < 2 ∧ needsFull op = true then some 0x32
    else matrixRefuses s op extended

/-- The record of a completed request (R383). -/
def dupOf (s : State) (r : Req) : Option DupRec :=
  s.mgmt.dups.find? (fun d => d.cls == r.cls && d.qp == r.qp && d.seq == r.seq)

/-- A completed request enters the last 64 records of its queue pair or transport. -/
def keepDup (s : State) (r : Req) (status : Nat) : State :=
  let mine := s.mgmt.dups.filter (fun d => d.cls == r.cls && d.qp == r.qp)
  let rest := s.mgmt.dups.filter (fun d => !(d.cls == r.cls && d.qp == r.qp))
  let mine := mine.drop (mine.length - 63) ++ [⟨r.cls, r.qp, r.seq, status⟩]
  { s with mgmt := { s.mgmt with dups := rest ++ mine } }

/-- The first messages of their queue pairs or transports, in arrival order. -/
def headsOf : List Arrival → List (Cls × Nat) → List Arrival
  | [], _ => []
  | a :: l, seen => if seen.contains (a.cls, a.qp) then headsOf l seen else a :: headsOf l ((a.cls, a.qp) :: seen)

/-- The message that the kept core takes next (R379): a platform-class one of group 0x06, else a platform-class one, else a
debug-class one. A message of group 0x06 goes before an earlier one of its own transport as well (DEDUCED, log 135). -/
def keptNext (q : List Arrival) : Option Arrival :=
  (q.find? (fun a => a.cls == .platform && a.opcode / 256 == 6)) <|> (q.find? (fun a => a.cls == .platform)) <|>
    q.find? (fun a => a.cls == .debug)

/-- A waiting message may be served (R378, R379): a host-class one while it is among the first three that may be in service at once,
one of each queue pair; another by the kept core's order. A replay under way is one in service. -/
def servedNow (s : State) (q : List Arrival) (a : Arrival) : Bool :=
  match a.cls with
  | .host =>
    let busy := (s.mgmt.replayReq.map (fun r => (r.cls, r.qp))).toList
    ((headsOf (q.filter (fun b => b.cls == .host)) busy).take (3 - busy.length)).contains a
  | _ => keptNext q == some a

/-- The completed request has changed state (R383): a `DUMP_READ` has where it gave up the dump. -/
def recorded (op : Nat) (t : State) : Bool :=
  (match opRow op with | some row => row.changes | none => false) && (op != 0x0903 || t.mgmt.dump.isNone)

/-- A platform-class message of group 0x06 served ahead of an earlier one (R379). -/
def preempts (r : Req) (op : Nat) (earlier : List Arrival) : Bool :=
  r.cls == .platform && op / 256 == 6 && earlier.any (fun a => a.cls != .host)

/-- A debug-class message served attaches a session (R424). -/
def touchSession (s : State) (c : Cls) : State :=
  if c = .debug then setFld { s with sec := { s.sec with debugRecent := true } } SEC_STATE_SESSION 1 else s

/-- A request served: in its queue's order, under every check, performed once, answered. -/
def serveReqst (op : Nat) (r : Req) (extended : Bool) (f : State → Answer) (s : State) : State :=
  let this := fun (a : Arrival) => a.cls == r.cls && a.qp == r.qp && a.opcode == op && a.seq == r.seq
  if fld s MBX_STATUS_READY ≠ 1 ∨ clsReaches s r.cls r.qp = false then s
  else if s.rst.serviceRom ∧ romServes r.cls op = false then s
  else
    let q := s.mgmt.queue
    let new : Arrival := { cls := r.cls, qp := r.qp, opcode := op, seq := r.seq, length := 0, received := 0, job := r.job, timeUs := 0 }
    let earlier := q.takeWhile (fun a => !this a)
    if !servedNow s (if q.any this then q else q ++ [new]) ((q.find? this).getD new) then s
    else
      let s := match removeFirst this q with
        | some (_, rest) => { s with mgmt := { s.mgmt with queue := rest } }
        | none => s
      let s := if q.any this && preempts r op earlier then event (bump s MBX_EVT_PREEMPT) 0x7005 else s
      let s := touchSession s r.cls
      let s := match dupOf s r with
        | some d => replyTo s r op d.status true []
        | none =>
          let a := match requestCheck s r op extended with
            | some st => refuse s st
            | none => f s
          let s := a.state
          let s := if 0x20 ≤ a.status then refusedReq s r.cls r.qp op r.seq a.status
            else if recorded op s then keepDup s r a.status
            else s
          if a.later then setFld { s with mgmt := { s.mgmt with replayReq := some r } } MBX_STATUS_IN_SERVICE 1
          else replyTo s r op a.status false a.payload
      flushBad s.mgmt.queue.length s

/-! Event messages and the error log (R389, R390, R453). -/

/-- A record enters the error log of 4,096 entries: a full log overwrites its oldest event entry, and a fault entry only where
no other is left. -/
def logPush (s : State) (e : EvRec) : State :=
  let i := fld s RST_LOG_NEXT
  let s := setFld s RST_LOG_NEXT ((i + 1) % 2 ^ 32)
  if s.mgmt.log.length < 4096 then { s with mgmt := { s.mgmt with log := s.mgmt.log ++ [(i, e)] } }
  else match removeFirst (fun (x : Nat × EvRec) => x.2.kind != 1) s.mgmt.log with
    | some (_, rest) => { s with mgmt := { s.mgmt with log := rest ++ [(i, e)] } }
    | none => bump { s with mgmt := { s.mgmt with log := s.mgmt.log.drop 1 ++ [(i, e)] } } RST_LOG_LOST

/-- A class's events are asked for (R389): faults and state changes always, others by range. -/
def selected (s : State) (n : Nat) (e : EvRec) : Bool := e.kind != 0 || bitOf (bitsOf 11 5 e.code) (fld s MBX_EVT_MASK_RANGE 0 n)

/-- A record may be sent now: an event not within `EVT_GAP` ms of the last of its code. -/
def mayReport (s : State) (timeMs : Nat) (e : EvRec) : Bool :=
  e.kind != 0 || !(selected s 0 e || selected s 1 e) ||
  (match kGet? s.mgmt.gaps e.code with | some t => decide (t + fld s MBX_CFG_EVT_GAP ≤ timeMs) | none => true)

/-- An `EVENT` message to each sink that gets the record (R390). -/
def sendEvent (s : State) (e : EvRec) : State :=
  let s := if selected s 0 e && fld s MBX_SINK_VALID == 1 then
      let s := sendMsg s .host (fld s MBX_SINK_QP) 96 (.event .host (fld s MBX_SINK_QP) s.mgmt.seqHost e)
      bump { s with mgmt := { s.mgmt with seqHost := (s.mgmt.seqHost + 1) % 2 ^ 32 } } MBX_EVT_EVT_SENT
    else s
  if selected s 1 e then
    let s := emit s (.event .platform 0xFF s.mgmt.seqPlat e)
    bump { s with mgmt := { s.mgmt with seqPlat := (s.mgmt.seqPlat + 1) % 2 ^ 32 } } MBX_EVT_EVT_SENT
  else s

/-- `EVENT` (R389, R390, R453): the first record of the FIFO that may go now leaves it, with the others of its code where it is
an event; every record that leaves enters the error log. -/
def eventSend (timeMs : Nat) (s : State) : State :=
  if fld s MBX_STATUS_READY ≠ 1 ∨ s.rst.serviceRom = true then s
  else match s.mgmt.fifo.find? (mayReport s timeMs) with
    | none => s
    | some e =>
      let group := fun (x : EvRec) => x == e || (e.kind == 0 && x.kind == 0 && x.code == e.code)
      let out := if e.kind = 0 then s.mgmt.fifo.filter group else [e]
      let rest := if e.kind = 0 then s.mgmt.fifo.filter (fun x => !group x) else s.mgmt.fifo.erase e
      let s := { s with mgmt := { s.mgmt with
        fifo := rest, gaps := if e.kind = 0 then kSet s.mgmt.gaps e.code timeMs else s.mgmt.gaps } }
      let s := out.foldl logPush s
      sendEvent s { e with count := sumOf (out.map (fun x => x.count)) }

def execEvent (timeMs : Nat) (s : State) : Host.Outcome State Fault Refusal := runCmd (eventSend timeMs) s

end Sys2Proof.Machine
end

