-- ==== Sys2Proof/Machine/Commit.lean ====
section
/-! DEFINITION. The step commit unit (12): when a commit is due, its vote and outcome, the end of a commit, re-runs, undo and
replay, the gradient format controller's history (R267–R269), and the replacement of tables (05, R136–R140). -/

namespace Sys2Proof.Machine

/-! The commit point (R282). -/

/-- An all-reduce whose destination lies in an owner block of a dense gradient (R263, R264). -/
def reducesDw (s : State) (id : Nat) : Bool :=
  collKind s id == 0 && (trainable s).any (fun x => x.owners.any (fun o =>
    overlap (collDst s id) (4 * collElems s id) (tileBase o.1 + o.2) 65536))

/-- Every scatter round of the step has been applied at a stack (R111, R113). -/
def scattered (s : State) (k : Nat) : Bool :=
  (s.job.fast || (openRound s k).isNone) && (emb s k).staged == [] && (emb s k).issued == []

/-- The commit of the step is due at this mullion (R282). -/
def commitReady (s : State) : Bool :=
  running s && s.step.open_ && !s.step.voted && (decide (s.step.halt = 0) || s.step.replay.isSome) &&
  s.job.colls.all (fun e => !reducesDw s e.1 || s.commit.reduced.contains e.1) &&
  (List.range 8).all (scattered s) &&
  !tasksLeft s s.step.current (fun d => dClass d != 0 && dClass d != 9 && !s.job.extra.stageOutput.contains (dTaskId d))

/-- The part's non-finite summary (R102, R199, R220, R282, R336): causes of `COMMIT` tasks stay out. -/
def partNf (s : State) : Bool :=
  s.tiles.any (fun e => e.2.plainFlags != 0) || s.graphs.any (fun e => e.2.ivOf) ||
  fld s SBN_COLL_IV == 1 || fld s SBN_COLL_NF == 1

/-- The votes that this part's image declares (R335). -/
def votes (s : State) : List Nat :=
  (s.job.colls.map (fun e => e.1)).filter (fun id => collKind s id == 3 && (collPlace s id).isSome)

/-- `COMMIT_DUE` (R282): the summary is latched and sent as a vote. A part alone has its own word at once (log 62). -/
def commitDue (s : State) : State :=
  if commitReady s then
    let nf := partNf s
    let s := setFld (setFld s PANE_COMMIT_STATUS_LOCAL_NF (b2n nf)) PANE_COMMIT_STATUS_PHASE 1
    let s := { s with step := { s.step with localNf := nf, voted := true } }
    match votes s with
    | id :: _ => sbnSettle (collStart s id (some (if nf then 1 else 0)))
    | [] =>
      if s.job.extra.parts.length ≤ 1 then { s with step := { s.step with voteDone := true, jobNf := nf } } else s
  else s

def execCommitDue (s : State) : Host.Outcome State Fault Refusal := runCmd commitDue s

/-! The digest (R296). -/

/-- One value folded in. -/
def foldDigest (d key x : Nat) : Nat := d ^^^ (key * 0x9E3779B97F4A7C15 % 2 ^ 64) ^^^ x

/-- A tensor's all-reduced gradient. -/
def digestTensor (s : State) (d : Nat) (x : Tensor) : Nat :=
  (List.range x.k).foldl (fun d r => (List.range x.n).foldl (fun d c =>
    foldDigest d ((64 + x.tensor) * 2 ^ 44 + (r * x.n + c)) (loadNat s (dwAddr x r c) 4)) d) d

/-- A delta record, kept under its place's key. -/
def digestDelta (k : Nat) (sd : State × Nat) (e : Nat × Nat × Nat) : State × Nat :=
  match readDelta sd.1 k e.1 with
  | (s, none) => (s, sd.2)
  | (s, some r) =>
    (s, ((List.range r.vals.length).zip r.vals).foldl (fun d v =>
      foldDigest d (e.1 / 2 ^ 36 * 2 ^ 44 + r.row * 1024 + v.1) v.2.toNat) sd.2)

/-- The digest over the commit inputs: reduced gradients, then the delta records of every stack. -/
def commitDigest (s : State) : State × Nat :=
  s.embs.foldl (fun sd e => e.2.deltas.foldl (digestDelta e.1) sd) (s, (trainable s).foldl (digestTensor s) 0)

/-- The digest formed at a commit with outcome `COMMIT` or `HALT`; a replay's is compared with its record's. -/
def takeDigest (s : State) : State :=
  let (s, d) := commitDigest s
  let s := { s with commit := { s.commit with digest := d } }
  let s := if s.step.replay = some 0 then s else setFld s PANE_COMMIT_DIGEST_RECORDED d
  if s.step.replay.isNone then s
  else
    let s := setFld s PANE_COMMIT_DIGEST_REPLAYED d
    let s := match recordAt s s.step.current with
      | none => s
      | some a =>
      let r := dramRead s (a + 0x20) 8 1
      if r.2 then event r.1 (if loadNat r.1 (a + 0x20) 8 = d then 0x480B else 0x480C) else r.1
    answerReplay s 0 (leBytes 8 d)

/-- Fields of the step's journal record filled when its commit ends or halts (R292). -/
def closeRecord (s : State) (outcome digest : Nat) : State :=
  match recordAt s s.step.current with
  | none => s
  | some a =>
    let flags := b2n s.step.localNf + 2 * b2n s.step.jobNf + 4 * b2n (outcome == 1 && bitOf 3 s.step.pol.cfg)
    let s := undoWrite s 0 (a + 0x0E) (leBytes 1 outcome ++ leBytes 1 (runsByte s))
    let s := if faulted s then s
      else undoWrite s 0 (a + 0x14) (leBytes 1 (fld s PANE_COMMIT_LAMBDA_LAMBDA) ++ leBytes 1 flags)
    if faulted s then s else undoWrite s 0 (a + 0x20) (leBytes 8 digest)

/-! Discarding a step (R286, R287, R294). -/

/-- Every flag register of the tiles cleared (R199, R220), and what stands behind them. -/
def clearFlags (s : State) : State :=
  let s := { s with
    regs := s.regs.filter (fun e => !([FMT_FLAGS, FMT_FIRST, ACC_FLAGS, ACC_EXC].any (fun r =>
      (List.range 96).any (fun t => (List.range r.count).any (fun n => r.at t n == e.1))))),
    graphs := s.graphs.map (fun (e : Nat × GraphS) => (e.1, { e.2 with ivOf := false })) }
  let s := s.tiles.foldl (fun s e => setTile s e.1 { tileS s e.1 with plainFlags := 0, commitFlags := 0, commitLayer := none, overflowed := 0 }) s
  setFld (setFld s SBN_COLL_IV 0) SBN_COLL_NF 0

/-- The delta log of a step: contributions, markers, records, and what open migrations keep of them. What came early for the next run
is staged for it. -/
def dropDeltas (e : EmbS) : EmbS :=
  e.early.foldl takeStaged { e with
    staged := [], markers := [], closed := [], issued := [], deltas := [], early := [],
    migrs := e.migrs.map (fun (m : MigrS) => { m with log := [], copy := none }) }

/-- The delta log and the stash of a step discarded. -/
def dropStores (s : State) (step : Nat) : State :=
  let s := { s with
    embs := s.embs.map (fun (e : Nat × EmbS) => (e.1, dropDeltas e.2)),
    stash := { s.stash with reserved := s.stash.reserved.filter (fun e => e.1 / 65536 != step) } }
  let s := refreshStash (dropRecs s (fun r => r.step == step))
  (List.range 8).foldl refreshRound s

/-- Everything the step made, with its flags. -/
def discardStep (s : State) : State := clearFlags (dropStores s s.step.current)

/-! Running a step again (R287, R295). -/

/-- A task no longer admitted. -/
def unadmit (t : WinTask) : WinTask := { t with adm := 0, ready := false, queued := false, credits := [] }

/-- A site fetches pass `p` from its table again; entries of later passes wait behind it (log 18). -/
def redoSite (p : Nat) (x : SiteS) : SiteS :=
  let keep := x.window.filter (fun t => decide (t.pass < p))
  let pieces := x.pieces.filter (fun t => t.pass != p)
  if x.pass ≤ p then { x with window := keep, pieces := pieces, parked := [], redo := none, pass := p, tableNext := 0 }
  else
    let later := (x.window.filter (fun t => decide (p < t.pass))).map unadmit ++ x.parked.filter (fun t => decide (p < t.pass))
    { x with window := keep, pieces := pieces, parked := later, redo := some (p, 0) }

/-- All sites that have a table. -/
def redoSites (s : State) (p : Nat) : State :=
  let lost := s.sched.sites.flatMap (fun e => e.2.window.filter (fun t => decide (p ≤ t.pass)))
  let s := giveBack s lost
  s.job.tables.foldl (fun s e => setSite s e.1 (redoSite p (site s e.1))) s

/-- A step's counts and seeds as its journal record and seed copy hold them (R287), read by the base die (R73). -/
def recordTaken (s : State) (step : Nat) : State × Option TakenStep :=
  match recordAt s step with
  | none => (s, none)
  | some a =>
    let r := dramRead s a 0x20 1
    if !r.2 || loadNat r.1 a 8 != step then (r.1, none)
    else
      let s := r.1
      let mbs := loadNat s (a + 0x0C) 2
      let per := loadNat s (a + 0x10) 4
      let r := dramRead s (a + 4096) (8 * mbs * per) 1
      (r.1, if r.2 then some ⟨step, mbs, per, (List.range (mbs * per)).map (fun i => loadNat r.1 (a + 4096 + 8 * i) 8)⟩ else none)

/-- The requests of a step at a stack forgotten; its sample trees, its journal and its side arrays stand (R98, R287). -/
def forgetWork (step : Nat) (g : GraphS) : GraphS := { g with wait := g.wait.filter (fun w => w.step != step) }

/-- The sampling tokens of a step that is run again are raised at once: its draws stand in the journal (R94, R98). -/
def raiseSampled (s : State) (step mbs : Nat) : State :=
  (s.sched.tokens.filter (fun e => e.2.role == 2 && e.2.parity == step % 2 && decide (e.2.mb < mbs))).foldl
    (fun s e => raiseToken s e.1) s

/-- A step begins again from its journal, with the same keys and the settings of its latch, in phase 4 (re-run) or 6 (replay). A
token of role 1 is not raised again: no commit ends here, and none is raised before the first (R24; DESIGN CHOICE, log 118). -/
def rerunStart (s : State) (step phase : Nat) : State :=
  let (s, rec) := recordTaken s step
  if faulted s then s
  else
  let s := match rec with
    | none => s
    | some t => { s with step := { s.step with taken := s.step.taken.filter (fun (x : TakenStep) => x.step != step) ++ [t] } }
  let s := { s with
    step := { s.step with
      current := step, open_ := true, voted := false, voteDone := false, jobNf := false, localNf := false,
      outcome := 0, denseDone := false, embDone := [], ended := [], flagged := [],
      pol := kGetD s.step.pols (step % 2) s.step.pol },
    commit := { s.commit with reduced := [], figs := [] },
    embs := s.embs.map (fun (e : Nat × EmbS) => (e.1, { e.2 with closed := [] })),
    graphs := s.graphs.map (fun (e : Nat × GraphS) => (e.1, forgetWork step e.2)) }
  let s := setFld (setFld s PANE_COMMIT_STATUS_PHASE phase) PANE_COMMIT_STATUS_STEP step
  let s := setFld s PANE_COMMIT_STATUS_RUNS (min 7 (1 + s.commit.reruns))
  let mbs := ((takenOf s step).map (fun t => t.mbCount)).getD 0
  let s := tagStep (redoSites s step) step mbs
  roundEnds (raiseSampled (zeroEvents s (ofParity step)) step mbs)

/-! The outcome (R283). -/

/-- The outcome: 1 `COMMIT`, 2 `SKIP`, 3 `HALT`, 4 `RESCALE`. A replay in mode `INSPECT` ends as `HALT` does (R295). -/
def decided (s : State) : Nat :=
  if s.step.replay = some 0 then 3
  else if !s.step.jobNf then 1
  else
    let cfg := s.step.pol.cfg
    match bitsOf 0 2 cfg with
    | 0 => 2
    | 1 => 3
    | _ => if s.commit.reruns < bitsOf 4 3 cfg then 4 else if bitOf 2 cfg then 3 else 2

/-- The outcome takes hold: the commit's phases begin. -/
def takeCommit (s : State) : State :=
  let s := takeDigest s
  { setFld s PANE_COMMIT_STATUS_PHASE 2 with
    step := { s.step with outcome := 1, endPane := pane s } }

/-- `SKIP` (R286). -/
def takeSkip (s : State) : State :=
  let s := answerReplay (event (bump (discardStep s) PANE_COMMIT_EVT_SKIPPED) 0x4806) 0 (leBytes 8 0)
  { setFld s PANE_COMMIT_STATUS_PHASE 2 with
    step := { s.step with outcome := 2, endPane := pane s }, commit := { s.commit with digest := 0 } }

/-- `HALT` (R289), which restarts the count of clean commits (R288); a step undone stays so until a replay commits it (R294). -/
def takeHalt (s : State) : State :=
  let inspect := s.step.replay == some 0
  let s := takeDigest s
  let s := setFld (if inspect then s else closeRecord s 3 s.commit.digest) PANE_COMMIT_RAISE_CLEAN 0
  if faulted s then s
  else
    let s := event (bump s PANE_COMMIT_EVT_HALTED) 0x4808
    let s := setFld (setFld s PANE_COMMIT_STATUS_PHASE (if s.step.undone.isSome then 5 else 3)) PANE_COMMIT_STATUS_LAST_OUTCOME 3
    setJob { s with step := { s.step with
      outcome := 3, replay := none, halt := if s.step.undone.isSome then 3 else 1 } } 3

/-- `RESCALE` (R287): λ falls, the step's work is discarded and the step begins again. -/
def takeRescale (s : State) : State :=
  let lam := max (lambda s - (bitsOf 8 4 s.step.pol.cfg : Nat)) (signed 8 s.step.pol.lamMin)
  let s := setFld (discardStep s) PANE_COMMIT_LAMBDA_LAMBDA (unsigned 8 lam)
  let s := setFld s PANE_COMMIT_RAISE_CLEAN 0
  let s := event (bump s PANE_COMMIT_EVT_RESCALED) 0x4807
  rerunStart { s with commit := { s.commit with reruns := s.commit.reruns + 1 } } s.step.current 4

/-- `COMMIT_OUTCOME` (R283): the last vote has arrived. -/
def commitOutcome (s : State) : State :=
  if running s && s.step.voted && s.step.voteDone && fld s PANE_COMMIT_STATUS_PHASE == 1 then
    let s := setFld s PANE_COMMIT_STATUS_JOB_NF (b2n s.step.jobNf)
    match decided s with
    | 1 => takeCommit s
    | 2 => takeSkip s
    | 3 => takeHalt s
    | _ => takeRescale s
  else s

def execCommitOutcome (s : State) : Host.Outcome State Fault Refusal := runCmd commitOutcome s

/-! The gradient format controller (R267–R269). -/

/-- ceil_log2 of a positive FP32 pattern: the least e with A ≤ 2^e. -/
def ceilLog2 (w : Nat) : Int :=
  match readNum fpFP32 true w with
  | .fin _ m e => if m = 0 then 0 else (if m = 2 ^ Nat.log2 m then (Nat.log2 m : Int) else (Nat.log2 m : Int) + 1) + e
  | _ => 128

/-- A history as one set of figures. -/
def histSum (h : List GfcFig) : GfcFig :=
  h.foldl (fun (a : GfcFig) f => ⟨max a.amax f.amax, a.ovf + f.ovf, a.unf + f.unf, a.nz + f.nz⟩) {}

/-- The rung and its age chosen for the next step (R269). -/
def chooseRung (thr rung age : Nat) (f : GfcFig) : Nat × Nat :=
  let hi := bitsOf 0 16 thr * f.nz
  let lo := bitsOf 16 16 thr
  let below := if f.nz = 0 then decide (0 < lo) else decide (f.unf * 65536 < lo * f.nz)
  if hi < f.unf * 65536 ∧ f.nz ≠ 0 ∧ rung < 2 then (rung + 1, 0)
  else if below ∧ f.ovf = 0 ∧ 16 ≤ age ∧ 0 < rung then (rung - 1, 0)
  else (rung, min (age + 1) 255)

/-- top(F) (R269). -/
def fmtTop (f : Nat) : Int := if f = 8 then 128 else 128 + fmtEmax f

/-- T for the next step (R269). -/
def chooseT (cfg fmt amax : Nat) (old : Nat) : Nat :=
  if amax = 0 then old
  else
    let t := fmtTop fmt - (bitsOf 0 4 cfg : Nat) - ceilLog2 amax
    unsigned 8 (max (signed 8 (bitsOf 8 8 cfg)) (min (signed 8 (bitsOf 16 8 cfg)) t))

/-- A layer's register shows its history: of the entries kept, the last 16 (R275). -/
def showHist (s : State) (l : Nat) (h : List GfcFig) : State :=
  let h := h.drop (h.length - 16)
  let f := histSum h
  let s := setFld (setFld s PANE_GFC_FILL h.length 0 l) PANE_GFC_AMAX f.amax 0 l
  setFld (setFld (setFld s PANE_GFC_OVF (min f.ovf (2 ^ 32 - 1)) 0 l) PANE_GFC_UNF (min f.unf (2 ^ 64 - 1)) 0 l)
    PANE_GFC_NZ (min f.nz (2 ^ 64 - 1)) 0 l

/-- One layer at a commit: the step's figures enter its history of 16, behind which the entry pushed out stays for an undo (R294), its
choice is made, its register shows the history. A wide layer has no rung, so its age stands (R269). -/
def gfcLayer (s : State) (e : Nat × List GfcFig) : State :=
  let l := e.1
  let h := e.2 ++ [kGetD s.commit.figs l {}]
  let h := h.drop (h.length - 17)
  let f := histSum (h.drop (h.length - 16))
  let wide := fld s PANE_GFC_WIDE 0 l = 1
  let rung := fld s PANE_GFC_RUNG 0 l
  let c := if wide then (rung, fld s PANE_GFC_AGE 0 l) else chooseRung s.step.pol.gfcThr rung (fld s PANE_GFC_AGE 0 l) f
  let t := chooseT s.step.pol.gfcCfg (rungFmt c.1) f.amax (fld s PANE_GFC_T 0 l)
  let s := { s with commit := { s.commit with
    hist := kSet s.commit.hist l h, nextGfc := kSet s.commit.nextGfc l (c.1, c.2, t) } }
  let s := showHist s l h
  if c.1 = rung then s else event (bump s PANE_BWD_EVT_GFC_CHANGE) 0x4803

/-! The end of a commit (R284, R286). -/

/-- λ rises after `RAISE_EVERY` clean commits (R288). -/
def raiseLambda (s : State) : State :=
  let n := min (fld s PANE_COMMIT_RAISE_CLEAN + 1) 65535
  let every := s.step.pol.raiseEvery
  if every ≠ 0 ∧ every ≤ n then
    let s := setFld s PANE_COMMIT_RAISE_CLEAN 0
    if lambda s < signed 8 s.step.pol.lamMax then
      event (setFld s PANE_COMMIT_LAMBDA_LAMBDA (unsigned 8 (lambda s + 1))) 0x4809
    else s
  else setFld s PANE_COMMIT_RAISE_CLEAN n

/-- `GRE_RATE` and `EMB_CACHE` take the step's counts at every stack (R115, R142). -/
def reportRun (s : State) (k : Nat) : State :=
  let e := emb s k
  let n := fun i => min (e.run.getD i 0) (2 ^ 32 - 1)
  let s := setReg s GRE_RATE (n 0 + n 1 * 2 ^ 32 + n 2 * 2 ^ 64 + n 3 * 2 ^ 96) k
  let s := setReg s EMB_CACHE (n 4 + n 5 * 2 ^ 32 + n 6 * 2 ^ 64 + n 7 * 2 ^ 96) k
  setEmb s k { e with run := [0, 0, 0, 0, 0, 0, 0, 0] }

/-- The tokens of role 1 (R24, R473). They are raised before the latch at the same mullion sets tokens of no parity to 0 (R39;
DESIGN CHOICE, log 118). -/
def raiseCommitted (s : State) : State :=
  (s.sched.tokens.filter (fun e => e.2.role == 1)).foldl (fun s e => raiseToken s e.1) s

/-- What `JOB_STATUS` goes on reporting (R451). -/
def keepStatus (s : State) : State :=
  { s with jobEnd := { s.jobEnd with
    lastLatched := s.step.latchedStep, lastCommitted := s.step.committedStep, lastV := fld s PANE_SASH_VERSION } }

/-- A job stop begins (R384, R450): no admission, no pending flip (R137), and the scrub. -/
def stopJob (s : State) : State :=
  let s := keepStatus s
  let s := (List.range 8).foldl (fun s k => resetReg s EMB_FLIP k 0) s
  let s := { s with
    sched := { s.sched with memReqs := [], sites := s.sched.sites.map (fun (e : Nat × SiteS) => (e.1, cancelSite e.2)) },
    job := { s.job with startPending := none },
    jobEnd := { s.jobEnd with stopMode := none, lastCode := 0, lastDetail := 0 } }
  setJob s 5

/-- A job stop asked for comes at the end of a commit: at once after it (mode 0), or a pause (mode 2, R290). -/
def stopAtEnd (s : State) : State :=
  match s.jobEnd.stopMode with
  | some 2 =>
    let s := { s with jobEnd := { s.jobEnd with stopMode := none }, step := { s.step with halt := 2 } }
    setJob (setFld s PANE_COMMIT_STATUS_PHASE 3) 3
  | some _ => stopJob s
  | none => s

/-- The `COMMIT` tasks of a skipped step leave the window as retired, without token (R286). -/
def dropCommitTasks (s : State) (p : Nat) : State :=
  { s with sched := { s.sched with sites := s.sched.sites.map (fun (e : Nat × SiteS) =>
    (e.1, { e.2 with window := e.2.window.filter (fun t => !(dClass t.desc == 0 && t.pass == p)) })) } }

/-- The mullion that ends the commit of the step, with outcome 1 `COMMIT` or 2 `SKIP`. -/
def endStep (outcome : Nat) (s : State) : State :=
  let step := s.step.current
  let again := s.step.again
  let s := s.commit.hist.foldl gfcLayer s
  let s := closeRecord s outcome (if outcome = 1 then s.commit.digest else 0)
  if faulted s then s
  else
    let s := if outcome = 1 then
        raiseLambda (setFld (setFld s PANE_SASH_VERSION ((fld s PANE_SASH_VERSION + 1) % 2 ^ 32))
          PANE_COMMIT_STATUS_UNDO_VALID (b2n (bitOf 3 s.step.pol.cfg)))
      else setFld (setFld s PANE_COMMIT_STATUS_UNDO_VALID 0) PANE_COMMIT_RAISE_CLEAN 0
    let s := { s with step := { s.step with
      committedStep := step, open_ := false, outcome := 0, halt := 0, replay := none, undone := none, again := none } }
    let s := writeIndexStatus s 8 step
    let s := dropCommitTasks (clearFlags (dropStores (refreshSash s) step)) step
    let s := (List.range 8).foldl reportRun s
    let s := setFld (setFld s PANE_COMMIT_STATUS_LAST_OUTCOME outcome) PANE_COMMIT_STATUS_PHASE 0
    let s := raiseCommitted s
    let s := if jobState s = 3 then setJob s 2 else s
    let s := match again with
      | some n => rerunStart (applyChoices { s with commit := { s.commit with reruns := 0 } }) n 4
      | none => stopAtEnd s
    if faulted s then s else idxWait (serveHeld s)

/-- `COMMIT_END` (R284, R286): the mullion after both phases, or after the decision to skip. -/
def commitEnd (s : State) : State :=
  if running s && s.step.open_ && decide (s.step.endPane < pane s) && fld s PANE_COMMIT_STATUS_PHASE == 2 then
    if s.step.outcome = 2 then endStep 2 s
    else if s.step.outcome = 1 ∧ s.step.denseDone = true ∧ (List.range 8).all (fun k => s.step.embDone.contains k) = true ∧
        tasksLeft s s.step.current (fun d => dClass d == 0) = false then
      let s := checkFlags s
      if faulted s then s else endStep 1 s
    else s
  else s

def execCommitEnd (s : State) : Host.Outcome State Fault Refusal := runCmd commitEnd s

/-! Step control (R289, R290, R294, R295); the requests are in 17. -/

/-- A halted or paused step goes on: 0 `SKIP`, 1 `RESCALE`, 2 stop. -/
def stepResume (outcome : Nat) (s : State) : State :=
  if outcome = 2 then stopJob s
  else
    let paused := s.step.halt = 2
    let s := setJob { s with
      step := { s.step with halt := 0 },
      commit := { s.commit with retirePanes := 0, stepPanes := 0 } } 2
    if paused then setFld s PANE_COMMIT_STATUS_PHASE 0
    else if outcome = 0 then takeSkip s
    else takeRescale s

/-- The rows of a stack's undo entries restored in the places they name: the entries from offset `o`, read and written by the base die
(R73, R469). -/
def restoreRows (k base : Nat) : Nat → Nat → Nat → State → State
  | 0, _, _, s => s
  | fuel + 1, o, stop, s =>
    if stop ≤ o ∨ faulted s = true then s
    else
      let r := dramRead s (base + o) 16 1
      let h := loadNat r.1 (base + o) 16
      let n := bitsOf 76 16 h
      let r := if r.2 then dramRead r.1 (base + o + 16) n 1 else r
      if !r.2 then r.1
      else
        let d := tdesc r.1 k (bitsOf 34 6 h)
        let c := bitsOf 40 2 h
        let body := load r.1 (base + o + 16) n
        let place := slotBytes d c + scaleBytes d c
        let s := storePlace r.1 d c (bitsOf 42 34 h) (body.take place)
        let s := if faulted s then s else dramWrite s (stateAddr d (bitsOf 0 34 h)) (body.drop place) 1
        restoreRows k base fuel (o + 16 + n) stop s

/-- The undo entries of one stack. -/
def restoreStack (s : State) (k : Nat) : State :=
  match region s 5 k with
  | none => s
  | some (b, _) =>
    let o := if k = 0 then 2 * recordPitch s else 0
    let stop := (emb s k).undoNext
    restoreRows k b (stop / 16 + 1) o stop s

/-- λ and the format choices as the journal record of a step holds them (R294, R295); the age, which it does not hold, as it
was at the step's latch (log 77). -/
def restoreChoices (s : State) (step : Nat) : State :=
  match recordAt s step with
  | none => s
  | some a =>
    let r := dramRead s a 0x140 1
    if !r.2 then r.1
    else
      let s := setFld r.1 PANE_COMMIT_LAMBDA_LAMBDA (loadNat r.1 (a + 0x14) 1)
      s.commit.hist.foldl (fun s e =>
        let w := loadNat s (a + 0xC0 + 2 * e.1) 2
        let f := bitsOf 8 4 w
        let s := setFld (setFld s PANE_GFC_T (w % 256) 0 e.1) PANE_GFC_FMT f 0 e.1
        if f = 8 then s else setFld s PANE_GFC_RUNG (f - 2) 0 e.1) s

/-- `STEP_UNDO` of the last committed step (R294). -/
def stepUndo (s : State) : State :=
  let step := s.step.committedStep
  let next := if s.step.halt = 1 then some s.step.current else none
  let s := if s.step.halt = 1 then discardStep s else s
  let s := foldLive restoreStack s (List.range 8)
  if faulted s then s
  else
  let s := setFld s PANE_SASH_VERSION ((fld s PANE_SASH_VERSION + (2 ^ 32 - 1)) % 2 ^ 32)
  let s := refreshSash (restoreChoices s step)
  let back := if step = 0 then 2 ^ 64 - 1 else step - 1
  let s := { s with
    step := { s.step with
      committedStep := back, halt := 3, undone := some step, again := next, open_ := false, outcome := 0,
      tags := s.step.tags.filter (fun g => next != some g.1) },
    commit := { s.commit with
      nextGfc := [], hist := s.commit.hist.map (fun (e : Nat × List GfcFig) => (e.1, e.2.take (e.2.length - 1))) } }
  let s := s.commit.ages.foldl (fun s e => setFld s PANE_GFC_AGE e.2 0 e.1) (refreshSash s)
  let s := s.commit.hist.foldl (fun s e => showHist s e.1 e.2) s
  let s := writeIndexStatus s 8 back
  event (setFld (setFld s PANE_COMMIT_STATUS_UNDO_VALID 0) PANE_COMMIT_STATUS_PHASE 5) 0x480A

/-- `STEP_REPLAY` of a halted or undone step (R295): from its journal, with the λ and the choices of its record. The count of
re-runs starts again (R283). -/
def stepReplay (step mode : Nat) (s : State) : State :=
  let s := if s.step.halt = 1 then discardStep s else s
  let s := restoreChoices s step
  let s := { s with
    step := { s.step with replay := some mode },
    commit := { s.commit with reruns := 0, stepPanes := 0, retirePanes := 0 } }
  rerunStart s step 6

/-! Replacing a table (R136–R139). -/

/-- The tables that a pending flip names. -/
def flipTables (s : State) : List Nat := (List.range 64).filter (fun t => bitOf t (fld s EMB_FLIP_TABLES))

/-- The flip at one stack: descriptors swapped, migrations of the tables dropped; the old versions stay live until their
release. -/
def flipStack (tables : List Nat) (s : State) (k : Nat) : State :=
  let old : Kmap Nat := ((tables.filter (fun t => tdValid (tdesc s k t))).map (fun t => (t, tdesc s k t)))
  let s := tables.foldl (fun s t =>
    let live := regNat s EMB_TDESC k t
    let shadow := regNat s EMB_SDESC k t
    setReg (setReg s EMB_TDESC shadow k t) EMB_SDESC live k t) s
  let e := emb s k
  let s := setEmb s k { e with
    migrs := e.migrs.filter (fun m => !tables.contains m.table),
    migrList := e.migrList.filter (fun m => !tables.contains m.1),
    cache := e.cache.filter (fun c => !tables.contains c.table),
    oldLive := old, flipPane := pane s }
  resetReg (bump (refreshActive s k) EMB_STATUS_FLIPS 1 k) EMB_FLIP k 0

/-- `HINGE_FLIP` (R137): at the mullion that ends the commit of step t − 1, on all eight stacks. -/
def hingeFlip (s : State) : State :=
  if (running s || jobState s == 3) && fld s EMB_FLIP_PENDING == 1 && !s.step.open_ &&
      fld s EMB_FLIP_STEP == nextStep s.step.committedStep then
    let tables := flipTables s
    let s := (List.range 8).foldl (flipStack tables) s
    let s := event (undoEnds s) 0x2809
    serveHeld s
  else s

def execHingeFlip (s : State) : Host.Outcome State Fault Refusal := runCmd hingeFlip s

/-- The old versions of one stack are released: their shadow descriptors are no longer valid. -/
def releaseStack (s : State) (k : Nat) : State :=
  let e := emb s k
  if e.oldLive = [] then s
  else
    let s := e.oldLive.foldl (fun s x =>
      if fld s EMB_SDESC_DESC k x.1 = x.2 then setFldBit s EMB_SDESC_DESC 24 false k x.1 else s) s
    bump (setEmb s k { e with oldLive := [] }) EMB_STATUS_RELEASED e.oldLive.length k

/-- `TABLE_RELEASED` (R139): at the mullion after the flip pane. -/
def tableReleased (s : State) : State :=
  let ks := (List.range 8).filter (fun k => (emb s k).oldLive != [] && decide ((emb s k).flipPane < pane s))
  let tables := (ks.flatMap (fun k => (emb s k).oldLive.map (fun x => x.1))).eraseDups
  if ks = [] then s else event (ks.foldl releaseStack s) 0x280A tables.length

def execTableReleased (s : State) : Host.Outcome State Fault Refusal := runCmd tableReleased s

end Sys2Proof.Machine
end

