-- ==== Sys2Proof/Machine/Security.lean ====
section
/-! DEFINITION. Security and debug (19): attestation, certificates, the deadbolt and owner keys, firmware update, debug
sessions, the trace and the draught registers. -/

namespace Sys2Proof.Machine

/-! Sessions (R424, R426). -/

/-- A debug session ends (R426): the trace stops and keeps its buffer, every draught register is cleared. -/
def endSession (s : State) : State :=
  if fld s SEC_STATE_SESSION = 1 then
    let s := clearDraughts { s with sec := { s.sec with trace := none, debugRecent := false } }
    event (setFld s SEC_STATE_SESSION 0) 0x8005
  else clearDraughts s

/-- `OPENED` returns to `SEALED` (R416, R420). -/
def closeBolt (s : State) : State :=
  let s := setFld (setFld (setFld (setFld s SEC_STATE_DEADBOLT 1) SEC_STATE_SCOPE 0) SEC_STATE_REMAINING 0) SEC_STATE_SIGNER 0
  event (endSession { s with sec := { s.sec with scopePending := none } }) 0x8002

/-- `DEBUG_SESSION_LAPSE` (R424): 10 s after the last debug-class message served; `timeMs` is the time since then. -/
def debugSessionLapse (timeMs : Nat) (s : State) : State :=
  if 10000 ≤ timeMs then refreshSession { s with sec := { s.sec with debugRecent := false } } else s

def execDebugSessionLapse (timeMs : Nat) (s : State) : Host.Outcome State Fault Refusal := runCmd (debugSessionLapse timeMs) s

/-! Attestation (R413–R415). -/

/-- Up to 4,096 bytes of something held from an offset on. -/
def pageOf (bs : List Byte) (o : Nat) : List Byte := slice bs o 4096

/-- A byte string with sizedTo `n` bytes. -/
def sizedTo (n : Nat) (bs : List Byte) : List Byte := (bs ++ List.replicate (n - bs.length) 0).take n

/-- `SEC_MEASn` as bytes. -/
def measBytes (s : State) (n : Nat) : List Byte := leBytes 32 (fld s SEC_MEAS_DIGEST 0 n)

/-- The body of an attestation report (R414). -/
def reportBody (s : State) (nonce : BitVec 256) : List Byte :=
  leBytes 4 0x52455054 ++ leBytes 2 1 ++ leBytes 2 0 ++ leBytes 4 17344 ++ leBytes 4 (fld s SEC_BOOT_BOOT_COUNT) ++
  leBytes 32 nonce.toNat ++ leBytes 32 (fld s SEC_DEVID_DEVICE_ID) ++ leBytes 1 (deadbolt s) ++
  leBytes 1 (if deadbolt s = 2 then fld s SEC_STATE_SCOPE else 0) ++ leBytes 1 (power s) ++
  leBytes 1 (b2n (fld s DRT_STATUS_ARMED != 0)) ++ leBytes 4 (regNat s SEC_POLICY) ++ leBytes 4 (fld s SEC_BOOT_SVN) ++
  leBytes 4 (fld s SEC_BOOT_MIN_SVN) ++ (List.range 5).flatMap (measBytes s)

/-- The AK that the measurements make (R413). -/
def akOf (s : State) : BitVec 256 := Config.attestKey (BitVec.ofNat 256 (shaNat ((List.range 3).flatMap (measBytes s))))

/-- A report: 256 bytes of body and 17,088 of signature. -/
def reportOf (s : State) (nonce : BitVec 256) : List Byte :=
  let body := reportBody s nonce
  body ++ sizedTo 17088 (Config.slhDsaSign (akOf s) body)

/-- `ATTEST` (R415): a new report, or a page of the one held for the class. -/
def attest (cls : Cls) (nonce : BitVec 256) (offset : Option Nat) (s : State) : Answer :=
  match offset with
  | none =>
    let rep := reportOf s nonce
    done (bump { s with sec := { s.sec with
      reports := (clsNo cls, rep) :: s.sec.reports.filter (fun e => e.1 != clsNo cls) } } SEC_EVT_REPORTS) (pageOf rep 0)
  | some o =>
    match s.sec.reports.find? (fun e => e.1 == clsNo cls) with
    | none => refuse s 0x23
    | some e => if slice e.2 0x10 32 = leBytes 32 nonce.toNat ∧ o < 17344 then done s (pageOf e.2 o) else refuse s 0x23

def execAttest (r : Req) (nonce : BitVec 256) (offset : Option Nat) (s : State) : Host.Outcome State Fault Refusal :=
  runCmd (serveReqst 0x0701 r false (attest r.cls nonce offset)) s

/-- A certificate (R413); the DIK signs a fresh AK certificate at every cold start. -/
def certBytes (s : State) (index : Nat) : List Byte :=
  Config.certificate (if index < 2 then index else 2 + fld s SEC_BOOT_BOOT_COUNT)

/-- `CERT_GET` (R413, R415). -/
def certGet (index offset : Nat) (s : State) : Answer :=
  if 2 < index then refuse s 0x23
  else
    let bs := certBytes s index
    if offset = 0 ∨ offset < bs.length then done s (pageOf bs offset) else refuse s 0x23

def execCertGet (r : Req) (index : Nat) (offset : Nat) (s : State) : Host.Outcome State Fault Refusal :=
  runCmd (serveReqst 0x0702 r false (certGet index offset)) s

/-! The deadbolt (R416–R421). -/

/-- `DEADBOLT_CHALLENGE` (R417): a fresh nonce ends the one before. -/
def deadboltChallenge (s : State) : Answer :=
  if deadbolt s = 0 then refuse s 0x32
  else
    let n := Config.freshNonce s.sec.nonces
    done { s with sec := { s.sec with nonces := s.sec.nonces + 1, nonce := some n } }
      (leBytes 32 n.toNat ++ leBytes 32 (fld s SEC_DEVID_DEVICE_ID))

def execDeadboltChallenge (r : Req) (s : State) : Host.Outcome State Fault Refusal :=
  runCmd (serveReqst 0x0703 r false deadboltChallenge) s

/-- `NONCE_EXPIRY` (R417): 600 s after its issue the outstanding nonce ends. -/
def nonceExpiry (s : State) : State := { s with sec := { s.sec with nonce := none } }

def execNonceExpiry (s : State) : Host.Outcome State Fault Refusal := runCmd nonceExpiry s

/-- A signed object's size: a header of 128 bytes and an SLH-DSA-SHA2-128s signature (R416, R421). -/
def signedLen : Nat := 7984

/-- A fragment joins its assembly (R418, R421): none where it is not contiguous on one queue pair or transport. -/
def joinFragment (held : Option Assembly) (cls : Cls) (qp offset : Nat) (fragment : List Byte) : Option Assembly :=
  let before : List Byte := match held with
    | none => []
    | some a => if a.cls = cls ∧ a.qp = qp then a.bytes else []
  let same := match held with | none => true | some a => a.cls == cls && a.qp == qp
  let whole := before ++ fragment
  if same && decide (offset = before.length) && decide (1 ≤ fragment.length) && decide (fragment.length ≤ 4092) &&
      decide (whole.length ≤ signedLen) then some ⟨cls, qp, whole⟩ else none

/-- The key that a token's signer names: none for an empty slot, and none for the vendor where owners alone sign (R418). -/
def signerKey (s : State) (signer : Nat) : Option (BitVec 256) :=
  if signer = 0 then
    if fld s SEC_POLICY_OWNER_ONLY = 1 ∧ (fld s SEC_OWNER_VALID 0 0 = 1 ∨ fld s SEC_OWNER_VALID 0 1 = 1) then none
    else some s.sec.vendorKey
  else if signer ≤ 2 ∧ fld s SEC_OWNER_VALID 0 (signer - 1) = 1 then
    some (BitVec.ofNat 256 (kGetD s.sec.ownerHash (signer - 1) 0))
  else none

/-- The check of a whole token (R418). -/
def tokenGood (s : State) (t : List Byte) : Bool :=
  leAt t 0 4 == 0x4B544244 && leAt t 4 2 == 1 && decide (leAt t 7 1 < 16) && leAt t 9 7 == 0 && leAt t 0x50 48 == 0 &&
  leAt t 8 1 != 0 && leAt t 0x30 32 == fld s SEC_DEVID_DEVICE_ID &&
  (match s.sec.nonce with | none => false | some n => leAt t 0x10 32 == n.toNat) &&
  (match signerKey s (leAt t 6 1) with
    | none => false
    | some k => Config.slhDsaVerify k (t.take 128) (t.drop 128))

/-- A token or authorisation that fails (R418, R421). -/
def rejectToken (s : State) : Answer := refuse (event (bump s SEC_EVT_REJECTS) 0x8003) 0x51

/-- `DEADBOLT_OPEN` (R418): the last fragment has the token checked and the nonce consumed. -/
def deadboltOpen (r : Req) (offset : Nat) (fragment : List Byte) (s : State) : Answer :=
  match joinFragment s.sec.token r.cls r.qp offset fragment with
  | none => refuse { s with sec := { s.sec with token := none } } 0x23
  | some a =>
    if a.bytes.length < signedLen then done { s with sec := { s.sec with token := some a } }
    else
      let ok := tokenGood s a.bytes
      let s := { s with sec := { s.sec with token := none, nonce := none } }
      if ok then
        let s := setFld (setFld (setFld s SEC_STATE_DEADBOLT 2) SEC_STATE_REMAINING (leAt a.bytes 8 1)) SEC_STATE_SIGNER
          (leAt a.bytes 6 1)
        let s := { s with sec := { s.sec with scopePending := some (leAt a.bytes 7 1) } }
        done (event (bump s SEC_EVT_OPENS) 0x8001)
      else rejectToken s

def execDeadboltOpen (r : Req) (offset : Nat) (fragment : List Byte) (s : State) : Host.Outcome State Fault Refusal :=
  runCmd (serveReqst 0x0704 r false (deadboltOpen r offset fragment)) s

/-- `DEADBOLT_CLOSE` (R416): in `FACTORY` the debug class blows the seal for good, once the DIK certificate is in flash; what
another class's close does there is refused (log 87). -/
def deadboltClose (cls : Cls) (s : State) : Answer :=
  match deadbolt s with
  | 0 =>
    if cls = .debug ∧ s.sec.dikCert = true then done (endSession (setFld s SEC_STATE_DEADBOLT 1)) else refuse s 0x32
  | 2 => done (closeBolt s)
  | _ => done s

def execDeadboltClose (r : Req) (s : State) : Host.Outcome State Fault Refusal :=
  runCmd (serveReqst 0x0705 r false (deadboltClose r.cls)) s

/-- `SEC_MEAS3` over both owner slots (R414). -/
def measureOwners (s : State) : State :=
  setFld s SEC_MEAS_DIGEST (shaNat (leBytes 32 (regNat s SEC_OWNER 0 0) ++ leBytes 32 (regNat s SEC_OWNER 0 1))) 0 3

/-- The check of a whole authorisation (R421). -/
def authOk (s : State) (t : List Byte) : Bool :=
  leAt t 0 4 == 0x4E574F44 && decide (leAt t 4 1 ≤ 1) && decide (leAt t 5 1 ≤ 1) && leAt t 6 2 == 0 &&
  leAt t 8 32 == fld s SEC_DEVID_DEVICE_ID && (leAt t 4 1 == 0 || leAt t 40 32 == 0) && leAt t 72 56 == 0 &&
  Config.slhDsaVerify s.sec.vendorKey (t.take 128) (t.drop 128)

/-- A checked authorisation takes hold: an owner key enrolled or revoked. -/
def enrol (t : List Byte) (s : State) : Answer :=
  let slot := leAt t 5 1
  if leAt t 4 1 = 0 then
    if fld s SEC_OWNER_VALID 0 slot = 1 then refuse s 0x60
    else
      let h := shaNat (slice t 40 32)
      let s := { s with sec := { s.sec with ownerHash := kSet s.sec.ownerHash slot h } }
      done (measureOwners (setFld (setFld s SEC_OWNER_KEY_HASH (h / 2) 0 slot) SEC_OWNER_VALID 1 0 slot))
  else
    let s := measureOwners (resetReg { s with sec := { s.sec with ownerHash := kErase s.sec.ownerHash slot } } SEC_OWNER 0 slot)
    done (if deadbolt s = 2 ∧ fld s SEC_STATE_SIGNER = slot + 1 then closeBolt s else s)

/-- `OWNER_ENROL` (R421). -/
def ownerEnrol (r : Req) (offset : Nat) (fragment : List Byte) (s : State) : Answer :=
  if jobState s ≠ 0 then refuse s 0x32
  else match joinFragment s.sec.auth r.cls r.qp offset fragment with
    | none => refuse { s with sec := { s.sec with auth := none } } 0x23
    | some a =>
      if a.bytes.length < signedLen then done { s with sec := { s.sec with auth := some a } }
      else
        let s := { s with sec := { s.sec with auth := none } }
        if authOk s a.bytes then enrol a.bytes s else rejectToken s

def execOwnerEnrol (r : Req) (offset : Nat) (fragment : List Byte) (s : State) : Host.Outcome State Fault Refusal :=
  runCmd (serveReqst 0x0706 r false (ownerEnrol r offset fragment)) s

/-! Firmware update (R411, R412). -/

/-- The flash slot that is not running. -/
def otherSlot (s : State) : Nat := 1 - fld s SEC_BOOT_SLOT

/-- The slot not running marked empty; a staged image is gone with it. -/
def emptyOther (s : State) : State :=
  setFld { s with sec := { s.sec with slotEmpty := s.sec.slotEmpty ||| 2 ^ otherSlot s, activeSlot := fld s SEC_BOOT_SLOT } }
    SEC_BOOT_UPDATE_READY 0

/-- A session is discarded with what it staged (R411). -/
def dropUpdate (s : State) : State :=
  if s.sec.fw.isNone then s
  else
    let s := emptyOther s
    { s with sec := { s.sec with fw := none, fwDone := false } }

/-- `FW_BEGIN` (R411): one session at a time; its own class may restart it. -/
def fwBegin (cls : Cls) (bytes : Nat) (digest : BitVec 256) (s : State) : Answer :=
  if 2 ^ 24 < bytes then refuse s 0x23
  else if (match s.sec.fw with | none => false | some f => f.cls != cls) then refuse s 0x32
  else
    let s := emptyOther s
    done { s with sec := { s.sec with fw := some ⟨cls, bytes, digest, []⟩, fwDone := false } }

def execFwBegin (r : Req) (bytes : Nat) (digest : BitVec 256) (s : State) : Host.Outcome State Fault Refusal :=
  runCmd (serveReqst 0x0707 r false (fwBegin r.cls bytes digest)) s

/-- `FW_DATA` (R411): ascending, contiguous offsets alone. -/
def fwData (cls : Cls) (offset : Nat) (fragment : List Byte) (s : State) : Answer :=
  match s.sec.fw with
  | none => refuse s 0x32
  | some f =>
    if f.cls ≠ cls then refuse s 0x32
    else if 4088 < fragment.length ∨ offset ≠ f.bytes.length ∨ f.size < offset + fragment.length then refuse s 0x23
    else
      let g : FwSession := { f with bytes := f.bytes ++ fragment }
      done { s with sec := { s.sec with fw := some g } }

def execFwData (r : Req) (offset : Nat) (fragment : List Byte) (s : State) : Host.Outcome State Fault Refusal :=
  runCmd (serveReqst 0x0708 r false (fwData r.cls offset fragment)) s

/-- The check of a staged image (R411): its digest, its form, its body's digest, its signature and its `SVN`. -/
def imageOk (s : State) (f : FwSession) : Bool :=
  let n := f.bytes.length
  let t := f.bytes
  decide (n = f.size) && decide (128 + 7856 ≤ n) && shaNat t == f.digest.toNat && leAt t 0 4 == 0x57465254 && leAt t 4 2 == 1 &&
  leAt t 6 2 == 0 && leAt t 12 4 == n - 128 - 7856 && leAt t 48 80 == 0 &&
  leAt t 16 32 == shaNat (slice t 128 (n - 128 - 7856)) &&
  Config.slhDsaVerify s.sec.vendorKey (t.take (n - 7856)) (t.drop (n - 7856)) &&
  decide (fld s SEC_BOOT_MIN_SVN ≤ leAt t 8 4)

/-- `FW_COMMIT` (R411). -/
def fwCommit (cls : Cls) (s : State) : Answer :=
  match s.sec.fw with
  | none => refuse s 0x32
  | some f =>
    if f.cls ≠ cls then refuse s 0x32
    else if imageOk s f then
      ⟨bump { s with sec := { s.sec with fwDone := true } } SEC_EVT_UPDATES, 1, [], false⟩
    else refuse (dropUpdate s) 0x52

def execFwCommit (r : Req) (s : State) : Host.Outcome State Fault Refusal :=
  runCmd (serveReqst 0x0709 r false (fwCommit r.cls)) s

/-- `FW_COMMIT_DONE` (R411): the slot is valid, and active for the next cold start. -/
def fwCommitDone (s : State) : State :=
  match s.sec.fw with
  | none => s
  | some f =>
    if s.sec.fwDone then
      let slot := otherSlot s
      let s := { s with sec := { s.sec with
        fw := none, fwDone := false, activeSlot := slot,
        slotEmpty := s.sec.slotEmpty &&& (3 - 2 ^ slot),
        slotSvn := kSet s.sec.slotSvn slot (leAt f.bytes 8 4), slotDigest := kSet s.sec.slotDigest slot f.digest.toNat } }
      raise_ (setFld s SEC_BOOT_UPDATE_READY 1) 0 2
    else s

def execFwCommitDone (s : State) : Host.Outcome State Fault Refusal := runCmd fwCommitDone s

/-- `SEC_POLICY` (R425): `OWNER_ONLY` and `DEBUG_MIN` hold for what is checked next, `SESSION_HOLDS` from the next mullion. -/
def secPolicy (value : BitVec 32) (s : State) : Answer :=
  let v := value.toNat
  if 8 ≤ v then refuse s 0x23
  else
    let s := setFld (setFld s SEC_POLICY_OWNER_ONLY (bitsOf 1 1 v)) SEC_POLICY_DEBUG_MIN (bitsOf 2 1 v)
    done { s with sec := { s.sec with policyPending := some v } }

def execSecPolicy (r : Req) (value : BitVec 32) (s : State) : Host.Outcome State Fault Refusal :=
  runCmd (serveReqst 0x070A r false (secPolicy value)) s

/-! The trace (R422, R424, R426). -/

/-- `TRACE_START`: a new trace replaces the buffer's. -/
def traceStart (selection : BitVec 128) (s : State) : Answer :=
  done (refreshSession { s with sec := { s.sec with trace := some selection, traceHeld := true } })

def execTraceStart (r : Req) (selection : BitVec 128) (s : State) : Host.Outcome State Fault Refusal :=
  runCmd (serveReqst 0x0801 r false (traceStart selection)) s

/-- `TRACE_STOP`: the buffer is kept. -/
def traceStop (s : State) : Answer := done (refreshSession { s with sec := { s.sec with trace := none } })

def execTraceStop (r : Req) (s : State) : Host.Outcome State Fault Refusal := runCmd (serveReqst 0x0802 r false traceStop) s

/-- `TRACE_READ`: up to 4,096 bytes of the 64 MiB buffer. What a trace records and how long it is the spec does not say: the
number of bytes and the bytes are free values (log 10). -/
def traceRead (offset : Nat) (s : State) : Answer :=
  if 2 ^ 26 ≤ offset then refuse s 0x23
  else if s.sec.traceHeld then
    let (s, n) := drawFree s
    done s ((List.range (n % 4097)).map (fun i => Config.traceByte (offset + i)))
  else done s

def execTraceRead (r : Req) (offset : Nat) (s : State) : Host.Outcome State Fault Refusal :=
  runCmd (serveReqst 0x0803 r false (traceRead offset)) s

/-! Draughts (R427, R428). -/

/-- The fields that arm the nine perturbations, in the order of R428's table. -/
def drtArm : List Field :=
  [DRT_MESH_PORTS, DRT_LINK_PORTS, DRT_MEMDLY_CYCLES, DRT_STRETCH_EXTRA, DRT_CREDIT_PORTS, DRT_CRC_PORTS, DRT_MBXDLY_DELAY,
   DRT_PRED_EVERY, DRT_OVF_ATTEMPTS]

/-- `DRAUGHT_ARMED` (R427): at the mullion after the write what is written acts; each perturbation that arms is reported once. -/
def draughtArmed (s : State) : State :=
  match s.sec.drtPane with
  | none => s
  | some p =>
    if p < pane s then
      let old := fld s DRT_STATUS_ARMED
      let mask := bitsToNat (drtArm.map (fun f => fld s f != 0))
      let fresh := ((List.range 9).filter (fun i => bitOf i mask && !bitOf i old)).length
      let now := drtArm.map (fun f => (f.reg.base, readReg s f.reg 0 0))
      let s := setFld { s with sec := { s.sec with drtPane := none, drtForce := now } } DRT_STATUS_ARMED mask
      refreshSession (event s 0x8004 fresh)
    else s

def execDraughtArmed (s : State) : Host.Outcome State Fault Refusal := runCmd draughtArmed s

/-- `DRAUGHT_CLEAR` (R427). -/
def draughtClear (s : State) : Answer := done (refreshSession (clearDraughts s))

def execDraughtClear (r : Req) (s : State) : Host.Outcome State Fault Refusal :=
  runCmd (serveReqst 0x0805 r false draughtClear) s

end Sys2Proof.Machine
end

