-- ==== Sys2Proof/Machine/Access.lean ====
section
/-! DEFINITION. Register access (R8–R10, R385): which register a word of the device map belongs to, access codes, the values the
register tables refuse or replace, the registers that accept a write only in some states, and the commands that read and write. -/

namespace Sys2Proof.Machine

/-! Where a word lies. -/

/-- The instance, the element and the byte offset at which a register holds the byte of an address. -/
def Reg.locate (r : Reg) (a : Nat) : Option (Nat × Nat × Nat) :=
  if a < r.base then none
  else
    let d := a - r.base
    let k := if r.instStride = 0 then 0 else d / r.instStride
    let d := if r.instStride = 0 then d else d % r.instStride
    let n := if r.stride = 0 then 0 else d / r.stride
    let o := if r.stride = 0 then d else d % r.stride
    if k < r.insts ∧ n < r.count ∧ o < r.width / 8 then some (k, n, o) else none

/-- A part of a register that lies in a 64-bit word: its instance and element, its first bit in the register and in the word,
and its bits. -/
structure Piece where
  reg : Reg
  k : Nat
  n : Nat
  lo : Nat
  at_ : Nat
  bits : Nat
  deriving DecidableEq, Repr

/-- The pieces of one register in the word at `a`. -/
def Reg.pieces (r : Reg) (a : Nat) : List Piece :=
  match r.locate a with
  | some (k, n, o) =>
    let first : Piece := ⟨r, k, n, 8 * o, 0, min 64 (r.width - 8 * o)⟩
    if r.width = 32 then
      match r.locate (a + 4) with
      | some (k', n', 0) => [first, ⟨r, k', n', 0, 32, 32⟩]
      | _ => [first]
    else [first]
  | none =>
    match r.locate (a + 4) with
    | some (k, n, 0) => [⟨r, k, n, 0, 32, 32⟩]
    | _ => []

/-- The registers of the word at `a`. -/
def wordPieces (a : Nat) : List Piece := allRegs.flatMap (fun r => r.pieces a)

/-- A block of the part is powered (R394, R435): in Standby the management complex and what serves it, in Wicket no tile
above 15. -/
def blockPowered (s : State) (b : Block) (k : Nat) : Bool :=
  let p := power s
  let mgmt := match b with | .mbx | .rst | .sec | .drt | .pwr => true | _ => false
  let tile := match b with | .tile | .mxa | .mvp | .fmt | .acc | .spx | .rng => true | _ => false
  if p = 0 then false else if p = 1 then mgmt else if p = 2 ∧ tile = true then decide (k < 16) else true

/-- A 64-bit word of registers as it reads (R8, R9): no field of the part is WO. -/
def readWord (s : State) (a : Nat) : Nat :=
  sumOf ((wordPieces a).map (fun p => bitsOf p.lo p.bits (regNat s p.reg p.k p.n) * 2 ^ p.at_))

/-! The values a register stores. -/

/-- Fields whose value below the second number is stored as that number. -/
def lowest : List (Field × Nat) :=
  [(PANE_HORIZON_HORIZON, 1), (BRY_ARB_W_DIE, 1), (BRY_ARB_W_GRE, 1), (BRY_SCRUB_PERIOD, 1), (GRE_CFG_REMOTE_SHARE, 1),
   (EMB_CFG_DECAY, 1), (MXA_CFG_IDLE, 8), (SPX_CFG_THRESH, 1), (PANE_COMMIT_CFG_RESCALE_STEP, 1), (SBN_LINK_RETRY_TMO, 256),
   (SBN_LINK_RETRY_BUDGET, 1), (SBN_XPORT_TMO, 1800), (SBN_XPORT_BUDGET, 1), (SBN_XPORT_W_MIN, 1), (SBN_ARB_W_COLL, 1),
   (SBN_ARB_W_RESP, 1), (SBN_ARB_W_REQ, 1), (SBN_ARB_W_BULK, 1), (SBN_COLL_TMO_PANES, 1), (ETH_PFC_STORM, 1),
   (ETH_CC_R_MIN, 1), (MBX_CFG_EVT_GAP, 1), (MBX_WDT_TMO, 16), (MBX_WDT_LIMIT, 2), (RST_CFG_TRAIN_MAX, 1),
   (RST_HANG_SITE_PANES, 8), (RST_HANG_RETIRE_EXP, 12), (RST_HANG_STEP_EXP, 12), (DRT_STRETCH_EVERY, 1), (DRT_CRC_EVERY, 1),
   (DRT_OVF_EVERY, 1)]

/-- Fields whose value above the second number is stored as that number. -/
def highest : List (Field × Nat) :=
  [(BRY_ILV_IGIB, 64), (GRE_CFG_REMOTE_SHARE, 12), (EMB_CFG_PF_WAYS, 12), (SBN_CFG_MIN_LANES, 2), (ETH_CFG_PMTU, 2),
   (MBX_WDT_TMO, 1000), (DRT_MESH_PLANE, 2), (DRT_OVF_ATTEMPTS, 4)]

/-- A field of a register's value. -/
def Field.get (f : Field) (v : RegVal) : Nat := getBits f.lo f.bits v

/-- A field of a register's value replaced. -/
def Field.put (f : Field) (v : RegVal) (x : Nat) : RegVal := setBits f.lo f.bits v x

/-- A register's value with one field at least as large as another. -/
def notBelow (f g : Field) (v : RegVal) : RegVal := if f.get v < g.get v then f.put v (g.get v) else v

/-- The same for two signed fields of 8 bits. -/
def notBelowSigned (f g : Field) (v : RegVal) : RegVal :=
  if signed 8 (f.get v) < signed 8 (g.get v) then f.put v (g.get v) else v

/-- What a register stores of a value written to it (the Effect columns of the register tables); `old` is what it held. -/
def stored (r : Reg) (old v : RegVal) : RegVal :=
  let v := lowest.foldl (fun v e => if e.1.reg.base = r.base ∧ e.1.get v < e.2 then e.1.put v e.2 else v) v
  let v := highest.foldl (fun v e => if e.1.reg.base = r.base ∧ e.2 < e.1.get v then e.1.put v e.2 else v) v
  if r.base = PANE_GFC_CFG.base then notBelowSigned PANE_GFC_CFG_T_MAX PANE_GFC_CFG_T_MIN v
  else if r.base = PANE_GFC_THR.base then
    (if PANE_GFC_THR_UNF_HI.get v < PANE_GFC_THR_UNF_LO.get v then PANE_GFC_THR_UNF_LO.put v (PANE_GFC_THR_UNF_HI.get v) else v)
  else if r.base = PANE_COMMIT_CFG.base then
    (if PANE_COMMIT_CFG_POLICY.get v = 3 then PANE_COMMIT_CFG_POLICY.put v (PANE_COMMIT_CFG_POLICY.get old) else v)
  else if r.base = PANE_COMMIT_LAMBDA.base then notBelowSigned PANE_COMMIT_LAMBDA_LAMBDA_MAX PANE_COMMIT_LAMBDA_LAMBDA_MIN v
  else if r.base = SBN_XPORT.base then notBelow SBN_XPORT_W_MAX SBN_XPORT_W_MIN v
  else if r.base = ETH_PFC.base then
    (if ETH_PFC_XOFF.get v < ETH_PFC_XON.get v then ETH_PFC_XON.put v (ETH_PFC_XOFF.get v) else v)
  else if r.base = RST_HANG.base then
    (if 1 ≤ RST_HANG_IDX_EXP.get v ∧ RST_HANG_IDX_EXP.get v < 12 then RST_HANG_IDX_EXP.put v 12 else v)
  else v

/-- The deadbolt lets RWL fields be written: in `FACTORY` and in `OPENED` (R9). -/
def rwlOpen (s : State) : Bool := deadbolt s == 0 || deadbolt s == 2

/-- The deadbolt lets debug class write registers: in `FACTORY`, and in `OPENED` with any scope in force (R422; DEDUCED, log 95). -/
def debugWrites (s : State) : Bool := deadbolt s == 0 || (deadbolt s == 2 && fld s SEC_STATE_SCOPE != 0)

/-- The register's value after a write of a word that holds `p` (R9): RW and RWL bits stored, W1C bits cleared by a 1. -/
def written (s : State) (p : Piece) (word : Nat) : RegVal :=
  let old := readReg s p.reg p.k p.n
  let part := fieldMask p.lo p.bits
  let x := BitVec.ofNat 512 (bitsOf p.at_ p.bits word <<< p.lo)
  let rw := BitVec.ofNat 512 (p.reg.rw ||| (if rwlOpen s then p.reg.rwl else 0)) &&& part
  let w1c := BitVec.ofNat 512 p.reg.w1c &&& part
  let v := (old &&& ~~~ rw) ||| (x &&& rw)
  stored p.reg old (v &&& ~~~ (x &&& w1c))

/-! What a write brings about. -/

/-- The causes behind flags that a write cleared are forgotten (R199, R220). -/
def flagsFollow (s : State) (t : Nat) : State :=
  let keep := bitsToNat [fld s FMT_FLAGS_IV t == 1, fld s FMT_FLAGS_NF t == 1, fld s ACC_FLAGS_IV0 t == 1,
    fld s ACC_FLAGS_NF0 t == 1, fld s ACC_FLAGS_IV1 t == 1, fld s ACC_FLAGS_NF1 t == 1]
  let x := tileS s t
  setTile s t { x with plainFlags := x.plainFlags &&& keep, commitFlags := x.commitFlags &&& keep }

/-- A held-open louvre opens (R173, R181). -/
def louvreFollows (s : State) (t : Nat) : State :=
  if fld s MXA_CFG_LOUVRE_EN t = 0 ∧ power s ≠ 5 then openLouvre s t 0 else s

/-- The effect of a write on one register, with what waits for a mullion or a latch: `REMOTE_SHARE` (R115), `DECAY` and
`PF_WAYS` (R142), routes (R326), `RST_HANG` (R459). -/
def storePiece (s : State) (p : Piece) (word : Nat) : State :=
  let old := readReg s p.reg p.k p.n
  let v := written s p word
  let b := p.reg.base
  if b = GRE_CFG.base then
    let s := setEmb s p.k { emb s p.k with sharePending := some (GRE_CFG_REMOTE_SHARE.get v) }
    writeReg s p.reg p.k p.n (GRE_CFG_REMOTE_SHARE.put v (GRE_CFG_REMOTE_SHARE.get old))
  else if b = EMB_CFG.base then
    let s := setEmb s p.k { emb s p.k with cfgPending := some (EMB_CFG_PF_WAYS.get v + 16 * EMB_CFG_DECAY.get v) }
    writeReg s p.reg p.k p.n
      (EMB_CFG_DECAY.put (EMB_CFG_PF_WAYS.put v (EMB_CFG_PF_WAYS.get old)) (EMB_CFG_DECAY.get old))
  else if b = BRY_ILV.base then followIlv s (writeReg s p.reg p.k p.n v)
  else if b = RST_HANG.base then { s with rst := { s.rst with hangPending := some v.toNat } }
  else if b = SBN_ROUTE.base then
    { s with sbn := { s.sbn with routePending := kSet s.sbn.routePending p.n v.toNat } }
  else if b = FMT_FLAGS.base ∨ b = ACC_FLAGS.base then flagsFollow (writeReg s p.reg p.k p.n v) p.k
  else if b = MXA_CFG.base then louvreFollows (writeReg s p.reg p.k p.n v) p.k
  else if b = SBN_CFG.base then
    let en := SBN_CFG_EN.get v
    let was := SBN_CFG_EN.get old
    let s := writeReg s p.reg p.k p.n (SBN_CFG_EN.put v was)
    if en = was then s else sbnPortEnable (en == 1) s
  else if b = ETH_CFG.base then
    let s := writeReg s p.reg p.k p.n (ETH_CFG_EN1.put (ETH_CFG_EN0.put v (ETH_CFG_EN0.get old)) (ETH_CFG_EN1.get old))
    let s := if ETH_CFG_EN0.get v = ETH_CFG_EN0.get old then s else ethPortEnable 0 (ETH_CFG_EN0.get v == 1) s
    if ETH_CFG_EN1.get v = ETH_CFG_EN1.get old then s else ethPortEnable 1 (ETH_CFG_EN1.get v == 1) s
  else if b = ETH_CC.base then lineRates (writeReg s p.reg p.k p.n v)
  else writeReg s p.reg p.k p.n v

/-! Who may write what, and when (R385). -/

/-- A class may not write a register: the refusal. -/
def classRefuses (s : State) (c : Cls) (b : Block) (addr : Bool) : Option Nat :=
  match c with
  | .host => if b = .pwr ∨ b = .sec ∨ b = .drt ∨ addr = true then some 0x20 else none
  | .platform => if addr then none else some 0x20
  | .debug => if debugWrites s = false ∨ b = .drt then some 0x50 else none

/-- A register that accepts no write while a job is loaded (R27, R62, R345). -/
def jobRefuses (s : State) (p : Piece) (word : Nat) : Bool :=
  jobLoaded s && (p.reg.base == BRY_ILV.base || p.reg.base == SBN_ID.base || p.reg.base == SBN_ROUTE.base ||
    (p.reg.base == PANE_CFG.base && decide (PANE_CFG_LEN.get (written s p word) ≠ fld s PANE_CFG_LEN)))

/-- Bytes of a tile's window: its tile and the offset (R151). -/
def tileWindow (a : Nat) : Option (Nat × Nat) :=
  if 0x10000000000 ≤ a ∧ a < tileBase 96 then some ((a - 0x10000000000) / 0x1000000, (a - 0x10000000000) % 0x1000000) else none

/-- A word of a tile window outside its registers: scratchpad, banks and reserved ranges, which management may write (R151). -/
def tileMemory (s : State) (a : Nat) : Option (Nat × Nat) :=
  match tileWindow a with
  | some (t, o) => if (o < 0xC00000 ∨ 0xC10000 ≤ o) ∧ blockPowered s .tile t = true then some (t, o) else none
  | none => none

/-- One entry of `REG_WRITE`: the state, and the status of its refusal. A word that names no register of a powered block is
refused. -/
def writeEntry (c : Cls) (a word : Nat) (s : State) : State × Option Nat :=
  match tileMemory s a with
  | some (_, o) =>
    match classRefuses s c .tile false with
    | some st => (s, some st)
    | none => (if o < 0x820000 then hostStore s a (leBytes 8 word) else s, none)
  | none =>
    let ps := (wordPieces a).filter (fun p => blockPowered s p.reg.block p.k)
    match ps.filterMap (fun p => classRefuses s c p.reg.block (p.reg.base == ETH_ADDR.base)) with
    | st :: _ => (s, some st)
    | [] =>
      if ps = [] then (s, some 0x61)
      else if ps.any (fun p => jobRefuses s p word) then (s, some 0x31)
      else (ps.foldl (fun s p => storePiece s p word) s, none)

/-- Entries in order; the index and the status of the first refused. -/
def writeEntries (c : Cls) : Nat → List (Nat × Nat) → State → State × Option (Nat × Nat)
  | _, [], s => (s, none)
  | i, (a, w) :: l, s =>
    match writeEntry c a w s with
    | (s, some st) => (s, some (i, st))
    | (s, none) => writeEntries c (i + 1) l s

/-- The reply to a list of entries: the index of the first not written, or 0xFFFF. -/
def entriesAnswer (r : State × Option (Nat × Nat)) : Answer :=
  match r with
  | (s, none) => done s (leBytes 2 0xFFFF)
  | (s, some (i, st)) => refuse s st (leBytes 2 i)

/-- An entry's form (R385): an address of 48 bits, aligned to 8 bytes. -/
def entriesOk (l : List (BitVec 64 × BitVec 64)) : Bool :=
  decide (l.length ≤ 255) && l.all (fun e => decide (e.1.toNat < 2 ^ 48) && e.1.toNat % 8 == 0)

/-- Entries as numbers. -/
def entryNats (l : List (BitVec 64 × BitVec 64)) : List (Nat × Nat) := l.map (fun e => (e.1.toNat, e.2.toNat))

/-- A management access to a bank of a tile whose running task holds it waits (R153). -/
def bankBusy (s : State) (a n : Nat) : Bool :=
  match tileWindow a with
  | some (t, o) => decide (o < 0x820000) && decide (0x800000 < o + n) && (site s t).run.isSome
  | none => false

/-- `REG_WRITE` (R385). -/
def regWrite (r : Req) (entries : List (BitVec 64 × BitVec 64)) (s : State) : State :=
  if entries.any (fun e => bankBusy s e.1.toNat 8) then s
  else serveReqst 0x0302 r false (fun s =>
    if entriesOk entries then entriesAnswer (writeEntries r.cls 0 (entryNats entries) s) else refuse s 0x23) s

def execRegWrite (r : Req) (entries : List (BitVec 64 × BitVec 64)) (s : State) : Host.Outcome State Fault Refusal :=
  runCmd (regWrite r entries) s

/-- One word of `REG_READ`: none where it names nothing. -/
def readEntry (s : State) (a : Nat) : Option Nat :=
  match tileMemory s a with
  | some (_, o) => some (if o < 0x820000 then loadNat s a 8 else 0)
  | none => if (wordPieces a).any (fun p => blockPowered s p.reg.block p.k) then some (readWord s a) else none

/-- The words of `REG_READ` that lie in scratchpads and banks meet their checks (R149, R224): `found` has what each address meets. -/
def wordsCheck (s : State) (addrs : List Nat) (found : List Found) : State × Bool :=
  ((List.range addrs.length).zip addrs).foldl (fun (acc : State × Bool) e =>
    let r := spadCheck acc.1 e.2 8 (found.getD e.1 {})
    (r.1, acc.2 && r.2)) (s, true)

/-- `REG_READ` (R384, R423): a debug-class read of a tile window is a memory read. One that meets an error that is not corrected
delivers no data (R149, R224), as a `MEM_READ` does (log 97). -/
def regRead (r : Req) (addrs : List Nat) (found : List Found) (s : State) : State :=
  if addrs.any (fun a => bankBusy s a 8) then s
  else serveReqst 0x0301 r false (fun s =>
    if 255 < addrs.length ∨ addrs.any (fun a => decide (a % 8 ≠ 0) || decide (2 ^ 48 ≤ a)) then refuse s 0x23
    else if r.cls = .debug ∧ addrs.any (fun a => (tileWindow a).isSome) ∧ inScope s (some 1) = false then refuse s 0x50
    else if r.cls = .debug ∧ addrs.any (fun a => (tileWindow a).isSome) ∧ power s < 2 then refuse s 0x32
    else if addrs.all (fun a => (readEntry s a).isSome) then
      let q := wordsCheck s addrs found
      if q.2 then done q.1 (addrs.flatMap (fun a => leBytes 8 ((readEntry q.1 a).getD 0))) else refuse q.1 0x70
    else refuse s 0x61) s

def execRegRead (r : Req) (addrs : List ReadAt) (s : State) : Host.Outcome State Fault Refusal :=
  runCmd (regRead r (addrs.map ReadAt.addr) (addrs.map ReadAt.found)) s

/-- A register write on its own: an entry of `REG_WRITE` as it reaches its register. -/
def writeOne (c : Cls) (a word : Nat) (s : State) : State :=
  match writeEntry c a word s with
  | (s, some 0x20) => event s 0x7006
  | (s, _) => s

/-- `PANE_CFG_WRITE` (R27), with the bits of its word beyond the register 0. -/
def execPaneCfgWrite (cls : Cls) (value : BitVec 32) (s : State) : Host.Outcome State Fault Refusal :=
  runCmd (writeOne cls PANE_CFG.base value.toNat) s

/-- `BRY_ILV_WRITE` (R62). -/
def execBryIlvWrite (cls : Cls) (value : BitVec 32) (s : State) : Host.Outcome State Fault Refusal :=
  runCmd (writeOne cls BRY_ILV.base value.toNat) s

/-- `SBN_ID_WRITE` (R323, R345). -/
def execSbnIdWrite (cls : Cls) (value : BitVec 32) (s : State) : Host.Outcome State Fault Refusal :=
  runCmd (writeOne cls SBN_ID.base value.toNat) s

/-- `SBN_ROUTE_WRITE` (R323, R326, R345). -/
def execSbnRouteWrite (cls : Cls) (part : Fin 16) (value : BitVec 64) (s : State) : Host.Outcome State Fault Refusal :=
  runCmd (writeOne cls (SBN_ROUTE.at 0 part.val) value.toNat) s

/-- A write to a bank that a running task holds waits for the task (R153); its class is judged as it comes (log 133). -/
def holdWrite (c : Cls) (a word : Nat) (s : State) : State :=
  match classRefuses s c .tile false with
  | some 0x20 => event s 0x7006
  | some _ => s
  | none => { s with mgmt := { s.mgmt with heldWrites := s.mgmt.heldWrites ++ [(a, word)] } }

/-- `REGISTER_WRITE` (R9): a 64-bit word at an address aligned to 8 bytes (R385). -/
def registerWrite (cls : Cls) (addr : Nat) (value : BitVec 64) (s : State) : State :=
  if addr % 8 ≠ 0 then s
  else if bankBusy s addr 8 then holdWrite cls addr value.toNat s
  else writeOne cls addr value.toNat s

def execRegisterWrite (cls : Cls) (addr : Nat) (value : BitVec 64) (s : State) : Host.Outcome State Fault Refusal :=
  runCmd (registerWrite cls addr value) s

/-! Draught registers (R427, R431). -/

/-- One entry of `DRAUGHT_SET`: a word of the DRT block alone. -/
def draughtEntry (a word : Nat) (s : State) : Option State :=
  let ps := (wordPieces a).filter (fun p => p.reg.block == .drt)
  if ps = [] then none else some (ps.foldl (fun s p => writeReg s p.reg p.k p.n (written s p word)) s)

/-- The entries of `DRAUGHT_SET` in order. -/
def draughtEntries : Nat → List (Nat × Nat) → State → State × Option (Nat × Nat)
  | _, [], s => (s, none)
  | i, (a, w) :: l, s =>
    match draughtEntry a w s with
    | none => (s, some (i, 0x61))
    | some s => draughtEntries (i + 1) l s

/-- `DRAUGHT_SET` (R427): what is written acts from the next mullion. -/
def draughtSet (entries : List (BitVec 64 × BitVec 64)) (s : State) : Answer :=
  if entriesOk entries then
    entriesAnswer (draughtEntries 0 (entryNats entries) { s with sec := { s.sec with drtPane := some (pane s) } })
  else refuse s 0x23

def execDraughtSet (r : Req) (entries : List (BitVec 64 × BitVec 64)) (s : State) : Host.Outcome State Fault Refusal :=
  runCmd (serveReqst 0x0804 r false (draughtSet entries)) s

end Sys2Proof.Machine
end

