-- ==== Sys2Proof/Machine/Control.lean ====
section
/-! DEFINITION. The Renvi opcodes of groups 0x01, 0x03 to 0x06, 0x09 and 0x0A that need no bring-up: identity and status, memory
reads and windows, table and step control, telemetry, power, logs and the fabric group (17, 18, 20). A reply's fields stand in
the order in which R384 names them, each in the bytes of its register, where the spec gives no other layout (log 84). -/

namespace Sys2Proof.Machine

/-- A register's bytes. -/
def regBytes (s : State) (r : Reg) (k : Nat := 0) (n : Nat := 0) : List Byte := leBytes (r.width / 8) (regNat s r k n)

/-! Group 0x01. -/

/-- `GET_IDENTITY` (R384; the board id of 21). -/
def getIdentity (s : State) : Answer :=
  done s (leBytes 4 (Config.identity 0) ++ leBytes 8 (Config.identity 1) ++ leBytes 2 (Config.identity 2) ++
    leBytes 4 (fld s SEC_BOOT_SVN) ++ leBytes 4 (fld s SEC_BOOT_MIN_SVN) ++ leBytes 6 (fld s ETH_PORT_MAC 0 0) ++
    leBytes 6 (fld s ETH_PORT_MAC 0 1) ++ regBytes s SBN_ID ++ leBytes 1 s.tap.slotId)

def execGetIdentity (r : Req) (s : State) : Host.Outcome State Fault Refusal :=
  runCmd (serveReqst 0x0101 r false getIdentity) s

/-- `GET_CAPS` (R384): the limits (tiles, stacks, Sirben and Ethernet ports, queue pairs, windows), the tile map, every tile
descriptor and the fingerprint. -/
def getCaps (s : State) : Answer :=
  done s (([96, 8, 10, 2, 256, 64] : List Nat).flatMap (leBytes 2) ++ regBytes s TILE_PMAP ++
    (List.range 96).flatMap (fun t => regBytes s TILE_DESC t) ++ regBytes s TILE_GEOM)

def execGetCaps (r : Req) (s : State) : Host.Outcome State Fault Refusal := runCmd (serveReqst 0x0102 r false getCaps) s

/-- `GET_STATE` (R384). -/
def getState (s : State) : Answer :=
  done s (([power s, jobState s, deadbolt s, fld s RST_STATUS_SERVICE] : List Nat).flatMap (leBytes 1))

def execGetState (r : Req) (s : State) : Host.Outcome State Fault Refusal := runCmd (serveReqst 0x0103 r false getState) s

/-- `JOB_STATUS` (R384, R451): of the loaded job, or what the last one left. -/
def jobStatus (s : State) : Answer :=
  let v := if jobLoaded s then (s.step.latchedStep, s.step.committedStep, fld s PANE_SASH_VERSION)
    else (s.jobEnd.lastLatched, s.jobEnd.lastCommitted, s.jobEnd.lastV)
  done s (leBytes 1 (jobState s) ++ leBytes 8 v.1 ++ leBytes 8 v.2.1 ++ leBytes 4 v.2.2 ++
    leBytes 2 s.jobEnd.lastCode ++ leBytes 32 s.jobEnd.lastDetail)

def execJobStatus (r : Req) (s : State) : Host.Outcome State Fault Refusal := runCmd (serveReqst 0x0204 r false jobStatus) s

/-! Memory reads and windows (R365, R423, R435). -/

/-- A range lies in the scratchpad, the banks or a reserved range of one tile window (R151): its tile and offset. -/
def tileRange (a n : Nat) : Option (Nat × Nat) :=
  match tileWindow a with
  | some (t, o) => if o + n ≤ 0xC00000 ∨ (0xC10000 ≤ o ∧ o + n ≤ 0x1000000) then some (t, o) else none
  | none => none

/-- Why a `MEM_READ` is refused: outside what it may reach, or a memory read (R423) that the deadbolt or the power state forbids.
In wicket service it reaches logical tiles 0 to 15 alone. -/
def memReadRefused (s : State) (c : Cls) (a n : Nat) : Option Nat :=
  let wicket := decide (fld s RST_STATUS_SERVICE < 2)
  let place : Option Bool := match tileRange a n with
    | some (t, o) => if wicket && decide (16 ≤ t) then none else some (decide (0x800000 < o + n))
    | none =>
      if wicket || decide (retainedUpper < a + n) then none else some (decide (retainedBase < a + n))
  match place with
  | none => some 0x61
  | some guarded =>
    if c = .debug ∨ guarded = true then
      (if inScope s (some 1) = false then some 0x50 else if power s < 2 then some 0x32 else none)
    else if power s < 2 then some 0x61
    else none

/-- Bytes as management reads them (R151): reserved ranges read 0. -/
def managedBytes (s : State) (a n : Nat) : List Byte := load s a n

/-- `MEM_READ` (R384, R423). A read that meets an uncorrectable error or a bank's parity error delivers no data (R73, R149, R224). -/
def memReadAt (c : Cls) (a n : Nat) (found : Found) (s : State) : Answer :=
  if n = 0 ∨ 4096 < n ∨ 2 ^ 48 ≤ a then refuse s 0x23
  else match memReadRefused s c a n with
    | some st => refuse s st
    | none =>
      let r := if a < dramTop then dramRead s a n 0 else spadCheck s a n found
      if r.2 then done r.1 (managedBytes r.1 a n) else refuse r.1 0x70

/-- `MEM_READ`; one of a bank that a running task holds waits (R153). -/
def memReadReq (r : Req) (addr len : Nat) (found : Found) (s : State) : State :=
  if bankBusy s addr len then s else serveReqst 0x0303 r false (memReadAt r.cls addr len found) s

def execMemRead (r : Req) (addr : ReadAt) (len : Nat) (s : State) : Host.Outcome State Fault Refusal :=
  runCmd (memReadReq r addr.addr len addr.found) s

/-- A window may be created over a range (R365, R435). -/
def windowReach (s : State) (a n : Nat) : Bool :=
  rdmaReach a n && (decide (2 ≤ fld s RST_STATUS_SERVICE) ||
    (match tileWindow a with | some (t, _) => decide (t < 16) | none => false))

/-- `WIN_CREATE` (R365) through mailbox entry `qp`: the lowest free entry (log 89), its generation advanced. -/
def winCreate (qp base len perms : Nat) (s : State) : Answer :=
  if len = 0 ∨ 2 ^ 40 ≤ len ∨ 4 ≤ perms ∨ 2 ^ 48 ≤ base then refuse s 0x23
  else if !windowReach s base len then refuse s 0x61
  else match (List.range 64).find? (fun w => fld s ETH_WIN_LENGTH 0 w == 0) with
    | none => refuse s 0x60
    | some w =>
      let g := (kGetD s.eth.gens w 0 + 1) % 2 ^ 24
      let key := w + 256 * g
      let s := { s with eth := { s.eth with gens := kSet s.eth.gens w g, winPorts := kSet s.eth.winPorts w (qp / 4) } }
      let s := setFld (setFld (setFld (setFld (setFld s ETH_WIN_BASE base 0 w) ETH_WIN_READ (perms % 2) 0 w)
        ETH_WIN_WRITE (perms / 2) 0 w) ETH_WIN_LENGTH len 0 w) ETH_WIN_R_KEY key 0 w
      done s (leBytes 1 w ++ leBytes 4 key)

def execWinCreate (r : Req) (base len perms : Nat) (s : State) : Host.Outcome State Fault Refusal :=
  runCmd (serveReqst 0x0304 r false (winCreate r.qp base len perms)) s

/-- `WIN_DESTROY` (R365). -/
def winDestroy (rkey : Nat) (s : State) : Answer :=
  match windowIx s rkey with
  | none => refuse s 0x23
  | some w => done (dropWindow s w)

def execWinDestroy (r : Req) (rkey : Nat) (s : State) : Host.Outcome State Fault Refusal :=
  runCmd (serveReqst 0x0305 r false (winDestroy rkey)) s

/-! Tables (R125, R135–R137). -/

/-- A table's live descriptor is valid at some stack. -/
def liveSomewhere (s : State) (t : Nat) : Bool := (List.range 8).any (fun k => tdValid (tdesc s k t))

/-- The staged descriptor of a table at a stack: valid, and not an old version that waits for its release (R139). -/
def staged (s : State) (k t : Nat) : Bool :=
  let d := fld s EMB_SDESC_DESC k t
  tdValid d && !decide (kGet? (emb s k).oldLive t = some d)

/-- A flip that names the table is pending. -/
def flipNames (s : State) (t : Nat) : Bool := fld s EMB_FLIP_PENDING == 1 && bitOf t (fld s EMB_FLIP_TABLES)

/-- The reserved bits of a table descriptor (R117): first bit and how many. -/
def descReserved : List (Nat × Nat) := [(6, 2), (31, 1), (43, 21), (98, 30), (176, 16), (432, 16), (480, 32)]

/-- `TABLE_STAGE` (R136); reserved bits other than 0 are a bad field (R382). -/
def tableStage (stack table : Nat) (desc : BitVec 512) (s : State) : Answer :=
  let d := desc.toNat
  let live := tdesc s stack table
  if 8 ≤ stack ∨ 64 ≤ table ∨ descReserved.any (fun f => bitsOf f.1 f.2 d != 0) = true then refuse s 0x23
  else if flipNames s table then refuse s 0x32
  else if !tdValid d ∨ bitsOf 0 6 d ≠ table ∨ descOk s stack d = false ∨
      (tdValid live = true ∧ tdVersion d = tdVersion live) then refuse s 0x43
  else done (setFld s EMB_SDESC_DESC d stack table)

def execTableStage (r : Req) (stack table : Nat) (desc : BitVec 512) (s : State) : Host.Outcome State Fault Refusal :=
  runCmd (serveReqst 0x0306 r false (tableStage stack table desc)) s

/-- Step `t` comes after step `n`; step numbers are 64 bits (R15). -/
def stepAfter (t n : Nat) : Bool :=
  let d := (t + 2 ^ 64 - n) % 2 ^ 64
  decide (0 < d) && decide (d < 2 ^ 63)

/-- `TABLE_FLIP` (R137). -/
def tableFlip (tables step : BitVec 64) (s : State) : Answer :=
  let ts := (List.range 64).filter (fun t => bitOf t tables.toNat)
  let t := step.toNat
  if fld s EMB_FLIP_PENDING = 1 then refuse s 0x32
  else if started s ∧ stepAfter t s.step.takenStep = false then refuse s 0x32
  else if ts.any (fun t => (List.range 8).any (fun k => tdValid (tdesc s k t) && !staged s k t) ||
      !(List.range 8).any (fun k => staged s k t)) then refuse s 0x32
  else done ((List.range 8).foldl (fun s k =>
    setFld (setFld (setFld s EMB_FLIP_PENDING 1 k) EMB_FLIP_TABLES tables.toNat k) EMB_FLIP_STEP t k) s)

def execTableFlip (r : Req) (tables : BitVec 64) (step : BitVec 64) (s : State) : Host.Outcome State Fault Refusal :=
  runCmd (serveReqst 0x0307 r false (tableFlip tables step)) s

/-- `TABLE_STATUS` (R384). -/
def tableStatus (table : Nat) (s : State) : Answer :=
  if 64 ≤ table then refuse s 0x23
  else done s ((List.range 8).flatMap (fun k => regBytes s EMB_TDESC k table ++ regBytes s EMB_SDESC k table ++ regBytes s EMB_FLIP k))

def execTableStatus (r : Req) (table : Nat) (s : State) : Host.Outcome State Fault Refusal :=
  runCmd (serveReqst 0x0308 r false (tableStatus table)) s

/-- `TABLE_OPT` (R135, R142): held at every stack until the latch. -/
def tableOpt (table : Nat) (values : BitVec 160) (s : State) : Answer :=
  if 64 ≤ table ∨ liveSomewhere s table = false then refuse s 0x23
  else done ((List.range 8).foldl (fun s k =>
    setEmb s k { emb s k with optPending := kSet (emb s k).optPending table values.toNat }) s)

def execTableOpt (r : Req) (table : Nat) (values : BitVec 160) (s : State) : Host.Outcome State Fault Refusal :=
  runCmd (serveReqst 0x0309 r false (tableOpt table values)) s

/-- `TABLE_THRESH` (R125, R142): a down threshold above its up threshold is stored equal to it. -/
def tableThresh (table up16 dn16 up8 dn8 : Nat) (s : State) : Answer :=
  if 64 ≤ table ∨ liveSomewhere s table = false ∨ 256 ≤ up16 ∨ 256 ≤ dn16 ∨ 256 ≤ up8 ∨ 256 ≤ dn8 then refuse s 0x23
  else
    let w := up16 + 256 * min dn16 up16 + 65536 * up8 + 16777216 * min dn8 up8
    done ((List.range 8).foldl (fun s k =>
      setEmb s k { emb s k with thrPending := kSet (emb s k).thrPending table w }) s)

def execTableThresh (r : Req) (table up16 dn16 up8 dn8 : Nat) (s : State) : Host.Outcome State Fault Refusal :=
  runCmd (serveReqst 0x030A r false (tableThresh table up16 dn16 up8 dn8)) s

/-! Step control (R289–R295). -/

/-- The named bytes of a step journal record (R292). -/
def recordHead (s : State) (parity : Nat) : List Byte :=
  match recordAt s parity with
  | none => List.replicate 320 0
  | some a => load s a 320

/-- `STEP_STATUS` (R384); records that cannot be read are no data (R73). -/
def stepStatus (s : State) : Answer :=
  let r := readGranules s (([0, 1] : List Nat).flatMap (fun p => match recordAt s p with
    | some a => granules a 320
    | none => [])) 0
  let s := r.1
  if !r.2 then refuse s 0x70
  else done s (regBytes s PANE_COMMIT_STATUS ++ regBytes s PANE_SASH ++ recordHead s 0 ++ recordHead s 1)

def execStepStatus (r : Req) (s : State) : Host.Outcome State Fault Refusal := runCmd (serveReqst 0x0401 r false stepStatus) s

/-- A step is halted or paused, and no replay runs. -/
def haltedNow (s : State) : Bool := jobState s == 3 && s.step.replay.isNone

/-- `STEP_RESUME` (R289, R290, R294). -/
def stepResumeReq (outcome : Nat) (s : State) : Answer :=
  if 2 < outcome then refuse s 0x23
  else if haltedNow s && (s.step.halt == 1 || s.step.halt == 2) then done (stepResume outcome s)
  else refuse s 0x32

def execStepResume (r : Req) (outcome : Nat) (s : State) : Host.Outcome State Fault Refusal :=
  runCmd (serveReqst 0x0402 r false (stepResumeReq outcome)) s

/-- `STEP_UNDO` (R140, R294). -/
def stepUndoReq (step : BitVec 64) (s : State) : Answer :=
  if haltedNow s && s.step.committedStep == step.toNat && fld s PANE_COMMIT_STATUS_UNDO_VALID == 1 then done (stepUndo s)
  else refuse s 0x32

def execStepUndo (r : Req) (step : BitVec 64) (s : State) : Host.Outcome State Fault Refusal :=
  runCmd (serveReqst 0x0403 r false (stepUndoReq step)) s

/-- `STEP_REPLAY` (R295): its reply, with the replay digest, comes at the replay's commit point. -/
def stepReplayReq (step : BitVec 64) (mode : Nat) (s : State) : Answer :=
  if 1 < mode then refuse s 0x23
  else if haltedNow s && ((s.step.halt == 1 && s.step.current == step.toNat) ||
      (s.step.halt == 3 && s.step.undone == some step.toNat)) then
    ⟨stepReplay step.toNat mode s, 0, [], true⟩
  else refuse s 0x32

def execStepReplay (r : Req) (step : BitVec 64) (mode : Nat) (s : State) : Host.Outcome State Fault Refusal :=
  runCmd (serveReqst 0x0404 r false (stepReplayReq step mode)) s

/-! Telemetry and events (R384, R389). -/

/-- The counters of a telemetry set: the event counters of one block (log 84). -/
def telemetrySet (s : State) (n : Nat) : List Byte :=
  match n % 128 with
  | 0 => regBytes s PANE_EVT ++ regBytes s PANE_COMMIT_EVT ++ regBytes s PANE_BWD_EVT
  | 1 => (List.range 8).flatMap (fun k => regBytes s BRY_EVT k)
  | 2 => (List.range 8).flatMap (fun k => regBytes s GRE_EVT k ++ regBytes s GRE_RATE k)
  | 3 => (List.range 8).flatMap (fun k => regBytes s EMB_EVT k)
  | 4 => regBytes s SBN_EVT
  | 5 => regBytes s ETH_EVT
  | 6 => regBytes s MBX_EVT
  | 7 => regBytes s PWR_EVT
  | 8 => regBytes s RST_EVT
  | 9 => regBytes s SEC_EVT
  | _ => []

/-- A telemetry report: power, temperatures, step rates, a set's counters. -/
def telemetry (s : State) (n : Nat) : List Byte :=
  regBytes s PWR_STATE ++ regBytes s PWR_CAP ++ regBytes s PWR_ENERGY ++ regBytes s PWR_INPUT ++
  (List.range 96).map (fun t => BitVec.ofNat 8 (fld s TILE_STATUS_TEMP t)) ++
  (List.range 8).map (fun k => BitVec.ofNat 8 (fld s BRY_STATUS_DRAM_TEMP k)) ++
  leBytes 8 s.step.latchedStep ++ leBytes 8 s.step.committedStep ++ leBytes 8 (pane s) ++ telemetrySet s n

/-- `TELEMETRY_GET` (R384, R422). -/
def execTelemetryGet (r : Req) (set : Nat) (s : State) : Host.Outcome State Fault Refusal :=
  runCmd (serveReqst 0x0501 r (decide (128 ≤ set)) (fun s =>
    if 256 ≤ set then refuse s 0x23 else done s (telemetry s set))) s

/-- `TELEMETRY_PERIOD` (R384): 0 is off, 10 ms the least. -/
def telemetryPeriod (cls : Cls) (period : Nat) (s : State) : Answer :=
  if (1 ≤ period ∧ period < 10) ∨ 65536 ≤ period then refuse s 0x23
  else done { s with mgmt := { s.mgmt with period := kPut s.mgmt.period (clsNo cls) period 0 } }

def execTelemetryPeriod (r : Req) (period : Nat) (s : State) : Host.Outcome State Fault Refusal :=
  runCmd (serveReqst 0x0502 r false (telemetryPeriod r.cls period)) s

/-- `TELEMETRY_TICK` (R384): to each class that asked for it, the host over its event sink. -/
def telemetryTick (s : State) : State :=
  if fld s MBX_STATUS_READY ≠ 1 ∨ s.rst.serviceRom = true then s
  else
    let t := telemetry s 0
    let q := fld s MBX_SINK_QP
    let s := if kGetD s.mgmt.period 0 0 ≠ 0 ∧ fld s MBX_SINK_VALID = 1 ∧ clsReaches s .host q = true then
      sendMsg s .host q (32 + t.length) (.telemetry .host q t) else s
    if kGetD s.mgmt.period 1 0 ≠ 0 then emit s (.telemetry .platform 0xFF t) else s

def execTelemetryTick (s : State) : Host.Outcome State Fault Refusal := runCmd telemetryTick s

/-- `EVENT_SINK` (R389): a mailbox entry, or 0xFF for none. -/
def eventSink (entry : Nat) (s : State) : Answer :=
  if entry = 0xFF then done (setFld (setFld s MBX_SINK_VALID 0) MBX_SINK_QP 0)
  else if entry < 8 then done (setFld (setFld s MBX_SINK_VALID 1) MBX_SINK_QP entry)
  else refuse s 0x23

def execEventSink (r : Req) (entry : Nat) (s : State) : Host.Outcome State Fault Refusal :=
  runCmd (serveReqst 0x0503 r false (eventSink entry)) s

/-! Power (R386, R399). -/

/-- `POWER_CAP` (R386): held until the next mullion. -/
def powerCap (cls : Cls) (cap : Nat) (s : State) : Answer :=
  if cap < 100 ∨ 2000 < cap then refuse s 0x23
  else match cls with
    | .host => done { s with power := { s.power with hostCap := some cap } }
    | _ => done { s with power := { s.power with platCap := some cap } }

def execPowerCap (r : Req) (cap : Nat) (s : State) : Host.Outcome State Fault Refusal :=
  runCmd (serveReqst 0x0602 r false (powerCap r.cls cap)) s

/-- `POWER_POLICY` (R399): held until the next mullion. -/
def powerPolicy (mode fixed : Nat) (s : State) : Answer :=
  if 2 < mode ∨ 2 ^ 32 ≤ fixed ∨ (mode = 2 ∧ fixed = 0) then refuse s 0x23
  else done { s with power := { s.power with policy := some (mode, fixed) } }

def execPowerPolicy (r : Req) (mode fixed : Nat) (s : State) : Host.Outcome State Fault Refusal :=
  runCmd (serveReqst 0x0603 r false (powerPolicy mode fixed)) s

/-- `POWER_STATUS` (R384). -/
def powerStatus (s : State) : Answer :=
  done s (regBytes s PWR_STATE ++ leBytes 2 (fld s PWR_CAP_HOST_CAP) ++ leBytes 2 (fld s PWR_CAP_PLAT_CAP) ++
    leBytes 2 (fld s PWR_INPUT_WATTS) ++ leBytes 4 (fld s PWR_ENERGY_E_PANE) ++ regBytes s PWR_THROTTLE)

def execPowerStatus (r : Req) (s : State) : Host.Outcome State Fault Refusal :=
  runCmd (serveReqst 0x0604 r false powerStatus) s

/-! The error log and the crash dump (R453, R454). -/

/-- An entry of the error log: the `EVENT` payload with its index. -/
def logEntry (i : Nat) (e : EvRec) : List Byte :=
  leBytes 2 e.code ++ leBytes 1 e.kind ++ leBytes 1 0 ++ leBytes 4 e.count ++ leBytes 8 e.step ++ leBytes 8 e.pane ++
  leBytes 4 e.job ++ leBytes 4 i ++ leBytes 32 e.detail

/-- `LOG_READ`: up to 64 entries from an index on. -/
def logRead (index : Nat) (s : State) : Answer :=
  done s (((s.mgmt.log.filter (fun e => decide (index ≤ e.1))).take 64).flatMap (fun e => logEntry e.1 e.2))

def execLogRead (r : Req) (index : Nat) (s : State) : Host.Outcome State Fault Refusal :=
  runCmd (serveReqst 0x0901 r false (logRead index)) s

/-- `LOG_CLEAR`: the entries up to an index are freed. -/
def logClear (index : Nat) (s : State) : Answer :=
  done { s with mgmt := { s.mgmt with log := s.mgmt.log.filter (fun e => decide (index < e.1)) } }

def execLogClear (r : Req) (index : Nat) (s : State) : Host.Outcome State Fault Refusal :=
  runCmd (serveReqst 0x0902 r false (logClear index)) s

/-- The header of a crash dump, 4 KiB. -/
def dumpHeader (d : DumpS) : List Byte :=
  leBytes 4 0x504D5544 ++ leBytes 2 1 ++ leBytes 2 d.cause ++ leBytes 8 d.pane ++ leBytes 8 d.step ++ leBytes 4 d.job ++
  leBytes 4 0x80000 ++ leBytes 4 d.dropped ++ leBytes 4 d.boots

/-- The header of a queued message, 32 bytes (R381). -/
def arrivalHeader (a : Arrival) : List Byte :=
  leBytes 2 a.opcode ++ leBytes 2 0 ++ leBytes 4 a.seq ++ leBytes 2 a.length ++ leBytes 1 (clsNo a.cls) ++ leBytes 5 0 ++
  leBytes 4 a.job ++ leBytes 12 0

/-- One byte of a dump (R454): the cores' registers and the firmware log are free values (log 10). -/
def dumpByteAt (d : DumpS) (header fifo msgs : List Byte) (o : Nat) : Byte :=
  if o < 0x1000 then header.getD o 0
  else if o < 0x5000 then Config.dumpByte o
  else if o < 0x9000 then fifo.getD (o - 0x5000) 0
  else if o < 0xB000 then d.records.getD (o - 0x9000) 0
  else if o < 0xC000 then msgs.getD (o - 0xB000) 0
  else if o < 0x10000 then d.panes.getD (o - 0xC000) 0
  else Config.dumpByte o

/-- `DUMP_READ`: the dump is held until its last byte has been returned. -/
def dumpRead (offset : Nat) (s : State) : Answer :=
  match s.mgmt.dump with
  | none => refuse s 0x32
  | some d =>
    if 0x80000 ≤ offset then refuse s 0x23
    else
      let n := min 4096 (0x80000 - offset)
      let page := (List.range n).map (fun i => dumpByteAt d (dumpHeader d) (d.fifo.flatMap (fun e => logEntry 0 e))
        (d.msgs.flatMap arrivalHeader) (offset + i))
      done (if offset + n = 0x80000 then { s with mgmt := { s.mgmt with dump := none } } else s) page

def execDumpRead (r : Req) (offset : Nat) (s : State) : Host.Outcome State Fault Refusal :=
  runCmd (serveReqst 0x0903 r false (dumpRead offset)) s

/-! The save area by mailbox (R384, R456). -/

/-- `RST_CTX` follows the header of the save area (R455, R459). -/
def refreshCtx (s : State) : State :=
  if loadNat s retainedBase 4 = 0x58544E43 then
    setFld (setFld (setFld s RST_CTX_VALID 1) RST_CTX_STATE (loadNat s (retainedBase + 6) 1)) RST_CTX_FINGERPRINT
      (loadNat s (retainedBase + 0x30) 8)
  else setFld (setFld (setFld s RST_CTX_VALID 0) RST_CTX_STATE 0) RST_CTX_FINGERPRINT 0

/-- `CONTEXT_READ`: up to 4,096 bytes of the 1 GiB save area. -/
def contextRead (offset : Nat) (s : State) : Answer :=
  if 2 ^ 30 ≤ offset then refuse s 0x23
  else
    let n := min 4096 (2 ^ 30 - offset)
    let r := dramRead s (retainedBase + offset) n 0
    if r.2 then done r.1 (load r.1 (retainedBase + offset) n) else refuse r.1 0x70

def execContextRead (r : Req) (offset : Nat) (s : State) : Host.Outcome State Fault Refusal :=
  runCmd (serveReqst 0x0908 r false (contextRead offset)) s

/-- `CONTEXT_WRITE`: up to 4,084 bytes. -/
def contextWrite (offset : Nat) (data : List Byte) (s : State) : Answer :=
  if 4084 < data.length ∨ 2 ^ 30 < offset + data.length then refuse s 0x23
  else done (refreshCtx (dramWrite s (retainedBase + offset) data 0))

def execContextWrite (r : Req) (offset : Nat) (data : List Byte) (s : State) : Host.Outcome State Fault Refusal :=
  runCmd (serveReqst 0x0909 r false (contextWrite offset data)) s

/-! The fabric group (R340, R362, R370). -/

/-- `QP_CREATE` (R362): the lowest free entry (log 89), with the default `ACK_TMO` of 10. -/
def qpCreate (port : Nat) (s : State) : Answer :=
  if 2 ≤ port then refuse s 0x23
  else match ((List.range 256).drop 8).find? (fun q => fld s ETH_QP_STATE 0 q == 0) with
    | none => refuse s 0x60
    | some q =>
      let s := setQp s q {}
      done (setFld (setFld (setFld s ETH_QP_STATE 1 0 q) ETH_QP_PORT port 0 q) ETH_QP_ACK_TMO 4 0 q) (leBytes 1 q)

def execQpCreate (r : Req) (port : Nat) (s : State) : Host.Outcome State Fault Refusal :=
  runCmd (serveReqst 0x0A01 r false (qpCreate port)) s

/-- `QP_CONNECT` (R370): a created entry, an `ACK_TMO` of 6 to 21. -/
def qpConnect (entry remoteQpn sendPsn recvPsn : Nat) (ip : BitVec 128) (ackTmo : Nat) (s : State) : Answer :=
  if entry < 8 ∨ 256 ≤ entry ∨ 2 ^ 24 ≤ remoteQpn ∨ 2 ^ 24 ≤ sendPsn ∨ 2 ^ 24 ≤ recvPsn ∨ ackTmo < 6 ∨ 21 < ackTmo then
    refuse s 0x23
  else if fld s ETH_QP_STATE 0 entry ≠ 1 then refuse s 0x32
  else
    let s := setQp s entry { qpS s entry with ip := ip.toNat }
    done (setFld (setFld (setFld (setFld (setFld s ETH_QP_STATE 3 0 entry) ETH_QP_ACK_TMO (ackTmo - 6) 0 entry)
      ETH_QP_REMOTE_QPN remoteQpn 0 entry) ETH_QP_SEND_PSN sendPsn 0 entry) ETH_QP_RECV_PSN recvPsn 0 entry)

def execQpConnect (r : Req) (entry remoteQpn sendPsn recvPsn : Nat) (ip : BitVec 128) (ackTmo : Nat) (s : State) :
    Host.Outcome State Fault Refusal :=
  runCmd (serveReqst 0x0A02 r false (qpConnect entry remoteQpn sendPsn recvPsn ip ackTmo)) s

/-- `QP_DESTROY` (R362). -/
def qpDestroy (entry : Nat) (s : State) : Answer :=
  if entry < 8 ∨ 256 ≤ entry then refuse s 0x23
  else if fld s ETH_QP_STATE 0 entry = 0 then refuse s 0x32
  else done (qpReset s entry)

def execQpDestroy (r : Req) (entry : Nat) (s : State) : Host.Outcome State Fault Refusal :=
  runCmd (serveReqst 0x0A03 r false (qpDestroy entry)) s

/-- The parts of a bit set. -/
def partsOf (parts : BitVec 16) : List Nat := (List.range 16).filter (fun p => bitOf p parts.toNat)

/-- `SHUTTER` (R340). -/
def shutterReq (parts : BitVec 16) (s : State) : Answer := done ((partsOf parts).foldl shutterPart s)

def execShutter (r : Req) (parts : BitVec 16) (s : State) : Host.Outcome State Fault Refusal :=
  runCmd (serveReqst 0x0A04 r false (shutterReq parts)) s

/-- `SHUTTER_CLEAR` (R340): only with no job loaded. -/
def shutterClear (parts : BitVec 16) (s : State) : Answer :=
  if jobLoaded s then refuse s 0x31
  else done ((partsOf parts).foldl (fun s p => setFldBit s SBN_SHUTTER_MASK p false) s)

def execShutterClear (r : Req) (parts : BitVec 16) (s : State) : Host.Outcome State Fault Refusal :=
  runCmd (serveReqst 0x0A05 r false (shutterClear parts)) s

/-- `FABRIC_STATUS` (R384). -/
def fabricStatus (s : State) : Answer :=
  done s ((List.range 10).flatMap (fun p => regBytes s SBN_PORT 0 p) ++ (List.range 16).flatMap (fun n => regBytes s SBN_ROUTE 0 n) ++
    regBytes s SBN_SHUTTER)

def execFabricStatus (r : Req) (s : State) : Host.Outcome State Fault Refusal :=
  runCmd (serveReqst 0x0A06 r false fabricStatus) s

end Sys2Proof.Machine
end

