-- ==== Sys2Proof/Machine/Image.lean ====
section
/-! DEFINITION. The control image (R387, R471–R475): its header, directory and sections as they lie in memory, the job and the
registers that an image describes, and the checks in their order. A failure is (section kind, entry, byte offset in the entry).
Sections 0x08 and 0x0B, whose bytes the spec does not lay out, come with the command (log 2). -/

namespace Sys2Proof.Machine

/-- An image as it is being read: where it lies, its length, and its directory as (kind, entries, offset). -/
structure Img where
  addr : Nat
  bytes : Nat
  dir : List (Nat × Nat × Nat)
  deriving DecidableEq, Repr

/-- A field of the header. -/
def imgHead (s : State) (a off n : Nat) : Nat := loadNat s (a + off) n

/-- The directory (R387). -/
def imgDir (s : State) (a : Nat) : List (Nat × Nat × Nat) :=
  (List.range (imgHead s a 0x06 2)).map (fun i =>
    let e := loadNat s (a + 64 + 16 * i) 16
    (bitsOf 0 16 e, bitsOf 32 32 e, bitsOf 64 64 e))

/-- The image at an address. -/
def imgAt (s : State) (a n : Nat) : Img := ⟨a, n, imgDir s a⟩

/-- Bytes of one entry of a section; 0 where the spec gives the entry no size. -/
def entrySize (kind : Nat) : Nat := ([0, 32, 32, 8, 32, 16, 16, 128, 0, 64, 32, 0, 16] : List Nat).getD kind 0

/-- The entries and the offset of a section; a kind that no directory entry names has no entries (R387). -/
def Img.sec (g : Img) (kind : Nat) : Nat × Nat := ((g.dir.find? (fun e => e.1 == kind)).map (fun e => e.2)).getD (0, 0)

/-- The directory names a section. -/
def Img.names (g : Img) (kind : Nat) : Bool := g.dir.any (fun e => e.1 == kind)

/-- The addresses of a section's entries. -/
def Img.entryAddrs (g : Img) (kind : Nat) : List Nat :=
  let x := g.sec kind
  (List.range x.1).map (fun i => g.addr + x.2 + entrySize kind * i)

/-- A section's entries, each as one little-endian number. -/
def Img.entries (g : Img) (s : State) (kind : Nat) : List Nat :=
  (g.entryAddrs kind).map (fun a => loadNat s a (entrySize kind))

/-- A list with its positions. -/
def numbered {α : Type} (l : List α) : List (Nat × α) := (List.range l.length).zip l

/-- The first entry that fails, with the offset of its failing field. -/
def firstBadEntry {α : Type} (kind : Nat) (l : List α) (f : Nat → α → Option Nat) : Option (Nat × Nat × Nat) :=
  (numbered l).findSome? (fun e => (f e.1 e.2).map (fun o => (kind, e.1, o)))

/-- The offset of the first condition that holds. -/
def failsAt (l : List (Bool × Nat)) : Option Nat := (l.find? (fun c => c.1)).map (fun c => c.2)

/-! Header and directory. -/

/-- Logical tiles enabled (R143, R145). -/
def tilesEnabled (s : State) : Nat :=
  min 96 ((List.range 100).filter (fun p => bitOf p (fld s TILE_PMAP_ENABLED))).length

/-- The image is of a wicket job: it lies in the scratchpad of a logical tile 0 to 15 (R436). -/
def wicketAddr (a n : Nat) : Bool :=
  match tileWindow a with
  | some (t, o) => decide (t < 16) && decide (o < 0x800000) && decide (a + n ≤ tileBase 16)
  | none => false

/-- A part of a wicket image lies in one of those scratchpads. -/
def inWicketSpads (a n : Nat) : Bool :=
  n == 0 || (match tileWindow a with | some (t, o) => decide (t < 16) && decide (o + n ≤ 0x800000) | none => false)

/-- The checks of the header, after digest and magic. -/
def headerFail (s : State) (wicket : Bool) (a n : Nat) : Option (Nat × Nat × Nat) :=
  let tiles := imgHead s a 0x28 2
  let flags := imgHead s a 0x0C 4
  (failsAt [(imgHead s a 0x04 2 != 1, 0x04), (imgHead s a 0x10 8 != n, 0x10), (imgHead s a 0x2A 2 != partId s, 0x2A),
    (tiles == 0 || decide ((if wicket then min 16 (tilesEnabled s) else tilesEnabled s) < tiles), 0x28),
    (bitOf 0 flags && bitOf 1 flags, 0x0C), (decide (n < 64 + 16 * imgHead s a 0x06 2), 0x06)]).map (fun o => (0, 0, o))

/-- A section, or a list that it points to, runs past the end of the image; in a wicket image, also out of the scratchpads. -/
def sectionPast (s : State) (wicket : Bool) (g : Img) (e : Nat × Nat × Nat) : Bool :=
  let n := e.2.1 * entrySize e.1
  decide (g.bytes < e.2.2 + n) || (wicket && !inWicketSpads (g.addr + e.2.2) n) ||
  ((e.1 == 5 || e.1 == 6) && (List.range e.2.1).any (fun i =>
    let t := loadNat s (g.addr + e.2.2 + 16 * i) 16
    decide (g.bytes < bitsOf 64 64 t + 32 * bitsOf 32 32 t) ||
    (wicket && !inWicketSpads (g.addr + bitsOf 64 64 t) (32 * bitsOf 32 32 t))))

/-- The checks of the directory. -/
def dirFail (s : State) (wicket : Bool) (g : Img) (x : JobExtra) : Option (Nat × Nat × Nat) :=
  (numbered g.dir).findSome? (fun e => (failsAt
    [(e.2.1 == 0 || decide (12 < e.2.1) || (g.dir.take e.1).any (fun x => x.1 == e.2.1), 0),
     (sectionPast s wicket g e.2 || (e.2.1 == 8 && x.tensors.any (fun t => decide (g.bytes < t.off + 64))), 8)]).map
    (fun o => (0, 1 + e.1, o)))

/-! What the sections say. -/

/-- Region entries (R471). -/
def rgKind (v : Nat) : Nat := bitsOf 0 3 v
def rgStack (v : Nat) : Nat := bitsOf 4 4 v
def rgBase (v : Nat) : Nat := bitsOf 64 48 v
def rgSize (v : Nat) : Nat := bitsOf 128 40 v
def rgSlot (v : Nat) : Nat := bitsOf 192 32 v

/-- `BRY_REGION0`, which always describes `RETAINED` (R471). -/
def retainedRegion (s : State) : State :=
  let x := (stackOf s retainedBase)
  let st := if retainedBase < 8 * ilvBytes s then 0xF else x.1
  setReg s BRY_REGION (6 + 16 * st + 256 * retainedBase + 2 ^ 64 * (dramTop - retainedBase)) 0 0

/-- Tasks with their entries: the address of each descriptor. -/
def imgTasks (s : State) (g : Img) : List (Nat × Word32B) := (g.entryAddrs 4).map (fun a => (a, wordAt s a))

/-- The task table of every site (R474). -/
def imgTables (s : State) (g : Img) : Kmap (List Nat) :=
  (imgTasks s g).foldl (fun m e =>
    let i := dSite e.2
    kSet m i (kGetD m i [] ++ [e.1])) []

/-- The list of every task: its device address and its items (R474). -/
def imgLists (s : State) (g : Img) : Kmap (Nat × Nat) :=
  (g.entries s 5 ++ g.entries s 6).foldl (fun m t =>
    kSet m (bitsOf 0 32 t) (g.addr + bitsOf 64 64 t, bitsOf 32 32 t)) []

/-- Tokens (R473): a `CREDIT` token has its starting count, an `EVENT` token begins at 0. -/
def imgTokens (s : State) (g : Img) : Kmap TokenS :=
  (g.entries s 3).foldl (fun m v =>
    let t : TokenS := { kind := bitsOf 16 2 v, parity := bitsOf 18 2 v, role := bitsOf 20 4 v, mb := bitsOf 24 8 v,
                        value := bitsOf 32 16 v, count := 0 }
    kSet m (bitsOf 0 14 v) t) []

/-- Entries of section 0x02 of one type (R472). -/
def imgGraph (s : State) (g : Img) (type : Nat) : List Nat := (g.entries s 2).filter (fun v => bitsOf 0 8 v == type)

/-- The sampling plans. -/
def imgPlans (s : State) (g : Img) : Kmap Nat :=
  (imgGraph s g 3).foldl (fun m v => kSet m (bitsOf 8 8 v) (bitsOf 64 64 v)) []

/-- The micro-batches that a type 4 entry names, with their plans and the byte that names them. -/
def mbNames (v : Nat) : List (Nat × Nat × Nat) :=
  ((List.range 24).map (fun i => (bitsOf 8 8 v + i, bitsOf (64 + 8 * i) 8 v, 8 + i))).filter (fun e => decide (e.1 < 256))

/-- The micro-batch plan table. -/
def imgMbPlans (s : State) (g : Img) : Kmap Nat :=
  ((imgGraph s g 4).flatMap mbNames).foldl (fun m e => kSet m e.1 e.2.1) []

/-- The layers that scatter: bit n for layer n. -/
def imgScatter (s : State) (g : Img) : Nat :=
  match imgGraph s g 5 with
  | v :: _ => bitsOf 64 5 v / 2 * 2
  | [] => 0

/-- Collective descriptors by id (R335). -/
def imgColls (s : State) (g : Img) : Kmap (List Byte) :=
  (g.entryAddrs 9).foldl (fun m a => kSet m (loadNat s a 1) (load s a 64)) []

/-- Stage queues by id (R353). -/
def imgQueues (s : State) (g : Img) : Kmap Word32B :=
  (g.entryAddrs 0x0A).foldl (fun m a => kSet m (loadNat s a 1 % 64) (wordAt s a)) []

/-- What the command brings of sections 0x08 and 0x0B, where the directory names them. -/
def imgExtra (g : Img) (x : JobExtra) : JobExtra :=
  let x := if g.names 8 then x else { x with tensors := [] }
  if g.names 0x0B then x
  else { x with stashBound := 0, stashGate := none, tileStash := [], playerMask := 0, rcfg := [] }

/-- The tensors of section 0x08, each from the 64 bytes of its descriptor in the image (R279). -/
def imgTensors (s : State) (g : Img) (x : JobExtra) : List Tensor :=
  (imgExtra g x).tensors.map (fun e => tensorOf (loadNat s (g.addr + e.off) 64) e)

/-- The job that an image describes. -/
def imgJob (s : State) (wicket : Bool) (g : Img) (x : JobExtra) : JobS :=
  let flags := imgHead s g.addr 0x0C 4
  { id := imgHead s g.addr 0x08 4, addr := g.addr, bytes := g.bytes, wicket := wicket, strict := bitOf 0 flags,
    fast := bitOf 1 flags, maskedW := bitOf 2 flags, seed := imgHead s g.addr 0x18 16, tiles := imgHead s g.addr 0x28 2,
    slotSize := (((g.entries s 1).find? (fun v => rgKind v == 1)).map rgSlot).getD 0,
    tables := imgTables s g, lists := imgLists s g, plans := imgPlans s g, mbPlans := imgMbPlans s g,
    scatterLayers := imgScatter s g, colls := imgColls s g, queues := imgQueues s g,
    tensors := imgTensors s g x, extra := imgExtra g x }

/-- Registers set to their reset values, every instance and element. -/
def dropRegs (s : State) (l : List Reg) : State :=
  { s with regs := s.regs.filter (fun e => !l.any (fun r => (r.locate e.1).isSome)) }

/-- Section 0x01 into `BRY_REGIONn` (R471). -/
def placeRegions (s : State) (g : Img) : State :=
  let t := dropRegs s [BRY_REGION]
  (numbered (g.entries s 1)).foldl (fun t e =>
    setReg t BRY_REGION (rgKind e.2 + 16 * rgStack e.2 + 256 * rgBase e.2 + 2 ^ 64 * rgSize e.2) 0 (1 + e.1)) (retainedRegion t)

/-- Section 0x02 into `GRE_SHARDn` and `GRE_GRAPH` (R472). -/
def placeGraph (s : State) (g : Img) : State :=
  let t := dropRegs s [GRE_SHARD, GRE_GRAPH]
  let t := (numbered (imgGraph s g 1)).foldl (fun t e => (List.range 8).foldl (fun t k =>
    setReg t GRE_SHARD (bitsOf 64 48 e.2 + 2 ^ 48 * bitsOf 128 48 e.2 + 2 ^ 96 * bitsOf 8 4 e.2 + 2 ^ 100 * bitsOf 12 3 e.2 + 2 ^ 103)
      k e.1) t) t
  (imgGraph s g 2).foldl (fun t v =>
    setReg t GRE_GRAPH (bitsOf 64 48 v + 2 ^ 64 * bitsOf 128 48 v + 2 ^ 128 * bitsOf 192 40 v) (bitsOf 8 3 v) 0) t

/-- Section 0x07 into `EMB_TDESCn` and `EMB_OPTn` (R474). -/
def placeTables (s : State) (g : Img) : State :=
  let t := dropRegs s [EMB_TDESC, EMB_SDESC, EMB_OPT, EMB_FLIP]
  (g.entries s 7).foldl (fun t v =>
    let k := bitsOf 512 3 v
    setReg (setReg t EMB_TDESC (bitsOf 0 512 v) k (bitsOf 0 6 v)) EMB_OPT (bitsOf 640 160 v) k (bitsOf 0 6 v)) t

/-- Section 0x0C over the reset values (R298, R475). -/
def placeCommit (s : State) (g : Img) : State :=
  let t := dropRegs s [PANE_COMMIT_CFG, PANE_COMMIT_LAMBDA, PANE_COMMIT_RAISE, PANE_GFC]
  (g.entries s 0x0C).foldl (fun t v =>
    if bitsOf 0 8 v = 1 then
      let t := setFld (setFld (setFld t PANE_COMMIT_CFG_POLICY (bitsOf 8 2 v)) PANE_COMMIT_CFG_FALLBACK (bitsOf 10 1 v))
        PANE_COMMIT_CFG_UNDO_EN (bitsOf 11 1 v)
      let t := setFld (setFld t PANE_COMMIT_CFG_RESCALE_MAX (bitsOf 12 3 v)) PANE_COMMIT_CFG_RESCALE_STEP (bitsOf 16 4 v)
      let t := setFld (setFld (setFld t PANE_COMMIT_LAMBDA_LAMBDA (bitsOf 24 8 v)) PANE_COMMIT_LAMBDA_LAMBDA_MIN (bitsOf 32 8 v))
        PANE_COMMIT_LAMBDA_LAMBDA_MAX (bitsOf 40 8 v)
      setFld t PANE_COMMIT_RAISE_RAISE_EVERY (bitsOf 48 16 v)
    else
      let l := bitsOf 8 6 v
      let rung := bitsOf 15 2 v
      setFld (setFld (setFld (setFld t PANE_GFC_WIDE (bitsOf 14 1 v) 0 l) PANE_GFC_RUNG rung 0 l)
        PANE_GFC_FMT (rungFmt rung) 0 l) PANE_GFC_T (bitsOf 24 8 v) 0 l) t

/-- The layers that section 0x0C gives an entry. -/
def gfcLayers (s : State) (g : Img) : List Nat :=
  ((g.entries s 0x0C).filter (fun v => bitsOf 0 8 v == 2)).map (fun v => bitsOf 8 6 v)

/-- The state as the image describes it, which the checks read: its job, its tokens and the registers they need. -/
def imgCandidate (s : State) (wicket : Bool) (g : Img) (x : JobExtra) : State :=
  let c := placeCommit (placeTables (placeGraph (placeRegions s g) g) g) g
  { c with job := imgJob s wicket g x, sched := { sites := [], tokens := imgTokens s g }, tiles := [] }

/-! The checks of the sections. -/

/-- A token is declared, or none is named (R39). -/
def declared (c : State) (t : Nat) : Bool := t == 0xFFFF || (kGet? c.sched.tokens t).isSome

/-- Section 0x01 (R63, R66, R471). A region of no bytes is refused (DESIGN CHOICE, log 116). -/
def regionsFail (c : State) (wicket : Bool) (l : List Nat) : Option (Nat × Nat × Nat) :=
  let key := fun (v : Nat) => (rgKind v, if 3 ≤ rgKind v then rgStack v else 0)
  match firstBadEntry 1 l (fun i v =>
    let k := rgKind v
    let a := rgBase v
    let n := rgSize v
    failsAt [(wicket || k == 0 || decide (5 < k) || (l.take i).any (fun u => key u == key v), 0),
      (decide (3 ≤ k) && decide (7 < rgStack v), 0),
      (decide (dramTop < a + n) || inRetained a n || n == 0 ||
        (decide (3 ≤ k) && !inLocal c (rgStack v) a n) || (k == 2 && decide (8 * ilvBytes c < a + n)), 8),
      ((k == 3 && n % 32 != 0) || (k == 1 && decide (n < 0x40 + 2 * rgSlot v)), 16),
      (if k = 1 then rgSlot v % 8 != 0 || decide (rgSlot v < 0x48) else rgSlot v != 0, 24)]) with
  | some e => some e
  | none => if wicket || l.length == 26 then none else some (1, l.length, 0)

/-- A plan entry (R92): hops 1 to H valid, bits [7:3] of the mode bytes 0. -/
def planBad (p : Nat) : Bool :=
  let m := fun (h : Nat) => bitsOf (16 * h + 8) 8 p
  (List.range 4).any (fun h => decide (8 ≤ m h) || (decide (1 ≤ h) && bitOf 2 (m h) && !bitOf 2 (m (h - 1)))) || !bitOf 2 (m 0)

/-- The micro-batches that the tasks carry. -/
def carriedMbs (ts : List (Nat × Word32B)) : List Nat := (ts.map (fun e => dMb e.2)).filter (fun m => m != 0xFFFF)

/-- Nodes of this part at a stack. -/
def nodesAt (c : State) (l : List Nat) (k : Nat) : Nat :=
  sumOf ((l.filter (fun v => bitsOf 0 8 v == 1 && bitsOf 8 4 v == partId c && bitsOf 12 3 v == k)).map (fun v =>
    bitsOf 128 48 v - bitsOf 64 48 v))

/-- Section 0x02 (R63, R80, R92, R472). -/
def graphFail (c : State) (l : List Nat) (ts : List (Nat × Word32B)) : Option (Nat × Nat × Nat) :=
  let same := fun (i ty : Nat) => (l.take i).filter (fun u => bitsOf 0 8 u == ty)
  firstBadEntry 2 l (fun i v =>
    let lo := bitsOf 64 48 v
    let hi := bitsOf 128 48 v
    let k := bitsOf 8 3 v
    match bitsOf 0 8 v with
    | 1 => failsAt [(decide (128 ≤ (same i 1).length), 0),
        ((same i 1).any (fun u => decide (lo < bitsOf 128 48 u) && decide (bitsOf 64 48 u < hi)), 8),
        (decide (2 ^ 34 < hi - lo), 16)]
    | 2 => failsAt [((same i 2).any (fun u => bitsOf 8 3 u == k), 1),
        (decide (nodesAt c l k ≠ 0) && (!inLocal c k lo (16 * nodesAt c l k) || inRetained lo (16 * nodesAt c l k)), 8),
        (bitsOf 192 40 v != 0 && (!inLocal c k hi (16 * bitsOf 192 40 v) || inRetained hi (16 * bitsOf 192 40 v)), 16)]
    | 3 => failsAt [((same i 3).any (fun u => bitsOf 8 8 u == bitsOf 8 8 v), 1), (planBad (bitsOf 64 64 v), 8)]
    | 4 => failsAt ((mbNames v).map (fun e =>
        ((same i 4).any (fun u => (mbNames u).any (fun x => x.1 == e.1)) ||
          ((carriedMbs ts).contains e.1 && (kGet? c.job.plans e.2.1).isNone), e.2.2)))
    | 5 => failsAt [(decide ((same i 5) ≠ []), 0)]
    | _ => some 0)

/-- Section 0x03 (R473). -/
def tokensFail (l : List Nat) : Option (Nat × Nat × Nat) :=
  firstBadEntry 3 l (fun i v =>
    let before := l.take i
    let kind := bitsOf 16 2 v
    let role := bitsOf 20 4 v
    failsAt [(before.any (fun u => bitsOf 0 14 u == bitsOf 0 14 v), 0),
      (kind == 0 || kind == 3 || bitsOf 18 2 v == 3 || (kind == 2 && bitsOf 18 2 v != 2) || decide (2 < role) ||
        (role == 1 && before.any (fun u => bitsOf 20 4 u == 1)), 2),
      (role == 2 && before.any (fun u => bitsOf 20 4 u == 2 && bitsOf 24 8 u == bitsOf 24 8 v), 3)])

/-- The offset of the field that `descCheck` names (R32). -/
def descOffset (c : State) (d : Word32B) : Nat :=
  match descCheck c d with
  | 1 => 4
  | 2 => 5
  | 3 => 8
  | 4 => 9
  | _ => (((List.range 4).find? (fun i => !declared c (dToken d i))).map (fun i => 16 + 2 * i)).getD 24

/-- A task of this micro-batch reads weights, and no last weight-reading task is named for it (R277). -/
def lacksReader (c : State) (ids : List Nat) (d : Word32B) : Bool :=
  (dClass d == 5 || dClass d == 1 || (dClass d == 7 && c.job.extra.weightXfer.contains (dTaskId d))) && dMb d != 0xFFFF &&
  !(c.job.extra.lastReaders.any (fun e => e.1 == dMb d && ids.contains e.2))

/-- Section 0x04 (R33, R277, R436). -/
def tasksFail (c : State) (ts : List (Nat × Word32B)) : Option (Nat × Nat × Nat) :=
  let ids := ts.map (fun e => dTaskId e.2)
  firstBadEntry 4 ts (fun _ e =>
    let d := e.2
    failsAt [(descCheck c d != 0, descOffset c d),
      (c.job.wicket && ([0, 2, 3, 4, 6, 9] : List Nat).contains (dClass d), 4),
      (c.job.wicket && decide (15 < dSite d), 5),
      (lacksReader c ids d, 6)])

/-- A conversion of gradients whose format the controller supplies (R195, R267). -/
def scaleConversion (w : Word32B) : Bool :=
  (insOp w == 0x21 && bitOf 29 w.toNat && bitsOf 20 4 w.toNat != 10) || (insOp w == 0x40 && bitOf 18 w.toNat)

/-- The element formats that an instruction names (R160, R177, R197, R233). -/
def insFormats (w : Word32B) : List Nat :=
  match insOp w with
  | 0x10 => [bitsOf 16 4 w.toNat, bitsOf 20 4 w.toNat]
  | 0x11 => [bitsOf 16 4 w.toNat, bitsOf 20 4 w.toNat]
  | 0x20 => [bitsOf 16 4 w.toNat, bitsOf 20 4 w.toNat]
  | 0x21 => [bitsOf 16 4 w.toNat, bitsOf 20 4 w.toNat]
  | 0x40 => [bitsOf 8 4 w.toNat]
  | _ => []

/-- The scale areas of MX tensors as a list's conversions write them, the latest first: address, bytes, axis (R186). What a `REFILL`
writes is not known at load. -/
def axesWritten (c : State) (d : Word32B) : List Word32B → List (Nat × Nat × Nat) → List (Nat × Nat × Nat)
  | [], m => m
  | w :: l, m =>
    if insOp w = 0x51 then axesWritten c d l []
    else
      let v := vfuIns w
      let fmt := cvtFmt c (dLayer d) v.grad v.fout
      let n := scaleArea fmt v.count
      let new := if insOp w = 0x21 ∧ fmtMx fmt = true then
          let xs := copyAxes v.dual v.saxis
          ((List.range xs.length).zip xs).map (fun e => (v.dstScale + e.1 * n, n, e.2))
        else []
      let gone := insWrites c (dSite d) { desc := d, addr := 0, pass := 0 } w
      axesWritten c d l (new ++ m.filter (fun e => !spansMeet [(e.1, e.2.1)] gone))

/-- The axis that a scale area has by the conversions before an instruction. -/
def listAxis (m : List (Nat × Nat × Nat)) (addr len : Nat) : Option Nat :=
  (m.find? (fun e => spansMeet [(addr, len)] [(e.1, e.2.1)])).map (fun e => e.2.2)

/-- The load check of one instruction of a list (R161, R187, R197, R233, R237, R242, R259, R270, R308). -/
def insOk (c : State) (d : Word32B) (items : List Word32B) (index : Nat) (w : Word32B) : Bool :=
  let t := dSite d
  let l := dLayer d
  let tagged := (items.take index).any (fun u => insOp u == 0x22)
  let look := listAxis (axesWritten c d (items.take index) [])
  (!c.job.wicket || (insFormats w).all (fun f => f == 8 || f == 10)) && (!scaleConversion w || decide (l ≤ 63)) &&
  (match insOp w with
   | 0x10 => mmaOk (mmaProd c t (dClass d) none w) w && gradOk c (dClass d) l tagged w && axesOk look (mmaProd c t (dClass d) none w)
   | 0x11 => mvmOk (mvmProd (dClass d) none w) w && gradOk c (dClass d) l tagged w && axesOk look (mvmProd (dClass d) none w)
   | 0x20 => vopOk c.job.strict w
   | 0x21 => cvtOk c l w
   | 0x22 => gtagOk w
   | 0x23 => rngOk w
   | 0x30 => bankOk c t (bankIns (w &&& ~~~0x200#256)) (w &&& ~~~0x200#256)
   | 0x31 => bankOk c t (bankIns w) w
   | 0x32 => bankOk c t (bankIns w) w
   | 0x40 => cmpOk c l w
   | 0x41 => splitOk items index w
   | 0x50 => stashOk w
   | 0x51 => stashOk w
   | 0x60 => cstartOk c w
   | _ => false)

/-- The items of a list entry. -/
def tieItems (c : State) (g : Img) (t : Nat) : List Word32B :=
  (List.range (bitsOf 32 32 t)).map (fun i => wordAt c (g.addr + bitsOf 64 64 t + 32 * i))

/-- An entry that ties a list to a task (R474): the task, if the entry is rightly placed. -/
def tiedTask (ts : List (Nat × Word32B)) (before : List Nat) (engine : Bool) (t : Nat) : Option Word32B :=
  let id := bitsOf 0 32 t
  if before.any (fun u => bitsOf 0 32 u == id) then none
  else match ts.find? (fun e => dTaskId e.2 == id) with
    | some e => if decide (96 ≤ dSite e.2) = engine then some e.2 else none
    | none => none

/-- Section 0x05: a list with a failing instruction is named by its offset field (log 90). -/
def listsFail (c : State) (g : Img) (ts : List (Nat × Word32B)) (l : List Nat) : Option (Nat × Nat × Nat) :=
  firstBadEntry 5 l (fun i t =>
    match tiedTask ts (l.take i) false t with
    | none => some 0
    | some d =>
      let items := tieItems c g t
      if (numbered items).all (fun e => insOk c d items e.1 e.2) then none else some 8)

/-- A request that scatters (R109, R110, R116). -/
def scatterReq (c : State) (r : Word32B) : Bool := rqOp r == 5 || (rqOp r == 4 && scatters c (rqLayer r))

/-- Section 0x06 (R92, R99, R116, R436, R474). -/
def requestsFail (c : State) (g : Img) (ts : List (Nat × Word32B)) (l : List Nat) : Option (Nat × Nat × Nat) :=
  firstBadEntry 6 l (fun i t =>
    match (if c.job.wicket then none else tiedTask ts (l.take i) true t) with
    | none => some 0
    | some _ =>
      if (tieItems c g t).all (fun r => rqOk c r &&
          (!scatterReq c r || (List.range 8).any (fun k => tdValid (tdesc c k (rqTable r))))) then none else some 8)

/-- The tables that some request of the image scatters to. -/
def scatteredTables (c : State) (g : Img) (l : List Nat) : List Nat :=
  (l.flatMap (fun t => (tieItems c g t).filter (scatterReq c))).map rqTable

/-- Section 0x07 (R63, R116, R436, R474). -/
def descriptorsFail (c : State) (l : List Nat) (scat : List Nat) : Option (Nat × Nat × Nat) :=
  firstBadEntry 7 l (fun i v =>
    let d := bitsOf 0 512 v
    let k := bitsOf 512 3 v
    let w := tdWidth d
    let out := fun (r : Nat × Nat) => !inLocal c k r.1 r.2 || inRetained r.1 r.2
    let cls := fun (n : Nat) => (permitted d).contains n && out (tdBase d n, tdCap d n * (slotBytes d n + scaleBytes d n))
    if c.job.wicket then some 0
    else if (l.take i).any (fun u => bitsOf 0 6 u == bitsOf 0 6 v && bitsOf 512 3 u == k) then some 64
    else if !tdValid d then none
    else failsAt [(w % 16 != 0 || decide (w < 16) || decide (1024 < w), 4), (decide (2 ^ 34 < tdRows d), 8),
      (out (tdMap d, 8 * tdRows d), 16), (cls 0, 24), (cls 1, 32), (cls 2, 40),
      (tdOpt d != 0 && out (tdState d, stateBytes d * tdRows d), 48),
      (decide (4 < tdOpt d) || (tdFixed d && tdFixedClass d == 3) || (tdOpt d == 0 && scat.contains (bitsOf 0 6 d)), 3),
      (((permitted d).any (fun n => n != 0) && w % 32 != 0), 4), (permitted d == [], 0)])

/-- Section 0x08 (R281, R436), each failure with the offset of its field in the descriptor (R279). -/
def tensorsFail (c : State) (wicket named : Bool) : Option (Nat × Nat × Nat) :=
  if wicket && named then some (8, 0, 0)
  else if 256 < c.job.tensors.length then some (8, 256, 0)
  else firstBadEntry 8 c.job.tensors (fun i x =>
    failsAt [(!fmtGroup x, 2), (!x.wide && x.k % 128 != 0, 4), (!x.wide && x.n % 128 != 0, 6),
      (!sashOk c i x x.sashA, 8), (!sashOk c i x x.sashB || overlap x.sashA x.sashBytes x.sashB x.sashBytes, 16),
      (decide (x.sashBytes < denseSize x), 24), (!x.reservedOk, 3)])

/-- Section 0x09 (R39, R335, R436). -/
def collsFail (c : State) (l : List Nat) : Option (Nat × Nat × Nat) :=
  firstBadEntry 9 l (fun _ v =>
    let n := 4 * bitsOf 32 32 v
    let m := bitsOf 13 5 v
    failsAt [(c.job.wicket, 0), (decide (3 < bitsOf 8 3 v) || bitsOf 11 2 v == 3 || m == 0 || decide (16 < m), 1),
      (bitsOf 152 7 v == bitsOf 184 7 v && overlap (bitsOf 128 23 v) n (bitsOf 160 23 v) n, 20),
      (!declared c (bitsOf 192 16 v), 24)])

/-- A ring of a stage queue lies in DRAM outside `RETAINED`, or in one scratchpad (R353). -/
def ringOk (a n : Nat) : Bool :=
  (decide (a + n ≤ dramTop) && !inRetained a n) ||
  (match tileWindow a with | some (t, o) => decide (t < 96) && decide (o + n ≤ 0x800000) | none => false)

/-- A token is declared as a `CREDIT` token. -/
def creditToken (c : State) (t : Nat) : Bool :=
  match kGet? c.sched.tokens t with | some x => x.kind == 2 | none => false

/-- Section 0x0A (R353, R436). -/
def queuesFail (c : State) (l : List Nat) : Option (Nat × Nat × Nat) :=
  firstBadEntry 0x0A l (fun i v =>
    let up := bitsOf 8 4 v
    let down := bitsOf 12 4 v
    failsAt [(c.job.wicket || decide (64 ≤ i), 0),
      (up == down || !(groupOf c).contains up || !(groupOf c).contains down, 1),
      (!ringOk (bitsOf 64 48 v) (bitsOf 16 8 v * bitsOf 32 32 v), 8),
      (!creditToken c (bitsOf 128 16 v), 16), (!creditToken c (bitsOf 144 16 v), 18)])

/-- Section 0x0B (R39, R148, R273, R436); a stash area is at most 16 of the 32 banks. -/
def stashFail (c : State) : Option (Nat × Nat × Nat) :=
  let size := ((region c 2 0).map (fun r => r.2)).getD 0
  if size < 65536 * c.job.extra.stashBound then some (0x0B, 0, 0)
  else if c.job.wicket && (c.job.extra.tileStash.any (fun e => decide (16 ≤ e.1)) || c.job.extra.rcfg.any (fun e => decide (16 ≤ e.1))) then
    some (0x0B, 0, 0)
  else if c.job.extra.tileStash.any (fun e => decide (16 < e.2.2) || decide (32 < e.2.1 + e.2.2)) then some (0x0B, 0, 0)
  else if c.job.extra.stashGate.any (fun t => !declared c t) then some (0x0B, 0, 0)
  else none

/-- The layers that hold a scale conversion (R475). -/
def scaleLayers (c : State) (g : Img) (ts : List (Nat × Word32B)) (l : List Nat) : List Nat :=
  l.flatMap (fun t => match ts.find? (fun e => dTaskId e.2 == bitsOf 0 32 t) with
    | some e => if (tieItems c g t).any scaleConversion then [dLayer e.2] else []
    | none => [])

/-- Section 0x0C (R475). -/
def commitFail (l : List Nat) (need : List Nat) : Option (Nat × Nat × Nat) :=
  let layers := (l.filter (fun v => bitsOf 0 8 v == 2)).map (fun v => bitsOf 8 6 v)
  match firstBadEntry 0x0C l (fun i v =>
    let lam := fun (o : Nat) => signed 8 (bitsOf o 8 v)
    match bitsOf 0 8 v with
    | 1 => failsAt [((l.take i).any (fun u => bitsOf 0 8 u == 1), 0), (bitsOf 8 2 v == 3, 1), (bitsOf 16 4 v == 0, 2),
        (decide (lam 24 < lam 32) || decide (lam 40 < lam 24), 3)]
    | 2 => failsAt [((l.take i).any (fun u => bitsOf 0 8 u == 2 && bitsOf 8 6 u == bitsOf 8 6 v), 1),
        (decide (bitsOf 15 2 v = 3) != bitOf 14 v, 1)]
    | _ => some 0) with
  | some e => some e
  | none => if need.all (fun n => layers.contains n) then none else some (0x0C, l.length, 0)

/-- The first failure of an image whose digest and magic agree (R387): the header, the directory, the sections in ascending
kind. -/
def imageFail (s : State) (wicket : Bool) (a n : Nat) (x : JobExtra) : Option (Nat × Nat × Nat) :=
  let g := imgAt s a n
  let c := imgCandidate s wicket g x
  let ts := imgTasks s g
  headerFail s wicket a n <|> dirFail s wicket g x <|>
  regionsFail c wicket (g.entries s 1) <|> graphFail c (g.entries s 2) ts <|> tokensFail (g.entries s 3) <|>
  tasksFail c ts <|> listsFail c g ts (g.entries s 5) <|> requestsFail c g ts (g.entries s 6) <|>
  descriptorsFail c (g.entries s 7) (scatteredTables c g (g.entries s 6)) <|> tensorsFail c wicket (g.names 8) <|>
  collsFail c (g.entries s 9) <|> queuesFail c (g.entries s 0x0A) <|> stashFail c <|>
  commitFail (g.entries s 0x0C) (scaleLayers c g ts (g.entries s 5))

end Sys2Proof.Machine
end

