-- ==== Sys2Proof/Machine/JobLoad.lean ====
section
/-! DEFINITION. The life of a job (17, 20): `JOB_LOAD` and what it sets, `JOB_START` and its mullion, `JOB_STOP`, the end of a
wicket job. -/

namespace Sys2Proof.Machine

/-! What a job load sets to 0 (R59, R79, R115, R142, R157, R181, R201, R226, R255, R275, R298, R311, R345, R374, R406, R431). -/

/-- The counters of every chapter that sets them to 0 at a job load: a register and the mask of its counter bits. -/
def jobCounters : List (Reg × Nat) :=
  let all := fun (r : Reg) => (r, 2 ^ r.width - 1)
  ([PANE_EVT, BRY_ECC_CE, BRY_EVT, GRE_EVT, GRE_RATE, EMB_CACHE, EMB_EVT, EMB_STATUS, TILE_ECC, TILE_EVT, MXA_EVT, MVP_EVT, FMT_EVT,
    ACC_EVT, SPX_EVT, PANE_BWD_EVT, PANE_COMMIT_EVT, RNG_EVT, BRNG_EVT, SBN_EVT, ETH_EVT, PWR_EVT, DRT_EVT]).map all ++
  [(SBN_PORT, 2 ^ 208 - 2 ^ 64), (ETH_PORT, 2 ^ 176 - 2 ^ 64)]

/-- A register's value with its counters at 0. -/
def zeroCounters (e : Nat × RegVal) : RegVal :=
  match jobCounters.find? (fun c => (c.1.locate e.1).isSome) with
  | some c => e.2 &&& ~~~(BitVec.ofNat 512 c.2)
  | none => e.2

/-- Every counter of `jobCounters` at 0. Each of their registers has reset value 0 in these bits, so an entry that becomes 0 is
no longer listed. -/
def clearCounters (s : State) : State :=
  { s with regs := (s.regs.map (fun (e : Nat × RegVal) => (e.1, zeroCounters e))).filter (fun e =>
      !(e.2 == 0 && jobCounters.any (fun c => (c.1.locate e.1).isSome))) }

/-- The registers that a job load fills (R450), beside those that sections 0x01, 0x02, 0x07 and 0x0C fill. -/
def jobRegs : List Reg :=
  [TILE_STASH, SPX_RCFG, SPX_PLAYER, PANE_STASH, PANE_BWD, PANE_SASH, PANE_DOPT, RNG_SEED, BRNG_SEED, FMT_MODE,
   GRE_STATUS]

/-- A field set in every instance. -/
def setEvery (s : State) (f : Field) (x : Nat) (n : Nat) : State := (List.range n).foldl (fun s k => setFld s f x k) s

/-- The job's modes in the registers that report them (R188, R214, R113, R265, R311). -/
def placeModes (s : State) : State :=
  let j := s.job
  let s := if j.strict then setEvery (setEvery s FMT_MODE_STRICT 1 96) FMT_MODE_FTZ 0 96 else s
  let s := setEvery (setEvery s ACC_CFG_ORDER (b2n j.fast) 96) GRE_CFG_ORDER (b2n j.fast) 8
  let s := setFld (setFld s PANE_BWD_MASK_IMAGE (b2n j.maskedW)) PANE_BWD_MASKED (b2n (j.maskedW || j.wicket))
  setEvery (setEvery s RNG_SEED_SEED j.seed 96) BRNG_SEED_SEED j.seed 8

/-- Sections 0x08 and 0x0B in their registers (R148, R245, R251, R255, R275, R298). -/
def placeExtra (s : State) : State :=
  let x := s.job.extra
  let s := x.tileStash.foldl (fun s e => setFld (setFld s TILE_STASH_BASE_BANK e.2.1 e.1) TILE_STASH_BANKS e.2.2 e.1) s
  let s := if x.playerMask = 0 then s else setEvery s SPX_PLAYER_LAYER x.playerMask 96
  let s := x.rcfg.foldl (fun s e =>
    setFld (setFld (setFld s SPX_RCFG_VALID 1 e.1) SPX_RCFG_BANK e.2.1 e.1) SPX_RCFG_COL0 e.2.2 e.1) s
  let s := setFld (setFld s PANE_STASH_BOUND x.stashBound) PANE_STASH_GATE (x.stashGate.getD 0)
  s.job.tensors.foldl (fun s t =>
    let h := fun (i : Nat) => t.hyper.getD i 0 % 2 ^ 32 * 2 ^ (32 * i)
    setReg s PANE_DOPT (h 0 + h 1 + h 2 + h 3 + h 4) 0 t.tensor) s

/-- The initial weights: in sash A, and for a frozen tensor in both (R276, R281). -/
def placeWeights (s : State) : State :=
  (s.job.tensors.zip s.job.extra.tensors).foldl (fun s e =>
    let s := store s e.1.sashA e.2.initial
    if e.1.opt = 0 then store s e.1.sashB e.2.initial else s) s

/-- The data queue pairs and the windows destroyed (R362). -/
def destroyJobObjects (s : State) : State :=
  let s := ((List.range 256).filter (fun q => decide (8 ≤ q) && decide (fld s ETH_QP_STATE 0 q ≠ 0))).foldl qpReset s
  dropRegs { s with eth := { s.eth with winPorts := [] } } [ETH_WIN]

/-- The transport begins again for the job (R328, R340): connections at `TSEQ` 0, nothing of an earlier job of this part in
flight, no collective, no part shuttered. -/
def freshTransport (s : State) : State :=
  let me := partId s
  let s := setReg s SBN_SHUTTER 0
  let s := setFld (setFld s SBN_COLL_ACTIVE 0) SBN_COLL_WAITING 0
  { s with sbn := { s.sbn with
      tx := [], rx := [], txq := [], reroute := s.sbn.reroute.filter (fun m => decide (m.src.val ≠ me)), pool := [], colls := [],
      draws := [], reads := [], mcasts := [], awaits := [], fec := [] }, eth := { s.eth with fec := [] } }

/-- No step runs, no dense write is held and no undo record is valid any more: what `PANE_COMMIT_STATUS` says of the step in
progress. What it and `PANE_COMMIT_DIGEST` report of the latest commit stands (R11). -/
def noStep (s : State) : State :=
  setFld (setFld (setFld s PANE_COMMIT_STATUS_PHASE 0) PANE_COMMIT_STATUS_HOLD 0) PANE_COMMIT_STATUS_UNDO_VALID 0

/-- What base dies keep across a job load: accepted writes of `EMB_CFG` and of `REMOTE_SHARE` that await the next latch mullion
(R115, R142). -/
def keepPending (l : Kmap EmbS) : Kmap EmbS :=
  (l.map (fun (e : Nat × EmbS) => (e.1, ({ cfgPending := e.2.cfgPending, sharePending := e.2.sharePending } : EmbS)))).filter
    (fun e => decide (e.2 ≠ {}))

/-- Everything that a job load does once its checks have passed (R387). -/
def loadJob (wicket : Bool) (g : Img) (x : JobExtra) (digest : Nat) (s : State) : State :=
  let layers := gfcLayers s g
  let s := clearRange s retainedBase retainedUpper
  let s := imgCandidate (clearCounters (clearDraughts (freshTransport (destroyJobObjects (refreshCtx s))))) wicket g x
  let s := noStep (dropRegs s jobRegs)
  let s := { s with
    jobEnd := {}, step := {}, stash := {}, graphs := [], embs := keepPending s.embs,
    commit := { hist := layers.foldl (fun m l => kSet m l []) [] },
    sched := { s.sched with memReqs := [], eOrd := 0, eHard := 0, throttledStep := false } }
  let s := refreshStash (showPredictor (placeWeights (placeExtra (placeModes s))))
  let s := setFld (setFld (setFld s PWR_ENERGY_DEBT 0) SEC_MEAS_DIGEST digest 0 4) RST_STATUS_WICKET_DONE 0
  setJob (writeFingerprint s) 1

/-- `JOB_LOAD` (R387, R403, R435, R436): with no job loaded and not in Recovery. In full service a wicket image is accepted as well
(DESIGN CHOICE, log 119). -/
def jobLoad (a n : Nat) (digest : BitVec 256) (x : JobExtra) (s : State) : Answer :=
  let wicket := wicketAddr a n
  if jobState s = 5 ∨ power s < 2 ∨ power s = 5 then refuse s 0x32
  else if jobState s ≠ 0 then refuse s 0x31
  else if !(wicket || (decide (fld s RST_STATUS_SERVICE = 2) && decide (a + n ≤ retainedBase))) then refuse s 0x61
  else
    let r := if wicket then (s, true) else dramRead s a n 0
    let s := r.1
    if !r.2 ∨ shaNat (load s a n) ≠ digest.toNat ∨ n < 4 ∨ imgHead s a 0 4 ≠ 0x49564E52 then refuse s 0x41
    else match imageFail s wicket a n x with
      | some e => refuse s 0x40 (leBytes 2 e.1 ++ leBytes 4 e.2.1 ++ leBytes 4 e.2.2)
      | none =>
        let s := loadJob wicket (imgAt s a n) x digest.toNat s
        done s (leBytes 8 (fingerprint s))

def execJobLoad (r : Req) (addr bytes : Nat) (digest : BitVec 256) (extra : JobExtra) (s : State) :
    Host.Outcome State Fault Refusal :=
  runCmd (serveReqst 0x0201 r false (jobLoad addr bytes digest extra)) s

/-- `JOB_START` (R388): accepted in `LOADED`; it acts at the next mullion. -/
def jobStart (s0 : BitVec 64) (s : State) : Answer :=
  if jobState s ≠ 1 then refuse s 0x32
  else done (setJob { s with job := { s.job with startPending := some (s0.toNat, pane s) } } 2)

def execJobStart (r : Req) (s0 : BitVec 64) (s : State) : Host.Outcome State Fault Refusal :=
  runCmd (serveReqst 0x0202 r false (jobStart s0)) s

/-- `CREDIT` counts are set from the job image (R39). -/
def setCredits (l : Kmap TokenS) : Kmap TokenS :=
  l.map (fun (e : Nat × TokenS) => if e.2.kind = 2 then (e.1, { e.2 with count := e.2.value }) else e)

/-- The window's passes count from S0 on. -/
def beginSite (s0 : Nat) (x : SiteS) : SiteS :=
  { x with pass := (x.pass + s0) % 2 ^ 64,
           window := x.window.map (fun (t : WinTask) => { t with pass := (t.pass + s0) % 2 ^ 64 }) }

/-- `JOB_START_EFFECT` (R388, R437): the mullion after the acceptance. A wicket job's tables have one pass and no step. -/
def jobStartEffect (s : State) : State :=
  match s.job.startPending with
  | none => s
  | some (s0, p) =>
    if jobState s = 2 ∧ p < pane s then
      let before := (s0 + (2 ^ 64 - 1)) % 2 ^ 64
      let s := if s.job.wicket then s
        else (s.job.tables.map (fun e => e.1)).foldl (fun s i => setSite s i (beginSite s0 (site s i))) s
      let s := { s with
        job := { s.job with startPending := none },
        sched := { s.sched with tokens := setCredits s.sched.tokens },
        step := { s.step with takenStep := before, latchedStep := before, committedStep := before, latchPane := pane s } }
      let s := writeIndexStatus (writeIndexStatus (writeIndexStatus s 0 before) 8 before) 0x10 before
      setFld ((List.range 8).foldl refreshActive s) PANE_CFG_SCHED_EN 1
    else s

def execJobStartEffect (s : State) : Host.Outcome State Fault Refusal := runCmd jobStartEffect s

/-- The job has steps to end: it runs, and is no wicket job. -/
def stepsToEnd (s : State) : Bool := !s.job.wicket && (jobState s == 2 || (jobState s == 3 && s.step.replay == some 1))

/-- A `STEP_REPLAY` whose job stops before its commit point is answered `INTERNAL` (log 88). -/
def dropReplayReq (s : State) : State := answerReplay s 0x70 []

/-- `JOB_STOP` (R290, R384, R387): mode 0 after the next commit, 1 at once, 2 a pause at the end of the step. With no commit to
come, mode 0 stops the job at once; with no step in progress, mode 2 pauses it at once (DESIGN CHOICE, log 128). -/
def jobStop (mode : Nat) (s : State) : Answer :=
  let accepted := fun (s : State) => ({ state := s, status := 1 } : Answer)
  if 2 < mode then refuse s 0x23
  else if jobState s = 4 then refuse s 0x32
  else if mode = 2 ∧ (jobState s ≠ 2 ∨ s.job.wicket = true) then refuse s 0x32
  else if mode = 2 ∧ s.step.open_ = false then
    accepted (stopAtEnd { s with jobEnd := { s.jobEnd with stopMode := some 2 } })
  else if mode ≠ 1 ∧ stepsToEnd s = true then accepted { s with jobEnd := { s.jobEnd with stopMode := some mode } }
  else accepted (stopJob (dropReplayReq s))

def execJobStop (r : Req) (mode : Nat) (s : State) : Host.Outcome State Fault Refusal :=
  runCmd (serveReqst 0x0203 r false (jobStop mode)) s

/-- `WICKET_DONE` (R437): every task of a wicket job has retired. -/
def wicketDone (s : State) : State :=
  if jobState s = 2 ∧ s.job.wicket = true ∧ s.job.startPending.isNone = true ∧ fld s RST_STATUS_WICKET_DONE = 0 ∧
      tasksLeft s 0 (fun _ => true) = false then
    raise_ (setFld s RST_STATUS_WICKET_DONE 1) 0 2
  else s

def execWicketDone (s : State) : Host.Outcome State Fault Refusal := runCmd wicketDone s

end Sys2Proof.Machine
end

