-- ==== Sys2Proof/Machine/Bringup.lean ====
section
/-! DEFINITION. Resets and bring-up (18–21): a whole-part reset, the boot chain, the cold start's sequence, full service, the power
states that a request names, and the reset pin. -/

namespace Sys2Proof.Machine

/-! A whole-part reset (R439, R441). -/

/-- Everything at its reset value but what fuses, flash and the retained management SRAM hold (R439, R441, R452): the error log,
the crash dump, the request records, token assemblies and the event sink. -/
def wholeReset (s : State) : State :=
  let s := scopeHeld s
  let z := State.reset
  let t := { z with
    pending := s.pending, raised := s.raised, out := s.out, regs := s.regs.filter (fun e => secKept e.1), free := s.free,
    sec := { fusesAndFlash s with token := s.sec.token, auth := s.sec.auth },
    mgmt := { z.mgmt with dups := s.mgmt.dups, log := s.mgmt.log, dump := s.mgmt.dump,
                          sink := if fld s MBX_SINK_VALID = 1 then some (fld s MBX_SINK_QP) else s.mgmt.sink },
    tap := { z.tap with pgood := s.tap.pgood, strapHold := s.tap.strapHold, slotId := s.tap.slotId, ir := s.tap.ir,
                        boundary := s.tap.boundary, ioPowered := s.tap.ioPowered, pulse := s.tap.pulse } }
  setFld t SEC_STATE_SESSION 0

/-! The boot chain (R408–R412, R419). -/

/-- `SEC_FAULT` (R408, R430). -/
def integrityRecord (s : State) (stage slot : Nat) : State :=
  firstRecord s SEC_FAULT_VALID 0 0 (fun s =>
    setFld (setFld (setFld (setFld s SEC_FAULT_STAGE stage) SEC_FAULT_SLOT slot) SEC_FAULT_CODE 0x8080) SEC_FAULT_PANE (pane s))

/-- One cold start is taken from an open deadbolt's count (R419, R420): at 0 it is sealed. -/
def countStart (s : State) : State :=
  if deadbolt s = 2 then
    let n := fld s SEC_STATE_REMAINING - 1
    if n = 0 then
      let s := setFld (setFld (setFld (setFld s SEC_STATE_DEADBOLT 1) SEC_STATE_SCOPE 0) SEC_STATE_REMAINING 0) SEC_STATE_SIGNER 0
      event s 0x8002
    else setFld s SEC_STATE_REMAINING n
  else s

/-- Straps and board data, sampled when the standby rails reach regulation (R463, R465). -/
def sampleStraps (f : BootFindings) (s : State) : State :=
  let s := { s with tap := { s.tap with
    pgood := true, strapHold := f.strapHold, i3cStatic := 0x58 + f.i3cAddr % 4, i3cDynamic := none, slotId := f.slotId % 8 } }
  setFld s RST_CFG_HOLD_STRAP (b2n f.strapHold)

/-- A slot holds an image that passes stage 3 (R408, R411). -/
def slotPasses (s : State) (slot : Nat) (ok : Bool) : Bool :=
  ok && !bitOf slot s.sec.slotEmpty && decide (fld s SEC_BOOT_MIN_SVN ≤ kGetD s.sec.slotSvn slot 0)

/-- Stage 4 (R408, R412, R413, R414): what runs, what was measured, the device id and the ports' addresses. -/
def measureBoot (slot : Nat) (s : State) : State :=
  let svn := kGetD s.sec.slotSvn slot 0
  let s := setFld (setFld (setFld s SEC_BOOT_SLOT slot) SEC_BOOT_SVN svn) SEC_BOOT_MIN_SVN (max svn (fld s SEC_BOOT_MIN_SVN))
  let s := setFld s SEC_MEAS_DIGEST (Config.identity 6) 0 0
  let s := setFld s SEC_MEAS_DIGEST (kGetD s.sec.slotDigest slot 0) 0 1
  let s := setFld s SEC_MEAS_DIGEST (Config.identity 7) 0 2
  let s := setFld (measureOwners s) SEC_MEAS_DIGEST 0 0 4
  let s := setFld s SEC_DEVID_DEVICE_ID (Config.identity 5)
  setFld (setFld s ETH_PORT_MAC (Config.identity 3) 0 0) ETH_PORT_MAC (Config.identity 4) 0 1

/-- The event sink that the retained SRAM holds is set again (R376, R452). -/
def restoreSink (s : State) : State :=
  match s.mgmt.sink with
  | some q => setFld (setFld { s with mgmt := { s.mgmt with sink := none } } MBX_SINK_VALID 1) MBX_SINK_QP q
  | none => s

/-- Firmware is ready (R432 step 4). -/
def firmwareReady (standbyMs : Nat) (s : State) : State :=
  let s := restoreSink s
  let s := setFld (setFld (setFld s MBX_STATUS_READY 1) RST_STATUS_STEP 4) RST_BRINGUP_STANDBY_MS standbyMs
  raise_ s 0x7003 2

/-- A fault whose record goes to the error log at once (R409, R440). -/
def logFault (s : State) (code : Nat) (record : Option Nat) : State :=
  logPush s (evRec s { code := code, kind := 1, record := record, count := 1 })

/-! The crash dump (R454). -/

/-- The registers whose records a dump holds. -/
def dumpRecords : List Reg :=
  [PANE_SLOT_FAULT, BRY_UE_LOG, GRE_FAULT, EMB_FAULT, TILE_UE_LOG, MXA_FAULT, ACC_EXC, ACC_PAR, SPX_FAULT, PANE_BWD_FAULT,
   PANE_COMMIT_FAULT, RNG_FAULT, BRNG_FAULT, SBN_FAULT, PWR_FAULT, SEC_FAULT, RST_HANG_LOG]

/-- The records held, in address order, up to 8 KiB (log 10). -/
def recordBytesHeld (s : State) : List Byte :=
  (s.regs.flatMap (fun e => match dumpRecords.find? (fun r => (r.locate e.1).isSome) with
    | some r => if bitOf 0 e.2.toNat then leBytes (r.width / 8) e.2.toNat else []
    | none => [])).take 0x2000

/-- The scheduler's page of a dump. -/
def paneBytes (s : State) : List Byte :=
  regBytes s PANE_STATUS ++ regBytes s PANE_CARRIED ++ regBytes s PANE_SUSP ++ regBytes s PANE_COMMIT_STATUS ++
  (List.range 104).flatMap (fun i => leBytes 1 (windowPlaces (site s i))) ++
  ((s.sched.tokens.filter (fun e => !tokenOk s e.1)).flatMap (fun e => leBytes 2 e.1)).take 8192

/-- A capture (R454): with a dump held it adds one to that dump's `DROPPED`. -/
def captureDump (s : State) (cause : Nat) : State :=
  match s.mgmt.dump with
  | some d =>
    let d' : DumpS := { d with dropped := satAdd 32 d.dropped 1 }
    { s with mgmt := { s.mgmt with dump := some d' } }
  | none =>
    let d : DumpS :=
      { cause := cause, pane := pane s, step := stepNo s, job := if jobLoaded s then s.job.id else 0, dropped := 0,
        boots := fld s SEC_BOOT_BOOT_COUNT, fifo := s.mgmt.fifo, records := recordBytesHeld s, msgs := s.mgmt.queue,
        panes := paneBytes s }
    { s with mgmt := { s.mgmt with dump := some d } }

/-! Bring-up, steps 5 to 14 (R432, R433). -/

/-- The bad rows of a physical tile's array, in ascending order, with whether the self-test found them (R169). -/
def badRows (f : BootFindings) (p : Nat) : List (Nat × Bool) :=
  ((f.tileRows.find? (fun e => e.1 == p)).map (fun e => e.2)).getD []

/-- A physical tile passes its self-test (R145, R169, R309). -/
def tilePasses (f : BootFindings) (p : Nat) : Bool :=
  !f.tileFail.contains p && decide ((badRows f p).length ≤ 4) && !f.sliceFail.contains p

/-- The tiles that the fuse map enables and that pass. -/
def fusedTiles (f : BootFindings) : List Nat :=
  (List.range 100).filter (fun p => !f.fusedOff.contains p && tilePasses f p)

/-- The replacements (R145): fused-off tiles that pass, until 96 are enabled. -/
def replacements (f : BootFindings) : List Nat :=
  ((List.range 100).filter (fun p => f.fusedOff.contains p && tilePasses f p)).take (96 - (fusedTiles f).length)

/-- The enabled set in ascending physical index: logical tile l is its (l + 1)-th member (R143, R145). -/
def enabledTiles (f : BootFindings) : List Nat :=
  ((List.range 100).filter (fun p => (fusedTiles f).contains p || (replacements f).contains p)).take 96

/-- Spare rows in use (R169): logical row 127 lies `n` rows past its own place, on a row that is not mapped out and has `n` rows mapped
out before it. -/
def sparesUsed (rows : List Nat) : Nat :=
  ((List.range 5).find? (fun n => (rows.filter (fun r => decide (r < 127 + n))).length == n && !rows.contains (127 + n))).getD 0

/-- The registers that say what a logical tile is (R143, R154, R169, R311). -/
def placeTile (f : BootFindings) (s : State) (e : Nat × Nat) : State :=
  let rows := badRows f e.2
  let n := sparesUsed (rows.map (fun r => r.1))
  let map := fun (i : Nat) => ((rows[i]?).map (fun r => r.1)).getD 0xFF
  let found := bitsToNat ((List.range 4).map (fun i => ((rows[i]?).map (fun r => r.2)).getD false))
  let s := setReg s TILE_ID (e.1 + 2 ^ 8 * (e.2 % 10) + 2 ^ 12 * (e.2 / 10)) e.1
  let s := setReg s TILE_DESC (n + 2 ^ 16 * (262 + n) + 2 ^ 32 * 0x20 + 2 ^ 40 * 0x80) e.1
  let s := setReg s MXA_REPAIR (n + 2 ^ 8 * map 0 + 2 ^ 16 * map 1 + 2 ^ 24 * map 2 + 2 ^ 32 * map 3 + 2 ^ 40 * found) e.1
  setFld (setFld s RNG_STATUS_SELFTEST_OK 1 e.1) RNG_STATUS_CORES 0x20 e.1

/-- Step 7: the enabled set, the map of logical tiles, the generator slices and the fingerprint (R145, R155, R309). -/
def placeTiles (f : BootFindings) (s : State) : State :=
  let on := enabledTiles f
  let s := (numbered on).foldl (placeTile f) { s with mesh := { map := on } }
  let s := setEvery s TILE_PMAP_ENABLED (bitsToNat ((List.range 100).map (fun p => on.contains p))) 96
  let s := (List.range 8).foldl (fun s k =>
    setFld (setFld s BRNG_STATUS_SELFTEST_OK (b2n (!f.sliceFail.contains (100 + k))) k) BRNG_STATUS_CORES 4 k) s
  let s := if replacements f = [] then s else event s 0x3002
  let s := if on.length < 96 then event s 0x3003 else s
  writeFingerprint s

/-- A stack stays out of service (R77, R309, R433). -/
def stackFails (s : State) (f : BootFindings) (k : Nat) : Bool :=
  f.stackTrainFails.any (fun e => e.1 == k && decide (fld s RST_CFG_TRAIN_MAX ≤ e.2)) || f.screenFail.contains k ||
  f.sliceFail.contains (100 + k)

/-- The stacks in service: `BRY_STATUS.TRAINED` and `RST_STATUS.STACKS_OK` follow those out of it (R79, R459). -/
def showStacks (s : State) : State :=
  let ok := fun (k : Nat) => !s.rst.outStacks.contains k
  let s := (List.range 8).foldl (fun s k => setFld (setFld s BRY_STATUS_TRAINED (b2n (ok k)) k) BRY_STATUS_SELF_REF 0 k) s
  setFld s RST_STATUS_STACKS_OK (bitsToNat ((List.range 8).map ok))

/-- The power state changes, with the cap enforced in it (R394, R396), and is reported. -/
def enterPower (st : Nat) (s : State) : State :=
  let s := setFld s PWR_STATE_STATE st
  let s := setFld s PWR_CAP_ENFORCED (enforcedCap s)
  raise_ (activeOrCapped s) 0 2

/-- Out of Standby, a TAP instruction that is permitted there alone gives way to `BYPASS` (R422). -/
def leaveScan (s : State) : State :=
  let ir := s.tap.ir
  if (3 ≤ ir ∧ ir ≤ 5) ∨ (0x20 ≤ ir ∧ ir < 0x30) then { s with tap := { s.tap with ir := 0xFF, ioPowered := false, pulse := 0 } }
  else s

/-- A domain reset has ended (R440, R459). -/
def domainEnd (s : State) (d k : Nat) : State :=
  let s := { s with rst := { s.rst with domains := s.rst.domains.filter (fun e => e != (d, k)) } }
  event (bump (setFld (setFld s RST_DOMAIN_LAST d) RST_DOMAIN_INSTANCE k) RST_DOMAIN_COUNT) 0x9001

/-- Steps 5 to 13 of R432: what a cold start does once firmware is ready and the strap lets it. -/
def bringUp (f : BootFindings) (s : State) : State :=
  let s := ethPortEnable 0 true (leaveScan s)
  let s := if f.eth0Up then ethLinkUp 0 s else s
  let s := placeTiles f s
  let s := sbnPortEnable f.sbnEn (ethPortEnable 1 f.en1 s)
  let s := { s with rst := { s.rst with outStacks := (List.range 8).filter (stackFails s f), held := none } }
  let s := retainedRegion (clearRange (showStacks s) 0 dramTop)
  let s := setFld (setFld (setFld s RST_STATUS_SERVICE 1) RST_STATUS_STEP 13) RST_BRINGUP_WICKET_MS f.wicketMs
  let s := enterPower 2 s
  if fld s RST_BRINGUP_CAUSE = 1 ∨ fld s RST_BRINGUP_CAUSE = 2 then domainEnd s 6 0 else s

/-- Stages 4 and 5 passed (R408): the firmware runs, and goes on unless the strap holds the part in Standby (R432). -/
def bootFirmware (f : BootFindings) (slot : Nat) (s : State) : State :=
  let s := firmwareReady f.standbyMs (measureBoot slot s)
  if f.strapHold then { s with rst := { s.rst with held := some f } } else bringUp f s

/-- No slot passes stage 3 (R409): the ROM's recovery service. -/
def bootService (s : State) : State :=
  let s := logFault s 0x8080 (some SEC_FAULT.base)
  setFld (captureDump { s with rst := { s.rst with serviceRom := true } } 0x8080) MBX_STATUS_READY 1

/-- Stage 3 (R408, R409): the active slot, then the other. -/
def bootSlots (f : BootFindings) (s : State) : State :=
  let a := s.sec.activeSlot
  if slotPasses s a f.activeOk then bootFirmware f a s
  else
    let s := integrityRecord s 3 a
    if slotPasses s (1 - a) f.otherOk then bootFirmware f (1 - a) (setFld s SEC_BOOT_FALLBACK 1) else bootService s

/-- A cold start from step 2 (R432): cause 0 input power, 1 the reset pin, 2 a whole-part `DOMAIN_RESET`. -/
def bootRun (cause : Nat) (f : BootFindings) (s : State) : State :=
  let s := { s with rst := { s.rst with bootDone := true, domains := [] } }
  let s := setFld (setFld (sampleStraps f s) PWR_STATE_STATE 1) RST_BRINGUP_CAUSE cause
  let s := setFld (setFld (bump s SEC_BOOT_BOOT_COUNT) SEC_BOOT_UPDATE_READY 0) SEC_BOOT_FALLBACK 0
  let s := countStart s
  if f.stage1Ok = false then integrityRecord s 1 s.sec.activeSlot
  else if f.stage2Ok = false then integrityRecord s 2 s.sec.activeSlot
  else bootSlots f s

/-- `COLD_START` (R432): input power applied to a part that is off or has not started, or a whole-part reset accepted. -/
def coldStart (f : BootFindings) (s : State) : State :=
  if s.rst.domains.contains (6, 0) then bootRun 2 f s
  else if power s = 0 ∨ s.rst.bootDone = false then bootRun 0 f s
  else s

def execColdStart (f : BootFindings) (s : State) : Host.Outcome State Fault Refusal := runCmd (coldStart f) s

/-- `MOD_RST_N` low for so long is a whole-part reset (R464, log 9). -/
def resetActs (lowNs : Nat) : Bool := decide (10000 ≤ lowNs) || (decide (2000 ≤ lowNs) && Config.shortResetActs lowNs)

/-- `MOD_RST` (R440, R464): the fault entry of a loaded job is written before the reset begins. -/
def modRst (lowNs : Nat) (f : BootFindings) (s : State) : State :=
  if power s = 0 ∨ resetActs lowNs = false then s
  else
    let s := if jobLive s then captureDump (logFault s 0x9081 none) 0x9081 else s
    bootRun 1 f (wholeReset s)

def execModRst (lowNs : Nat) (f : BootFindings) (s : State) : Host.Outcome State Fault Refusal := runCmd (modRst lowNs f) s

/-- The conditions of full service but for the wicket job (R433). -/
def fullReady (s : State) : Bool :=
  power s == 2 && fld s RST_STATUS_SERVICE == 1 && decide (13 ≤ fld s RST_STATUS_STEP) && tilesEnabled s == 96 &&
  fld s RST_STATUS_STACKS_OK == 0xFF && (List.range 8).all (fun k => fld s BRY_STATUS_TRAINED k == 1) && ethUp s 0

/-- `FULL_SERVICE` (R410, R433, R438). -/
def fullService (timeMs : Nat) (s : State) : State :=
  if !fullReady s then s
  else if jobLoaded s then setFld s RST_STATUS_FULL_PENDING 1
  else
    let s := setFld (setFld (setFld s RST_STATUS_SERVICE 2) RST_STATUS_STEP 14) RST_STATUS_FULL_PENDING 0
    let s := setFld s RST_BRINGUP_FULL_MS (min timeMs 65535)
    enterPower 3 { s with rst := { s.rst with firmwareCopy := true } }

def execFullService (timeMs : Nat) (s : State) : Host.Outcome State Fault Refusal := runCmd (fullService timeMs) s

/-! Standby and back (R394, R395, R426, R434). -/

/-- Standby (R394): DRAM in self-refresh, every port off, tiles unpowered. -/
def toStandby (s : State) : State :=
  let s := untrip s
  let s := setFld (setFld (setFld s RST_STATUS_SERVICE 0) RST_STATUS_STACKS_OK 0) RST_STATUS_FULL_PENDING 0
  let s := (List.range 8).foldl (fun s k => setFld (setFld s BRY_STATUS_TRAINED 0 k) BRY_STATUS_SELF_REF 1 k) s
  let s := (List.range 2).foldl (fun s p => setFld (setFld (dropHeld s p) ETH_PORT_UP 0 0 p) ETH_PORT_TRAINING 0 0 p) s
  let s := (List.range 10).foldl (fun s p => setLanes (setFld (setFld s SBN_PORT_UP 0 0 p) SBN_PORT_TRAINING 0 0 p) p 0) s
  enterPower 1 (refreshRoutes { s with sbn := { s.sbn with ports := [] } })

/-- Leaving Standby (R434): steps 5, 6, 8 to 11 and the base-die checks. Tiles are cleared, DRAM is kept. -/
def leaveStandby (s : State) : State :=
  let s := (List.range 2).foldl (fun s p => ethPortEnable p (fld s (ethEn p) == 1) s) (leaveScan s)
  let s := sbnPortEnable (fld s SBN_CFG_EN == 1) s
  let s := clearRange { s with tiles := [], power := { s.power with residuals := [], measured := 0, tags := 0 } }
    (tileBase 0) (tileBase 96)
  let s := setFld (setFld (setFld (showStacks s) RST_STATUS_SERVICE 1) RST_STATUS_STEP 13) RST_BRINGUP_CAUSE 3
  enterPower 2 s

/-- A part that the strap holds goes on with its cold start (R432); another leaves Standby. -/
def toActive (s : State) : State :=
  match s.rst.held with
  | some f => bringUp f s
  | none => leaveStandby s

/-- `POWER_STATE` (R395, R426). -/
def powerState (cls : Cls) (v : Nat) (s : State) : Answer :=
  if v ≠ 1 ∧ v ≠ 3 then refuse s 0x23
  else if v = 3 then done (if power s = 1 then toActive s else s)
  else if power s = 1 then done s
  else if jobState s ≠ 0 then refuse s 0x32
  else if cls ≠ .debug ∧ fld s SEC_STATE_SESSION = 1 ∧ fld s SEC_POLICY_SESSION_HOLDS = 1 then refuse s 0x32
  else done (toStandby (endSession s))

def execPowerState (r : Req) (state : Nat) (s : State) : Host.Outcome State Fault Refusal :=
  runCmd (serveReqst 0x0601 r false (powerState r.cls state)) s

end Sys2Proof.Machine
end

