-- ==== Sys2Proof/Machine/Recovery.lean ====
section
/-! DEFINITION. Recovery (17, 20): domain resets, resets of the management complex, the report of a fault, the scrub and the
detectors of hangs. -/

namespace Sys2Proof.Machine

/-! What a domain reset clears (R439). -/

/-- The registers of some blocks at the instances `k` back at their reset values; those of a part or a tile, which the cold start
sets, stay (R11, R157, R181). -/
def resetBlocks (s : State) (p : Block → Bool) (k : Nat → Bool) : State :=
  { s with regs := s.regs.filter (fun e => !allRegs.any (fun r =>
      p r.block && !([TILE_ID, TILE_DESC, TILE_PMAP, MXA_REPAIR] : List Reg).contains r &&
      (match r.locate e.1 with | some (i, _, _) => k i | none => false))) }

/-- The blocks of a tile, of a base-die engine and of a stack (R439). -/
def tileBlock (b : Block) : Bool := match b with | .tile | .mxa | .mvp | .fmt | .acc | .spx | .rng => true | _ => false
def engineBlock (b : Block) : Bool := match b with | .gre | .emb | .brng => true | _ => false
def stackBlock (b : Block) : Bool := engineBlock b || b == .bry

/-- The tiles below `n` from `t` on reset: cells, scratchpad, banks and units. -/
def resetTiles (s : State) (t n : Nat) : State :=
  let mine := fun (i : Nat) => decide (t ≤ i) && decide (i < t + n)
  let s := resetBlocks s tileBlock mine
  clearRange { s with tiles := s.tiles.filter (fun e => !mine e.1) } (tileBase t) (tileBase (t + n))

/-- Base-die engines reset. -/
def resetEngines (s : State) (k : Nat → Bool) : State :=
  let s := resetBlocks s engineBlock k
  { s with graphs := s.graphs.filter (fun e => !k e.1), embs := s.embs.filter (fun e => !k e.1) }

/-- Stacks reset: the engine, then a retrain with DRAM kept (R77, R439). With stack 0's block `BRY_ILV` is reset, and what the
DRAM holds answers under the addresses of that map (R61). -/
def resetStacks (s : State) (k : Nat → Bool) : State :=
  let t := resetBlocks (resetEngines s k) stackBlock k
  showStacks (retainedRegion (followIlv s { t with brys := t.brys.filter (fun e => !k e.1) }))

/-- A Sirben port reset (R313, R318, R439): the port goes down and trains again. -/
def resetSbnPort (s : State) (p : Nat) : State :=
  let s := setLanes (portDown s p) p 0
  let s := setPort (resetReg s SBN_PORT 0 p) p {}
  let s := { s with sbn := { s.sbn with fec := kErase s.sbn.fec p } }
  setFld s SBN_PORT_TRAINING (fld s SBN_CFG_EN) 0 p

/-- The queue-pair entries of an Ethernet port that are in use. -/
def entriesOf (s : State) (p : Nat) : List Nat :=
  (List.range 256).filter (fun q => decide (fld s ETH_QP_STATE 0 q ≠ 0) && fld s ETH_QP_PORT 0 q == p)

/-- An Ethernet port reset (R359, R439): the port, its entries and their windows, which are those created through one of its mailbox
entries (DEDUCED, log 137); it trains again. -/
def resetEthPort (s : State) (p : Nat) : State :=
  let s := (entriesOf s p).foldl qpReset (ethDown p s)
  let s := ((s.eth.winPorts.filter (fun e => e.2 == p)).map (fun e => e.1)).foldl dropWindow s
  let s := { s with eth := { s.eth with fec := kErase s.eth.fec p } }
  let mac := fld s ETH_PORT_MAC 0 p
  let s := setFld (resetReg s ETH_PORT 0 p) ETH_PORT_MAC mac 0 p
  setFld s ETH_PORT_TRAINING (fld s (ethEn p)) 0 p

/-! `DOMAIN_RESET` (R439, R440). -/

/-- The instances of a domain; none for a code that names no domain. -/
def domainInstances (d : Nat) : Option Nat := ([96, 8, 8, 10, 2, 1, 1] : List Nat)[d]?

/-- A domain reset is accepted and waits to be carried out. -/
def awaitReset (s : State) (d k : Nat) : State :=
  if s.rst.domains.contains (d, k) then s else { s with rst := { s.rst with domains := s.rst.domains ++ [(d, k)] } }

/-- What an accepted request does at once (R440). -/
def beginReset (d k : Nat) (s : State) : State :=
  if d ≤ 2 then awaitReset (if jobLive s then fault s 0x9081 none else s) d k
  else if d = 4 then
    let data := (entriesOf s k).filter (fun q => decide (8 ≤ q))
    let s := data.foldl qpError s
    awaitReset (match data with
      | q :: _ => if jobLive s then fault (ethLog s 3 q 0x6880 0) 0x6880 (some ETH_LOG.base) else s
      | [] => s) d k
  else if d = 6 then
    let s := if jobLive s then captureDump (logFault s 0x9081 none) 0x9081 else s
    awaitReset (wholeReset s) 6 0
  else awaitReset s d k

/-- `DOMAIN_RESET`. -/
def domainReset (cls : Cls) (d k : Nat) (s : State) : Answer :=
  match domainInstances d with
  | none => refuse s 0x23
  | some n =>
    if n ≤ k then refuse s 0x23
    else if d = 6 ∧ cls ≠ .platform then refuse s 0x20
    else ⟨beginReset d k s, 1, [], false⟩

/-! Resets of the management complex (R376–R378). -/

/-- Every message held is answered `RESET_LOST`, the cores are in reset, and an update session is gone (R376, R411). -/
def holdCores (timeMs : Nat) (s : State) : State :=
  let s := s.mgmt.queue.foldl (fun s a =>
    sendReply (bump s MBX_EVT_RESET_LOST) a.cls a.qp a.opcode a.seq a.job 0x11 false 0 []) s
  let s := if s.mgmt.replayReq.isSome then answerReplay (bump s MBX_EVT_RESET_LOST) 0x11 [] else s
  let s := dropUpdate { s with mgmt := { s.mgmt with queue := [], resetAt := timeMs } }
  setFld (setFld s MBX_STATUS_READY 0) MBX_STATUS_IN_RESET 1

/-- A reset of the complex that has been asked for begins once its request has been answered. -/
def holdIfAsked (timeMs : Nat) (s : State) : State :=
  if s.rst.domains.contains (5, 0) ∧ fld s MBX_STATUS_READY = 1 then holdCores timeMs s else s

def execDomainReset (r : Req) (domain inst timeMs : Nat) (s : State) : Host.Outcome State Fault Refusal :=
  runCmd (fun s => holdIfAsked timeMs (serveReqst 0x0904 r false (domainReset r.cls domain inst) s)) s

/-- `MGMT_RESET` (R376): the reply is sent before the reset begins. -/
def mgmtReset (s : State) : Answer := done (awaitReset s 5 0)

def execMgmtReset (r : Req) (timeMs : Nat) (s : State) : Host.Outcome State Fault Refusal :=
  runCmd (fun s => holdIfAsked timeMs (serveReqst 0x0905 r false mgmtReset s)) s

/-- The watchdog resets of the last 10 s (R377). -/
def recentResets (s : State) (timeMs : Nat) : List Nat := s.mgmt.wdt.filter (fun t => decide (timeMs < t + 10000))

/-- `MGMT_WDT_RESET` (R376, R377): a core's watchdog expires. -/
def mgmtWdtReset (timeMs : Nat) (s : State) : State :=
  if fld s MBX_STATUS_READY ≠ 1 ∨ power s = 0 then s
  else
    let s := holdCores timeMs (captureDump s 0x7002)
    let s := event (bump s MBX_EVT_WDT_RESETS) 0x7002
    let recent := recentResets s timeMs ++ [timeMs]
    let s := setFld { s with mgmt := { s.mgmt with wdt := recent } } MBX_WDT_RECENT (min recent.length 15)
    if fld s MBX_WDT_LIMIT ≤ recent.length then fault (setFld s MBX_STATUS_FAILED 1) 0x7080 none else s

def execMgmtWdtReset (core : Fin 4) (timeMs : Nat) (s : State) : Host.Outcome State Fault Refusal :=
  runCmd (mgmtWdtReset timeMs) s

/-- `MGMT_READY` (R376, R410): the cores run again, from the copy in `RETAINED` where it is held and matches. -/
def mgmtReady (copyOk : Bool) (timeMs : Nat) (s : State) : State :=
  if fld s MBX_STATUS_IN_RESET ≠ 1 ∨ fld s MBX_STATUS_FAILED = 1 then s
  else
    let s := if s.rst.firmwareCopy && !copyOk then
        captureDump (raise_ (integrityRecord s 6 (fld s SEC_BOOT_SLOT)) 0x8080 1 (some SEC_FAULT.base)) 0x8080
      else s
    let recent := recentResets s timeMs
    let s := setFld { s with mgmt := { s.mgmt with wdt := recent } } MBX_WDT_RECENT (min recent.length 15)
    let s := raise_ (setFld (setFld s MBX_STATUS_READY 1) MBX_STATUS_IN_RESET 0) 0x7003 2
    if s.rst.domains.contains (5, 0) then domainEnd s 5 0 else s

def execMgmtReady (copyOk : Bool) (timeMs : Nat) (s : State) : Host.Outcome State Fault Refusal :=
  runCmd (mgmtReady copyOk timeMs) s

/-! `DOMAIN_RESET_DONE` (R439, R440). -/

/-- The domain code of R439. -/
def domainCode : Domain → Nat
  | .tile => 0
  | .engine => 1
  | .stack => 2
  | .sirben => 3
  | .ethernet => 4
  | .management => 5
  | .wholePart => 6

/-- What the reset of a domain does; the management complex and the whole part end with `MGMT_READY` and `COLD_START`. -/
def performReset (d k : Nat) (s : State) : State :=
  match d with
  | 0 => resetTiles s k 1
  | 1 => resetEngines s (fun i => i == k)
  | 2 => resetStacks s (fun i => i == k)
  | 3 => resetSbnPort s k
  | _ => resetEthPort s k

/-- `DOMAIN_RESET_DONE`: an accepted reset is carried out, that of a tile, an engine or a stack with no job loaded. -/
def domainResetDone (d k : Nat) (s : State) : State :=
  if s.rst.domains.contains (d, k) ∧ d ≤ 4 ∧ (3 ≤ d ∨ jobState s = 0 ∨ jobState s = 5) then domainEnd (performReset d k s) d k
  else s

def execDomainResetDone (domain : Domain) (inst : Nat) (s : State) : Host.Outcome State Fault Refusal :=
  runCmd (domainResetDone (domainCode domain) inst) s

/-! The report of a fault (R449, R342). -/

/-- The payload of a shutter or a fault notice. -/
def noticePayload (s : State) (code : Nat) : List Byte :=
  leBytes 1 (partId s) ++ leBytes 1 0 ++ leBytes 2 code ++ leBytes 4 0 ++ leBytes 8 (pane s)

/-- `FAULT_REPORT` (R449): the dump, the `EVENT` to its sinks, a `SHUTTER` naming this part and a `FAULT_NOTICE` to every member. -/
def faultReport (s : State) : State :=
  match s.mgmt.reportDue with
  | none => s
  | some code =>
    if fld s MBX_STATUS_READY ≠ 1 then s
    else
      let s := captureDump { s with mgmt := { s.mgmt with reportDue := none } } code
      let s := match removeFirst (fun (e : EvRec) => e.kind == 1 && e.code == code) s.mgmt.fifo with
        | some (e, rest) => sendEvent (logPush { s with mgmt := { s.mgmt with fifo := rest } } e) e
        | none => s
      let members := (groupOf s).filter (fun p => p != partId s)
      let send := fun (op : Nat) (s : State) => members.foldl (fun s p =>
        sbnSend s (jobMsg s p op 4 0 0 (noticePayload s code))) s
      send 0x41 (send 0x40 s)

def execFaultReport (s : State) : Host.Outcome State Fault Refusal := runCmd faultReport s

/-! The scrub (R450, R451). -/

/-- The registers that a job load fills (R450). -/
def jobLoadedRegs : List Reg :=
  jobRegs ++ [BRY_REGION, GRE_SHARD, GRE_GRAPH, EMB_TDESC, EMB_SDESC, EMB_OPT, EMB_FLIP, PANE_COMMIT_CFG, PANE_COMMIT_LAMBDA,
    PANE_COMMIT_RAISE, PANE_GFC]

/-- The work of a scrub (R437, R450): a wicket job's clears tiles 0 to 15 alone, in full service too (log 119). No site runs, so none
carries a pane (R59). -/
def scrubWork (s : State) : State :=
  let wicket := s.job.wicket
  let s := destroyJobObjects { s with mgmt := { s.mgmt with heldWrites := [] } }
  let s := if wicket then resetTiles s 0 16
    else clearRange (resetStacks (resetTiles s 0 96) (fun k => decide (k < 8))) 0 retainedBase
  let s := setReg (noStep (retainedRegion (dropRegs s jobLoadedRegs))) PANE_CARRIED 0
  let s := { s with sched := {}, job := {}, step := {}, commit := {}, stash := {}, graphs := [], embs := [], tiles := [] }
  let s := { s with rst := { s.rst with scrubbed := true } }
  setFld s SEC_MEAS_DIGEST 0 0 4

/-- `SCRUB` (R450): once a fault has been reported and a tripped part has cooled. -/
def scrub (s : State) : State :=
  if fld s MBX_STATUS_READY ≠ 1 ∨ s.power.scrubHold = true ∨ s.mgmt.reportDue.isSome = true then s
  else if jobState s = 4 then scrubWork (setJob (dropReplayReq (keepStatus s)) 5)
  else if jobState s = 5 ∧ s.rst.scrubbed = false then scrubWork s
  else s

def execScrub (s : State) : Host.Outcome State Fault Refusal := runCmd scrub s

/-- Stacks that failed every training of a scrub leave service (R433, R450, R451), and with its stack the firmware's copy. -/
def loseStacks (l : List Nat) (s : State) : State :=
  if l = [] then s
  else
    let s := showStacks { s with rst := { s.rst with outStacks := s.rst.outStacks ++ l } }
    let s := if l.contains (stackOf s retainedBase).1 then { s with rst := { s.rst with firmwareCopy := false } } else s
    let s := setFld s RST_STATUS_SERVICE 1
    if power s = 3 ∨ power s = 4 then enterPower 2 s else raise_ s 0 2

/-- `SCRUB_DONE` (R451). -/
def scrubDone (trainFails : List (Nat × Nat)) (timeMs : Nat) (s : State) : State :=
  if jobState s ≠ 5 ∨ s.rst.scrubbed = false ∨ s.power.scrubHold = true then s
  else
    let failed := (List.range 8).filter (fun k => !s.rst.outStacks.contains k &&
      trainFails.any (fun e => e.1 == k && decide (fld s RST_CFG_TRAIN_MAX ≤ e.2)))
    let s := loseStacks failed { s with rst := { s.rst with scrubbed := false } }
    let s := raise_ (bump (setJob s 0) RST_EVT_SCRUBS) 0x9004 2
    recoveryExit timeMs s

def execScrubDone (trainFails : List (Nat × Nat)) (timeMs : Nat) (s : State) : Host.Outcome State Fault Refusal :=
  runCmd (scrubDone trainFails timeMs) s

/-! The detectors (R442–R446). -/

/-- `HANG_DETECTED`, its record and its count. -/
def hangFault (s : State) (detector site task : Nat) : State :=
  let s := firstRecord s RST_HANG_LOG_VALID 0 0 (fun s =>
    setFld (setFld (setFld (setFld (setFld s RST_HANG_LOG_DETECTOR detector) RST_HANG_LOG_SITE site) RST_HANG_LOG_TASK_ID task)
      RST_HANG_LOG_STEP (stepNo s)) RST_HANG_LOG_PANE (pane s))
  fault (bump s RST_EVT_HANGS) 0x9080 (some RST_HANG_LOG.base)

/-- `SITE_DETECTOR` (R442): one task, or the pieces of one, through `SITE_PANES` consecutive mullions. -/
def siteDetector (i : Nat) (s : State) : State :=
  let x := site s i
  if jobLive s && (x.run.isSome || x.pieces != []) && decide (fld s RST_HANG_SITE_PANES ≤ x.runMullions) then hangFault s 0 i x.runId
  else s

def execSiteDetector (site : Fin 104) (s : State) : Host.Outcome State Fault Refusal := runCmd (siteDetector site.val) s

/-- `RETIREMENT_DETECTOR` (R443). -/
def retirementDetector (s : State) : State :=
  if jobState s == 2 && s.step.open_ && !s.commit.retiredIn && decide (2 ^ fld s RST_HANG_RETIRE_EXP ≤ s.commit.retirePanes) then
    hangFault s 1 0x7F 0
  else s

def execRetirementDetector (s : State) : Host.Outcome State Fault Refusal := runCmd retirementDetector s

/-- `STEP_DETECTOR` (R444). -/
def stepDetector (s : State) : State :=
  if jobState s == 2 && s.step.open_ && decide (2 ^ fld s RST_HANG_STEP_EXP ≤ s.commit.stepPanes) then hangFault s 2 0x7F 0
  else s

def execStepDetector (s : State) : Host.Outcome State Fault Refusal := runCmd stepDetector s

/-- `INDEX_DETECTOR` (R445): an exponent of 0 turns it off. -/
def indexDetector (s : State) : State :=
  if jobState s == 2 && s.step.committedStep == s.step.latchedStep && fld s RST_HANG_IDX_EXP != 0 &&
      decide (2 ^ fld s RST_HANG_IDX_EXP ≤ s.commit.idxPanes) then hangFault s 3 0x7F 0
  else s

def execIndexDetector (s : State) : Host.Outcome State Fault Refusal := runCmd indexDetector s

end Sys2Proof.Machine
end

