-- ==== Sys2Proof/Machine/Context.lean ====
section
/-! DEFINITION. Pane-level contexts (20): saving one, and restoring one (R455–R457). A context's state between its header and the
tiles has no byte layout in the spec: its bytes are free values, and what they stand for is kept beside them under the context's
content digest (log 91). -/

namespace Sys2Proof.Machine

/-- What a context stands for that was not saved on this part, by its content digest: the spec lays out none of it (log 91). -/
opaque foreignCtx : (digest : Nat) → CtxS

/-- A context's size (R456). -/
def ctxBytes : Nat := 0x30D00000

/-- Nothing that a save in `RUNNING` could not hold (R455): no collective, no stage queue, no shard of another part. -/
def alone (s : State) : Bool :=
  s.job.colls.isEmpty && s.job.queues.isEmpty && (shards s).all (fun e => e.2.2.1 == partId s)

/-- `CONTEXT_SAVE` (R455): the header's magic is cleared at once. -/
def contextSave (s : State) : Answer :=
  if s.rst.saving = 0 ∧ (jobState s = 3 ∨ (jobState s = 2 ∧ s.job.startPending = none ∧ s.job.wicket = false ∧ alone s = true)) then
    let s := refreshCtx (dramWrite s retainedBase (leBytes 4 0) 0)
    ⟨{ s with rst := { s.rst with saving := if jobState s = 3 then 2 else 1 } }, 1, [], false⟩
  else refuse s 0x32

def execContextSave (r : Req) (s : State) : Host.Outcome State Fault Refusal :=
  runCmd (serveReqst 0x0906 r false contextSave) s

/-- No task, pending piece or memory-side request remains (R455). -/
def quiet (s : State) : Bool :=
  s.sched.memReqs.isEmpty &&
  s.sched.sites.all (fun e => e.2.run.isNone && e.2.pieces.isEmpty && e.2.window.all (fun t => t.adm == 0 && !t.queued))

/-- The blocks whose registers a context holds. -/
def ctxBlock (b : Block) : Bool := match b with | .pane | .gre | .emb | .brng => true | _ => tileBlock b

/-- A register that a context holds: of those blocks, but not the pane counter (R457) nor what a part or tile is. -/
def inCtx (a : Nat) : Bool :=
  allRegs.any (fun r => ctxBlock r.block && (r.locate a).isSome &&
    !([PANE_COUNT, TILE_ID, TILE_DESC, TILE_PMAP, TILE_GEOM, MXA_REPAIR] : List Reg).contains r)

/-- What a context holds beside its bytes. -/
def ctxOf (s : State) : CtxS :=
  { sched := s.sched, step := s.step, commit := s.commit, stash := s.stash, graphs := s.graphs, embs := s.embs,
    tiles := s.tiles, queueNext := s.job.queueNext, regs := s.regs.filter (fun e => inCtx e.1) }

/-- Bytes moved from one range of memory to another that does not meet it. -/
def moveBytes (src dst n : Nat) (s : State) : State :=
  let cells := s.mem.filter (fun e => decide (src ≤ e.1) && decide (e.1 < src + n))
  let s := clearRange s dst (dst + n)
  { s with mem := cells.foldl (fun m e => memWrite m (e.1 - src + dst) e.2) s.mem }

/-- Where logical tile `l` lies in a context, and how much (R456). -/
def ctxTile (l : Nat) : Nat := retainedBase + 0x100000 + l * 0x820000

/-- The header's fields up to the content digest (R456). -/
def ctxHeader (s : State) : List Byte :=
  leBytes 4 0x58544E43 ++ leBytes 2 1 ++ leBytes 1 (jobState s) ++ leBytes 1 0 ++ leBytes 4 s.job.id ++ leBytes 4 ctxBytes ++
  leBytes 32 (fld s SEC_MEAS_DIGEST 0 4) ++ leBytes 8 (fingerprint s) ++ leBytes 8 (stepNo s) ++ geometryRecord s ++
  leBytes 8 s.step.latchedStep ++ leBytes 8 s.step.committedStep ++ leBytes 4 (fld s PANE_SASH_VERSION) ++ leBytes 12 0

/-- The context's content and its header in the save area. -/
def writeContext (s : State) : State :=
  let n := fld s RST_EVT_SAVES
  let s := store s (retainedBase + 0x1000) ((List.range 0xFF000).map (fun i => Config.contextByte n (0x1000 + i)))
  let s := (List.range 96).foldl (fun s l => moveBytes (tileBase l) (ctxTile l) 0x820000 s) s
  let digest := shaNat (load s (retainedBase + 0x1000) (ctxBytes - 0x1000))
  let s := store s retainedBase (ctxHeader s ++ leBytes 32 digest)
  { s with rst := { s.rst with contexts := (digest, ctxOf s) :: s.rst.contexts.filter (fun e => e.1 != digest) } }

/-- `CONTEXT_SAVED` (R455): at the mullion at which nothing remains; admission resumes. -/
def contextSaved (s : State) : State :=
  if s.rst.saving = 0 ∨ quiet s = false then s
  else
    let s := writeContext s
    let s := setFld (setFld (setFld s RST_CTX_VALID 1) RST_CTX_STATE (jobState s)) RST_CTX_FINGERPRINT (fingerprint s)
    event (bump { s with rst := { s.rst with saving := 0 } } RST_EVT_SAVES) 0x9002

def execContextSaved (s : State) : Host.Outcome State Fault Refusal := runCmd contextSaved s

/-- A field of the header in the save area. -/
def ctxField (s : State) (o n : Nat) : Nat := loadNat s (retainedBase + o) n

/-- The checks of a restore that a mismatch fails with `BAD_FIELD` (R457). -/
def ctxMatches (s : State) : Bool :=
  ctxField s 0 4 == 0x58544E43 && ctxField s 4 2 == 1 && ctxField s 0x0C 4 == ctxBytes && ctxField s 8 4 == s.job.id &&
  ctxField s 0x10 32 == fld s SEC_MEAS_DIGEST 0 4 &&
  ctxField s 0xE0 32 == shaNat (load s (retainedBase + 0x1000) (ctxBytes - 0x1000))

/-- `CONTEXT_RESTORE` (R457). A header or content that cannot be read is none that matches (R73; DESIGN CHOICE, log 127). -/
def contextRestore (s : State) : Answer :=
  if jobState s ≠ 1 then refuse s 0x32
  else
    let r := readSpan s retainedBase ctxBytes 0
    let s := r.1
    if !r.2 || !ctxMatches s then refuse s 0x23
  else if ctxField s 0x30 8 ≠ fld s TILE_GEOM_FINGERPRINT then refuse s 0x42
  else done { s with rst := { s.rst with restoring := some (pane s) } }

def execContextRestore (r : Req) (s : State) : Host.Outcome State Fault Refusal :=
  runCmd (serveReqst 0x0907 r false contextRestore) s

/-- Pane numbers in a base die's state, counted from now: `PANE_COUNT` does not carry over (R457). -/
def rebaseEmb (p : Nat) (e : EmbS) : EmbS :=
  { e with issued := e.issued.map (fun (x : SegS) => { x with pane := p }), flipPane := p,
           migrs := e.migrs.map (fun (m : MigrS) => { m with pane := p }) }

/-- The saved state takes the place of the loaded job's. -/
def loadContext (c : CtxS) (state : Nat) (s : State) : State :=
  let p := pane s
  let kept := s.regs.filter (fun e => !inCtx e.1)
  let s := { s with regs := (c.regs.filter (fun (e : Nat × RegVal) => inCtx e.1)).foldl (fun (m : Kmap RegVal) (e : Nat × RegVal) => kSet m e.1 e.2) kept }
  let s := { s with
    sched := { c.sched with memReqs := [] }, commit := c.commit, stash := c.stash, graphs := c.graphs, tiles := c.tiles,
    step := { c.step with latchPane := p, endPane := p },
    embs := c.embs.map (fun (e : Nat × EmbS) => (e.1, rebaseEmb p e.2)), job := { s.job with queueNext := c.queueNext, startPending := none } }
  let s := (List.range 96).foldl (fun s l => moveBytes (ctxTile l) (tileBase l) 0x820000 s) s
  setJob (if state = 3 then s else setFld s PANE_CFG_SCHED_EN 1) (if state = 3 then 3 else 2)

/-- `CONTEXT_RESTORED` (R457): at the mullion after the request. -/
def contextRestored (s : State) : State :=
  match s.rst.restoring with
  | none => s
  | some p =>
    if jobState s = 1 ∧ p < pane s then
      let digest := ctxField s 0xE0 32
      let c := match s.rst.contexts.find? (fun e => e.1 == digest) with | some e => e.2 | none => foreignCtx digest
      let s := loadContext c (ctxField s 6 1) { s with rst := { s.rst with restoring := none } }
      event (bump s RST_EVT_RESTORES) 0x9003
    else s

def execContextRestored (s : State) : Host.Outcome State Fault Refusal := runCmd contextRestored s

end Sys2Proof.Machine
end

