-- ==== Sys2Proof/Machine/Tap.lean ====
section
/-! DEFINITION. The test access port and the I3C address (19, 21). -/

namespace Sys2Proof.Machine

/-- A TAP instruction is selected (R422): `EXTEST` and its AC forms power the I/O ring and the SerDes drivers for as long as they
are selected. -/
def selectTap (s : State) (ir : Nat) (io : Bool) : State :=
  { s with tap := { s.tap with ir := ir, ioPowered := io, pulse := if ir = 4 then 1 else if ir = 5 then 2 else 0 } }

/-- `BYPASS` is selected, by name or in place of what R422 does not permit. -/
def selectBypass (s : State) : State := selectTap s 0xFF false

/-- What the pins carry, as many as there are cells: a free value each (log 92). -/
def samplePins : Nat → State → State × List Bool
  | 0, s => (s, [])
  | n + 1, s =>
    let (s, v) := drawFree s
    let (s, l) := samplePins n s
    (s, (v % 2 == 1) :: l)

/-- Boundary cells loaded, and what the pins carried shifted out. -/
def shiftCells (cells : List Bool) (s : State) : State :=
  let (s, seen) := samplePins cells.length s
  emit { s with tap := { s.tap with boundary := cells } } (.tap seen)

/-- The device id (R422), least significant bit first. -/
def idcodeBits : List Bool := (List.range 32).map (fun i => bitOf i 0x1960C4B3)

/-- `IDCODE`. -/
def idcode (s : State) : State := if power s = 0 then s else emit (selectTap s 0x01 false) (.tap idcodeBits)

def execIdcode (s : State) : Host.Outcome State Fault Refusal := runCmd idcode s

/-- `BYPASS`. -/
def bypass (s : State) : State := if power s = 0 then s else selectBypass s

def execBypass (s : State) : Host.Outcome State Fault Refusal := runCmd bypass s

/-- `SAMPLE/PRELOAD`. -/
def samplePreload (cells : List Bool) (s : State) : State :=
  if power s = 0 then s else shiftCells cells (selectTap s 0x02 false)

def execSamplePreload (cells : List Bool) (s : State) : Host.Outcome State Fault Refusal := runCmd (samplePreload cells) s

/-- `EXTEST` and its AC-coupled forms, in Standby alone (R422). -/
def extestWith (ir : Nat) (cells : List Bool) (s : State) : State :=
  if power s = 0 then s
  else if power s = 1 then shiftCells cells (selectTap s ir true)
  else selectBypass s

def execExtest (cells : List Bool) (s : State) : Host.Outcome State Fault Refusal := runCmd (extestWith 0x03 cells) s
def execExtestPulse (cells : List Bool) (s : State) : Host.Outcome State Fault Refusal := runCmd (extestWith 0x04 cells) s
def execExtestTrain (cells : List Bool) (s : State) : Host.Outcome State Fault Refusal := runCmd (extestWith 0x05 cells) s

/-- Internal scan, in `FACTORY` and Standby alone (R422). What its chains hold is the vendor's. -/
def internalScan (code : Nat) (s : State) : State :=
  if power s = 0 then s
  else if power s = 1 ∧ deadbolt s = 0 then selectTap s (0x20 + code) false
  else selectBypass s

def execInternalScan (code : BitVec 4) (s : State) : Host.Outcome State Fault Refusal := runCmd (internalScan code.toNat) s

/-- SETDASA (R463): the static address is acknowledged and the dynamic address taken. -/
def setdasa (staticAddr dynamicAddr : Nat) (s : State) : State :=
  if power s = 0 ∨ staticAddr ≠ s.tap.i3cStatic then s
  else emit { s with tap := { s.tap with i3cDynamic := some dynamicAddr } } (.i3cAck staticAddr)

def execSetdasa (staticAddr dynamicAddr : BitVec 7) (s : State) : Host.Outcome State Fault Refusal :=
  runCmd (setdasa staticAddr.toNat dynamicAddr.toNat) s

end Sys2Proof.Machine
end

