-- ==== Sys2Proof/Machine/Dispatch.lean ====
section
/-! DEFINITION. One arm per command: a call of its meaning, or a rejection by name. -/

namespace Sys2Proof.Machine

def exec (i : Instr) (s : State) : Host.Outcome State Fault Refusal :=
  match i with
  | .mullion => Sys2Proof.Machine.execMullion s
  | .admissionDecision => Sys2Proof.Machine.execAdmissionDecision s
  | .seedIntake => Sys2Proof.Machine.execSeedIntake s
  | .stepLatch sliceFail => Sys2Proof.Machine.execStepLatch sliceFail s
  | .peepholePrefetch stack => Sys2Proof.Machine.execPeepholePrefetch stack s
  | .windowRefill site => Sys2Proof.Machine.execWindowRefill site s
  | .taskRetire site => Sys2Proof.Machine.execTaskRetire site s
  | .memoryRequestComplete req ecc => Sys2Proof.Machine.execMemoryRequestComplete req ecc s
  | .patrolScrubRead stack offset ecc => Sys2Proof.Machine.execPatrolScrubRead stack offset ecc s
  | .bankRefresh stack pch bank => Sys2Proof.Machine.execBankRefresh stack pch bank s
  | .dramTempReport stack die celsius => Sys2Proof.Machine.execDramTempReport stack die celsius s
  | .dieInterfaceReplay stack t => Sys2Proof.Machine.execDieInterfaceReplay stack t s
  | .bryRecentre stack t => Sys2Proof.Machine.execBryRecentre stack t s
  | .sample stack req => Sys2Proof.Machine.execSample stack req s
  | .aggregate stack req => Sys2Proof.Machine.execAggregate stack req s
  | .fullAggregate stack req => Sys2Proof.Machine.execFullAggregate stack req s
  | .reverse stack req => Sys2Proof.Machine.execReverse stack req s
  | .ownScatter stack req => Sys2Proof.Machine.execOwnScatter stack req s
  | .roundClose stack => Sys2Proof.Machine.execRoundClose stack s
  | .scatterApply stack => Sys2Proof.Machine.execScatterApply stack s
  | .migrationOpen stack => Sys2Proof.Machine.execMigrationOpen stack s
  | .migrationCopy stack => Sys2Proof.Machine.execMigrationCopy stack s
  | .migrationSwitch stack => Sys2Proof.Machine.execMigrationSwitch stack s
  | .migrDone stack => Sys2Proof.Machine.execMigrDone stack s
  | .mma u => Sys2Proof.Machine.execMma u s
  | .mvm u => Sys2Proof.Machine.execMvm u s
  | .louvreClose tile => Sys2Proof.Machine.execLouvreClose tile s
  | .drain u => Sys2Proof.Machine.execDrain u s
  | .load u => Sys2Proof.Machine.execLoad u s
  | .zero u => Sys2Proof.Machine.execZero u s
  | .cvt u => Sys2Proof.Machine.execCvt u s
  | .ovfReplay tile => Sys2Proof.Machine.execOvfReplay tile s
  | .add u => Sys2Proof.Machine.execAdd u s
  | .sub u => Sys2Proof.Machine.execSub u s
  | .mul u => Sys2Proof.Machine.execMul u s
  | .fma u => Sys2Proof.Machine.execFma u s
  | .div u => Sys2Proof.Machine.execDiv u s
  | .sqrt u => Sys2Proof.Machine.execSqrt u s
  | .rsqrt u => Sys2Proof.Machine.execRsqrt u s
  | .rcp u => Sys2Proof.Machine.execRcp u s
  | .exp u => Sys2Proof.Machine.execExp u s
  | .log u => Sys2Proof.Machine.execLog u s
  | .tanh u => Sys2Proof.Machine.execTanh u s
  | .sigmoid u => Sys2Proof.Machine.execSigmoid u s
  | .gelu u => Sys2Proof.Machine.execGelu u s
  | .relu u => Sys2Proof.Machine.execRelu u s
  | .lrelu u => Sys2Proof.Machine.execLrelu u s
  | .max u => Sys2Proof.Machine.execMax u s
  | .min u => Sys2Proof.Machine.execMin u s
  | .cmplt u => Sys2Proof.Machine.execCmplt u s
  | .cmpeq u => Sys2Proof.Machine.execCmpeq u s
  | .mask u => Sys2Proof.Machine.execMask u s
  | .rng u => Sys2Proof.Machine.execRng u s
  | .cmp u => Sys2Proof.Machine.execCmp u s
  | .split u => Sys2Proof.Machine.execSplit u s
  | .recomputePiece tile => Sys2Proof.Machine.execRecomputePiece tile s
  | .gtag u => Sys2Proof.Machine.execGtag u s
  | .stash u => Sys2Proof.Machine.execStash u s
  | .refill u => Sys2Proof.Machine.execRefill u s
  | .cstart u => Sys2Proof.Machine.execCstart u s
  | .collTimeout coll => Sys2Proof.Machine.execCollTimeout coll s
  | .commitDue => Sys2Proof.Machine.execCommitDue s
  | .commitOutcome => Sys2Proof.Machine.execCommitOutcome s
  | .densePhase => Sys2Proof.Machine.execDensePhase s
  | .embeddingPhase => Sys2Proof.Machine.execEmbeddingPhase s
  | .commitEnd => Sys2Proof.Machine.execCommitEnd s
  | .hingeFlip => Sys2Proof.Machine.execHingeFlip s
  | .tableReleased => Sys2Proof.Machine.execTableReleased s
  | .flitReceive port flit fec => Sys2Proof.Machine.execFlitReceive port flit fec s
  | .retry port lseq => Sys2Proof.Machine.execRetry port lseq s
  | .linkRetryTimeout port => Sys2Proof.Machine.execLinkRetryTimeout port s
  | .linkDownNotice port => Sys2Proof.Machine.execLinkDownNotice port s
  | .fecLockLoss port => Sys2Proof.Machine.execFecLockLoss port s
  | .noGoodFlitTimeout port => Sys2Proof.Machine.execNoGoodFlitTimeout port s
  | .linkUp port laneOk peerPart peerPort => Sys2Proof.Machine.execLinkUp port laneOk peerPart peerPort s
  | .messageForward what => Sys2Proof.Machine.execMessageForward what s
  | .write m => Sys2Proof.Machine.execWrite m s
  | .read m => Sys2Proof.Machine.execRead m s
  | .readData m => Sys2Proof.Machine.execReadData m s
  | .draw m => Sys2Proof.Machine.execDraw m s
  | .place m => Sys2Proof.Machine.execPlace m s
  | .rowreq m => Sys2Proof.Machine.execRowreq m s
  | .rows m => Sys2Proof.Machine.execRows m s
  | .partialRows m => Sys2Proof.Machine.execPartialRows m s
  | .handdown m => Sys2Proof.Machine.execHanddown m s
  | .scatter m => Sys2Proof.Machine.execScatter m s
  | .token m => Sys2Proof.Machine.execToken m s
  | .coll m => Sys2Proof.Machine.execColl m s
  | .ack m t => Sys2Proof.Machine.execAck m t s
  | .ackTimer src vc => Sys2Proof.Machine.execAckTimer src vc s
  | .transportRetx dst vc => Sys2Proof.Machine.execTransportRetx dst vc s
  | .shutterNotice m => Sys2Proof.Machine.execShutterNotice m s
  | .faultNotice m => Sys2Proof.Machine.execFaultNotice m s
  | .collCtl m => Sys2Proof.Machine.execCollCtl m s
  | .ethFrame port bytes frame t => Sys2Proof.Machine.execEthFrame port bytes frame t s
  | .ethLinkDown port => Sys2Proof.Machine.execEthLinkDown port s
  | .ethLinkUp port => Sys2Proof.Machine.execEthLinkUp port s
  | .cmReq port remoteQpn psn entry => Sys2Proof.Machine.execCmReq port remoteQpn psn entry s
  | .cmRtu entry => Sys2Proof.Machine.execCmRtu entry s
  | .cmDreq entry => Sys2Proof.Machine.execCmDreq entry s
  | .mailboxArrival a => Sys2Proof.Machine.execMailboxArrival a s
  | .rdmaWrite r => Sys2Proof.Machine.execRdmaWrite r s
  | .rdmaReadRequest r => Sys2Proof.Machine.execRdmaReadRequest r s
  | .rdmaReadResponse qp psn addr data => Sys2Proof.Machine.execRdmaReadResponse qp psn addr data s
  | .acknowledge qp psn kind => Sys2Proof.Machine.execAcknowledge qp psn kind s
  | .sendWithImmediate qp psn imm data last => Sys2Proof.Machine.execSendWithImmediate qp psn imm data last s
  | .cnp qp t => Sys2Proof.Machine.execCnp qp t s
  | .rateRaise qp => Sys2Proof.Machine.execRateRaise qp s
  | .pfcPause port prio quanta t => Sys2Proof.Machine.execPfcPause port prio quanta t s
  | .pfcStorm port t => Sys2Proof.Machine.execPfcStorm port t s
  | .localAckTimeout qp => Sys2Proof.Machine.execLocalAckTimeout qp s
  | .getIdentity r => Sys2Proof.Machine.execGetIdentity r s
  | .getCaps r => Sys2Proof.Machine.execGetCaps r s
  | .getState r => Sys2Proof.Machine.execGetState r s
  | .jobLoad r addr bytes digest extra => Sys2Proof.Machine.execJobLoad r addr bytes digest extra s
  | .jobStart r s0 => Sys2Proof.Machine.execJobStart r s0 s
  | .jobStartEffect => Sys2Proof.Machine.execJobStartEffect s
  | .jobStop r mode => Sys2Proof.Machine.execJobStop r mode s
  | .jobStatus r => Sys2Proof.Machine.execJobStatus r s
  | .regRead r addrs => Sys2Proof.Machine.execRegRead r addrs s
  | .regWrite r entries => Sys2Proof.Machine.execRegWrite r entries s
  | .memRead r addr len => Sys2Proof.Machine.execMemRead r addr len s
  | .winCreate r base len perms => Sys2Proof.Machine.execWinCreate r base len perms s
  | .winDestroy r rkey => Sys2Proof.Machine.execWinDestroy r rkey s
  | .tableStage r stack table desc => Sys2Proof.Machine.execTableStage r stack table desc s
  | .tableFlip r tables step => Sys2Proof.Machine.execTableFlip r tables step s
  | .tableStatus r table => Sys2Proof.Machine.execTableStatus r table s
  | .tableOpt r table values => Sys2Proof.Machine.execTableOpt r table values s
  | .tableThresh r table up16 dn16 up8 dn8 => Sys2Proof.Machine.execTableThresh r table up16 dn16 up8 dn8 s
  | .stepStatus r => Sys2Proof.Machine.execStepStatus r s
  | .stepResume r outcome => Sys2Proof.Machine.execStepResume r outcome s
  | .stepUndo r step => Sys2Proof.Machine.execStepUndo r step s
  | .stepReplay r step mode => Sys2Proof.Machine.execStepReplay r step mode s
  | .telemetryGet r set => Sys2Proof.Machine.execTelemetryGet r set s
  | .telemetryPeriod r period => Sys2Proof.Machine.execTelemetryPeriod r period s
  | .telemetryTick => Sys2Proof.Machine.execTelemetryTick s
  | .eventSink r entry => Sys2Proof.Machine.execEventSink r entry s
  | .event timeMs => Sys2Proof.Machine.execEvent timeMs s
  | .powerState r state => Sys2Proof.Machine.execPowerState r state s
  | .powerCap r cap => Sys2Proof.Machine.execPowerCap r cap s
  | .powerPolicy r mode fixed => Sys2Proof.Machine.execPowerPolicy r mode fixed s
  | .powerStatus r => Sys2Proof.Machine.execPowerStatus r s
  | .attest r nonce offset => Sys2Proof.Machine.execAttest r nonce offset s
  | .certGet r index offset => Sys2Proof.Machine.execCertGet r index offset s
  | .deadboltChallenge r => Sys2Proof.Machine.execDeadboltChallenge r s
  | .nonceExpiry => Sys2Proof.Machine.execNonceExpiry s
  | .deadboltOpen r offset fragment => Sys2Proof.Machine.execDeadboltOpen r offset fragment s
  | .deadboltClose r => Sys2Proof.Machine.execDeadboltClose r s
  | .ownerEnrol r offset fragment => Sys2Proof.Machine.execOwnerEnrol r offset fragment s
  | .fwBegin r bytes digest => Sys2Proof.Machine.execFwBegin r bytes digest s
  | .fwData r offset fragment => Sys2Proof.Machine.execFwData r offset fragment s
  | .fwCommit r => Sys2Proof.Machine.execFwCommit r s
  | .secPolicy r value => Sys2Proof.Machine.execSecPolicy r value s
  | .traceStart r selection => Sys2Proof.Machine.execTraceStart r selection s
  | .traceStop r => Sys2Proof.Machine.execTraceStop r s
  | .traceRead r offset => Sys2Proof.Machine.execTraceRead r offset s
  | .draughtSet r entries => Sys2Proof.Machine.execDraughtSet r entries s
  | .draughtArmed => Sys2Proof.Machine.execDraughtArmed s
  | .draughtClear r => Sys2Proof.Machine.execDraughtClear r s
  | .logRead r index => Sys2Proof.Machine.execLogRead r index s
  | .logClear r index => Sys2Proof.Machine.execLogClear r index s
  | .dumpRead r offset => Sys2Proof.Machine.execDumpRead r offset s
  | .domainReset r domain inst timeMs => Sys2Proof.Machine.execDomainReset r domain inst timeMs s
  | .domainResetDone domain inst => Sys2Proof.Machine.execDomainResetDone domain inst s
  | .mgmtReset r timeMs => Sys2Proof.Machine.execMgmtReset r timeMs s
  | .contextSave r => Sys2Proof.Machine.execContextSave r s
  | .contextSaved => Sys2Proof.Machine.execContextSaved s
  | .contextRestore r => Sys2Proof.Machine.execContextRestore r s
  | .contextRestored => Sys2Proof.Machine.execContextRestored s
  | .contextRead r offset => Sys2Proof.Machine.execContextRead r offset s
  | .contextWrite r offset data => Sys2Proof.Machine.execContextWrite r offset data s
  | .qpCreate r port => Sys2Proof.Machine.execQpCreate r port s
  | .qpConnect r entry remoteQpn sendPsn recvPsn ip ackTmo => Sys2Proof.Machine.execQpConnect r entry remoteQpn sendPsn recvPsn ip ackTmo s
  | .qpDestroy r entry => Sys2Proof.Machine.execQpDestroy r entry s
  | .shutter r parts => Sys2Proof.Machine.execShutter r parts s
  | .shutterClear r parts => Sys2Proof.Machine.execShutterClear r parts s
  | .fabricStatus r => Sys2Proof.Machine.execFabricStatus r s
  | .mgmtWdtReset core timeMs => Sys2Proof.Machine.execMgmtWdtReset core timeMs s
  | .mgmtReady copyOk timeMs => Sys2Proof.Machine.execMgmtReady copyOk timeMs s
  | .faultReport => Sys2Proof.Machine.execFaultReport s
  | .scrub => Sys2Proof.Machine.execScrub s
  | .scrubDone trainFails timeMs => Sys2Proof.Machine.execScrubDone trainFails timeMs s
  | .siteDetector site => Sys2Proof.Machine.execSiteDetector site s
  | .retirementDetector => Sys2Proof.Machine.execRetirementDetector s
  | .stepDetector => Sys2Proof.Machine.execStepDetector s
  | .indexDetector => Sys2Proof.Machine.execIndexDetector s
  | .coldStart f => Sys2Proof.Machine.execColdStart f s
  | .fullService timeMs => Sys2Proof.Machine.execFullService timeMs s
  | .wicketDone => Sys2Proof.Machine.execWicketDone s
  | .modRst lowNs f => Sys2Proof.Machine.execModRst lowNs f s
  | .energyReport nJ => Sys2Proof.Machine.execEnergyReport nJ s
  | .sensorRead readings timeMs => Sys2Proof.Machine.execSensorRead readings timeMs s
  | .recoveryExit timeMs => Sys2Proof.Machine.execRecoveryExit timeMs s
  | .inputFault tenMilliVolts durationUs => Sys2Proof.Machine.execInputFault tenMilliVolts durationUs s
  | .regulatorFault regulator status => Sys2Proof.Machine.execRegulatorFault regulator status s
  | .regulatorShutdown tenMilliVolts durationUs => Sys2Proof.Machine.execRegulatorShutdown tenMilliVolts durationUs s
  | .idcode => Sys2Proof.Machine.execIdcode s
  | .bypass => Sys2Proof.Machine.execBypass s
  | .samplePreload cells => Sys2Proof.Machine.execSamplePreload cells s
  | .extest cells => Sys2Proof.Machine.execExtest cells s
  | .extestPulse cells => Sys2Proof.Machine.execExtestPulse cells s
  | .extestTrain cells => Sys2Proof.Machine.execExtestTrain cells s
  | .internalScan code => Sys2Proof.Machine.execInternalScan code s
  | .paneCfgWrite cls value => Sys2Proof.Machine.execPaneCfgWrite cls value s
  | .bryIlvWrite cls value => Sys2Proof.Machine.execBryIlvWrite cls value s
  | .sbnIdWrite cls value => Sys2Proof.Machine.execSbnIdWrite cls value s
  | .sbnRouteWrite cls part value => Sys2Proof.Machine.execSbnRouteWrite cls part value s
  | .sbnPortEnable en => Sys2Proof.Machine.execSbnPortEnable en s
  | .ethPortEnable port en => Sys2Proof.Machine.execEthPortEnable port en s
  | .registerWrite cls addr value => Sys2Proof.Machine.execRegisterWrite cls addr value s
  | .debugSessionLapse timeMs => Sys2Proof.Machine.execDebugSessionLapse timeMs s
  | .rnrRetry qp => Sys2Proof.Machine.execRnrRetry qp s
  | .regulationRegained => Sys2Proof.Machine.execRegulationRegained s
  | .setdasa staticAddr dynamicAddr => Sys2Proof.Machine.execSetdasa staticAddr dynamicAddr s
  | .fwCommitDone => Sys2Proof.Machine.execFwCommitDone s

end Sys2Proof.Machine
end

