-- ==== Sys2Proof/Safety.lean ====
section
/-! DEFINITION. What counts as a safe run of the part, and the terms in which statements say what a command leaves alone. -/

namespace Sys2Proof.Machine

/-- The legal job states (R459) and power states (R394). -/
def legalStates (s : State) : Prop := jobState s ≤ 5 ∧ power s ≤ 5

/-- The part stands between two commands: nothing raised is waiting to be judged, the event FIFO holds at most its 256
records (R389), and the mirrored registers say what they mirror (R470, R59, R393). -/
abbrev settled (s : State) : Prop :=
  s.raised = [] ∧ s.mgmt.fifo.length ≤ 256 ∧
  (fld s PANE_STATUS_JOB = 1 ↔ jobLoaded s = true) ∧
  fld s PANE_WINDOW_OCCUPANCY = occupancy s % 2 ^ 13 ∧
  fld s MBX_STATUS_HOST_Q = queueLen s .host % 2 ^ 7 ∧
  fld s MBX_STATUS_PLAT_Q = queueLen s .platform % 2 ^ 4 ∧
  fld s MBX_STATUS_DBG_Q = queueLen s .debug % 2 ^ 3

/-- The addresses of the registers that the closing of every command brings up to date: the mirrored ones, and `MBX_EVT` with
its count of lost records. -/
def mirrored (a : Nat) : Bool :=
  a == PANE_STATUS.at 0 0 || a == PANE_WINDOW.at 0 0 || a == MBX_STATUS.at 0 0 || a == RST_LOG.at 0 0 || a == MBX_EVT.at 0 0

/-- Those and the registers that the stop of a faulted job writes (R448): the job state, the power state, the draughts. -/
def closing (a : Nat) : Bool :=
  mirrored a || a == RST_STATUS.at 0 0 || a == PWR_STATE.at 0 0 ||
    [DRT_STATUS, DRT_MESH, DRT_LINK, DRT_MEMDLY, DRT_STRETCH, DRT_CREDIT, DRT_CRC, DRT_MBXDLY, DRT_PRED, DRT_OVF, DRT_EVT].any
      (fun r => a == r.at 0 0)

/-- Every byte of memory reads as before. -/
def sameMem (s t : State) : Prop := ∀ a, memRead t.mem a = memRead s.mem a

/-- Every byte outside the `n` bytes from `lo` reads as before. -/
def sameMemBut (lo n : Nat) (s t : State) : Prop := ∀ a, a < lo ∨ lo + n ≤ a → memRead t.mem a = memRead s.mem a

/-- Every register reads as before but those at the addresses of `ex`, those every command's closing brings up to date, and
those that a fault's stop writes. -/
def sameRegs (ex : List Nat) (s t : State) : Prop :=
  ∀ (r : Reg) (k n : Nat), r.at k n ∉ ex → closing (r.at k n) = false → readReg t r k n = readReg s r k n

/-- The private state of the tiles and the stash is as before (06 to 13). -/
def sameTiles (s t : State) : Prop := t.tiles = s.tiles ∧ t.stash = s.stash

/-- The private state of the base dies is as before (03 to 05). -/
def sameBases (s t : State) : Prop := t.graphs = s.graphs ∧ t.embs = s.embs ∧ t.brys = s.brys

/-- The fabric's and the Ethernet engine's state is as before (14, 16). -/
def sameNets (s t : State) : Prop := t.sbn = s.sbn ∧ t.eth = s.eth

/-- Nothing but registers and what the closing writes has changed: memory, tiles, base dies, networks, steps and power manager
are as before. -/
def sameUnits (s t : State) : Prop :=
  sameMem s t ∧ sameTiles s t ∧ sameBases s t ∧ sameNets s t ∧ t.step = s.step ∧ t.power = s.power

/-- A command faults the loaded job with a code (R447, R448). -/
def faultsWith (c : Instr) (s : State) (code : Nat) : Prop :=
  ∃ t, exec c s = .next t ∧ jobState t = 4 ∧ t.jobEnd.lastCode = code

/-- The state that a command's effect begins from: nothing sent and nothing raised yet in its cycle. -/
def fresh (s : State) : State := { s with out := [], raised := [] }

/-- The cycles that a draught adds to the pane that ends (R431). -/
def stretchCycles (s : State) : Nat :=
  if drt s DRT_STRETCH_EXTRA ≠ 0 ∧ bitOf 3 (fld s DRT_STATUS_ARMED) = true ∧ pane s % (max (drt s DRT_STRETCH_EVERY) 1) = 0 then
    min (drt s DRT_STRETCH_EXTRA) (paneLen s)
  else 0

/-- Row `row` of table `t` is present at stack `k` with map entry `e`, and every check on it passes (R116, R120, R121). -/
abbrev rowHeld (s : State) (k t row e : Nat) : Prop :=
  tdValid (tdesc s k t) = true ∧ descOk s k (tdesc s k t) = true ∧ row < tdRows (tdesc s k t) ∧
  firstBad s (granules (mapAddr (tdesc s k t) row) 8) = none ∧ e = loadNat s (mapAddr (tdesc s k t) row) 8 ∧
  rmPresent e = true ∧ rmOk (tdesc s k t) e = true

/-- The unit instruction of `i` is the next of its tile's running task and need not wait (R175, R53), has the opcode `op`, and nothing
befell it (R161). -/
abbrev unitRuns (s : State) (i : TileIns) (op : Nat) (task : WinTask) : Prop :=
  (site s i.tile.val).run = some task ∧ jobLive s = true ∧ mayIssue s i.tile.val task i = true ∧ insOp i.word = op ∧ i.env = {}

/-- The unit instructions with their opcodes and, for a `VOP`, its function (R160, R177, R197, R198, R210, R233, R242, R259,
R270, R308, R335). -/
def unitCommands (i : TileIns) : List (Instr × Nat × Nat) :=
  [(.mma i, 0x10, 0), (.mvm i, 0x11, 0), (.add i, 0x20, 0x01), (.sub i, 0x20, 0x02), (.mul i, 0x20, 0x03), (.fma i, 0x20, 0x04),
   (.div i, 0x20, 0x05), (.sqrt i, 0x20, 0x06), (.rsqrt i, 0x20, 0x07), (.rcp i, 0x20, 0x08), (.exp i, 0x20, 0x09),
   (.log i, 0x20, 0x0A), (.tanh i, 0x20, 0x0B), (.sigmoid i, 0x20, 0x0C), (.gelu i, 0x20, 0x0D), (.relu i, 0x20, 0x0E),
   (.lrelu i, 0x20, 0x0F), (.max i, 0x20, 0x10), (.min i, 0x20, 0x11), (.cmplt i, 0x20, 0x12), (.cmpeq i, 0x20, 0x13),
   (.mask i, 0x20, 0x14), (.cvt i, 0x21, 0), (.gtag i, 0x22, 0), (.rng i, 0x23, 0), (.drain i, 0x30, 0), (.load i, 0x31, 0),
   (.zero i, 0x32, 0), (.cmp i, 0x40, 0), (.split i, 0x41, 0), (.stash i, 0x50, 0), (.refill i, 0x51, 0), (.cstart i, 0x60, 0)]

/-- The `VOP` commands with their functions and what each makes of a lane (R198). -/
def vectorCommands (i : TileIns) : List (Instr × Nat × (Lane → FRes × Bool)) :=
  [(.add i, 0x01, laneAdd), (.sub i, 0x02, laneSub), (.mul i, 0x03, laneMul), (.fma i, 0x04, laneFma), (.div i, 0x05, laneDiv),
   (.sqrt i, 0x06, laneSqrt), (.rsqrt i, 0x07, laneRsqrt), (.rcp i, 0x08, laneRcp), (.exp i, 0x09, laneExp),
   (.log i, 0x0A, laneLog), (.tanh i, 0x0B, laneTanh), (.sigmoid i, 0x0C, laneSigmoid), (.gelu i, 0x0D, laneGelu),
   (.relu i, 0x0E, laneRelu), (.lrelu i, 0x0F, laneLrelu), (.max i, 0x10, laneMax), (.min i, 0x11, laneMin),
   (.cmplt i, 0x12, laneCmplt), (.cmpeq i, 0x13, laneCmpeq), (.mask i, 0x14, laneMask)]

/-- Only tile `k` has changed, beside memory, the stash and `out`: its private state and the registers of its window. -/
def onlyTile (k : Nat) (s t : State) : Prop :=
  (∀ j, j ≠ k → tileS t j = tileS s j) ∧ sameBases s t ∧ sameNets s t ∧ t.step = s.step ∧ t.power = s.power ∧ t.job = s.job ∧
  ∀ (r : Reg) (a n : Nat), (r.at a n < tileBase k + 0xC00000 ∨ tileBase k + 0x1000000 ≤ r.at a n) → closing (r.at a n) = false →
    readReg t r a n = readReg s r a n

/-- The map entries of a sparse `MMA`'s two panels, or none of a dense one (R230). -/
def panelMaps (s : State) (k : Nat) (p : Prod) : Option (Nat × Nat) :=
  match p.a.panel, p.b.panel with
  | some ma, some mb => some (leNat (tload s k ma 32), leNat (tload s k mb 32))
  | _, _ => none

/-- The product as the front end hands it to the array: a sparse one with the k-blocks and m-blocks of its matched pairs (R238, R239). -/
def fedProduct (s : State) (k : Nat) (p : Prod) : Prod :=
  let pairs := (panelMaps s k p).map (fun e => matches_ p e.1 e.2)
  if strictMode s then p else { p with kmask := pairs.map kMask, vmask := pairs.map vMask }

/-- The operands of a product stand ready: dense, or sparse with both maps in order and their scale axes along k (R187, R229), and no
n-block of it is predicted inactive (R246). -/
abbrev productReady (s : State) (i : TileIns) (task : WinTask) (p : Prod) : Prop :=
  (predictor s i.tile.val task i p (match panelMaps s i.tile.val p with | some e => nfBlocks p e.1 e.2 | none => [])).2 = 0 ∧
  operandsOk s i.tile.val p = true ∧
  ∀ ma mb, p.a.panel = some ma → p.b.panel = some mb →
    let ea := leNat (tload s i.tile.val ma 32)
    let eb := leNat (tload s i.tile.val mb 32)
    mapReason ea p.a.fmt = none ∧ mapReason eb p.b.fmt = none ∧ axisOk ea p.a.fmt (p.a.orient == 0) = true ∧
      axisOk eb p.b.fmt (p.b.orient == 1) = true

/-- The address of row `r` of a bank region from column `c` on (R208). -/
def bankAddr (k b r c : Nat) : Nat := tileBase k + bankBase b + 512 * r + 4 * c

/-- Every row of a product stands in its bank, and with pairs its compensation in the other bank; a row of an m-block that streams
nothing is +0 with `INIT` and left alone without it (R239); the pair bits say which form the rows have (R202, R206, R207). -/
def productStands (s t : State) (k : Nat) (p : Prod) : Prop :=
  ∀ r, r < p.m →
    (streams p (r / 16) = true →
      load t (bankAddr k p.bank (p.row0 + r) p.col0) (4 * p.n) =
        wordBytes ((prodRow s k p 0 (weightCols s k p) r).map (fun c => c.w)) ∧
      (p.pair = true → strictMode s = false →
        load t (bankAddr k (1 - p.bank) (p.row0 + r) p.col0) (4 * p.n) =
          wordBytes ((prodRow s k p 0 (weightCols s k p) r).map (fun c => c.e)))) ∧
    (streams p (r / 16) = false → load t (bankAddr k p.bank (p.row0 + r) p.col0) (4 * p.n) =
      if p.init then List.replicate (4 * p.n) 0 else load s (bankAddr k p.bank (p.row0 + r) p.col0) (4 * p.n)) ∧
    pairBit (tileS t k) p.bank (p.row0 + r) = p.pair

/-- The rows of an n-block's owed blocks, and what a chain makes of each of them at full precision, from +0 (R251). -/
def owedRows (o : OwedS) (nb : Nat) : List Nat :=
  (((o.owed.filter (fun e => e.1 == nb)).map (fun e => e.2)).flatMap (fun mb => (List.range 16).map (fun i => 16 * mb + i))).filter
    (fun i => decide (i < o.rows))
def owedCells (s : State) (k : Nat) (o : OwedS) (nb : Nat) : List (List AccCell) :=
  (owedRows o nb).map (fun r => o.chain.foldl (fun c w => fullRow s k (mmaProd s k 5 w.2 w.1) nb r c)
    ((List.range 16).map (fun _ => ({ w := 0 } : AccCell))))

/-- The word that stands in the drained region for a cell: after `RELU`, with the pair's compensation under `PAIRSUM` (R211, R251). -/
def owedWord (o : OwedS) (c : AccCell) : BitVec 32 := (reluRes false (if o.mode = 1 then (f32add false c.w c.e).w else c.w)).w

/-- The journal entry of slot `e` of a draw without replacement that takes all `deg` edges from `start` on (R88, R95). -/
def drawnEntry (s : State) (kd step : Nat) (req : Word32B) (seeds start deg e : Nat) : Nat :=
  let plan := planOf s (rqMb req)
  let h := rqHop req
  let slot := treeB seeds plan h + (rqFirst req - treeB seeds plan (h - 1)) * planFan plan h + e - seeds
  let x := loadNat s (edgeAddr s kd (start + e)) 16
  if e < deg then journalEntry (edgeNbr x) slot h (partId s) (edgeValue x) step (rqMb req) false
  else journalEntry 0 slot h (partId s) 0 step (rqMb req) true

/-- The one destination of an aggregation, held here and without a child: a local node without an edge, or a drawn sample of the first
layer with only empty slots. -/
def childless (s : State) (k : Nat) (req : Word32B) (step : Nat) (d : Dest) : Prop :=
  if rqOp req = 3 then
    d = ⟨partId s, fullFirst req, k, nodeOf s k (fullFirst req)⟩ ∧ fld s GRE_CFG_NODE_CACHE_EN k = 0 ∧
      bitsOf 40 32 (loadNat s (nodeAddr s k d.i) 16) = 0 ∧
      bitsOf 0 40 (loadNat s (nodeAddr s k d.i) 16) ≤ fld s GRE_GRAPH_EDGE_COUNT k
  else
    d.hp = partId s ∧ d.i = rqFirst req ∧ drawn s req step d.i = true ∧
      holderOf s (partId s) step (rqMb req) d.i = some (d.k, d.node) ∧ placeOf s step (rqMb req) d.i = some (partId s, d.k) ∧
      rqLayer req < 2 ∧ ∀ x ∈ journalOf s d.k (treeKey (partId s) step (rqMb req) d.i), bitOf 74 x = true

/-- The token of a request that was served as it came goes through the one-pane lag (R42); 0xFFFF names none. -/
def tokenLags (s t : State) (k n : Nat) : Prop :=
  n ≠ 0xFFFF → ∃ r : OpenReq, t.sched.memReqs = s.sched.memReqs ++ [r] ∧ r.req.token = some n ∧ r.req.site.val = 96 + k ∧
    r.req.issuePane = pane s ∧ r.landed = true

/-- No request waits at a graph engine and no row request is held, so that the end of a commit serves none (R122). -/
abbrev enginesIdle (s : State) : Prop := ∀ k, (graph s k).heldReqs = [] ∧ (graph s k).wait = []

/-- The step in progress is committed with an outcome, 1 `COMMIT` or 2 `SKIP` (R284, R286, R292). -/
def stepEnded (s t : State) (outcome : Nat) : Prop :=
  t.step.committedStep = s.step.current ∧ t.step.open_ = false ∧ fld t PANE_COMMIT_STATUS_PHASE = 0 ∧
  fld t PANE_COMMIT_STATUS_LAST_OUTCOME = outcome ∧ (∀ k, (emb t k).deltas = []) ∧
  fld t PANE_SASH_VERSION = (if outcome = 1 then (fld s PANE_SASH_VERSION + 1) % 2 ^ 32 else fld s PANE_SASH_VERSION) ∧
  fld t PANE_COMMIT_STATUS_UNDO_VALID = (if outcome = 1 then b2n (bitOf 3 s.step.pol.cfg) else 0) ∧
  ∀ b, indexBase s = some b → loadNat t (b + 8) 8 = s.step.current % 2 ^ 64

/-- The sash that the version in force names, and the other, which the commit writes (R276). -/
def sashNow (s : State) (x : Tensor) : Nat := sashBase x (fld s PANE_SASH_VERSION % 2)
def sashNext (s : State) (x : Tensor) : Nat := sashBase x ((fld s PANE_SASH_VERSION + 1) % 2)

/-- Nothing but the fabric, registers and what the part sends has changed. -/
def onlyFabric (s t : State) : Prop := sameMem s t ∧ sameTiles s t ∧ sameBases s t ∧ t.eth = s.eth ∧ t.step = s.step ∧ t.power = s.power

/-- The commands for messages that arrive, with the operation of their row (R333); `ACK` and a `HANDDOWN` of this part's own
tiles stand apart. -/
def messageCommands (m : SbnMsg) : List (Instr × Nat) :=
  [(.write m, 0x01), (.read m, 0x02), (.readData m, 0x03), (.draw m, 0x04), (.place m, 0x05), (.rowreq m, 0x06), (.rows m, 0x07),
   (.partialRows m, 0x08), (.handdown m, 0x09), (.scatter m, 0x0A), (.token m, 0x0B), (.coll m, 0x10), (.shutterNotice m, 0x40),
   (.faultNotice m, 0x41), (.collCtl m, 0x42)]

/-- A message for this part passes its checks: its end-to-end check, the job, the shutters, the management channel's operations
(R331, R341, R342); it holds no buffer of a port, and nothing is held for a turn of its own. -/
abbrev messagePasses (s : State) (m : SbnMsg) : Prop :=
  m.dst.val = partId s ∧ sbnCheck m = m.ecrc ∧ jobLive s = true ∧ m.job = s.job.id ∧ shuttered s m.src.val = false ∧
  (chanOf m = 4 ↔ noticeOp m.op = true) ∧ (∀ e ∈ s.sbn.arrived, { e.2 with found := m.found } ≠ m) ∧ s.sbn.pool = []

/-- It is the next of its connection, and need not wait for its collective (R328, R337). -/
abbrev messageInTurn (s : State) (m : SbnMsg) : Prop :=
  messagePasses s m ∧ m.tseq = (rxConn s m.src.val m.vc).expected ∧ mustHold s m = false

/-- A token that a message names, counted once more (R39, R333); 0xFFFF names none. -/
def tokenCounts (s t : State) (n : Nat) : Prop :=
  ∀ x, n ≠ 0xFFFF → kGet? s.sched.tokens n = some x → x.count < 65535 →
    kGet? t.sched.tokens n = some { x with count := x.count + 1 }

/-! Requests at the mailboxes. -/

/-- A request command with its request, its opcode of R384, and whether it asks for an extended telemetry set (R422). -/
def requestForm : Instr → Option (Req × Nat × Bool)
  | .getIdentity r => some (r, 0x0101, false)
  | .getCaps r => some (r, 0x0102, false)
  | .getState r => some (r, 0x0103, false)
  | .jobLoad r _ _ _ _ => some (r, 0x0201, false)
  | .jobStart r _ => some (r, 0x0202, false)
  | .jobStop r _ => some (r, 0x0203, false)
  | .jobStatus r => some (r, 0x0204, false)
  | .regRead r _ => some (r, 0x0301, false)
  | .regWrite r _ => some (r, 0x0302, false)
  | .memRead r _ _ => some (r, 0x0303, false)
  | .winCreate r _ _ _ => some (r, 0x0304, false)
  | .winDestroy r _ => some (r, 0x0305, false)
  | .tableStage r _ _ _ => some (r, 0x0306, false)
  | .tableFlip r _ _ => some (r, 0x0307, false)
  | .tableStatus r _ => some (r, 0x0308, false)
  | .tableOpt r _ _ => some (r, 0x0309, false)
  | .tableThresh r _ _ _ _ _ => some (r, 0x030A, false)
  | .stepStatus r => some (r, 0x0401, false)
  | .stepResume r _ => some (r, 0x0402, false)
  | .stepUndo r _ => some (r, 0x0403, false)
  | .stepReplay r _ _ => some (r, 0x0404, false)
  | .telemetryGet r set => some (r, 0x0501, decide (128 ≤ set))
  | .telemetryPeriod r _ => some (r, 0x0502, false)
  | .eventSink r _ => some (r, 0x0503, false)
  | .powerState r _ => some (r, 0x0601, false)
  | .powerCap r _ => some (r, 0x0602, false)
  | .powerPolicy r _ _ => some (r, 0x0603, false)
  | .powerStatus r => some (r, 0x0604, false)
  | .attest r _ _ => some (r, 0x0701, false)
  | .certGet r _ _ => some (r, 0x0702, false)
  | .deadboltChallenge r => some (r, 0x0703, false)
  | .deadboltOpen r _ _ => some (r, 0x0704, false)
  | .deadboltClose r => some (r, 0x0705, false)
  | .ownerEnrol r _ _ => some (r, 0x0706, false)
  | .fwBegin r _ _ => some (r, 0x0707, false)
  | .fwData r _ _ => some (r, 0x0708, false)
  | .fwCommit r => some (r, 0x0709, false)
  | .secPolicy r _ => some (r, 0x070A, false)
  | .traceStart r _ => some (r, 0x0801, false)
  | .traceStop r => some (r, 0x0802, false)
  | .traceRead r _ => some (r, 0x0803, false)
  | .draughtSet r _ => some (r, 0x0804, false)
  | .draughtClear r => some (r, 0x0805, false)
  | .logRead r _ => some (r, 0x0901, false)
  | .logClear r _ => some (r, 0x0902, false)
  | .dumpRead r _ => some (r, 0x0903, false)
  | .domainReset r _ _ _ => some (r, 0x0904, false)
  | .mgmtReset r _ => some (r, 0x0905, false)
  | .contextSave r => some (r, 0x0906, false)
  | .contextRestore r => some (r, 0x0907, false)
  | .contextRead r _ => some (r, 0x0908, false)
  | .contextWrite r _ _ => some (r, 0x0909, false)
  | .qpCreate r _ => some (r, 0x0A01, false)
  | .qpConnect r _ _ _ _ _ _ => some (r, 0x0A02, false)
  | .qpDestroy r _ => some (r, 0x0A03, false)
  | .shutter r _ => some (r, 0x0A04, false)
  | .shutterClear r _ => some (r, 0x0A05, false)
  | .fabricStatus r => some (r, 0x0A06, false)
  | _ => none

/-- A request that reaches a bank which a running task holds waits (R153). -/
def waitsForBank (s : State) : Instr → Bool
  | .regRead _ addrs => addrs.any (fun a => bankBusy s a.addr 8)
  | .regWrite _ entries => entries.any (fun e => bankBusy s e.1.toNat 8)
  | .memRead _ addr len => bankBusy s addr.addr len
  | _ => false

/-- A request comes into service at once: firmware runs, its port reaches it, nothing waits before it, and no reset of the
management complex is owed (R379, R380, R440). -/
abbrev taken (s : State) (r : Req) : Prop :=
  fld s MBX_STATUS_READY = 1 ∧ clsReaches s r.cls r.qp = true ∧ s.rst.serviceRom = false ∧ s.mgmt.queue = [] ∧
  s.mgmt.replayReq = none ∧ s.rst.domains.contains (5, 0) = false

/-- It comes into service, is new (R383) and passes the checks of R382, R422 and R435. -/
abbrev serves (s : State) (r : Req) (op : Nat) (ext : Bool := false) : Prop :=
  taken s r ∧ dupOf s r = none ∧ requestCheck s r op ext = none

/-- The state in which a request is served: nothing sent or raised yet, and for the debug class a session attached (R424). -/
def inService (s : State) (r : Req) : State := touchSession (fresh s) r.cls

/-- The registers that serving a request writes whatever it asks: the PSN of a host-class reply (R363), a session of the debug
class (R424). -/
def serviceRegs (r : Req) : List Nat :=
  match r.cls with
  | .host => [ETH_QP.at 0 r.qp]
  | .platform => []
  | .debug => [SEC_STATE.at 0 0]

/-- The reply to a request is sent, with its status, its `DUP` and its payload (R381, R383): at once, where a host-class reply finds
its queue pair connected and its port not paused. -/
def repliedTo (s t : State) (r : Req) (op st : Nat) (dup : Bool) (payload : List Byte) : Prop :=
  (r.cls ≠ .host ∨ (fld s ETH_QP_STATE 0 r.qp = 3 ∧ kGet? s.eth.paused (fld s ETH_QP_PORT 0 r.qp) = none)) →
    ∃ j p, Emit.reply r.cls r.qp op r.seq st dup 0 j p payload ∈ t.out

/-- Serving a request has changed nothing but the registers of `ex`, what every service writes, and the management complex's own
queues and records: memory, tiles, base dies, fabric, step, power and job are as before. -/
def requestFrame (r : Req) (ex : List Nat) (s t : State) : Prop :=
  sameMem s t ∧ sameTiles s t ∧ sameBases s t ∧ t.sbn = s.sbn ∧ t.step = s.step ∧ t.power = s.power ∧ t.job = s.job ∧
  jobState t = jobState s ∧ power t = power s ∧ sameRegs (serviceRegs r ++ ex) s t

/-- A request is served with a status and a payload, and leaves the rest as it was but the registers of `ex`. -/
def servedWith (c : Instr) (s : State) (r : Req) (op st : Nat) (payload : List Byte) (ex : List Nat) (also : State → Prop) : Prop :=
  ∃ t, exec c s = .next t ∧ repliedTo s t r op st false payload ∧ requestFrame r ex s t ∧ also t

/-- A request is refused with a status and has no effect (R382). -/
def turnedAway (c : Instr) (s : State) (r : Req) (op st : Nat) : Prop :=
  servedWith c s r op st [] [MBX_REFUSAL.at 0 0] (fun _ => True)

/-- The requests that only read, with their opcodes and what they answer (R384, log 84). -/
def statusReads (r : Req) (s : State) : List (Instr × Nat × List Byte) :=
  [(.getIdentity r, 0x0101, leBytes 4 (Config.identity 0) ++ leBytes 8 (Config.identity 1) ++ leBytes 2 (Config.identity 2) ++
      leBytes 4 (fld s SEC_BOOT_SVN) ++ leBytes 4 (fld s SEC_BOOT_MIN_SVN) ++ leBytes 6 (fld s ETH_PORT_MAC 0 0) ++
      leBytes 6 (fld s ETH_PORT_MAC 0 1) ++ regBytes s SBN_ID ++ leBytes 1 s.tap.slotId),
   (.getCaps r, 0x0102, ([96, 8, 10, 2, 256, 64] : List Nat).flatMap (leBytes 2) ++ regBytes s TILE_PMAP ++
      (List.range 96).flatMap (fun t => regBytes s TILE_DESC t) ++ regBytes s TILE_GEOM),
   (.getState r, 0x0103, ([power s, jobState s, deadbolt s, fld s RST_STATUS_SERVICE] : List Nat).flatMap (leBytes 1)),
   (.stepStatus r, 0x0401, regBytes s PANE_COMMIT_STATUS ++ regBytes s PANE_SASH ++ recordHead s 0 ++ recordHead s 1),
   (.powerStatus r, 0x0604, regBytes s PWR_STATE ++ leBytes 2 (fld s PWR_CAP_HOST_CAP) ++ leBytes 2 (fld s PWR_CAP_PLAT_CAP) ++
      leBytes 2 (fld s PWR_INPUT_WATTS) ++ leBytes 4 (fld s PWR_ENERGY_E_PANE) ++ regBytes s PWR_THROTTLE),
   (.fabricStatus r, 0x0A06, (List.range 10).flatMap (fun p => regBytes s SBN_PORT 0 p) ++
      (List.range 16).flatMap (fun n => regBytes s SBN_ROUTE 0 n) ++ regBytes s SBN_SHUTTER)]

/-- The registers whose writes wait for a mullion or do more than store (R115, R142, R173, R199, R220, R313, R326, R359, R459), and those that what stands elsewhere follows (R61, R369). -/
def actingRegs : List Reg := [GRE_CFG, EMB_CFG, RST_HANG, SBN_ROUTE, FMT_FLAGS, ACC_FLAGS, MXA_CFG, SBN_CFG, ETH_CFG,
  BRY_ILV, ETH_CC]

/-- A word of registers that a class may write now, each of them one that a write only stores into (R9, R385): it names registers of
powered blocks, at different addresses, none of which the class or the loaded job refuses. -/
abbrev plainWord (s : State) (c : Cls) (a w : Nat) : Prop :=
  let ps := (wordPieces a).filter (fun p => blockPowered s p.reg.block p.k)
  tileMemory s a = none ∧ bankBusy s a 8 = false ∧ a % 8 = 0 ∧ ps ≠ [] ∧ (ps.map (fun p => p.reg.at p.k p.n)).Nodup ∧
  ∀ p ∈ ps, classRefuses s c p.reg.block (p.reg.base == ETH_ADDR.base) = none ∧ jobRefuses s p w = false ∧
    (∀ r ∈ actingRegs, p.reg.base ≠ r.base) ∧ closing (p.reg.at p.k p.n) = false

/-- Those registers. -/
def wordRegs (s : State) (a : Nat) : List Nat :=
  ((wordPieces a).filter (fun p => blockPowered s p.reg.block p.k)).map (fun p => p.reg.at p.k p.n)

/-- Each of them holds what R9 makes of the word written. -/
def wordStored (s t : State) (a w : Nat) : Prop :=
  ∀ p ∈ (wordPieces a).filter (fun p => blockPowered s p.reg.block p.k), readReg t p.reg p.k p.n = written s p w

/-- Serving a request has changed nothing but what every service writes and the power manager's own data. -/
def powerFrame (r : Req) (s t : State) : Prop :=
  sameMem s t ∧ sameTiles s t ∧ sameBases s t ∧ t.sbn = s.sbn ∧ t.step = s.step ∧ t.job = s.job ∧ jobState t = jobState s ∧
  power t = power s ∧ sameRegs (serviceRegs r) s t

/-- A command changes nothing but what its closing brings up to date. -/
def nothingHappens (c : Instr) (s : State) : Prop := ∃ t, exec c s = .next t ∧ sameUnits s t ∧ jobState t = jobState s ∧
  power t = power s ∧ sameRegs [] s t

/-- A reply of the message engine reaches its sender: at once, where a host-class reply finds its queue pair connected and its port
not paused. -/
def engineReplies (s t : State) (a : Arrival) (st hint : Nat) : Prop :=
  (a.cls ≠ .host ∨ (fld s ETH_QP_STATE 0 a.qp = 3 ∧ kGet? s.eth.paused (fld s ETH_QP_PORT 0 a.qp) = none)) →
    ∃ j p, Emit.reply a.cls a.qp a.opcode a.seq st false hint j p [] ∈ t.out

/-- A detector of a hang fires (R442 to R446): the job faults, the hang is counted, and recorded where none was. -/
def hangs (c : Instr) (s : State) (detector site : Nat) : Prop :=
  faultsWith c s 0x9080 ∧ ∃ t, exec c s = .next t ∧ fld t RST_EVT_HANGS = satAdd 32 (fld s RST_EVT_HANGS) 1 ∧
    (fld s RST_HANG_LOG_VALID = 0 → fld t RST_HANG_LOG_VALID = 1 ∧ fld t RST_HANG_LOG_DETECTOR = detector ∧
      fld t RST_HANG_LOG_SITE = site ∧ fld t RST_HANG_LOG_STEP = stepNo s ∧ fld t RST_HANG_LOG_PANE = pane s) ∧
    sameUnits s t ∧ sameRegs [RST_EVT.at 0 0, RST_HANG_LOG.at 0 0] s t

/-- A test instruction is selected: the tap holds its code, with or without the I/O ring powered, and nothing else of the part has
changed (R422). -/
def tapSelected (c : Instr) (s : State) (ir : Nat) (io : Bool) (also : State → Prop) : Prop :=
  ∃ t, exec c s = .next t ∧ t.tap.ir = ir ∧ t.tap.ioPowered = io ∧ sameUnits s t ∧ sameRegs [] s t ∧ also t

/-- What a cold start finds lets it go through: the boot stages and the active slot pass (R408, R411). -/
abbrev bootsThrough (s : State) (f : BootFindings) : Prop :=
  f.stage1Ok = true ∧ f.stage2Ok = true ∧ slotPasses s s.sec.activeSlot f.activeOk = true

end Sys2Proof.Machine
end

