-- ==== Sys2Proof/WellFormed.lean ====
section
/-! DEFINITION. What the spec requires of a command's operands before any state is looked at: the opcode and function of a unit
instruction, the operation and the fields of a message, the size of a flit, the shape of a request. -/

namespace Sys2Proof

open Machine

/-- The opcode of a unit instruction's command (R160, R197, R210, R233, R242, R259, R270, R308, R335), the function of a `VOP`
(R198), and the word. -/
def unitWord : Instr → Option (Nat × Option Nat × TileIns)
  | .mma i => some (0x10, none, i)
  | .mvm i => some (0x11, none, i)
  | .add i => some (0x20, some 0x01, i)
  | .sub i => some (0x20, some 0x02, i)
  | .mul i => some (0x20, some 0x03, i)
  | .fma i => some (0x20, some 0x04, i)
  | .div i => some (0x20, some 0x05, i)
  | .sqrt i => some (0x20, some 0x06, i)
  | .rsqrt i => some (0x20, some 0x07, i)
  | .rcp i => some (0x20, some 0x08, i)
  | .exp i => some (0x20, some 0x09, i)
  | .log i => some (0x20, some 0x0A, i)
  | .tanh i => some (0x20, some 0x0B, i)
  | .sigmoid i => some (0x20, some 0x0C, i)
  | .gelu i => some (0x20, some 0x0D, i)
  | .relu i => some (0x20, some 0x0E, i)
  | .lrelu i => some (0x20, some 0x0F, i)
  | .max i => some (0x20, some 0x10, i)
  | .min i => some (0x20, some 0x11, i)
  | .cmplt i => some (0x20, some 0x12, i)
  | .cmpeq i => some (0x20, some 0x13, i)
  | .mask i => some (0x20, some 0x14, i)
  | .cvt i => some (0x21, none, i)
  | .gtag i => some (0x22, none, i)
  | .rng i => some (0x23, none, i)
  | .drain i => some (0x30, none, i)
  | .load i => some (0x31, none, i)
  | .zero i => some (0x32, none, i)
  | .cmp i => some (0x40, none, i)
  | .split i => some (0x41, none, i)
  | .stash i => some (0x50, none, i)
  | .refill i => some (0x51, none, i)
  | .cstart i => some (0x60, none, i)
  | _ => none

/-- The operation that an engine request's command names (R99), and the request. -/
def engineWord : Instr → Option (Nat × Word32B)
  | .sample _ r => some (1, r)
  | .aggregate _ r => some (2, r)
  | .fullAggregate _ r => some (3, r)
  | .reverse _ r => some (4, r)
  | .ownScatter _ r => some (5, r)
  | _ => none

/-- The operation that a transport message's command names (R333), and the message. -/
def transportMsg : Instr → Option (Nat × SbnMsg)
  | .write m => some (0x01, m)
  | .read m => some (0x02, m)
  | .readData m => some (0x03, m)
  | .draw m => some (0x04, m)
  | .place m => some (0x05, m)
  | .rowreq m => some (0x06, m)
  | .rows m => some (0x07, m)
  | .partialRows m => some (0x08, m)
  | .handdown m => some (0x09, m)
  | .scatter m => some (0x0A, m)
  | .token m => some (0x0B, m)
  | .coll m => some (0x10, m)
  | .ack m _ => some (0x30, m)
  | .shutterNotice m => some (0x40, m)
  | .faultNotice m => some (0x41, m)
  | .collCtl m => some (0x42, m)
  | _ => none

/-- The opcode of a Renvi request's command (R384), and the request. -/
def requestOf : Instr → Option (Nat × Req)
  | .getIdentity r => some (0x0101, r)
  | .getCaps r => some (0x0102, r)
  | .getState r => some (0x0103, r)
  | .jobLoad r _ _ _ _ => some (0x0201, r)
  | .jobStart r _ => some (0x0202, r)
  | .jobStop r _ => some (0x0203, r)
  | .jobStatus r => some (0x0204, r)
  | .regRead r _ => some (0x0301, r)
  | .regWrite r _ => some (0x0302, r)
  | .memRead r _ _ => some (0x0303, r)
  | .winCreate r _ _ _ => some (0x0304, r)
  | .winDestroy r _ => some (0x0305, r)
  | .tableStage r _ _ _ => some (0x0306, r)
  | .tableFlip r _ _ => some (0x0307, r)
  | .tableStatus r _ => some (0x0308, r)
  | .tableOpt r _ _ => some (0x0309, r)
  | .tableThresh r _ _ _ _ _ => some (0x030A, r)
  | .stepStatus r => some (0x0401, r)
  | .stepResume r _ => some (0x0402, r)
  | .stepUndo r _ => some (0x0403, r)
  | .stepReplay r _ _ => some (0x0404, r)
  | .telemetryGet r _ => some (0x0501, r)
  | .telemetryPeriod r _ => some (0x0502, r)
  | .eventSink r _ => some (0x0503, r)
  | .powerState r _ => some (0x0601, r)
  | .powerCap r _ => some (0x0602, r)
  | .powerPolicy r _ _ => some (0x0603, r)
  | .powerStatus r => some (0x0604, r)
  | .attest r _ _ => some (0x0701, r)
  | .certGet r _ _ => some (0x0702, r)
  | .deadboltChallenge r => some (0x0703, r)
  | .deadboltOpen r _ _ => some (0x0704, r)
  | .deadboltClose r => some (0x0705, r)
  | .ownerEnrol r _ _ => some (0x0706, r)
  | .fwBegin r _ _ => some (0x0707, r)
  | .fwData r _ _ => some (0x0708, r)
  | .fwCommit r => some (0x0709, r)
  | .secPolicy r _ => some (0x070A, r)
  | .traceStart r _ => some (0x0801, r)
  | .traceStop r => some (0x0802, r)
  | .traceRead r _ => some (0x0803, r)
  | .draughtSet r _ => some (0x0804, r)
  | .draughtClear r => some (0x0805, r)
  | .logRead r _ => some (0x0901, r)
  | .logClear r _ => some (0x0902, r)
  | .dumpRead r _ => some (0x0903, r)
  | .domainReset r _ _ _ => some (0x0904, r)
  | .mgmtReset r _ => some (0x0905, r)
  | .contextSave r => some (0x0906, r)
  | .contextRestore r => some (0x0907, r)
  | .contextRead r _ => some (0x0908, r)
  | .contextWrite r _ _ => some (0x0909, r)
  | .qpCreate r _ => some (0x0A01, r)
  | .qpConnect r _ _ _ _ _ _ => some (0x0A02, r)
  | .qpDestroy r _ => some (0x0A03, r)
  | .shutter r _ => some (0x0A04, r)
  | .shutterClear r _ => some (0x0A05, r)
  | .fabricStatus r => some (0x0A06, r)
  | _ => none

/-- The word carries the command's opcode and, for a `VOP`, its function; a louvre delays an instruction by at most 5 cycles (R172). -/
def unitWordOk (op : Nat) (func : Option Nat) (i : TileIns) : Bool :=
  bitsOf 0 8 i.word.toNat == op && decide (i.env.louvreWait ≤ 5) && (match func with | none => true | some f => bitsOf 8 8 i.word.toNat == f)

/-- The fields of a transport message fit the header, and the payload fits 32 flits (R327). -/
def msgOk (op : Nat) (m : SbnMsg) : Bool :=
  m.op == op && decide (m.vc ≤ 5) && decide (m.hop ≤ 3) && (match m.chan with | some v => decide (v ≤ 5) | none => true) && decide (m.data.length ≤ 7904) && decide (m.tseq < 2 ^ 32) &&
  decide (m.job < 2 ^ 32) && decide (m.token < 2 ^ 16) && decide (m.addr < 2 ^ 48) && decide (m.tag < 2 ^ 16) &&
  decide (m.arg < 2 ^ 32) && decide (m.ecrc < 2 ^ 32)

/-- A transfer fits its operation (R327, R333, R339): one destination unless it is a multicast, which reads nothing. -/
def transferOk (x : Transfer) : Bool :=
  (x.op == 0x01 || x.op == 0x02 || x.op == 0x0B) && decide (x.addr < 2 ^ 48) && decide (x.back < 2 ^ 48) &&
  decide (x.token < 2 ^ 16) && decide (x.done < 2 ^ 16) && decide (x.data.length ≤ 7904) &&
  (if x.op = 0x02 then decide (1 ≤ x.len) && decide (x.len ≤ 7904) && x.data.isEmpty && !x.mcast else x.len == 0) &&
  (x.op != 0x0B || x.data.isEmpty) &&
  (x.mcast || ((List.range 16).filter (fun p => x.dsts.getLsbD p)).length == 1)

/-- A request's header fits (R381); its entry is a mailbox queue pair's, or 0xFF on I3C and JTAG (R362, R393). -/
def reqOk (r : Req) : Bool :=
  decide (r.seq < 2 ^ 32) && decide (r.job < 2 ^ 32) && (if r.cls = .host then decide (r.qp < 8) else r.qp == 0xFF)

/-- A message's header fits. -/
def arrivalOk (a : Arrival) : Bool :=
  decide (a.opcode < 2 ^ 16) && decide (a.length < 2 ^ 16) && reqOk ⟨a.cls, a.qp, a.seq, a.job⟩

/-- A memory-side request reads some bytes or writes some, of the device's 48-bit addresses; what a tile reads fits in its
scratchpad. The patrol scrubber makes no request of a task. -/
def memReqOk (q : MemReq) : Bool :=
  (if q.isWrite then q.data != [] && q.len == q.data.length else q.data == [] && decide (0 < q.len)) &&
  decide (q.addr + q.len ≤ 2 ^ 48) && q.requester != .scrubber &&
  (q.isWrite || decide (96 ≤ q.site.val) || decide (q.dst + q.len ≤ 2 ^ 23))

/-- A slice that differs is named by one of its cores: 32 in a tile, 4 in a base die (R309). -/
def sliceOk (e : Fin 104 × Nat) : Bool := decide (e.2 < if e.1.val < 96 then 32 else 4)

/-- The upsets that a refresh finds: granules of a stack and symbols in error, of which the code tells up to 4 (R72). -/
def upsetOk (e : Nat × Nat) : Bool := decide (e.1 < 2 ^ 30) && decide (1 ≤ e.2) && decide (e.2 ≤ 4)

/-- The findings of a cold start name tiles of the 100 and array rows of the 132, in ascending order (R145, R169). -/
def findingsOk (f : BootFindings) : Bool :=
  f.fusedOff.all (fun p => decide (p < 100)) && f.tileFail.all (fun p => decide (p < 100)) &&
  f.tileRows.all (fun e => decide (e.1 < 100) && e.2.all (fun r => decide (r.1 < 132)) &&
    ((e.2.map (fun r => r.1)).zip ((e.2.map (fun r => r.1)).drop 1)).all (fun p => decide (p.1 < p.2))) &&
  decide (f.i3cAddr < 4) && decide (f.slotId < 8)

/-- An RDMA operation has at least one packet, a 24-bit PSN, and as much data as it says, or none for a READ. -/
def rdmaOk (write : Bool) (r : Rdma) : Bool :=
  decide (1 ≤ r.packets) && decide (r.psn < 2 ^ 24) && decide (r.qp < 256) && (if write then r.len == r.data.length else r.data == [])

/-- What no other function here looks at: sizes of single commands. -/
def shapeOk : Instr → Bool
  | .memoryRequestComplete q _ => memReqOk q
  | .bankRefresh _ _ b => b.lost.all upsetOk
  | .stepLatch l => l.all sliceOk
  | .flitReceive _ f _ => f.length == 256
  | .messageForward f =>
    (match f.transit with | some m => msgOk m.op m | none => true) && (match f.start with | some x => transferOk x | none => true)
  | .mailboxArrival a => arrivalOk a
  | .rdmaWrite r => rdmaOk true r
  | .rdmaReadRequest r => rdmaOk false r
  | .coldStart f => findingsOk f
  | .modRst _ f => findingsOk f
  | .ethFrame _ n _ _ => decide (n < 2 ^ 16)
  | .acknowledge q p _ => decide (q < 256) && decide (p < 2 ^ 24)
  | _ => true

/-- A command's operands are as the spec has them. -/
def wellFormed (c : Instr) : Bool :=
  shapeOk c &&
  (match unitWord c with | some (op, func, i) => unitWordOk op func i | none => true) &&
  (match engineWord c with | some (op, w) => bitsOf 0 8 w.toNat == op | none => true) &&
  (match transportMsg c with | some (op, m) => msgOk op m | none => true) &&
  (match requestOf c with | some (_, r) => reqOk r | none => true)

end Sys2Proof
end

