-- ==== Sys2Proof/Certificates/Slice0/Obligations.lean ====
section
/-! DEFINITION. The statements for the provers: what each family of commands does, with its frame, and what every step keeps. -/

open Sys2Proof Sys2Proof.Machine

/-! The queue and the closing of a command. -/

/-- Log 13: a step takes the command at the front of the queue and runs it on the state with the queue's rest; on an empty
queue the block idles. Every command leaves the rest of the queue as it found it.
Rests also on the model's choices of log 13. -/
def Obligations.StepRunsFrontCommand : Prop :=
  (∀ (c : Instr) (rest : List Instr) (s : State), s.pending = c :: rest →
    step s = exec c { s with pending := rest } ∧ ∃ t, step s = .next t ∧ t.pending = rest) ∧
  (∀ s : State, s.pending = [] → step s = .next s)

/-- R389, R470, R59, R393: between commands nothing raised waits to be judged, the event FIFO holds at most its 256 records,
and the registers that report state held elsewhere say what that state is. Every step keeps it, from every state. -/
def Obligations.EveryStepLeavesSettled : Prop :=
  ∀ s t : State, settled s → step s = .next t → settled t

/-- R11, R387, R394: the part right after power is applied is settled, in legal states: no job, Standby, no pane counted, memory all
zero, registers at the reset values of their tables.
Rests also on the model's choices of logs 98, 106 and 107. -/
def Obligations.ResetSettled : Prop :=
  settled State.reset ∧ legalStates State.reset ∧ jobState State.reset = 0 ∧ power State.reset = 1 ∧ pane State.reset = 0 ∧
  State.reset.pending = [] ∧ (∀ a, memRead State.reset.mem a = 0) ∧ regNat State.reset PANE_CFG = 0x80080001 ∧
  regNat State.reset BRY_ILV = 0x108 ∧ regNat State.reset SBN_ID = 0 ∧ regNat State.reset RST_STATUS = 0 ∧
  regNat State.reset SEC_STATE = 1

/-- R447, R448: of the faults that one command raises, the lowest code stops the job, and no fault raised has a lower one; with
no fault raised the job state is as the command left it. -/
def Obligations.LowestFaultStopsJob : Prop :=
  ∀ (f : State → State) (s : State),
    let u := f { s with out := [], raised := [] }
    ∃ t, runCmd f s = .next t ∧
      ((∃ r ∈ u.raised, r.kind = 1) → jobLive u = true →
        ∃ r ∈ u.raised, r.kind = 1 ∧ (∀ q ∈ u.raised, q.kind = 1 → r.code ≤ q.code) ∧ jobState t = 4 ∧ t.jobEnd.lastCode = r.code) ∧
      ((∀ r ∈ u.raised, r.kind ≠ 1) → jobState t = jobState u)

/-! Panes, steps and the scheduler (01, 02). -/

/-- R29: every mullion adds one to the 64-bit pane counter; a reset of the whole part sets the counter to 0, and no other reset
changes it. Below wicket service there is no mullion. -/
def Obligations.MullionAddsOnePane : Prop :=
  (∀ s : State, 2 ≤ power s → ∃ t, exec .mullion s = .next t ∧ pane t = (pane s + 1) % 2 ^ 64) ∧
  (∀ s : State, power s < 2 → ∃ t, exec .mullion s = .next t ∧ pane t = pane s) ∧
  (∀ (s : State) (f : BootFindings) (ns : Nat), power s ≠ 0 → 10000 ≤ ns →
    ∃ t, exec (.modRst ns f) s = .next t ∧ pane t = 0) ∧
  (∀ (s : State) (r : Req) (ms : Nat), serves s r 0x0904 → r.cls = .platform →
    ∃ t, exec (.domainReset r 6 0 ms) s = .next t ∧ pane t = 0) ∧
  (∀ (s : State) (dom : Domain) (k ms : Nat) (core : Fin 4) (ok : Bool) (c : Instr),
    c ∈ [Instr.domainResetDone dom k, .mgmtWdtReset core ms, .mgmtReady ok ms] → ∃ t, exec c s = .next t ∧ pane t = pane s) ∧
  (∀ (s : State) (r : Req) (d k ms : Nat), d ≠ 6 → (∃ t, exec (.domainReset r d k ms) s = .next t ∧ pane t = pane s) ∧
    ∃ t, exec (.mgmtReset r ms) s = .next t ∧ pane t = pane s)

/-- R28, R45, R397, R399: an admission decision takes E_pane and E_bg as its snapshot has them, E_ord = E_pane − E_bg and
E_hard = E_cap − E_bg; what it admits stays within E_hard, and a site gets at most eight tasks. It writes no memory and starts
nothing. A mullion comes L cycles, and what a stretch draught adds, after the one before, and runs no step and no tile itself.
Rests also on the model's choices of logs 22 and 93. -/
def Obligations.AdmissionStaysWithinAllowance : Prop :=
  (∀ s : State, 2 ≤ power s → ∃ t, exec .admissionDecision s = .next t ∧ t.sched.eOrd = ePane s - eBackground s ∧
    t.sched.eHard = eCap s - eBackground s ∧ sameMem s t ∧ t.step = s.step ∧ t.tiles = s.tiles ∧ sameNets s t) ∧
  (∀ (s : State) (eOrd eHard : Nat), eOrd ≤ eHard →
    (decide_ s eOrd eHard).used ≤ eHard ∧ ∀ i, kGetD (decide_ s eOrd eHard).n i 0 ≤ 8) ∧
  (∀ s : State, 2 ≤ power s → ∃ t, exec .mullion s = .next t ∧ t.time = s.time + paneLen s + stretchCycles s ∧ sameMem s t ∧
    t.step = s.step ∧ t.tiles = s.tiles ∧ t.eth = s.eth) ∧
  (∀ s : State, power s < 2 → ∃ t, exec .mullion s = .next t ∧ t.time = s.time ∧ sameUnits s t)

/-- R18: where the intake conditions hold and the slot and its seeds pass their checks (R19, R81, R83, R87, R469), the step is
taken in, with its seeds. A slot that fails R19 takes no step in and faults the job. -/
def Obligations.SeedIntakeTakesStepIn : Prop :=
  (∀ (s : State) (a : Nat), intakeDue s = some a →
    let n := nextStep s.step.takenStep
    let mbs := loadNat s (a + 8) 2
    let per := loadNat s (a + 12) 4
    let seeds := (List.range (mbs * per)).map (fun i => loadNat s (a + 0x40 + 8 * i) 6)
    slotCheck s mbs per = none → firstBad s (granules a 0x40) = none → firstBad s (granules (a + 0x40) (mbs * per * 8)) = none →
    overLimit s mbs per = none → badSeed s seeds = none →
    ∃ t, exec .seedIntake s = .next t ∧ t.step.takenStep = n ∧ (⟨n, mbs, per, seeds⟩ : TakenStep) ∈ t.step.taken) ∧
  (∀ (s : State) (a c : Nat), intakeDue s = some a → firstBad s (granules a 0x40) = none →
    slotCheck s (loadNat s (a + 8) 2) (loadNat s (a + 12) 4) = some c →
    faultsWith .seedIntake s 0x1082 ∧ ∃ t, exec .seedIntake s = .next t ∧ t.step = s.step ∧ sameMem s t)

/-- R18, R309: a step that has been taken in and may latch becomes the current, open, latched step of this pane, with one run
counted. Where any generator slice's evaluation differs nothing is latched, and the job faults. -/
def Obligations.StepLatchOpensStep : Prop :=
  (∀ (s : State) (k : TakenStep), latchReady s = true → flipFirst s = false → takenOf s s.step.takenStep = some k →
    ∃ t, exec (.stepLatch []) s = .next t ∧ t.step.latchedStep = k.step ∧ t.step.current = k.step ∧ t.step.open_ = true ∧
      t.step.latchPane = pane s ∧ fld t PANE_COMMIT_STATUS_RUNS = 1) ∧
  (∀ (s : State) (k : TakenStep) (l : List (Fin 104 × Nat)), latchReady s = true → flipFirst s = false →
    takenOf s s.step.takenStep = some k → l ≠ [] →
    faultsWith (.stepLatch l) s 0x3083 ∧ ∃ t, exec (.stepLatch l) s = .next t ∧ t.step = s.step ∧ sameMem s t)

/-- R36, R33, R38: with one place free at a site, whose continuations take places as well, nothing set aside and the next descriptor of its table in order, the descriptor
enters the window after the entries before it, with age 0. The refill writes no memory.
Rests also on the model's choices of logs 16 and 18. -/
def Obligations.WindowRefillKeepsTableOrder : Prop :=
  ∀ (s : State) (i : Fin 104) (a : Nat),
    jobLive s = true → windowPlaces (site s i.val) = 63 → (site s i.val).redo = none → (site s i.val).parked = [] →
    (s.job.wicket = false ∨ (site s i.val).pass = 0) → (siteTable s i.val)[(site s i.val).tableNext]? = some a →
    descCheck s (wordAt s a) = 0 → (dClass (wordAt s a) = 0 → (site s i.val).pass ≠ s.step.committedStep) →
    ∃ t, exec (.windowRefill i) s = .next t ∧
      (site t i.val).window = (site s i.val).window ++ [{ desc := wordAt s a, addr := a, pass := (site s i.val).pass }] ∧
      (∀ j, j ≠ i.val → site t j = site s j) ∧ sameUnits s t ∧ sameRegs [] s t

/-- R32, R39, R40, R250, R251, R277, R443: a task that has run to its end retires: its token counts once more, the sash tags whose
last reader it is are released, and with nothing else to run its site is idle. A recompute piece does its work and ends: the words
of the blocks owed to it are written whole, they are owed no longer, and with the last of its parent's pieces the parent's token
counts. Each counts for the detectors; without a live job the site is idle and nothing else happens.
Rests also on the model's choices of logs 22, 43 and 44. -/
def Obligations.RetirementEndsTask : Prop :=
  (∀ (s : State) (i : Fin 104) (w : WinTask), (site s i.val).run = some w → w.recompute = false →
    ((tileS s i.val).attempt = none ∨ 96 ≤ i.val) → ∃ t, exec (.taskRetire i) s = .next t ∧ t.commit.retiredIn = true) ∧
  (∀ (s : State) (i : Fin 104) (w : WinTask), (site s i.val).run = some w → w.recompute = false →
    ((tileS s i.val).attempt = none ∨ 96 ≤ i.val) → jobLive s = true → w.lastPiece = true → (tileS s i.val).owed = [] →
    s.mgmt.heldWrites = [] → s.job.queues = [] → roundsOf s (stepMbs s) = [] → (site s i.val).pieces = [] →
    (∀ u ∈ (site s i.val).window, u.queued = false) →
    (∀ x, kGet? s.sched.tokens (dRaises w.desc) = some x → x.count < 65535) →
    ∃ t, exec (.taskRetire i) s = .next t ∧ tokenCounts s t (dRaises w.desc) ∧ (site t i.val).run = none ∧
      (∀ e ∈ s.job.extra.lastReaders, e.2 = dTaskId w.desc → ∀ g ∈ t.step.tags, ¬(g.1 = w.pass ∧ g.2.1 = e.1)) ∧
      (∀ j, j ≠ i.val → site t j = site s j) ∧ sameMem s t ∧ sameBases s t ∧ sameNets s t ∧
      sameRegs [TILE_STATUS.at i.val 0, PANE_SASH.at 0 0, PANE_STASH.at 0 0] s t) ∧
  (∀ (s : State) (i : Fin 104) (w : WinTask), (site s i.val).run = some w → w.recompute = false →
    ((tileS s i.val).attempt = none ∨ 96 ≤ i.val) → jobLive s = false → s.mgmt.heldWrites = [] →
    ∃ t, exec (.taskRetire i) s = .next t ∧ (site t i.val).run = none ∧ sameMem s t ∧ (∀ j, j ≠ i.val → tileS t j = tileS s j) ∧
      t.stash = s.stash ∧ sameBases s t ∧ sameNets s t ∧ t.step = s.step ∧ sameRegs [TILE_STATUS.at i.val 0] s t) ∧
  (∀ (s : State) (i : Fin 96) (w : WinTask) (e : TileEnv), (site s i.val).run = some w → w.recompute = true → jobLive s = false →
    s.mgmt.heldWrites = [] →
    ∃ t, exec (.recomputePiece ⟨i, e⟩) s = .next t ∧ (site t i.val).run = none ∧ t.commit.retiredIn = true ∧ sameMem s t ∧
      (∀ j, j ≠ i.val → tileS t j = tileS s j) ∧ t.stash = s.stash ∧ sameBases s t ∧ sameNets s t ∧ t.step = s.step ∧
      sameRegs [TILE_STATUS.at i.val 0] s t) ∧
  (∀ (s : State) (i : Fin 96) (w : WinTask), (site s i.val).run = some w → w.recompute = true → jobLive s = true →
    s.mgmt.heldWrites = [] → s.job.queues = [] →
    (tileS s i.val).owed.find? (fun o => o.drained && o.key == w.owedAt && o.taskId == dTaskId w.desc) = none →
    ∃ t, exec (.recomputePiece ⟨i, {}⟩) s = .next t ∧ t.commit.retiredIn = true ∧ sameMem s t) ∧
  (∀ (s : State) (i : Fin 96) (w : WinTask) (o : OwedS), (site s i.val).run = some w → w.recompute = true → jobLive s = true →
    s.mgmt.heldWrites = [] → s.job.queues = [] → (site s i.val).pieces = [] → (∀ u ∈ (site s i.val).window, u.queued = false) →
    (tileS s i.val).owed = [o] → o.drained = true → o.key = w.owedAt → o.taskId = dTaskId w.desc → o.held = [] → o.mode ≠ 2 →
    o.rows ≤ 128 → 16 * w.owedNb + 16 ≤ o.cols → o.addr + 4 * o.cols * o.rows ≤ spadBytes →
    (∀ x, kGet? s.sched.tokens (dRaises w.desc) = some x → x.count < 65535) →
    ∃ t, exec (.recomputePiece ⟨i, {}⟩) s = .next t ∧
      (∀ e ∈ (owedRows o w.owedNb).zip (owedCells s i.val o w.owedNb),
        load t (tileBase i.val + o.addr + 4 * o.cols * e.1 + 64 * w.owedNb) 64 = wordBytes (e.2.map (owedWord o))) ∧
      (∀ y ∈ (tileS t i.val).owed, ∀ e ∈ y.owed, e.1 ≠ w.owedNb) ∧ tokenCounts s t (dRaises w.desc) ∧ (site t i.val).run = none ∧
      t.commit.retiredIn = true ∧ sameMemBut (tileBase i.val) 0x1000000 s t ∧ (∀ j, j ≠ i.val → tileS t j = tileS s j) ∧
      (∀ j, j ≠ i.val → site t j = site s j) ∧ t.stash = s.stash ∧ sameBases s t ∧ sameNets s t ∧ t.step = s.step)
/-! Memory (03). -/

/-- R42, R68, R69, R277, R469: a write of whole granules by a memory-side request inside DRAM and its region puts its bytes in place as its
completion comes, with no other request open, and changes no other byte; a read of sound granules brings what stands in DRAM into the
scratchpad of the tile that asked. A request issued waits among the open ones, in issue order. One past DRAM or into the retained
region does nothing and faults the job.
Rests also on the model's choices of logs 17 and 116. -/
def Obligations.MemoryRequestWritesItsBytes : Prop :=
  (∀ (s : State) (q : MemReq), jobLive s = true → q.isWrite = true → q.phase = .complete → s.sched.memReqs = [] →
    q.addr + q.data.length ≤ dramTop → inRetained q.addr q.data.length = false → partGranules q.addr q.data.length = [] →
    (q.region < 3 ∨ pastRegion s q.region q.regionStack.val q.addr q.data.length = false) →
    ∃ t, exec (.memoryRequestComplete q .clean) s = .next t ∧ load t q.addr q.data.length = q.data ∧
      sameMemBut q.addr q.data.length s t ∧ t.tiles = s.tiles ∧ sameNets s t ∧ t.step = s.step) ∧
  (∀ (s : State) (q : MemReq), jobLive s = true → q.isWrite = false → q.phase = .complete → s.sched.memReqs = [] →
    q.site.val < 96 → q.addr + q.len ≤ dramTop → inRetained q.addr q.len = false → goesTo s q = q.addr →
    firstBad s (granules q.addr q.len) = none → q.dst + q.len ≤ spadBytes →
    ∃ t, exec (.memoryRequestComplete q .clean) s = .next t ∧
      load t (tileBase q.site.val + q.dst) q.len = load s q.addr q.len ∧
      sameMemBut (tileBase q.site.val + q.dst) q.len s t ∧ t.tiles = s.tiles ∧ sameNets s t ∧ t.step = s.step) ∧
  (∀ (s : State) (q : MemReq) (e : Ecc), jobLive s = true → q.phase = .issue → q.addr + reqBytes q ≤ dramTop →
    inRetained q.addr (reqBytes q) = false →
    (q.isWrite = false ∨ q.region < 3 ∨ pastRegion s q.region q.regionStack.val q.addr (reqBytes q) = false) →
    ∃ t, exec (.memoryRequestComplete q e) s = .next t ∧ t.sched.memReqs = s.sched.memReqs ++ [openReq s q] ∧ sameUnits s t ∧
      sameRegs [] s t) ∧
  (∀ (s : State) (q : MemReq) (e : Ecc), jobLive s = true →
    (dramTop < q.addr + reqBytes q ∨ inRetained q.addr (reqBytes q) = true) →
    faultsWith (.memoryRequestComplete q e) s 0x5083 ∧
      ∃ t, exec (.memoryRequestComplete q e) s = .next t ∧ sameUnits s t)

/-- R71 to R76: the scrubber's reads, refreshes with the symbols that DRAM has lost, temperature reports, replays and recentres of a stack.
Rests also on the model's choices of logs 23, 25 and 117. -/
def Obligations.StackUpkeep : Prop :=
  -- R75: a corrected patrol read is counted
  (∀ (s : State) (k : Fin 8) (x : Nat), fld s BRY_SCRUB_EN k.val = 1 → fld s BRY_STATUS_TRAINED k.val = 1 → x < 2 ^ 36 →
    s.bad.contains (addrOf s k.val x / 64) = false →
    ∃ t, exec (.patrolScrubRead k x .corrected) s = .next t ∧ sameMem s t ∧
      fld t BRY_ECC_CE_COUNT k.val = satAdd 32 (fld s BRY_ECC_CE_COUNT k.val) 1) ∧
  -- R74: with no job loaded an uncorrectable granule becomes zero, and every other byte stays
  (∀ (s : State) (k : Fin 8) (x : Nat), fld s BRY_SCRUB_EN k.val = 1 → fld s BRY_STATUS_TRAINED k.val = 1 → x < 2 ^ 36 →
    jobLoaded s = false →
    ∃ t, exec (.patrolScrubRead k x .uncorrectable) s = .next t ∧
      load t (64 * (addrOf s k.val x / 64)) 64 = List.replicate 64 0 ∧
      sameMemBut (64 * (addrOf s k.val x / 64)) 64 s t ∧ t.bad.contains (addrOf s k.val x / 64) = false) ∧
  -- R71, R72: one bank refreshed; a granule that has lost more symbols than can be corrected is uncorrectable from then on
  (∀ (s : State) (k : Fin 8) (p : Fin 32) (b : Nat) (lost : List (Nat × Nat)), fld s BRY_STATUS_TRAINED k.val = 1 →
    fld s BRY_STATUS_SELF_REF k.val = 0 → b < 65536 →
    ∃ t, exec (.bankRefresh k p ⟨b, lost⟩) s = .next t ∧
      (∀ g n, (g, n) ∈ lost → g < 2 ^ 30 → 3 ≤ n → t.bad.contains (addrOf s k.val (64 * g) / 64) = true) ∧
      kGetD (stackS t k.val).refreshes (p.val * 65536 + b) 0 = kGetD (stackS s k.val).refreshes (p.val * 65536 + b) 0 + 1 ∧
      sameMem s t ∧ sameRegs [] s t ∧ (∀ j, j ≠ k.val → stackS t j = stackS s j)) ∧
  -- R71: a die above 85 °C is refreshed at half the interval, one at 80 °C or less at the normal one
  (∀ (s : State) (k : Fin 8) (d : Fin 16) (c : Nat), power s ≠ 0 →
    ∃ t, exec (.dramTempReport k d c) s = .next t ∧ (85 < c → d.val ∈ (stackS t k.val).x2) ∧
      (c ≤ 80 → d.val ∉ (stackS t k.val).x2) ∧
      (80 < c → c ≤ 85 → (d.val ∈ (stackS t k.val).x2 ↔ d.val ∈ (stackS s k.val).x2)) ∧ sameMem s t ∧
      sameRegs [BRY_STATUS.at k.val 0] s t) ∧
  -- R76: a replay is counted, and the eighth within 1,024 cycles makes a recentre due
  (∀ (s : State) (k : Fin 8) (c : Nat), fld s BRY_STATUS_TRAINED k.val = 1 →
    ∃ t, exec (.dieInterfaceReplay k c) s = .next t ∧
      fld t BRY_EVT_REPLAY k.val = satAdd 16 (fld s BRY_EVT_REPLAY k.val) 1 ∧
      ((stackS t k.val).recentreDue = true ↔ (stackS s k.val).recentreDue = true ∨
        7 ≤ ((stackS s k.val).replays.filter (fun u => decide (c ≤ u + 1024))).length) ∧ sameMem s t ∧
      sameRegs [BRY_EVT.at k.val 0] s t) ∧
  -- R76: a recentre that is due takes place and is counted; the fourth within 65,536 cycles faults the job in its place
  (∀ (s : State) (k : Fin 8) (c : Nat), (stackS s k.val).recentreDue = true →
    ((stackS s k.val).recentres.filter (fun u => decide (c ≤ u + 65536))).length < 3 →
    ∃ t, exec (.bryRecentre k c) s = .next t ∧ (stackS t k.val).recentreDue = false ∧
      fld t BRY_EVT_RECENTRE k.val = satAdd 16 (fld s BRY_EVT_RECENTRE k.val) 1 ∧ sameMem s t ∧
      sameRegs [BRY_EVT.at k.val 0] s t) ∧
  (∀ (s : State) (k : Fin 8) (c : Nat), jobLive s = true → (stackS s k.val).recentreDue = true →
    3 ≤ ((stackS s k.val).recentres.filter (fun u => decide (c ≤ u + 65536))).length →
    faultsWith (.bryRecentre k c) s 0x5081)

/-- R61, R62: a device address maps to a stack and a stack offset by the interleaved bytes and the granule of `BRY_ILV`, and every
offset of every stack has one device address. `BRY_ILV` is written only while no job is loaded, and what stands at a stack and offset
then answers under the address that the new map gives them; with a job loaded the write has no effect and the mailbox that carried
it is refused. -/
def Obligations.AddressMapInverts : Prop :=
  (∀ (s : State) (a g : Nat), a < 2 ^ 39 →
    let i := fld s BRY_ILV_IGIB * 2 ^ 30
    (fld s BRY_ILV_GRAN = 0 → g = 256) → (fld s BRY_ILV_GRAN = 1 → g = 4096) → (fld s BRY_ILV_GRAN = 2 → g = 65536) →
    (fld s BRY_ILV_GRAN = 3 → g = 2097152) →
    (a < 8 * i → stackOf s a = (a / g % 8, a / (8 * g) * g + a % g)) ∧
    (8 * i ≤ a → stackOf s a = ((a - 8 * i) / (2 ^ 36 - i), i + (a - 8 * i) % (2 ^ 36 - i)))) ∧
  (∀ (s : State) (k x : Nat), k < 8 → x < 2 ^ 36 → stackOf s (addrOf s k x) = (k, x)) ∧
  (∀ (s : State) (c : Cls) (v : BitVec 32), 2 ≤ power s → classRefuses s c .bry false = none → jobLoaded s = false →
    ∃ t, exec (.bryIlvWrite c v) s = .next t ∧ fld t BRY_ILV_IGIB = min 64 (v.toNat % 128) ∧
      fld t BRY_ILV_GRAN = bitsOf 8 2 v.toNat ∧
      (Memory.wf s.mem = true → (∀ k x, k < 8 → x < 2 ^ 36 → memRead t.mem (addrOf t k x) = memRead s.mem (addrOf s k x)) ∧
        ∀ a, dramTop ≤ a → memRead t.mem a = memRead s.mem a) ∧
      sameTiles s t ∧ sameBases s t ∧ sameNets s t ∧ t.step = s.step ∧ t.power = s.power ∧ sameRegs [BRY_ILV.at 0 0] s t) ∧
  (∀ (s : State) (r : Req) (a w : BitVec 64), a.toNat = BRY_ILV.at 0 0 → serves s r 0x0302 → 2 ≤ power s → jobLoaded s = true →
    classRefuses s r.cls .bry false = none → ∃ t, exec (.regWrite r [(a, w)]) s = .next t ∧
      repliedTo s t r 0x0302 0x31 false (leBytes 2 0) ∧ requestFrame r [MBX_REFUSAL.at 0 0] s t) ∧
  (∀ (s : State) (c : Cls) (v : BitVec 32), jobLoaded s = true →
    ∃ t, exec (.bryIlvWrite c v) s = .next t ∧ sameUnits s t ∧ sameRegs [] s t)

/-! Embedding tables and scatter rounds (04, 05). -/

/-- R20, R123: a prefetch changes no value, counts no popularity and never faults. What enters the row cache is staged, is a present row
of this stack of a node that a coming step names, and takes one of the first `PF_WAYS` ways of its set; such a row is in the cache
after it, where no other one that comes with it could take its place.
Rests also on the model's choice of log 125. -/
def Obligations.PrefetchStagesRows : Prop :=
  (∀ (s : State) (k : Fin 8), ∃ t, exec (.peepholePrefetch k) s = .next t ∧ sameMem s t ∧ sameTiles s t ∧ sameNets s t ∧
    t.graphs = s.graphs ∧ t.step = s.step ∧ jobState t = jobState s ∧ sameRegs [] s t ∧
    ∀ c ∈ (emb t k.val).cache, c ∈ (emb s k.val).cache ∨
      (c.staged = true ∧ c.set = Config.cacheSet c.table c.version c.row ∧ c.way < fld s EMB_CFG_PF_WAYS k.val ∧
        c.version = tdVersion (tdesc s k.val c.table) ∧
        rmPresent (loadNat s (mapAddr (tdesc s k.val c.table) c.row) 8) = true ∧
        ∃ node ∈ nextSeeds s ++ nextNodes s, owner s node = some (partId s, k.val, c.row))) ∧
  (∀ (s : State) (k : Fin 8) (node row tb : Nat), running s = true → fld s EMB_CFG_PF_EN k.val = 1 →
    0 < fld s EMB_CFG_PF_WAYS k.val → nextSeeds s ++ nextNodes s = [node] → owner s node = some (partId s, k.val, row) →
    tb < 64 → tdValid (tdesc s k.val tb) = true → descOk s k.val (tdesc s k.val tb) = true → row < tdRows (tdesc s k.val tb) →
    (∀ j, j < 64 → j ≠ tb → tdValid (tdesc s k.val j) = false) → s.bad = [] →
    rmPresent (loadNat s (mapAddr (tdesc s k.val tb) row) 8) = true →
    rmOk (tdesc s k.val tb) (loadNat s (mapAddr (tdesc s k.val tb) row) 8) = true →
    ∃ t, exec (.peepholePrefetch k) s = .next t ∧ cacheHolds t k.val tb (tdVersion (tdesc s k.val tb)) row = true)

/-- R106, R107, R111, R113, R129: a round whose markers have all arrived closes: its contributions are issued in this pane as segments, in
the order of R111, and nothing of it stays staged. The segments issued in earlier panes are applied and no longer wait: the
values of a contribution are added to the record of its row's place, in place in the `DELTA` region.
Rests also on the model's choice of log 36. -/
def Obligations.RoundsCloseAndApply : Prop :=
  (∀ (s : State) (k : Fin 8) (r : Nat × Nat), openRound s k.val = some r → running s = true → s.job.fast = false →
    roundBegun (emb s k.val) r = true → markersMissing s k.val r = 0 →
    ∃ t, exec (.roundClose k) s = .next t ∧ (emb t k.val).closed = r :: (emb s k.val).closed ∧
      (emb t k.val).issued = (emb s k.val).issued ++
        segmentsIn (sortBy contribBefore ((emb s k.val).staged.filter (fun c => c.mb == r.1 && c.layer == r.2))) (pane s) ∧
      (∀ c ∈ (emb t k.val).staged, ¬ (c.mb = r.1 ∧ c.layer = r.2)) ∧ sameMem s t ∧ sameTiles s t ∧ sameNets s t ∧
      t.step = s.step ∧ (∀ j, j ≠ k.val → emb t j = emb s j) ∧ sameRegs [GRE_EVT.at k.val 0, GRE_STATUS.at k.val 0] s t) ∧
  (∀ (s : State) (k : Fin 8), running s = true →
    ∃ t, exec (.scatterApply k) s = .next t ∧ t.step = s.step ∧ sameNets s t ∧ sameTiles s t ∧
      (∀ g ∈ (emb t k.val).issued, pane s ≤ g.pane)) ∧
  (∀ (s : State) (k : Fin 8) (g : SegS) (c : Contrib) (e a n : Nat), running s = true →
    (emb s k.val).issued = [g] → g.items = [c] → g.pane < pane s → srHub g.record = false →
    rowHeld s k.val (srTable g.record) (srTarget g.record) e → s.bad = [] → s.weak = [] →
    kGet? (emb s k.val).deltas (placeKey (srTable g.record) (rmClass e) (rmSlot e)) = some (a, n) →
    migrOf (emb s k.val) (srTable g.record) (srTarget g.record) = none →
    let key := placeKey (srTable g.record) (rmClass e) (rmSlot e)
    let r := recordOf (load s a n)
    let bs := deltaRecBytes key { r with vals := addVals (strictMode s) r.vals c.vals, applied := satAdd 32 r.applied 1 }
    ∃ t, exec (.scatterApply k) s = .next t ∧ (emb t k.val).issued = [] ∧ load t a bs.length = bs ∧ sameMemBut a bs.length s t ∧
      (emb t k.val).deltas = (emb s k.val).deltas)

/-- R128, R129, R130, R293: the four stages of a migration. The row of the list that opens takes a free slot of its new class, keeps
its old place and is marked in the row map, no other byte changing; the copy, the switch and the end each act on every
migration that has reached its pane: the copy writes the row in its new class, with its record, the switch moves the row map to
the new place, and the end lets the old one go.
Rests also on the model's choices of logs 36 and 37. -/
def Obligations.MigrationStages : Prop :=
  (∀ (s : State) (k : Fin 8) (w : WinTask) (tb row c e slot : Nat) (rest : List (Nat × Nat × Nat)),
    mayMigrate s k.val = some w → (emb s k.val).migrList = (tb, row, c) :: rest → rowHeld s k.val tb row e →
    (freeSlot s k.val tb c).2 = some slot → s.bad = [] → s.weak = [] →
    ∃ t, exec (.migrationOpen k) s = .next t ∧ (emb t k.val).migrList = rest ∧
      (∃ m : MigrS, (emb t k.val).migrs = (emb s k.val).migrs ++ [m] ∧ m.table = tb ∧ m.row = row ∧ m.oldCls = rmClass e ∧
        m.oldSlot = rmSlot e ∧ m.newCls = c ∧ m.newSlot = slot ∧ m.pane = pane s ∧ m.phase = 0) ∧
      rmMigr (loadNat t (mapAddr (tdesc s k.val tb) row) 8) = true ∧ sameMemBut (mapAddr (tdesc s k.val tb) row) 8 s t) ∧
  (∀ (s : State) (k : Fin 8), running s = true → s.bad = [] → s.weak = [] →
    (∀ m ∈ (emb s k.val).migrs, m.phase = 0 → m.copy = none ∧ m.log = []) → ∃ t, exec (.migrationCopy k) s = .next t ∧
    (∀ m ∈ (emb t k.val).migrs, m.phase = 0 → pane s < m.pane + 2) ∧ sameRegs [] s t ∧ t.step = s.step ∧ sameNets s t ∧
    (∀ j, j ≠ k.val → emb t j = emb s j)) ∧
  (∀ (s : State) (k : Fin 8) (m : MigrS), running s = true → s.bad = [] → s.weak = [] → (emb s k.val).migrs = [m] →
    m.phase = 0 → m.pane + 2 ≤ pane s →
    let d := tdesc s k.val m.table
    let key := placeKey m.table m.newCls m.newSlot
    let bs := (encodeRow (strictMode s) m.newCls (decodeRow (strictMode s) d m.oldCls m.data)).1
    let el := bs.take (slotBytes d m.newCls)
    let sc := bs.drop (slotBytes d m.newCls)
    (m.copy = none → m.log = [] → m.newSlot < tdCap d m.newCls →
      ∃ t, exec (.migrationCopy k) s = .next t ∧ load t (slotAddr d m.newCls m.newSlot) el.length = el ∧
        (m.newCls ≠ 0 → load t (scaleAddr d m.newCls m.newSlot) sc.length = sc) ∧
        (emb t k.val).migrs = [{ m with phase := 2, log := [], copy := none, data := [] }]) ∧
    ∀ (r : DeltaRec) (a : Nat), m.copy = some r → kGet? (emb s k.val).deltas key = none →
      (let rec_ := m.log.foldl (fun (r : DeltaRec) v =>
         { r with vals := addVals (strictMode s) r.vals v, applied := satAdd 32 r.applied 1 }) r
       let rb := deltaRecBytes key rec_
       deltaRoom s k.val rb.length = some a →
       ∃ t, exec (.migrationCopy k) s = .next t ∧ load t a rb.length = rb ∧ kGet? (emb t k.val).deltas key = some (a, rb.length) ∧
         (emb t k.val).migrs = [{ m with phase := 2, log := [], copy := none, data := [] }])) ∧
  (∀ (s : State) (k : Fin 8), running s = true → s.bad = [] → s.weak = [] → ∃ t, exec (.migrationSwitch k) s = .next t ∧
    (∀ m ∈ (emb t k.val).migrs, m.phase = 2 → pane s < m.pane + 3) ∧ sameRegs [PANE_COMMIT_STATUS.at 0 0] s t ∧
    t.step = s.step ∧ sameNets s t ∧ (∀ j, j ≠ k.val → emb t j = emb s j)) ∧
  (∀ (s : State) (k : Fin 8) (m : MigrS), running s = true → s.bad = [] → s.weak = [] → (emb s k.val).migrs = [m] →
    m.phase = 2 → m.pane + 3 ≤ pane s →
    ∃ t, exec (.migrationSwitch k) s = .next t ∧ fld t PANE_COMMIT_STATUS_UNDO_VALID = 0 ∧
      (let a := mapAddr (tdesc s k.val m.table) m.row
       loadNat t a 8 = rowMap m.newCls m.newSlot (rmPop (loadNat s a 8)) (rmPresent (loadNat s a 8)) false % 2 ^ 64 ∧
       sameMemBut a 8 s t)) ∧
  (∀ (s : State) (k : Fin 8), running s = true → ∃ t, exec (.migrDone k) s = .next t ∧
    (∀ m ∈ (emb t k.val).migrs, m.phase = 3 → pane s < m.pane + 4) ∧ sameMem s t ∧
    sameRegs [EMB_EVT.at k.val 0, EMB_MIGR.at k.val 0] s t ∧ t.step = s.step ∧ sameNets s t ∧
    (∀ j, j ≠ k.val → emb t j = emb s j))

/-! The graph engine (04). -/

/-- R88, R90, R94, R95, R96, R99, R100: a request that passes its checks leaves journal entries for every destination of its range that
this part holds with a node and has not drawn already, unless the job has faulted. A draw without replacement of no more edges than
its fanout, at the last hop, writes one entry a slot, in slot order, the empty ones last, and marks its destination in the
placement map. While its step is run again it draws nothing. One that fails its checks faults the job and draws nothing.
Rests also on the model's choices of logs 31, 34 and 41. -/
def Obligations.SampleDrawsItsDestinations : Prop :=
  (∀ (s : State) (k : Fin 8) (req : Word32B) (w : WinTask) (tk : TakenStep), engineTask s k.val = some w →
    takenOf s w.pass = some tk → sampleOk s req tk = true → rqHop req ≤ planHops (planOf s (rqMb req)) →
    rerunning s w.pass = false →
    ∃ t, exec (.sample k req) s = .next t ∧ (jobState t = 4 ∨
      ∀ i kd node, rqFirst req ≤ i → i < rqFirst req + rqCount req →
        holderOf s (partId s) w.pass (rqMb req) i = some (kd, node) → node ≠ emptyNode →
        (graph s kd).byDraw.contains (treeKey (partId s) w.pass (rqMb req) i) = false →
        (kGet? (graph t kd).jdir (treeKey (partId s) w.pass (rqMb req) i)).isSome = true)) ∧
  (∀ (s : State) (k : Fin 8) (req : Word32B) (w : WinTask) (tk : TakenStep) (kd node : Nat) (o : Nat × Nat × Nat),
    engineTask s k.val = some w → takenOf s w.pass = some tk → sampleOk s req tk = true → rerunning s w.pass = false →
    rqCount req = 1 → rqHop req = planHops (planOf s (rqMb req)) → planMode (planOf s (rqMb req)) (rqHop req) = 0 →
    holderOf s (partId s) w.pass (rqMb req) (rqFirst req) = some (kd, node) → node ≠ emptyNode → owner s node = some o →
    (∀ e ∈ s.graphs, e.2.waitDraw = []) → fld s GRE_CFG_NODE_CACHE_EN kd = 0 → s.bad = [] → s.weak = [] →
    let key := treeKey (partId s) w.pass (rqMb req) (rqFirst req)
    let start := bitsOf 0 40 (loadNat s (nodeAddr s kd o.2.2) 16)
    let deg := bitsOf 40 32 (loadNat s (nodeAddr s kd o.2.2) 16)
    let half := journalHalf s kd (w.pass % 2)
    let off := kGetD (graph s kd).jNext (w.pass % 2) 0
    (graph s kd).byDraw.contains key = false → kGet? (graph s (rqMb req % 8)).place key = none →
    deg ≤ planFan (planOf s (rqMb req)) (rqHop req) → start + deg ≤ fld s GRE_GRAPH_EDGE_COUNT kd →
    (∀ e, e < deg → owner s (edgeNbr (loadNat s (edgeAddr s kd (start + e)) 16)) ≠ none) →
    off + (16 * planFan (planOf s (rqMb req)) (rqHop req) + 16) ≤ half.2 →
    (∀ tok x, samplingToken s (rqMb req) = some tok → kGet? s.sched.tokens tok = some x → x.count < 65535) →
    let es := (List.range (planFan (planOf s (rqMb req)) (rqHop req))).map (drawnEntry s kd w.pass req tk.perMb start deg)
    ∃ t, exec (.sample k req) s = .next t ∧ load t (half.1 + off) (16 * es.length) = es.flatMap (leBytes 16) ∧
      kGet? (graph t kd).jdir key = some (half.1 + off, es.length) ∧
      kGet? (graph t (rqMb req % 8)).place key = some (0x80 + partId s % 16 + 16 * (kd % 8)) ∧
      sameMemBut (half.1 + off) (16 * es.length + 16) s t ∧ sameTiles s t ∧ t.step = s.step ∧
      sameRegs (GRE_EVT.at kd 0 :: (List.range 8).map (fun j => GRE_STATUS.at j 0)) s t) ∧
  (∀ (s : State) (k : Fin 8) (req : Word32B) (w : WinTask) (tk : TakenStep), engineTask s k.val = some w →
    takenOf s w.pass = some tk → sampleOk s req tk = true → rerunning s w.pass = true →
    ∃ t, exec (.sample k req) s = .next t ∧ sameUnits s t ∧ sameRegs [] s t) ∧
  (∀ (s : State) (k : Fin 8) (req : Word32B) (w : WinTask) (tk : TakenStep), engineTask s k.val = some w →
    takenOf s w.pass = some tk → sampleOk s req tk = false →
    faultsWith (.sample k req) s 0x2084 ∧
      ∃ t, exec (.sample k req) s = .next t ∧ sameUnits s t ∧ sameRegs [GRE_FAULT.at k.val 0] s t)

/-- R90, R99, R101, R104, R108, R122: an engine request that passes its checks, needs no answer and is not held is served, and its
token follows through the one-pane lag; one whose destinations are not drawn, or that is held, waits whole; one that fails its
checks faults the job. The aggregation of a destination without a child writes a row of zeros and behind it the
destination's own row, and the reverse walk of one destination in mode sum the gradient for each of its children, zeros for
an empty slot, all as tiles.
Rests also on the model's choices of logs 30, 34, 38, 121 and 122. -/
def Obligations.EngineRequestsServed : Prop :=
  (∀ (s : State) (k : Fin 8) (req : Word32B) (w : WinTask) (op : Nat) (c : Instr),
    (c, op) ∈ [(Instr.aggregate k req, 2), (Instr.fullAggregate k req, 3), (Instr.reverse k req, 4), (Instr.ownScatter k req, 5)] →
    engineTask s k.val = some w →
    let w0 : WaitAgg := { req := req, step := w.pass, begun := false }
    (∀ w1, requestOk s op req = true → allPlaced s w0 = true → begin_ (fresh s) k.val w0 = (fresh s, w1) →
      mayServe (fresh s) k.val w1 = true → faulted (serve (fresh s) k.val w1) = false →
      exec c s = .next (finish s (refreshBusy (lagToken (serve (fresh s) k.val w1) (96 + k.val) (rqRaises req))))) ∧
    (requestOk s op req = true → allPlaced s w0 = false →
      ∃ t, exec c s = .next t ∧ (graph t k.val).wait = (graph s k.val).wait ++ [w0] ∧ fld t GRE_STATUS_BUSY k.val = 1 ∧
        sameMem s t ∧ sameNets s t ∧ sameRegs ((List.range 8).map (fun j => GRE_STATUS.at j 0)) s t) ∧
    (∀ w1, requestOk s op req = true → allPlaced s w0 = true → begin_ (fresh s) k.val w0 = (fresh s, w1) →
      mayServe (fresh s) k.val w1 = false →
      ∃ t, exec c s = .next t ∧ (graph t k.val).wait = (graph s k.val).wait ++ [w1] ∧ fld t GRE_STATUS_BUSY k.val = 1 ∧
        sameMem s t ∧ sameNets s t ∧ sameRegs ((List.range 8).map (fun j => GRE_STATUS.at j 0)) s t) ∧
    (requestOk s op req = false →
      faultsWith c s 0x2084 ∧ ∃ t, exec c s = .next t ∧ sameUnits s t ∧ sameRegs [GRE_FAULT.at k.val 0] s t)) ∧
  (∀ (s : State) (k : Fin 8) (req : Word32B) (w : WinTask) (op : Nat) (c : Instr) (d : Dest) (p st loc e : Nat),
    (c, op) ∈ [(Instr.aggregate k req, 2), (Instr.fullAggregate k req, 3)] → engineTask s k.val = some w →
    requestOk s op req = true → rqMode req ∈ [0, 1, 3] → rqCount req = 1 → d.node ≠ emptyNode → childless s k.val req w.pass d →
    owner s d.node = some (p, st, loc) → rowHeld s st (rqTable req) loc e →
    gatherHeld s d.k (rqTable req) w.pass = false → s.bad = [] → s.weak = [] →
    let own := fitRow (rqWidth req) (decodeRow (strictMode s) (tdesc s st (rqTable req)) (rmClass e)
      (placeBytes s (tdesc s st (rqTable req)) (rmClass e) (rmSlot e)))
    let t1 := tilesOf (strictMode s) (outFmt req) (numRows s [zeroVals (rqWidth req)])
    let t2 := tilesOf (strictMode s) (outFmt req) (numRows s [own])
    let a2 := align128 (rqAddr req + t1.length)
    a2 + t2.length ≤ dramTop → inRetained (rqAddr req) t1.length = false → inRetained a2 t2.length = false →
    ∃ t, exec c s = .next t ∧ load t (rqAddr req) t1.length = t1 ∧ load t a2 t2.length = t2 ∧ tokenLags s t k.val (rqRaises req) ∧
      (graph t k.val).wait = (graph s k.val).wait ∧ sameTiles s t ∧ sameNets s t ∧ t.step = s.step ∧
      (let m := mapAddr (tdesc s st (rqTable req)) loc
       ∀ a, (a < m ∨ m + 8 ≤ a) → (a < rqAddr req ∨ a2 + t2.length ≤ a) → memRead t.mem a = memRead s.mem a)) ∧
  (∀ (s : State) (k : Fin 8) (req : Word32B) (w : WinTask) (kd node : Nat), engineTask s k.val = some w →
    requestOk s 4 req = true → rqMode req = 0 → rqCount req = 1 → drawn s req w.pass (rqFirst req) = true →
    holderOf s (partId s) w.pass (rqMb req) (rqFirst req) = some (kd, node) → node ≠ emptyNode →
    placeOf s w.pass (rqMb req) (rqFirst req) = some (partId s, kd) → scatters s (rqLayer req) = false →
    s.bad = [] → s.weak = [] → badPanel s (rqAddr req) 1 (rqWidth req) = none →
    let es := journalOf s kd (treeKey (partId s) w.pass (rqMb req) (rqFirst req))
    let g := ((readTiles s (rqAddr req) 1 (rqWidth req)).headD []).map (numW (strictMode s))
    let rows := (List.range (childrenOf (seedsOf s w.pass) (planOf s (rqMb req)) (rqFirst req)).2).map (fun j =>
      match es[j]? with
      | some x => if bitOf 74 x then zeroVals (rqWidth req) else g
      | none => zeroVals (rqWidth req))
    let bs := tilesOf (strictMode s) (outFmt req) (numRows s rows)
    let a := align128 (rqAddr req + tilesBytes s (rqAddr req) 1 (rqWidth req))
    (∀ x ∈ es, bitsOf 112 8 x = w.pass % 256 ∧ bitsOf 120 8 x = rqMb req % 256) →
    a + bs.length ≤ dramTop → inRetained a bs.length = false →
    ∃ t, exec (.reverse k req) s = .next t ∧ load t a bs.length = bs ∧ tokenLags s t k.val (rqRaises req) ∧
      (graph t k.val).wait = (graph s k.val).wait ∧ sameMemBut a bs.length s t ∧ sameTiles s t ∧ sameNets s t ∧ t.step = s.step)

/-- R101, R103, R106, R107: a reduction, cut into segments and in each by owner, counts every row once, so that a mean divides by the
number of rows; the cut leaves no child out; with no row at all the output is zero in every mode but the maximum.
Rests also on the model's choice of log 122. -/
def Obligations.ReductionCountsEveryRow : Prop :=
  (∀ (strict : Bool) (mode : Nat) (groups : List (List Part)), (∀ g ∈ groups, ∀ p ∈ g, p.n = 1) →
    (reduceRun strict mode (groups.map (reduceRun strict mode))).n = sumOf (groups.map List.length)) ∧
  (∀ (kids : List Kid) (target table : Nat) (first : Nat → Nat), kids.length ≤ 2 ^ 32 →
    ((groupsOf (ownerOrder kids) (segmentsOf target table kids.length first)).flatten.flatten).Perm kids) ∧
  (∀ (strict : Bool) (mode width : Nat) (blank : List (BitVec 32)), mode ≠ 2 →
    outRow strict mode width blank (reduceRun strict mode []) = zeroVals width)

/-- R109: the own-row gradient of a destination that this part holds becomes a contribution of kind 0 for the row's stack.
Rests also on the model's choices of logs 36, 39 and 40. -/
def Obligations.OwnScatterStagesContribution : Prop :=
  ∀ (s : State) (k : Fin 8) (req : Word32B) (w : WinTask) (d : Dest) (k' loc : Nat),
    engineTask s k.val = some w → requestOk s 5 req = true →
    (let w0 : WaitAgg := { req := req, step := w.pass, begun := false }
     allPlaced s w0 = true ∧ awayDests s w0 = [] ∧ (heldDests s k.val w0).filter (fun d => d.node != emptyNode) = [d]) →
    owner s d.node = some (partId s, k', loc) → s.job.fast = false →
    (emb s k').closed.contains (rqMb req, rqLayer req) = false → s.bad = [] → s.weak = [] →
    badPanel s (rqAddr req) (rqCount req) (rqWidth req) = none →
    (let g := ((readTiles s (rqAddr req) (rqCount req) (rqWidth req)).getD (d.i - rqFirst req) []).map (numW (strictMode s))
     let c : Contrib :=
       { row := loc, table := rqTable req, kind := 0, sample := d.i, homePart := partId s, mb := rqMb req, layer := rqLayer req,
         marker := false, srcStack := k.val, srcPart := partId s, vals := tableCols s k.val (rqTable req) g }
     deltaBytes (emb s k') + 16 + 4 * c.vals.length ≤ deltaSize s k' →
     ∃ t, exec (.ownScatter k req) s = .next t ∧ (emb t k').staged = (emb s k').staged ++ [c] ∧ sameMem s t ∧ sameNets s t)

/-! The units of a tile (06 to 11, 13). -/

/-- R161, R149, R175, R222, R224: a unit instruction whose tile runs no task does nothing, and one that is not the next of its task's
list, or must wait, has no effect yet; a word with a reserved opcode faults the job as invalid; one that meets an
uncorrectable scratchpad word or a bank parity error faults the job and forms nothing. -/
def Obligations.UnitInstructionGuards : Prop :=
  ∀ (s : State) (i : TileIns) (c : Instr) (op func : Nat), (c, op, func) ∈ unitCommands i →
    ((site s i.tile.val).run = none → ∃ t, exec c s = .next t ∧ sameUnits s t ∧ sameRegs [] s t ∧ t.sched = s.sched) ∧
    (∀ task, (site s i.tile.val).run = some task → mayIssue s i.tile.val task i = false →
      ∃ t, exec c s = .next t ∧ sameUnits s t ∧ sameRegs [] s t ∧ t.sched = s.sched) ∧
    (∀ task, (site s i.tile.val).run = some task → jobLive s = true → mayIssue s i.tile.val task i = true → insOp i.word ∉ knownOps →
      faultsWith c s 0x3081 ∧ ∃ t, exec c s = .next t ∧ sameUnits s t ∧ sameRegs [MXA_FAULT.at i.tile.val 0] s t) ∧
    (∀ task a, (site s i.tile.val).run = some task → jobLive s = true → mayIssue s i.tile.val task i = true → insOp i.word = op →
      (op = 0x20 → (vfuIns i.word).func = func) → (a, Ecc.uncorrectable) ∈ i.env.sram →
      faultsWith c s 0x3080 ∧ ∃ t, exec c s = .next t ∧ sameUnits s t) ∧
    (∀ task b, (site s i.tile.val).run = some task → jobLive s = true → mayIssue s i.tile.val task i = true → insOp i.word = op →
      (op = 0x20 → (vfuIns i.word).func = func) → (∀ x ∈ i.env.sram, x.2 ≠ .uncorrectable) → i.env.bankParity = some b →
      faultsWith c s 0x3880 ∧ ∃ t, exec c s = .next t ∧ sameUnits s t)

/-- R197, R198, R199: a `VOP` whose word is in order writes the results of its function, lane by lane, at its destination and
changes no other byte and no other tile; the sticky invalid and non-finite flags are set where a lane raised them and keep
their value where none did.
Rests also on the model's choices of logs 3, 4, 28 and 51. -/
def Obligations.VectorFunctionsWriteTheirLanes : Prop :=
  ∀ (s : State) (i : TileIns) (task : WinTask) (c : Instr) (func : Nat) (fn : Lane → FRes × Bool),
    (c, func, fn) ∈ vectorCommands i → unitRuns s i 0x20 task → (tileS s i.tile.val).attempt = none →
    (vfuIns i.word).func = func → vopOk (strictMode s) i.word = true →
    let v := vfuIns i.word
    let rs := (vopLanes s i.tile.val task i.index v).map fn
    let bs := packRow v.fout (rs.map (fun r => r.1.bits))
    ∃ t, exec c s = .next t ∧ load t (tileBase i.tile.val + v.dst) bs.length = bs ∧
      sameMemBut (tileBase i.tile.val + v.dst) bs.length s t ∧ onlyTile i.tile.val s t ∧ t.stash = s.stash ∧ t.sched = s.sched ∧
      ((∃ r ∈ rs, r.1.iv = true) → fld t FMT_FLAGS_IV i.tile.val = 1) ∧
      ((∀ r ∈ rs, r.1.iv = false) → fld t FMT_FLAGS_IV i.tile.val = fld s FMT_FLAGS_IV i.tile.val) ∧
      ((∃ r ∈ rs, isNonFinite (fmtFp v.fout) r.1.bits = true) → fld t FMT_FLAGS_NF i.tile.val = 1) ∧
      ((∀ r ∈ rs, isNonFinite (fmtFp v.fout) r.1.bits = false) → fld t FMT_FLAGS_NF i.tile.val = fld s FMT_FLAGS_NF i.tile.val)

/-- R160, R161, R177, R187, R202, R206, R239: an `MMA` and an `MVM` that pass their checks write the sums of their product into their bank,
row by row (with pairs the compensation into the other bank), change no byte outside the tile's two banks, and leave every
other tile as it was. A sparse `MMA` leaves the rows of an m-block without a matched pair alone, or sets them to +0 with
`INIT`. An `MMA` or `MVM` that fails its checks faults the job and writes nothing.
Rests also on the model's choices of logs 49, 50 and 132. -/
def Obligations.ProductsStandInTheirBanks : Prop :=
  (∀ (s : State) (i : TileIns) (task : WinTask), unitRuns s i 0x10 task →
    let k := i.tile.val
    let p := mmaProd s k (dClass task.desc) (tileS s k).gtag (effWord task i)
    mmaOk p i.word = true → gradOk s (dClass task.desc) (dLayer task.desc) (tileS s k).gtag.isSome i.word = true →
    pairClash s k p = false → productReady s i task p →
    ∃ t, exec (.mma i) s = .next t ∧ productStands s t k (fedProduct s k p) ∧ sameMemBut (tileBase k + bankBase 0) 0x20000 s t ∧
      onlyTile k s t ∧ t.stash = s.stash ∧ t.sched = s.sched) ∧
  (∀ (s : State) (i : TileIns) (task : WinTask), unitRuns s i 0x11 task →
    let k := i.tile.val
    let p := mvmProd (dClass task.desc) (tileS s k).gtag i.word
    mvmOk p i.word = true → operandsOk s k p = true →
    gradOk s (dClass task.desc) (dLayer task.desc) (tileS s k).gtag.isSome i.word = true → pairClash s k p = false →
    ∃ t, exec (.mvm i) s = .next t ∧ productStands s t k p ∧ sameMemBut (tileBase k + bankBase 0) 0x20000 s t ∧ onlyTile k s t ∧
      t.stash = s.stash ∧ t.sched = s.sched) ∧
  (∀ (s : State) (i : TileIns) (task : WinTask), unitRuns s i 0x10 task →
    let k := i.tile.val
    let p := mmaProd s k (dClass task.desc) (tileS s k).gtag (effWord task i)
    (mmaOk p i.word = false ∨ operandsOk s k p = false) →
    faultsWith (.mma i) s 0x3081 ∧ ∃ t, exec (.mma i) s = .next t ∧ sameUnits s t) ∧
  (∀ (s : State) (i : TileIns) (task : WinTask), unitRuns s i 0x11 task →
    let k := i.tile.val
    let p := mvmProd (dClass task.desc) (tileS s k).gtag i.word
    (mvmOk p i.word = false ∨ operandsOk s k p = false) →
    faultsWith (.mvm i) s 0x3081 ∧ ∃ t, exec (.mvm i) s = .next t ∧ sameUnits s t)

/-- R210, R211: `ZERO` leaves +0 in every row it names and clears their pair bits; `LOAD` copies rows of the scratchpad into a
bank; `DRAIN` copies rows of a bank to the scratchpad, or hands them to the compressor and writes no byte. In fast mode −0 is
written as +0 (R189).
Rests also on the model's choices of log 46. -/
def Obligations.BankRowsMove : Prop :=
  (∀ (s : State) (i : TileIns) (task : WinTask), unitRuns s i 0x32 task →
    let k := i.tile.val
    let b := bankIns i.word
    bankOk s k b i.word = true →
    ∃ t, exec (.zero i) s = .next t ∧
      (∀ r, r < b.rows → load t (bankAddr k b.bank (b.row0 + r) b.col0) (4 * b.cols) = List.replicate (4 * b.cols) 0 ∧
        pairBit (tileS t k) b.bank (b.row0 + r) = false) ∧
      sameMemBut (bankAddr k b.bank b.row0 0) (512 * b.rows) s t ∧ onlyTile k s t ∧ t.sched = s.sched) ∧
  (∀ (s : State) (i : TileIns) (task : WinTask), unitRuns s i 0x31 task →
    let k := i.tile.val
    let b := bankIns i.word
    let src := fun (base r : Nat) => wordBytes (plusZero s k (loadWords s (tileBase k + base + 4 * b.cols * r) b.cols)).2
    bankOk s k b i.word = true →
    ∃ t, exec (.load i) s = .next t ∧
      (∀ r, r < b.rows → load t (bankAddr k b.bank (b.row0 + r) b.col0) (4 * b.cols) = src b.addr r ∧
        (b.pairSum = true → load t (bankAddr k (1 - b.bank) (b.row0 + r) b.col0) (4 * b.cols) = src (b.addr + 512 * b.rows) r) ∧
        pairBit (tileS t k) b.bank (b.row0 + r) = b.pairSum) ∧
      sameMemBut (tileBase k + bankBase 0) 0x20000 s t ∧ onlyTile k s t ∧ t.sched = s.sched) ∧
  (∀ (s : State) (i : TileIns) (task : WinTask), unitRuns s i 0x30 task →
    let k := i.tile.val
    let b := bankIns i.word
    let row := fun (r : Nat) => (plusZero s k
      (if b.pairSum then List.zipWith (fun x e => (f32add (strictMode s) x e).w) (bankRow s k b.bank (b.row0 + r) b.col0 b.cols)
          (bankRow s k (1 - b.bank) (b.row0 + r) b.col0 b.cols)
        else bankRow s k b.bank (b.row0 + r) b.col0 b.cols)).2
    bankOk s k b i.word = true → (tileS s k).owed = [] →
    ∃ t, exec (.drain i) s = .next t ∧ onlyTile k s t ∧ t.sched = s.sched ∧
      (b.toCmp = true → (tileS t k).rows = some ((List.range b.rows).map row) ∧ sameMem s t) ∧
      (b.toCmp = false → (pairRegion s k b = false ∨ b.pairSum = true) →
        (∀ r, r < b.rows → load t (tileBase k + b.addr + 4 * b.cols * r) (4 * b.cols) = wordBytes (row r)) ∧
        sameMemBut (tileBase k + b.addr) (4 * b.cols * b.rows) s t))

/-- R171, R173: once the array has been idle for its time the louvre closes, as far as the bands that are still open; 0 is closed, and a
closed louvre stays so. With `LOUVRE_EN` 0 it stays open with all eight. Below wicket service nothing happens. -/
def Obligations.LouvreCloses : Prop :=
  ∀ (s : State) (k : Fin 96) (bands : Fin 9),
    (2 ≤ power s → fld s MXA_CFG_LOUVRE_EN k.val = 1 → fld s MXA_STATUS_LOUVRE k.val ≠ 0 → ∃ t, exec (.louvreClose ⟨k, bands⟩) s = .next t ∧
      fld t MXA_STATUS_LOUVRE k.val = (if bands.val = 0 then 0 else 3) ∧ fld t MXA_STATUS_BANDS_OPEN k.val = bands.val ∧
      sameUnits s t ∧ sameRegs [MXA_STATUS.at k.val 0] s t) ∧
    (2 ≤ power s → fld s MXA_CFG_LOUVRE_EN k.val = 1 → fld s MXA_STATUS_LOUVRE k.val = 0 → ∃ t, exec (.louvreClose ⟨k, bands⟩) s = .next t ∧
      sameUnits s t ∧ sameRegs [] s t) ∧
    (2 ≤ power s → fld s MXA_CFG_LOUVRE_EN k.val = 0 → ∃ t, exec (.louvreClose ⟨k, bands⟩) s = .next t ∧
      fld t MXA_STATUS_LOUVRE k.val = 2 ∧ fld t MXA_STATUS_BANDS_OPEN k.val = 8 ∧
      fld t MXA_EVT_OPENS k.val = (if fld s MXA_STATUS_LOUVRE k.val = 2 then fld s MXA_EVT_OPENS k.val
        else satAdd 32 (fld s MXA_EVT_OPENS k.val) 1) ∧
      sameUnits s t ∧ sameRegs [MXA_STATUS.at k.val 0, MXA_EVT.at k.val 0] s t) ∧
    (power s < 2 → ∃ t, exec (.louvreClose ⟨k, bands⟩) s = .next t ∧ sameUnits s t ∧ sameRegs [] s t)

/-- R183 to R187, R194 to R196: a `CVT` that is no gradient conversion, or whose target is FP32, writes the copies that its word
asks for under T, and nothing else; a gradient conversion that does not overflow writes its copies and its replay record,
and one that overflows writes no byte and waits for its next attempt.
Rests also on the model's choices of logs 51 and 53. -/
def Obligations.ConversionsWriteTheirCopies : Prop :=
  ∀ (s : State) (i : TileIns) (task : WinTask), unitRuns s i 0x21 task →
    let k := i.tile.val
    let v := vfuIns i.word
    let l := dLayer task.desc
    (tileS s k).attempt = none → cvtOk s l i.word = true →
    ((v.grad = false ∨ v.fout = 10) →
      let tt : Int := if v.grad then -(signed 8 (fld s PANE_GFC_T 0 l) - 12) else v.t
      ∃ t, exec (.cvt i) s = .next t ∧ t.mem = (putCopies s k v v.fout (cvtCopies s k task v v.fout tt)).mem ∧
        onlyTile k s t ∧ t.stash = s.stash ∧ t.sched = s.sched) ∧
    (v.grad = true → v.fout ≠ 10 → bitOf 8 (fld s DRT_STATUS_ARMED) = false →
      let fmt := cvtFmt s l true v.fout
      let tt := signed 8 (fld s PANE_GFC_T 0 l)
      let o := copiesConv (cvtCopies s k task v fmt tt)
      ∃ t, exec (.cvt i) s = .next t ∧ onlyTile k s t ∧ t.stash = s.stash ∧
        (o.sat = 0 → o.toInf = 0 → (tileS t k).attempt = none ∧
          t.mem = (tstore (putCopies s k v fmt (cvtCopies s k task v fmt tt)) k (v.dst - 32)
            (replayRecord s task l fmt tt 0)).mem) ∧
        ((o.sat ≠ 0 ∨ o.toInf ≠ 0) → sameMem s t ∧ (tileS t k).attempt = some ⟨i.index, i.word, i.env, 1, 0⟩))

/-- R221 to R224, R149: an overflow replay runs the conversion again with T lower by 4 for each attempt before it; it is kept where it
does not overflow or is the third replay, and else waits for the next. Each replay is counted and recorded. One that meets an
uncorrectable word faults the job and writes nothing.
Rests also on the model's choices of log 58. -/
def Obligations.OverflowReplayLowersScale : Prop :=
  (∀ (s : State) (k : Fin 96) (task : WinTask) (a : Attempt),
    (tileS s k.val).attempt = some a → (site s k.val).run = some task → jobLive s = true → insOp a.word = 0x21 →
    a.forced = 0 →
    let v := vfuIns a.word
    let fmt := cvtFmt s (dLayer task.desc) true v.fout
    let tt := signed 8 (fld s PANE_GFC_T 0 (dLayer task.desc)) - 4 * (a.tries : Int)
    let o := copiesConv (cvtCopies s k.val task v fmt tt)
    ∃ t, exec (.ovfReplay ⟨k, {}⟩) s = .next t ∧ onlyTile k.val s t ∧ t.stash = s.stash ∧
      fld t ACC_EVT_REPLAYS k.val = satAdd 32 (fld s ACC_EVT_REPLAYS k.val) 1 ∧
      (((o.sat = 0 ∧ o.toInf = 0) ∨ 3 ≤ a.tries) → (tileS t k.val).attempt = none ∧
        t.mem = (tstore (putCopies s k.val v fmt (cvtCopies s k.val task v fmt tt)) k.val (v.dst - 32)
          (replayRecord s task (dLayer task.desc) fmt tt a.tries)).mem) ∧
      ((o.sat ≠ 0 ∨ o.toInf ≠ 0) → a.tries < 3 →
        sameMem s t ∧ (tileS t k.val).attempt = some ⟨a.index, a.word, a.env, a.tries + 1, 0⟩)) ∧
  (∀ (s : State) (k : Fin 96) (task : WinTask) (a : Attempt) (e : TileEnv) (x : Nat),
    (tileS s k.val).attempt = some a → (site s k.val).run = some task → jobLive s = true → (x, Ecc.uncorrectable) ∈ e.sram →
    faultsWith (.ovfReplay ⟨k, e⟩) s 0x3080 ∧ ∃ t, exec (.ovfReplay ⟨k, e⟩) s = .next t ∧ sameUnits s t) ∧
  (∀ (s : State) (k : Fin 96) (e : TileEnv), (tileS s k.val).attempt = none →
    ∃ t, exec (.ovfReplay ⟨k, e⟩) s = .next t ∧ sameUnits s t ∧ sameRegs [] s t)

/-- R308, R302: an `RNG` in order writes the words, mask bits or uniform numbers of its stream's coordinates at its destination and
no other byte. R259: a `GTAG` whose record is of this step and layer puts it in force; another record faults the job. -/
def Obligations.RandomWordsAndGradientTags : Prop :=
  (∀ (s : State) (i : TileIns) (task : WinTask), unitRuns s i 0x23 task → (tileS s i.tile.val).attempt = none →
    rngOk i.word = true →
    let r := rngIns i.word
    let bs := rngData r (rngWords s task r)
    ∃ t, exec (.rng i) s = .next t ∧ load t (tileBase i.tile.val + r.dst) bs.length = bs ∧
      sameMemBut (tileBase i.tile.val + r.dst) bs.length s t ∧ onlyTile i.tile.val s t ∧ t.stash = s.stash ∧ t.sched = s.sched) ∧
  (∀ (s : State) (i : TileIns) (task : WinTask), unitRuns s i 0x22 task → gtagOk i.word = true →
    let r := leNat (tload s i.tile.val (bitsOf 64 23 i.word.toNat) 16)
    (bitsOf 64 64 r = task.pass → bitsOf 24 8 r = dLayer task.desc →
      ∃ t, exec (.gtag i) s = .next t ∧ (tileS t i.tile.val).gtag = some (r % 2 ^ 64) ∧ sameMem s t ∧ sameRegs [] s t ∧
        onlyTile i.tile.val s t ∧ t.sched = s.sched) ∧
    ((bitsOf 64 64 r ≠ task.pass ∨ bitsOf 24 8 r ≠ dLayer task.desc) →
      faultsWith (.gtag i) s 0x4881 ∧ ∃ t, exec (.gtag i) s = .next t ∧ sameUnits s t ∧ sameRegs [PANE_BWD_FAULT.at 0 0] s t))

/-- R233 to R236: a `CMP` in order, with nothing owed in its source, writes the panel that its rows form, its blocks, scales and
map entry, where the panel has room for its blocks, and else faults the job and writes nothing.
Rests also on the model's choices of logs 54 and 55. -/
def Obligations.CompressorWritesPanels : Prop :=
  ∀ (s : State) (i : TileIns) (task : WinTask), unitRuns s i 0x40 task →
    let k := i.tile.val
    let c := cmpIns i.word
    let p := cmpPanel s k task c c.fmt c.t 0
    (tileS s k).attempt = none → cmpOk s (dLayer task.desc) i.word = true →
    (c.fromDrain = true → (tileS s k).rows.isSome = true) → c.grad = false → owedMask s k c = 0 →
    (popCount p.present ≤ c.cap → ∃ t, exec (.cmp i) s = .next t ∧
      t.mem = (putPanel s p c.cap (tileBase k + c.map) (tileBase k + c.dstScale) (tileBase k + c.dst) 0).mem ∧
      loadNat t (tileBase k + c.map) 32 = mapEntry p.present (p.nf &&& (2 ^ 64 - 1)) 0 p.fmt p.saxis c.cap % 2 ^ 256 ∧
      (c.fromDrain = true → (tileS t k).rows = none) ∧ onlyTile k s t ∧ t.stash = s.stash ∧ t.sched = s.sched) ∧
    (c.cap < popCount p.present → faultsWith (.cmp i) s 0x4080 ∧
      ∃ t, exec (.cmp i) s = .next t ∧ sameUnits s t ∧ sameRegs [SPX_FAULT.at k 0] s t)

/-- R175, R242, R243: a `SPLIT` of a task within its budget of block steps changes nothing but the task's place in its list; of a task
beyond it, the first piece is in hand and the others wait at the site behind the pieces before them, in order.
Rests also on the model's choices of log 56. -/
def Obligations.SplitQueuesPieces : Prop :=
  ∀ (s : State) (i : TileIns) (task : WinTask), unitRuns s i 0x41 task →
    let k := i.tile.val
    let items := taskItems s task
    let budget := bitsOf 16 16 i.word.toNat
    splitOk items i.index i.word = true → task.items = none →
    (sumOf (items.map (stepsOf s k (dClass task.desc))) ≤ budget →
      ∃ t, exec (.split i) s = .next t ∧ (tileS t k) = { tileS s k with place := i.index + 1 } ∧ sameMem s t ∧ onlyTile k s t ∧
        t.stash = s.stash ∧ sameRegs [] s t ∧ t.sched = s.sched) ∧
    (∀ first rest, budget < sumOf (items.map (stepsOf s k (dClass task.desc))) →
      ((items.foldl (cutItem s k (dClass task.desc) budget) ⟨[], [], 0⟩).close).done = first :: rest →
      ∃ t, exec (.split i) s = .next t ∧
        (site t k).run = some { task with items := some first, lastPiece := rest.length == 0 } ∧
        (site t k).pieces.map (fun u => u.items) = (site s k).pieces.map (fun u => u.items) ++ rest.map some ∧
        (site t k).window = (site s k).window ∧ (∀ j, j ≠ k → site t j = site s j) ∧
        (tileS t k) = { tileS s k with place := i.index + 1 } ∧ sameMem s t ∧ onlyTile k s t ∧ t.stash = s.stash ∧
        sameRegs [SPX_EVT.at k 0] s t)

/-- R229, R232, R270, R271, R273: a `STASH` whose panels may be read keeps them in transport form: in its tile's stash area where a run of
lines is free there, else spilled to the `STASH` region, where they count for their micro-batch. A `REFILL` rebuilds the record
with its key at its address, so that its areas gather to the record again; one without such a record, and a `STASH` that meets
a panel with an invalid map, fault the job.
Rests also on the model's choices of logs 47 and 48. -/
def Obligations.StashKeepsRecords : Prop :=
  (∀ (s : State) (i : TileIns) (task : WinTask) (bs : List Byte), unitRuns s i 0x50 task → stashOk i.word = true →
    let k := i.tile.val
    let x := stashIns i.word
    let n := (x.bytes + 127) / 128
    gatherPanels s x.bytes (x.bytes / 32 + 1) (tileBase k + x.addr) [] = (bs, none) →
    runStarts (fld s TILE_STASH_BANKS k * 2048) n (usedLines s false k) ≠ [] →
    fld s TILE_STASH_BASE_BANK k + fld s TILE_STASH_BANKS k ≤ 32 →
    ∃ t, exec (.stash i) s = .next t ∧
      (∃ r ∈ t.stash.recs, keyIs task x r = true ∧ r.spilled = false ∧ r.tile = k ∧ r.bytes = x.bytes ∧ r.lines.length = n ∧
        r.last = x.last ∧ ((recAddrs t r).flatMap (fun a => load t a 128)).take bs.length = bs) ∧
      (∀ r ∈ s.stash.recs, keyIs task x r = false → r ∈ t.stash.recs) ∧ sameMemBut (tileBase k) 0x1000000 s t ∧
      (∀ j, j ≠ k → tileS t j = tileS s j) ∧ sameBases s t ∧ sameNets s t ∧ t.sched = s.sched) ∧
  (∀ (s : State) (i : TileIns) (task : WinTask) (bs : List Byte) (base size : Nat), unitRuns s i 0x50 task → stashOk i.word = true →
    let k := i.tile.val
    let x := stashIns i.word
    let n := (bs.length + 127) / 128
    let key := mbKey task.pass (dMb task.desc)
    gatherPanels s x.bytes (x.bytes / 32 + 1) (tileBase k + x.addr) [] = (bs, none) →
    runStarts (fld s TILE_STASH_BANKS k * 2048) ((x.bytes + 127) / 128) (usedLines s false k) = [] →
    region s 2 0 = some (base, size) → runStarts (size / 128) n (usedLines s true 0) ≠ [] →
    kGetD s.stash.spilled key 0 + bs.length ≤ stashBound s → s.bad = [] → s.weak = [] →
    ∃ t, exec (.stash i) s = .next t ∧
      (∃ r ∈ t.stash.recs, keyIs task x r = true ∧ r.spilled = true ∧ r.lines.length = n ∧
        ((recAddrs t r).flatMap (fun a => load t a 128)).take bs.length = bs) ∧
      kGetD t.stash.spilled key 0 = kGetD s.stash.spilled key 0 + bs.length ∧ sameMemBut base size s t ∧
      fld t PANE_BWD_EVT_SPILLS = satAdd 32 (fld s PANE_BWD_EVT_SPILLS) 1 ∧
      (∀ j, j ≠ k → tileS t j = tileS s j) ∧ sameBases s t ∧ sameNets s t ∧ t.sched = s.sched) ∧
  (∀ (s : State) (i : TileIns) (task : WinTask) (bs : List Byte) (m r : Nat), unitRuns s i 0x50 task → stashOk i.word = true →
    (let x := stashIns i.word
     gatherPanels s x.bytes (x.bytes / 32 + 1) (tileBase i.tile.val + x.addr) [] = (bs, some (m, r))) →
    faultsWith (.stash i) s 0x4081 ∧ ∃ t, exec (.stash i) s = .next t ∧ sameUnits s t ∧ sameRegs [SPX_FAULT.at i.tile.val 0] s t) ∧
  (∀ (s : State) (i : TileIns) (task : WinTask) (r : StashRec), unitRuns s i 0x51 task → stashOk i.word = true →
    s.stash.recs.find? (keyIs task (stashIns i.word)) = some r → (r.spilled = true → s.bad = [] ∧ s.weak = []) →
    let a := tileBase i.tile.val + (stashIns i.word).addr
    let bs := ((recAddrs s r).flatMap (fun a => load s a 128)).take r.bytes
    let m := leNat (bs.take 32)
    bs.length = r.bytes → r.bytes = transportBytes m → mapReason m (mapFmt m) = none → laidEnd m a ≤ tileBase i.tile.val + spadBytes →
    ∃ t, exec (.refill i) s = .next t ∧ gatherPanel t a = bs ∧ sameMemBut a (laidEnd m a - a) s t ∧
      (∀ j, j ≠ i.tile.val → tileS t j = tileS s j) ∧ t.stash = s.stash ∧ sameBases s t ∧ sameNets s t ∧ sameRegs [] s t) ∧
  (∀ (s : State) (i : TileIns) (task : WinTask), unitRuns s i 0x51 task → stashOk i.word = true →
    s.stash.recs.find? (keyIs task (stashIns i.word)) = none →
    faultsWith (.refill i) s 0x4882 ∧ ∃ t, exec (.refill i) s = .next t ∧ sameUnits s t ∧
      sameRegs [PANE_BWD_FAULT.at 0 0] s t)

/-! The commit (12) and the replacement of tables (05). -/

/-- R265, R282, R283, R286, R287, R289: once the step's work is done its summary is taken and, with no other part to vote, voted on; before
that nothing happens. Of the outcome taken when the last vote has come, `COMMIT` begins the two phases; `SKIP` discards the
step's deltas and flags, and what came early for the next run is staged for it; `HALT` ends in the job state `HALTED`, or in a
fault; `RESCALE` lowers λ to no less than its least value and begins the step again.
Rests also on the model's choices of logs 62, 77 and 124. -/
def Obligations.CommitIsVotedAndDecided : Prop :=
  ((∀ s : State, commitReady s = true → votes s = [] → s.job.extra.parts.length ≤ 1 →
    ∃ t, exec .commitDue s = .next t ∧ t.step = { s.step with
      localNf := partNf s, voted := true, voteDone := true, jobNf := partNf s } ∧
      fld t PANE_COMMIT_STATUS_LOCAL_NF = b2n (partNf s) ∧ fld t PANE_COMMIT_STATUS_PHASE = 1 ∧ sameMem s t ∧ sameTiles s t ∧
      sameBases s t ∧ sameNets s t ∧ sameRegs [PANE_COMMIT_STATUS.at 0 0] s t) ∧
  (∀ s : State, commitReady s = false → ∃ t, exec .commitDue s = .next t ∧ sameUnits s t ∧ sameRegs [] s t)) ∧
  (∀ s : State, running s = true → s.step.voted = true → s.step.voteDone = true → fld s PANE_COMMIT_STATUS_PHASE = 1 →
    (decided s = 1 → s.bad = [] → s.weak = [] → ∃ t, exec .commitOutcome s = .next t ∧ t.step.outcome = 1 ∧ t.step.endPane = pane s ∧
      t.commit.digest = (commitDigest s).2 ∧ fld t PANE_COMMIT_STATUS_PHASE = 2 ∧
      fld t PANE_COMMIT_STATUS_JOB_NF = b2n s.step.jobNf ∧ sameMem s t ∧ sameBases s t ∧ sameTiles s t) ∧
    (decided s = 2 → ∃ t, exec .commitOutcome s = .next t ∧ t.step.outcome = 2 ∧ t.step.endPane = pane s ∧
      fld t PANE_COMMIT_STATUS_PHASE = 2 ∧ (∀ k, (emb t k).deltas = [] ∧ (emb t k).issued = [] ∧
        (emb t k).staged = (emb s k).early.filter (fun c => !c.marker)) ∧
      (∀ k, k < 96 → (tileS t k).plainFlags = 0 ∧ regNat t FMT_FLAGS k = 0 ∧ regNat t ACC_FLAGS k = 0) ∧ sameMem s t) ∧
    (decided s = 3 → ∃ t, exec .commitOutcome s = .next t ∧ (jobState t = 4 ∨
      (jobState t = 3 ∧ t.step.outcome = 3 ∧ t.step.replay = none ∧ fld t PANE_COMMIT_STATUS_LAST_OUTCOME = 3))) ∧
    (decided s = 4 → s.bad = [] → s.weak = [] → ∃ t, exec .commitOutcome s = .next t ∧ t.step.current = s.step.current ∧ t.step.voted = false ∧
      t.step.outcome = 0 ∧ t.step.open_ = true ∧ t.commit.reruns = s.commit.reruns + 1 ∧
      fld t PANE_COMMIT_LAMBDA_LAMBDA =
        unsigned 8 (max (lambda s - (bitsOf 8 4 s.step.pol.cfg : Nat)) (signed 8 s.step.pol.lamMin)) ∧
      fld t PANE_COMMIT_RAISE_CLEAN = 0 ∧ fld t PANE_COMMIT_STATUS_PHASE = 4 ∧ (∀ k, (emb t k).deltas = []) ∧ sameMem s t))

/-- R278, R279 to R281, R284, R285: the dense phase reads the descriptor of a trainable tensor from the job image and writes the tensor's
new version into the other sash: every master is the optimiser's result for its element, and nothing outside that version
changes. A tensor whose descriptor fails its checks faults the job. While a reference holds the other sash nothing happens.
Rests also on the model's choices of logs 60, 76 and 126. -/
def Obligations.DensePhaseWritesOtherSash : Prop :=
  (∀ (s : State) (i : Nat) (y : Tensor), running s = true → committing s = true → s.step.denseDone = false → sashHeld s = false →
    denseWork s = [(i, y)] → s.bad = [] → s.weak = [] →
    let x := tensorOf (loadNat s (s.job.addr + y.off) 64) ⟨y.off, y.owners, y.hyper, []⟩
    let bytes := denseImage s x (sashNow s x)
    (tensorOk s i x = true →
      ∃ t, exec .densePhase s = .next t ∧ load t (sashNext s x) bytes.length = bytes ∧
        sameMemBut (sashNext s x) bytes.length s t ∧
        (∀ r c, r < x.k → c < x.n → loadW t (sashNext s x + 4 * (r * x.n + c)) =
          (commitElem s x (denseHyper s x.tensor) (denseBias s x (sashNow s x)) (sashNow s x) r c).w) ∧
        t.step.denseDone = true ∧ t.step.endPane = pane s ∧ fld t PANE_COMMIT_STATUS_UNDO_VALID = 0 ∧ sameBases s t ∧
        sameNets s t) ∧
    (tensorOk s i x = false →
      faultsWith .densePhase s 0x4884 ∧ ∃ t, exec .densePhase s = .next t ∧ sameMem s t ∧ sameTiles s t ∧
        (fld s PANE_COMMIT_FAULT_VALID = 0 → fld t PANE_COMMIT_FAULT_TENSOR = y.tensor % 2 ^ PANE_COMMIT_FAULT_TENSOR.bits))) ∧
  (∀ s : State, (running s = false ∨ committing s = false ∨ s.step.denseDone = true ∨ sashHeld s = true) →
    ∃ t, exec .densePhase s = .next t ∧ sameUnits s t ∧ sameRegs [] s t)

/-- R128, R284: the embedding phase ends at every stack that has its migrations behind it and its tables not yet applied, unless it
faults the job; with no such stack nothing happens. R125: a row without a gradient, keeping its class, has its popularity
lowered by the decay, and no other byte changes.
Rests also on the model's choices of log 61. -/
def Obligations.EmbeddingPhaseAppliesStacks : Prop :=
  (∀ s : State, running s = true → committing s = true →
    (∃ k, k < 8 ∧ k ∉ s.step.embDone ∧ (emb s k).migrList = [] ∧ (emb s k).migrs = []) →
    ∃ t, exec .embeddingPhase s = .next t ∧ (jobState t = 4 ∨
      ∀ k, k < 8 → (emb s k).migrList = [] → (emb s k).migrs = [] → k ∈ t.step.embDone)) ∧
  (∀ s : State, running s = true → committing s = true → (∀ k, k < 8 → liveTables s k = []) →
    (∃ k, k < 8 ∧ k ∉ s.step.embDone ∧ (emb s k).migrList = [] ∧ (emb s k).migrs = []) →
    ∃ t, exec .embeddingPhase s = .next t ∧ sameMem s t ∧ t.step.endPane = pane s ∧
      (∀ k, k < 8 → (emb s k).migrList = [] → (emb s k).migrs = [] → k ∈ t.step.embDone)) ∧
  (∀ s : State, (running s = false ∨ committing s = false ∨
      ∀ k, k < 8 → k ∈ s.step.embDone ∨ (emb s k).migrList ≠ [] ∨ (emb s k).migrs ≠ []) →
    ∃ t, exec .embeddingPhase s = .next t ∧ sameUnits s t ∧ sameRegs [] s t) ∧
  (∀ (s : State) (k tb row : Nat), faulted s = false → s.bad = [] → s.weak = [] → tdFixed (tdesc s k tb) = false →
    let a := mapAddr (tdesc s k tb) row
    let e := loadNat s a 8
    rmOk (tdesc s k tb) e = true → kGet? (emb s k).deltas (placeKey tb (rmClass e) (rmSlot e)) = none →
    let t := embRow [] k tb s row
    loadNat t a 8 = rowMap (rmClass e) (rmSlot e) (rmPop e - rmPop e / 2 ^ fld s EMB_CFG_DECAY k) true (rmMigr e) % 2 ^ 64 ∧
      sameMemBut a 8 s t)

/-- R284, R286, R288, R292: the mullion that ends a commit. Unless a fault stops the job, the step counts as committed, is no
longer open, and its delta log is empty; after `COMMIT` the version in force is the next one, after `SKIP` the same; the
index region's status holds the step. No fault comes where memory is sound, the step's record lies in its region and no
token of role 1 is full. A flag that the step's `COMMIT` work raised faults the job. -/
def Obligations.CommitEndsStep : Prop :=
  ∀ s : State, running s = true → s.step.open_ = true → s.step.endPane < pane s → fld s PANE_COMMIT_STATUS_PHASE = 2 →
    s.step.again = none → s.jobEnd.stopMode = none → enginesIdle s →
    let sound := s.bad = [] ∧ s.weak = [] ∧
      (∀ a, recordAt s s.step.current = some a → pastRegion s 5 0 (a + 0x0E) 0x1A = false) ∧
      ∀ e ∈ s.sched.tokens, e.2.role = 1 → e.2.count + s.sched.tokens.length < 65535
    (s.step.outcome = 2 → ∃ t, exec .commitEnd s = .next t ∧ (jobState t = 4 ∨ stepEnded s t 2)) ∧
    (s.step.outcome = 2 → sound → ∃ t, exec .commitEnd s = .next t ∧ stepEnded s t 2 ∧ jobState t = jobState s ∧
      fld t PANE_COMMIT_RAISE_CLEAN = 0) ∧
    (s.step.outcome = 1 → s.step.denseDone = true → (∀ k, k < 8 → k ∈ s.step.embDone) →
      tasksLeft s s.step.current (fun d => dClass d == 0) = false → flaggedTensor s = none →
      ∃ t, exec .commitEnd s = .next t ∧ (jobState t = 4 ∨ stepEnded s t 1)) ∧
    (s.step.outcome = 1 → s.step.denseDone = true → (∀ k, k < 8 → k ∈ s.step.embDone) →
      tasksLeft s s.step.current (fun d => dClass d == 0) = false → flaggedTensor s = none → sound →
      ∃ t, exec .commitEnd s = .next t ∧ stepEnded s t 1 ∧ jobState t = jobState s) ∧
    (∀ x, s.step.outcome = 1 → s.step.denseDone = true → (∀ k, k < 8 → k ∈ s.step.embDone) →
      tasksLeft s s.step.current (fun d => dClass d == 0) = false → flaggedTensor s = some x →
      faultsWith .commitEnd s 0x4883 ∧ ∃ t, exec .commitEnd s = .next t ∧ sameUnits s t ∧
        sameRegs [PANE_COMMIT_FAULT.at 0 0] s t)

/-- R137, R138: at its mullion the pending flip exchanges, on all eight stacks, the live and the shadow descriptors of the tables
it names and of no others, and is no longer pending. R139: at the mullion after the flip pane the old versions are released
and counted.
Rests also on the model's choices of log 78. -/
def Obligations.TablesFlipAndRelease : Prop :=
  (∀ s : State, (running s = true ∨ jobState s = 3) → fld s EMB_FLIP_PENDING = 1 → s.step.open_ = false →
    fld s EMB_FLIP_STEP = nextStep s.step.committedStep → enginesIdle s →
    ∃ t, exec .hingeFlip s = .next t ∧
      (∀ k tb, k < 8 → tb < 64 →
        (bitOf tb (fld s EMB_FLIP_TABLES) = true →
          regNat t EMB_TDESC k tb = regNat s EMB_SDESC k tb ∧ regNat t EMB_SDESC k tb = regNat s EMB_TDESC k tb) ∧
        (bitOf tb (fld s EMB_FLIP_TABLES) = false →
          regNat t EMB_TDESC k tb = regNat s EMB_TDESC k tb ∧ regNat t EMB_SDESC k tb = regNat s EMB_SDESC k tb)) ∧
      (∀ k, k < 8 → fld t EMB_FLIP_PENDING k = 0 ∧ (emb t k).flipPane = pane s) ∧
      fld t PANE_COMMIT_STATUS_UNDO_VALID = 0 ∧ sameMem s t ∧ sameTiles s t ∧ sameNets s t ∧ t.step = s.step) ∧
  (∀ s : State, (fld s EMB_FLIP_PENDING = 0 ∨ s.step.open_ = true ∨ fld s EMB_FLIP_STEP ≠ nextStep s.step.committedStep) →
    ∃ t, exec .hingeFlip s = .next t ∧ sameUnits s t ∧ sameRegs [] s t) ∧
  (∀ (s : State) (k : Nat), k < 8 → (emb s k).oldLive ≠ [] → (emb s k).flipPane < pane s →
    ∃ t, exec .tableReleased s = .next t ∧ (emb t k).oldLive = [] ∧
      fld t EMB_STATUS_RELEASED k = satAdd 16 (fld s EMB_STATUS_RELEASED k) (emb s k).oldLive.length ∧ sameMem s t ∧
      sameTiles s t ∧ sameNets s t ∧ t.step = s.step) ∧
  (∀ s : State, (∀ k, k < 8 → (emb s k).oldLive = [] ∨ pane s ≤ (emb s k).flipPane) →
    ∃ t, exec .tableReleased s = .next t ∧ sameUnits s t ∧ sameRegs [] s t)

/-! The Sirben fabric (14). -/

/-- R313, R318, R324, R326: a training that leaves enough lanes brings its port up, with its width, its peer and an empty state; one
that does not leaves the port down. A notice, the loss of FEC lock or the want of good flits takes an up port down: no route
names it, its whole messages wait to be routed again, and the fall is counted. A port that is down stays as it is. -/
def Obligations.PortsComeUpAndGoDown : Prop :=
  (∀ (s : State) (p : Fin 10) (ok : BitVec 8) (pp : Fin 16) (pq : Fin 10),
    fld s SBN_PORT_TRAINING 0 p.val = 1 → fld s SBN_CFG_EN = 1 →
    ∃ t, exec (.linkUp p ok pp pq) s = .next t ∧ onlyFabric s t ∧ fld t SBN_PORT_TRAINING 0 p.val = 0 ∧
      (minLanes s ≤ trainedLanes ok.toNat → fld t SBN_PORT_UP 0 p.val = 1 ∧ fld t SBN_PORT_PEER_PART 0 p.val = pp.val ∧
        fld t SBN_PORT_PEER_PORT 0 p.val = pq.val ∧ port t p.val = { returnAt := true } ∧
        fld t SBN_PORT_LANES 0 p.val = (if trainedLanes ok.toNat = 8 then 3 else if trainedLanes ok.toNat = 4 then 2 else 1)) ∧
      (trainedLanes ok.toNat < minLanes s → fld t SBN_PORT_UP 0 p.val = fld s SBN_PORT_UP 0 p.val ∧ t.sbn = s.sbn)) ∧
  (∀ (s : State) (p : Fin 10) (c : Instr), c ∈ [Instr.linkDownNotice p, .fecLockLoss p, .noGoodFlitTimeout p] →
    (fld s SBN_PORT_UP 0 p.val = 1 → ∃ t, exec c s = .next t ∧ onlyFabric s t ∧ fld t SBN_PORT_UP 0 p.val = 0 ∧
      fld t SBN_PORT_LANES 0 p.val = 0 ∧ fld t SBN_PORT_DOWNS 0 p.val = satAdd SBN_PORT_DOWNS.bits (fld s SBN_PORT_DOWNS 0 p.val) 1 ∧
      fld t SBN_PORT_TRAINING 0 p.val = b2n (fld s SBN_CFG_AUTO_RETRAIN == 1 && fld s SBN_CFG_EN == 1) ∧ port t p.val = {} ∧
      t.sbn.reroute = s.sbn.reroute ++ ((port s p.val).outq.filter (fun e => e.2 == 0)).map (fun e => e.1) ∧
      (∀ n, n < 16 → bitOf p.val (fld t SBN_ROUTE_USABLE 0 n) = false) ∧ (∀ q, q ≠ p.val → port t q = port s q)) ∧
    (fld s SBN_PORT_UP 0 p.val = 0 → ∃ t, exec c s = .next t ∧ sameUnits s t ∧ sameRegs [] s t)) ∧
  (∀ s : State, ∃ t, exec (.sbnPortEnable true) s = .next t ∧ onlyFabric s t ∧ fld t SBN_CFG_EN = 1 ∧ t.sbn = s.sbn ∧
    ∀ p, p < 10 → fld t SBN_PORT_UP 0 p = fld s SBN_PORT_UP 0 p ∧
      (fld s SBN_PORT_UP 0 p = 0 → fld t SBN_PORT_TRAINING 0 p = 1)) ∧
  (∀ s : State, ∃ t, exec (.sbnPortEnable false) s = .next t ∧ onlyFabric s t ∧ fld t SBN_CFG_EN = 0 ∧
    ∀ p, p < 10 → fld t SBN_PORT_UP 0 p = 0 ∧ fld t SBN_PORT_TRAINING 0 p = 0)

/-- R314, R315, R317, R318: a bad flit is counted and answered with one `RETRY` flit that names the `LSEQ` expected; a good data flit in
`LSEQ` order that holds a whole message hands it on, to this part or to its next link; one out of order is ignored. A `RETRY`, or
the link's timer, resends the replay buffer, from the flit named or whole, flit for flit, and counts one replay; with the budget
of replays spent the port goes down. With nothing to resend nothing happens.
Rests also on the model's choices of logs 68 and 70. -/
def Obligations.FlitsArriveAndAreResent : Prop :=
  ((∀ (s : State) (p : Fin 10) (flit : List Byte) (bad : Bool) (n : Nat), fld s SBN_PORT_UP 0 p.val = 1 →
    (bad = true ∨ flitGood flit = false) →
    ∃ t hdr, exec (.flitReceive p flit ⟨bad, n⟩) s = .next t ∧ onlyFabric s t ∧ bitsOf 0 2 hdr = 2 ∧
      t.out = [.flit p.val (flitOf hdr (leBytes 1 1 ++ leBytes 2 (port s p.val).rxSeq))] ∧
      fld t SBN_PORT_CRC_ERR 0 p.val = satAdd SBN_PORT_CRC_ERR.bits (fld s SBN_PORT_CRC_ERR 0 p.val) 1 ∧
      (bad = true → fld t SBN_PORT_FEC_UNCORR 0 p.val = satAdd SBN_PORT_FEC_UNCORR.bits (fld s SBN_PORT_FEC_UNCORR 0 p.val) 1) ∧
      fld t SBN_PORT_FEC_CORR 0 p.val =
        satAdd SBN_PORT_FEC_CORR.bits (fld s SBN_PORT_FEC_CORR 0 p.val) ((kGetD s.sbn.fec p.val 0 + n) / 1024) ∧
      (port t p.val).rxSeq = (port s p.val).rxSeq ∧ t.sbn.arrived = s.sbn.arrived ∧ t.sbn.transit = s.sbn.transit) ∧
  (∀ (s : State) (p : Fin 10) (flit : List Byte),
    let hdr := leAt flit 0 5
    let m := decMsg (bitsOf 7 2 hdr) (bitsOf 2 3 hdr) (slice flit 8 248)
    fld s SBN_PORT_UP 0 p.val = 1 → fld s SBN_ID_VALID = 1 → flitGood flit = true → bitsOf 0 2 hdr = 0 →
    bitOf 5 hdr = true → bitOf 6 hdr = true → (port s p.val).outq = [] →
    ∃ t, exec (.flitReceive p flit ⟨false, 0⟩) s = .next t ∧ onlyFabric s t ∧
      (bitsOf 9 11 hdr = (port s p.val).rxSeq → (port t p.val).rxSeq = ((port s p.val).rxSeq + 1) % 2048 ∧
        (m.dst.val = partId s → t.sbn.arrived = s.sbn.arrived ++ [(p.val, m)] ∧ t.sbn.transit = s.sbn.transit) ∧
        (m.dst.val ≠ partId s → t.sbn.arrived = s.sbn.arrived ∧
          t.sbn.transit = s.sbn.transit ++ [(p.val, { m with hop := bitsOf 7 2 hdr + 1 })])) ∧
      (bitsOf 9 11 hdr ≠ (port s p.val).rxSeq → (port t p.val).rxSeq = (port s p.val).rxSeq ∧ t.sbn.arrived = s.sbn.arrived ∧
        t.sbn.transit = s.sbn.transit)) ∧
  (∀ (s : State) (p : Fin 10) (flit : List Byte) (bad : Bool) (n : Nat), fld s SBN_PORT_UP 0 p.val = 0 →
    ∃ t, exec (.flitReceive p flit ⟨bad, n⟩) s = .next t ∧ sameUnits s t ∧ sameRegs [] s t)) ∧
  (∀ (s : State) (p : Fin 10) (c : Instr) (l : List (Nat × Nat × List Byte)),
    ((c = .linkRetryTimeout p ∧ l = (port s p.val).replay) ∨
      ∃ lseq, c = .retry p lseq ∧ l = replayFrom (port s p.val).replay lseq) →
    fld s SBN_PORT_UP 0 p.val = 1 →
    (l ≠ [] → (port s p.val).resends + 1 < fld s SBN_LINK_RETRY_BUDGET →
      ∃ t, exec c s = .next t ∧ onlyFabric s t ∧ t.out.length = l.length ∧ (∀ e ∈ t.out, ∃ f, e = .flit p.val f) ∧
        fld t SBN_PORT_REPLAYS 0 p.val = satAdd SBN_PORT_REPLAYS.bits (fld s SBN_PORT_REPLAYS 0 p.val) 1 ∧
        (port t p.val).replay = (port s p.val).replay ∧ (port t p.val).resends = (port s p.val).resends + 1 ∧
        fld t SBN_PORT_UP 0 p.val = 1) ∧
    (l ≠ [] → fld s SBN_LINK_RETRY_BUDGET ≤ (port s p.val).resends + 1 →
      ∃ t, exec c s = .next t ∧ onlyFabric s t ∧ fld t SBN_PORT_UP 0 p.val = 0 ∧ port t p.val = {}) ∧
    (l = [] → ∃ t, exec c s = .next t ∧ sameUnits s t ∧ sameRegs [] s t))

/-- R322, R324, R325, R327, R329, R330, R333, R339: a message in transit leaves as one flit on the port its source and channel choose,
or is dropped and counted where no port is usable or it has crossed too many links; this part's own next message is kept until it
is acknowledged, and a request waits while there is no receive space for its whole response; a multicast queues one copy for each
destination that is not shuttered, in ascending part id, and its token waits for them all; a `READ` keeps where its data goes; an
expired connection resends everything unacknowledged, or, its budget spent, faults the job; the timer of
an `ACK` sends it.
Rests also on the model's choices of logs 65, 129 and 130. -/
def Obligations.TransportMovesMessages : Prop :=
  (∀ (s : State) (m : SbnMsg), fld s SBN_ID_VALID = 1 → m.dst.val ≠ partId s → (∀ e ∈ s.sbn.transit, e.2 ≠ m) →
    (3 < m.hop → ∃ t, exec (.messageForward ⟨some m, none⟩) s = .next t ∧ onlyFabric s t ∧ t.sbn = s.sbn ∧ t.out = [] ∧
      fld t SBN_EVT_HOP_LIMIT = satAdd SBN_EVT_HOP_LIMIT.bits (fld s SBN_EVT_HOP_LIMIT) 1) ∧
    (m.hop ≤ 3 → (fld s SBN_ROUTE_VALID 0 m.dst.val = 0 ∨ portCount (fld s SBN_ROUTE_USABLE 0 m.dst.val) = 0) →
      ∃ t, exec (.messageForward ⟨some m, none⟩) s = .next t ∧ onlyFabric s t ∧ t.sbn = s.sbn ∧ t.out = [] ∧
        fld t SBN_EVT_UNREACHABLE = satAdd SBN_EVT_UNREACHABLE.bits (fld s SBN_EVT_UNREACHABLE) 1) ∧
    (let set := fld s SBN_ROUTE_USABLE 0 m.dst.val
     let p := portOfRank set ((6 * m.src.val + chanOf m) % portCount set)
     m.hop ≤ 3 → chanOf m ≤ 5 → fld s SBN_ROUTE_VALID 0 m.dst.val = 1 → portCount set ≠ 0 → fld s SBN_PORT_UP 0 p = 1 →
     (port s p).outq = [] → (port s p).replay.length < 512 → kGetD (port s p).used (chanOf m * 4 + m.hop) 0 < creditLimit (chanOf m) m.hop →
     flitCount m = 1 → bitOf 5 (fld s DRT_STATUS_ARMED) = false →
     ∃ t hdr, exec (.messageForward ⟨some m, none⟩) s = .next t ∧ onlyFabric s t ∧
       t.out = [.flit p (flitOf hdr (slice (encMsg m) 0 248))] ∧ bitsOf 9 11 hdr = (port s p).txSeq % 2048 ∧
       (port t p).txSeq = ((port s p).txSeq + 1) % 2048 ∧ (port t p).outq = [] ∧
       (port t p).replay.length = (port s p).replay.length + 1)) ∧
  (∀ (s : State) (m : SbnMsg) (rest : List SbnMsg), fld s SBN_ID_VALID = 1 → s.sbn.reroute = [] → s.sbn.txq = m :: rest →
    mayStart s m = true → m.vc ≠ 5 →
    ∃ t, exec (.messageForward ⟨none, none⟩) s = .next t ∧ onlyFabric s t ∧ t.sbn.txq = rest ∧
      (txConn t m.dst.val m.vc).unacked = (txConn s m.dst.val m.vc).unacked ++ [{ m with ecrc := sbnCheck m }]) ∧
  (∀ (s : State) (m : SbnMsg) (rest : List SbnMsg), s.sbn.reroute = [] → s.sbn.txq = m :: rest → rest.all (fun x => x.vc == m.vc &&
      x.dst == m.dst) = true → m.vc ≠ 5 → hasSpace s m = false →
    ∃ t, exec (.messageForward ⟨none, none⟩) s = .next t ∧ sameUnits s t ∧ sameRegs [] s t) ∧
  (∀ (s : State) (x : Transfer), jobLive s = true →
    (x.mcast = true → (x.op = 0x01 ∨ x.op = 0x0B) →
      let live := (partsIn x.dsts).filter (fun p => !shuttered s p)
      let vc := if x.op = 0x01 then 3 else 0
      ∃ u copies, exec (.messageForward ⟨none, some x⟩) s = .next (finish s (forwardOwn u)) ∧ onlyFabric s u ∧
        u.sbn.txq = s.sbn.txq ++ copies ∧ copies.map (fun y => y.dst.val) = live ∧
        (∀ y ∈ copies, y.op = x.op ∧ y.vc = vc ∧ y.addr = x.addr ∧ y.data = x.data ∧ y.token = x.token ∧ y.mcast = true) ∧
        (live ≠ [] → (∀ c ∈ s.sbn.mcasts, c.waits ≠ []) → u.sbn.mcasts = s.sbn.mcasts ++
          [{ token := x.done, waits := live.map (fun p => (connKey p vc, (txConn s p vc).next)) }]) ∧
        (live = [] → (∀ c ∈ s.sbn.mcasts, c.waits ≠ []) → u.sbn.mcasts = s.sbn.mcasts ∧ tokenCounts s u x.done)) ∧
    (∀ (p : Nat) (l : List Nat), x.mcast = false → x.op = 0x02 → partsIn x.dsts = p :: l → shuttered s p = false →
      ∃ u y, exec (.messageForward ⟨none, some x⟩) s = .next (finish s (forwardOwn u)) ∧ onlyFabric s u ∧
        u.sbn.txq = s.sbn.txq ++ [y] ∧ y.op = 0x02 ∧ y.dst.val = p ∧ y.addr = x.addr ∧ y.arg = x.len ∧ y.token = x.token ∧
        u.sbn.reads = s.sbn.reads ++ [{ part := p, tag := y.tag, back := x.back, len := x.len }])) ∧
  (∀ (s : State) (src : Fin 16) (vc : Fin 6),
    ((rxConn s src.val vc.val).since ≠ 0 → shuttered s src.val = false → ∃ t, exec (.ackTimer src vc) s = .next t ∧
      onlyFabric s t ∧ (rxConn t src.val vc.val).since = 0 ∧
      (∃ a : SbnMsg, t.sbn.txq = s.sbn.txq ++ [a] ∧ a.op = 0x30 ∧ a.dst = src ∧ a.vc = 5 ∧ a.arg = vc.val ∧
        a.tseq = ((rxConn s src.val vc.val).expected + 2 ^ 32 - 1) % 2 ^ 32)) ∧
    ((rxConn s src.val vc.val).since = 0 → ∃ t, exec (.ackTimer src vc) s = .next t ∧ sameUnits s t ∧ sameRegs [] s t)) ∧
  (∀ (s : State) (dst : Fin 16) (vc : Fin 6), jobLive s = true → (txConn s dst.val vc.val).unacked ≠ [] →
    ((txConn s dst.val vc.val).expiries + 1 < fld s SBN_XPORT_BUDGET →
      ∃ t, exec (.transportRetx dst vc) s = .next t ∧ onlyFabric s t ∧
        (txConn t dst.val vc.val).expiries = (txConn s dst.val vc.val).expiries + 1 ∧
        (∀ m ∈ (txConn s dst.val vc.val).unacked, ∃ y ∈ t.sbn.reroute, y.tseq = m.tseq ∧ y.data = m.data ∧ y.retx = true)) ∧
    (fld s SBN_XPORT_BUDGET ≤ (txConn s dst.val vc.val).expiries + 1 →
      faultsWith (.transportRetx dst vc) s 0x6080 ∧ ∃ t, exec (.transportRetx dst vc) s = .next t ∧ onlyFabric s t))

/-- R2, R4, R327, R328, R331, R333, R334, R339: a message in turn has the effect of its operation, and its connection expects the
next; a `WRITE` puts its bytes in place and changes no other; a `READ` is answered with the bytes it names, and `READ_DATA` puts
them where the request said; a `TOKEN` and a `READ_DATA` count their token; a `DRAW` of a step not yet taken in waits. A message
with a wrong check, of another job, or on the management channel and no notice is dropped and counted. An `ACK` takes what it
acknowledges out of the connection, and raises the token of a multicast when it was the last awaited.
Rests also on the model's choices of logs 66, 67, 120 and 130. -/
def Obligations.MessagesHaveTheirEffect : Prop :=
  (∀ (s : State) (m : SbnMsg) (c : Instr), (c, m.op) ∈ messageCommands m → messageInTurn s m → (m.op = 0x09 → m.src.val ≠ partId s) →
    exec c s = .next (finish s (sbnSettle (deliver (fresh s) m)))) ∧
  (∀ (s : State) (m : SbnMsg), m.op = 0x09 → m.src.val = partId s → jobLive s = true →
    exec (.handdown m) s = .next (finish s (deliverHanddown m (fresh s)))) ∧
  (∀ (s : State) (m : SbnMsg), m.op = 0x01 → messageInTurn s m →
    (writeReach m.addr m.data.length = true → s.bad = [] → s.weak = [] →
      ∃ t, exec (.write m) s = .next t ∧ load t m.addr m.data.length = m.data ∧ sameMemBut m.addr m.data.length s t ∧
        sameTiles s t ∧ sameBases s t ∧ t.step = s.step ∧ tokenCounts s t m.token ∧
        (rxConn t m.src.val m.vc).expected = (m.tseq + 1) % 2 ^ 32) ∧
    (writeReach m.addr m.data.length = false →
      faultsWith (.write m) s 0x5083 ∧ ∃ t, exec (.write m) s = .next t ∧ sameMem s t)) ∧
  (∀ (s : State) (m : SbnMsg), m.op = 0x02 → messageInTurn s m → readReach m.addr m.arg = true → 1 ≤ m.arg → m.arg ≤ 7904 →
    s.bad = [] → s.weak = [] → m.found = {} → ∃ t, exec (.read m) s = .next t ∧ onlyFabric s t ∧
      ∃ y ∈ t.sbn.txq, y.op = 0x03 ∧ y.dst = m.src ∧ y.data = load s m.addr m.arg ∧ y.tag = m.tag ∧ y.token = m.token) ∧
  (∀ (s : State) (m : SbnMsg) (r : ReadS), m.op = 0x03 → messageInTurn s m →
    s.sbn.reads.find? (fun r => r.part == m.src.val && r.tag == m.tag) = some r → r.back + r.len ≤ tileBase 96 →
    (r.back < dramTop → r.back + r.len ≤ dramTop) → s.bad = [] → s.weak = [] →
    let bs := m.data.take r.len
    ∃ t, exec (.readData m) s = .next t ∧ load t r.back bs.length = bs ∧ sameMemBut r.back bs.length s t ∧ sameTiles s t ∧
      sameBases s t ∧ t.step = s.step ∧ tokenCounts s t m.token ∧ r ∉ t.sbn.reads) ∧
  (∀ (s : State) (m : SbnMsg) (c : Instr), (c, m.op) ∈ [(Instr.readData m, 0x03), (.token m, 0x0B)] → messageInTurn s m →
    (c = .readData m → s.sbn.reads.find? (fun r => r.part == m.src.val && r.tag == m.tag) = none) →
    ∃ t, exec c s = .next t ∧ onlyFabric s t ∧ tokenCounts s t m.token ∧
      (rxConn t m.src.val m.vc).expected = (m.tseq + 1) % 2 ^ 32) ∧
  (∀ (s : State) (m : SbnMsg), m.op = 0x04 → messageInTurn s m → takenOf s (leAt m.data 0 8) = none →
    ∃ t, exec (.draw m) s = .next t ∧ sameMem s t ∧
      (graph t (m.addr % 8)).heldReqs = (graph s (m.addr % 8)).heldReqs ++ [m]) ∧
  (∀ (s : State) (m : SbnMsg) (c : Instr), (c, m.op) ∈ messageCommands m → (m.op = 0x09 → m.src.val ≠ partId s) → m.dst.val = partId s →
    (∀ e ∈ s.sbn.arrived, { e.2 with found := m.found } ≠ m) →
    (sbnCheck m ≠ m.ecrc → ∃ t, exec c s = .next t ∧ sameUnits s t ∧ sameRegs [SBN_EVT.at 0 0] s t ∧
      fld t SBN_EVT_ECRC_ERR = satAdd SBN_EVT_ECRC_ERR.bits (fld s SBN_EVT_ECRC_ERR) 1) ∧
    (sbnCheck m = m.ecrc → (jobLoaded s = false ∨ m.job ≠ s.job.id) → ∃ t, exec c s = .next t ∧ sameUnits s t ∧
      sameRegs [SBN_EVT.at 0 0] s t ∧ fld t SBN_EVT_JOB_DROP = satAdd SBN_EVT_JOB_DROP.bits (fld s SBN_EVT_JOB_DROP) 1)) ∧
  (∀ (s : State) (m : SbnMsg) (c : Instr), (c, m.op) ∈ messageCommands m → (m.op = 0x09 → m.src.val ≠ partId s) → m.dst.val = partId s →
    sbnCheck m = m.ecrc → jobLoaded s = true → m.job = s.job.id → chanOf m = 4 → noticeOp m.op = false →
    (∀ e ∈ s.sbn.arrived, { e.2 with found := m.found } ≠ m) →
    ∃ t, exec c s = .next t ∧ sameUnits s t ∧ sameRegs [SBN_EVT.at 0 0] s t ∧
      fld t SBN_EVT_PEER_DROP = satAdd SBN_EVT_PEER_DROP.bits (fld s SBN_EVT_PEER_DROP) 1) ∧
  (∀ (s : State) (m : SbnMsg) (cyc : Nat), m.op = 0x30 → messagePasses s m →
    ∃ t, exec (.ack m cyc) s = .next t ∧ onlyFabric s t ∧ (txConn t m.src.val (m.arg % 8)).unacked =
      (txConn s m.src.val (m.arg % 8)).unacked.filter (fun x => !tseqUpTo x.tseq m.tseq) ∧
      ∀ c : McastS, s.sbn.mcasts = [c] →
        (∀ w ∈ c.waits, w.1 = connKey m.src.val (m.arg % 8) ∧ tseqUpTo w.2 m.tseq = true) →
        t.sbn.mcasts = [] ∧ tokenCounts s t c.token)

/-- R335, R337, R338: a `CSTART` of a declared collective starts it where fewer than 32 run and none of its id does, and else makes
it wait in its turn; a collective whose timer runs out faults the job.
Rests also on the model's choices of log 69. -/
def Obligations.CollectivesStartInOrder : Prop :=
  (∀ (s : State) (i : TileIns) (task : WinTask) (j : Nat), unitRuns s i 0x60 task → cstartOk s i.word = true →
    let id := bitsOf 8 8 i.word.toNat
    let frame := fun (t : State) => sameMem s t ∧ (∀ j, j ≠ i.tile.val → tileS t j = tileS s j) ∧
      tileS t i.tile.val = { tileS s i.tile.val with place := i.index + 1 } ∧ t.stash = s.stash ∧ sameBases s t ∧ t.eth = s.eth ∧
      t.step = s.step ∧ t.power = s.power ∧ t.sbn.txq = s.sbn.txq
    (∀ c ∈ s.sbn.colls, c.active = true) → s.sbn.pool = [] →
    (s.sbn.colls.length < 32 → (∀ c ∈ s.sbn.colls, c.id ≠ id) → collPlace s id = some (j + 1) →
      ∃ t, exec (.cstart i) s = .next t ∧ frame t ∧ t.sbn.colls = s.sbn.colls ++ [{ id := id, active := true }]) ∧
    (32 ≤ s.sbn.colls.length → ∃ t, exec (.cstart i) s = .next t ∧ frame t ∧ t.sbn.colls = s.sbn.colls ++ [{ id := id }])) ∧
  (∀ (s : State) (i : TileIns) (task : WinTask), unitRuns s i 0x60 task → cstartOk s i.word = false →
    faultsWith (.cstart i) s 0x3081 ∧ ∃ t, exec (.cstart i) s = .next t ∧ sameUnits s t) ∧
  (∀ (s : State) (id : Fin 256) (c : CollS) (p : Nat), jobLive s = true → c ∈ s.sbn.colls → c.id = id.val →
    c.armed = some p → p + c.length = pane s →
    faultsWith (.collTimeout id) s 0x6082 ∧
      ∃ t, exec (.collTimeout id) s = .next t ∧ sameUnits s t ∧ sameRegs [SBN_FAULT.at 0 0] s t) ∧
  (∀ (s : State) (id : Fin 256), (∀ c ∈ s.sbn.colls, c.id = id.val → ∀ p, c.armed = some p → p + c.length ≠ pane s) →
    ∃ t, exec (.collTimeout id) s = .next t ∧ sameUnits s t ∧ sameRegs [] s t)

/-! The Ethernet ports (16). -/

/-- R359, R360, R374: a link that drops leaves its port down, retraining where it may, with no pause held; a training that ends brings
it up; the enable bits start and stop it. An ARP, a neighbour solicitation or an echo for an own address is answered; a
frame that is too long or of another kind is dropped and counted, one with a bad FCS and the codewords that the FEC found are
counted; a RoCEv2 packet of a connected pair waits to be served.
Rests also on the model's choices of logs 71 and 72. -/
def Obligations.EthernetPortsCarryFrames : Prop :=
  (∀ (s : State) (p : Fin 2),
    (fld s ETH_PORT_UP 0 p.val = 1 → ∃ t, exec (.ethLinkDown p) s = .next t ∧ fld t ETH_PORT_UP 0 p.val = 0 ∧
      fld t ETH_PORT_TRAINING 0 p.val = b2n (fld s ETH_CFG_AUTO_RETRAIN == 1 && fld s (ethEn p.val) == 1) ∧
      fld t ETH_PORT_DOWNS 0 p.val = satAdd ETH_PORT_DOWNS.bits (fld s ETH_PORT_DOWNS 0 p.val) 1 ∧
      kGet? t.eth.paused p.val = none ∧ t.eth.qps = s.eth.qps ∧ t.eth.rx = s.eth.rx ∧ sameMem s t ∧ sameTiles s t ∧
      sameBases s t ∧ t.sbn = s.sbn ∧ sameRegs [ETH_PORT.at 0 p.val] s t) ∧
    (fld s ETH_PORT_UP 0 p.val = 0 → ∃ t, exec (.ethLinkDown p) s = .next t ∧ sameUnits s t ∧ sameRegs [] s t) ∧
    (fld s ETH_PORT_TRAINING 0 p.val = 1 → fld s (ethEn p.val) = 1 → ∃ t, exec (.ethLinkUp p) s = .next t ∧
      fld t ETH_PORT_UP 0 p.val = 1 ∧ fld t ETH_PORT_TRAINING 0 p.val = 0 ∧ sameUnits s t ∧
      sameRegs [ETH_PORT.at 0 p.val] s t) ∧
    ((fld s ETH_PORT_TRAINING 0 p.val = 0 ∨ fld s (ethEn p.val) = 0) →
      ∃ t, exec (.ethLinkUp p) s = .next t ∧ sameUnits s t ∧ sameRegs [] s t) ∧
    (∃ t, exec (.ethPortEnable p true) s = .next t ∧ fld t (ethEn p.val) = 1 ∧
      (fld s ETH_PORT_UP 0 p.val = 0 → fld t ETH_PORT_TRAINING 0 p.val = 1) ∧
      fld t ETH_PORT_UP 0 p.val = fld s ETH_PORT_UP 0 p.val ∧ sameUnits s t ∧
      sameRegs [ETH_PORT.at 0 p.val, ETH_CFG.at 0 0] s t) ∧
    (∃ t, exec (.ethPortEnable p false) s = .next t ∧ fld t (ethEn p.val) = 0 ∧ fld t ETH_PORT_UP 0 p.val = 0 ∧
      fld t ETH_PORT_TRAINING 0 p.val = 0 ∧ sameMem s t ∧ sameTiles s t ∧ sameBases s t ∧
      sameRegs [ETH_PORT.at 0 p.val, ETH_CFG.at 0 0] s t)) ∧
  (∀ (s : State) (p : Fin 2) (n us : Nat) (f : Frame), fld s ETH_PORT_UP 0 p.val = 1 → s.eth.paused = [] →
    (9216 < n → f.whole = true → ∃ t, exec (.ethFrame p n f us) s = .next t ∧ sameUnits s t ∧ t.out = [] ∧
      fld t ETH_EVT_DROP = satAdd ETH_EVT_DROP.bits (fld s ETH_EVT_DROP) 1 ∧ sameRegs [ETH_EVT.at 0 0] s t) ∧
    (n ≤ 9216 → f = .other → ∃ t, exec (.ethFrame p n f us) s = .next t ∧ sameUnits s t ∧ t.out = [] ∧
      fld t ETH_EVT_DROP = satAdd ETH_EVT_DROP.bits (fld s ETH_EVT_DROP) 1 ∧ sameRegs [ETH_EVT.at 0 0] s t) ∧
    (∀ a, n ≤ 9216 → (f = .arp a ∨ f = .echo a false) → ownV4 s p.val a = true →
      ∃ t, exec (.ethFrame p n f us) s = .next t ∧ sameUnits s t ∧ t.out = [.answer p.val f] ∧ sameRegs [] s t) ∧
    (∀ a, n ≤ 9216 → (f = .neighbour a ∨ f = .echo a true) → ownV6 s p.val a = true →
      ∃ t, exec (.ethFrame p n f us) s = .next t ∧ sameUnits s t ∧ t.out = [.answer p.val f] ∧ sameRegs [] s t) ∧
    (∀ a, n ≤ 9216 → (((f = .arp a ∨ f = .echo a false) ∧ ownV4 s p.val a = false) ∨
        ((f = .neighbour a ∨ f = .echo a true) ∧ ownV6 s p.val a = false)) →
      ∃ t, exec (.ethFrame p n f us) s = .next t ∧ sameUnits s t ∧ t.out = [] ∧ sameRegs [] s t) ∧
    (f = .badFcs → ∃ t, exec (.ethFrame p n f us) s = .next t ∧ sameUnits s t ∧ t.out = [] ∧
      fld t ETH_PORT_FCS_ERR 0 p.val = satAdd ETH_PORT_FCS_ERR.bits (fld s ETH_PORT_FCS_ERR 0 p.val) 1 ∧
      sameRegs [ETH_PORT.at 0 p.val] s t) ∧
    (∀ c b, f = .codewords c b → ∃ t, exec (.ethFrame p n f us) s = .next t ∧ t.out = [] ∧
      fld t ETH_PORT_FEC_CORR 0 p.val =
        satAdd ETH_PORT_FEC_CORR.bits (fld s ETH_PORT_FEC_CORR 0 p.val) ((kGetD s.eth.fec p.val 0 + c) / 1024) ∧
      fld t ETH_PORT_FEC_UNCORR 0 p.val = satAdd ETH_PORT_FEC_UNCORR.bits (fld s ETH_PORT_FEC_UNCORR 0 p.val) b ∧
      t.eth.qps = s.eth.qps ∧ t.eth.rx = s.eth.rx ∧ sameMem s t ∧ sameRegs [ETH_PORT.at 0 p.val] s t) ∧
    (∀ q op, n ≤ 9216 → f = .roce (0x100 + q) op true false → q < 256 → qpUp s q = true → fld s ETH_QP_PORT 0 q = p.val →
      btHas op = true → (8 ≤ q ∨ btRdma op = false) → ∃ t, exec (.ethFrame p n f us) s = .next t ∧
      t.eth.rx = s.eth.rx ++ [(p.val, 0x100 + q, n)] ∧ t.eth.qps = s.eth.qps ∧ sameMem s t ∧ sameRegs [] s t))

/-- R362, R368, R369: the communication manager's `REQ` makes a free mailbox entry of its port ready to receive and is answered; `RTU`
completes the connection; `DREQ` gives the entry back and is answered. A pause of the RoCEv2 priority holds the port for its time
and a pause of none ends it; a storm is reported once; a `CNP` halves a pair's rate, no lower than the least and no sooner
than the gap after the last cut; with no `CNP` the rate rises by its step, to the line rate at most.
Rests also on the model's choices of log 71. -/
def Obligations.PairsConnectPauseAndSlow : Prop :=
  ((∀ (s : State) (p : Fin 2) (rq psn : Nat) (e : Fin 8), fld s ETH_PORT_UP 0 p.val = 1 → e.val / 4 = p.val → qpUp s e.val = false →
    ∃ t, exec (.cmReq p rq psn e) s = .next t ∧ fld t ETH_QP_STATE 0 e.val = 2 ∧ fld t ETH_QP_PORT 0 e.val = p.val ∧
      fld t ETH_QP_REMOTE_QPN 0 e.val = rq % 2 ^ 24 ∧ fld t ETH_QP_RECV_PSN 0 e.val = psn % 2 ^ 24 ∧ qpS t e.val = {} ∧
      t.out = [.cmReply p.val e.val 0] ∧ sameMem s t ∧ sameTiles s t ∧ sameBases s t ∧ t.sbn = s.sbn ∧
      (∀ q, q ≠ e.val → qpS t q = qpS s q) ∧ sameRegs [ETH_QP.at 0 e.val] s t) ∧
  (∀ (s : State) (p : Fin 2) (rq psn : Nat) (e : Fin 8), (fld s ETH_PORT_UP 0 p.val = 0 ∨ e.val / 4 ≠ p.val ∨ qpUp s e.val = true) →
    ∃ t, exec (.cmReq p rq psn e) s = .next t ∧ sameUnits s t ∧ t.out = [] ∧ sameRegs [] s t) ∧
  (∀ (s : State) (e : Fin 8),
    (fld s ETH_QP_STATE 0 e.val = 2 → ∃ t, exec (.cmRtu e) s = .next t ∧ fld t ETH_QP_STATE 0 e.val = 3 ∧ sameUnits s t ∧
      sameRegs [ETH_QP.at 0 e.val] s t) ∧
    (fld s ETH_QP_STATE 0 e.val ≠ 2 → ∃ t, exec (.cmRtu e) s = .next t ∧ sameUnits s t ∧ sameRegs [] s t) ∧
    (fld s ETH_QP_STATE 0 e.val ≠ 0 → ∃ t, exec (.cmDreq e) s = .next t ∧ fld t ETH_QP_STATE 0 e.val = 0 ∧ qpS t e.val = {} ∧
      t.out = [.cmReply (fld s ETH_QP_PORT 0 e.val) e.val 1] ∧ sameMem s t ∧ sameTiles s t ∧ sameBases s t ∧ t.sbn = s.sbn ∧
      sameRegs [ETH_QP.at 0 e.val] s t) ∧
    (fld s ETH_QP_STATE 0 e.val = 0 → ∃ t, exec (.cmDreq e) s = .next t ∧ sameUnits s t ∧ t.out = [] ∧ sameRegs [] s t))) ∧
  ((∀ (s : State) (p : Fin 2) (prio : Fin 8) (quanta us : Nat), fld s ETH_PORT_UP 0 p.val = 1 → prio.val = fld s ETH_CFG_PRIO →
    ∃ t, exec (.pfcPause p prio quanta us) s = .next t ∧ sameMem s t ∧ t.eth.qps = s.eth.qps ∧ sameRegs [] s t ∧
      (quanta ≠ 0 → ∃ since, kGet? t.eth.paused p.val = some (since, us + (quanta * 128 + 99999) / 100000) ∧
        (kGet? s.eth.paused p.val = none → since = us)) ∧
      (quanta = 0 → kGet? t.eth.paused p.val = none)) ∧
  (∀ (s : State) (p : Fin 2) (prio : Fin 8) (quanta us : Nat), prio.val ≠ fld s ETH_CFG_PRIO → s.eth.paused = [] →
    ∃ t, exec (.pfcPause p prio quanta us) s = .next t ∧ sameUnits s t ∧ sameRegs [] s t) ∧
  (∀ (s : State) (p : Fin 2) (us since ends : Nat), s.eth.paused = [(p.val, since, ends)] → us < ends →
    (since + fld s ETH_PFC_STORM * 1000 ≤ us → p.val ∉ s.eth.storm → ∃ t, exec (.pfcStorm p us) s = .next t ∧
      t.eth.storm = p.val :: s.eth.storm ∧ t.eth.paused = s.eth.paused ∧ sameMem s t ∧ sameRegs [] s t) ∧
    ((us < since + fld s ETH_PFC_STORM * 1000 ∨ p.val ∈ s.eth.storm) →
      ∃ t, exec (.pfcStorm p us) s = .next t ∧ sameUnits s t ∧ sameRegs [] s t)) ∧
  (∀ (s : State) (q us : Nat), 8 ≤ q → q < 256 → qpUp s q = true → fld s ETH_CC_EN = 1 →
    ∃ t, exec (.cnp q us) s = .next t ∧ fld t ETH_EVT_CNP_RX = satAdd ETH_EVT_CNP_RX.bits (fld s ETH_EVT_CNP_RX) 1 ∧
      ((qpS s q).lastCut = none → (qpS t q).rate = max ((qpS s q).rate / 2) (fld s ETH_CC_R_MIN * 4000) ∧
        (qpS t q).lastCut = some us) ∧
      (∀ u, (qpS s q).lastCut = some u → u + fld s ETH_CC_CNP_GAP ≤ us →
        (qpS t q).rate = max ((qpS s q).rate / 2) (fld s ETH_CC_R_MIN * 4000) ∧ (qpS t q).lastCut = some us) ∧
      (∀ u, (qpS s q).lastCut = some u → us < u + fld s ETH_CC_CNP_GAP → qpS t q = qpS s q) ∧
      sameMem s t ∧ (∀ r, r ≠ q → qpS t r = qpS s r) ∧ sameRegs [ETH_EVT.at 0 0] s t) ∧
  (∀ (s : State) (q : Nat), 8 ≤ q → q < 256 → qpUp s q = true →
    ∃ t, exec (.rateRaise q) s = .next t ∧ (qpS t q).rate = (if fld s ETH_CC_EN = 0 then lineRate
      else min lineRate ((qpS s q).rate + fld s ETH_CC_R_AI * 256)) ∧ (qpS t q).unacked = (qpS s q).unacked ∧ sameMem s t ∧
      (∀ r, r ≠ q → qpS t r = qpS s r) ∧ sameRegs [] s t))

/-- R361, R365 to R367: on a connected data pair and in PSN order, an RDMA write inside its window puts its bytes in place, changes
no other and is acknowledged; a read is answered with what memory holds; one outside its window changes nothing, is counted
and puts the pair into the error state. Out of order nothing is written. The data of an own READ lands where it said.
Rests also on the model's choices of log 71. -/
def Obligations.RdmaGoesThroughWindows : Prop :=
  (∀ (s : State) (r : Rdma), 8 ≤ r.qp → r.qp < 256 → qpUp s r.qp = true →
    let e := fld s ETH_QP_RECV_PSN 0 r.qp
    let open_ := kGet? s.eth.paused (fld s ETH_QP_PORT 0 r.qp) = none
    (r.psn = e → rdmaRefused s true r.rkey r.addr r.data.length = none → s.bad = [] → s.weak = [] →
      ∃ t, exec (.rdmaWrite r) s = .next t ∧ load t r.addr r.data.length = r.data ∧
        sameMemBut r.addr r.data.length s t ∧ sameTiles s t ∧ sameBases s t ∧ t.sbn = s.sbn ∧ t.step = s.step ∧
        fld t ETH_QP_RECV_PSN 0 r.qp = psnAdd r.psn (max 1 r.packets) ∧
        (open_ → .ack r.qp (psnAdd r.psn (max 1 r.packets - 1)) ∈ t.out)) ∧
    (∀ why, r.psn = e → rdmaRefused s true r.rkey r.addr r.data.length = some why →
      ∃ t, exec (.rdmaWrite r) s = .next t ∧ sameMem s t ∧ sameTiles s t ∧ sameBases s t ∧ fld t ETH_QP_STATE 0 r.qp = 4 ∧
        fld t ETH_EVT_ACCESS_NAK = satAdd ETH_EVT_ACCESS_NAK.bits (fld s ETH_EVT_ACCESS_NAK) 1 ∧
        (open_ → .nak r.qp r.psn 0x62 ∈ t.out)) ∧
    (r.psn ≠ e → ∃ t, exec (.rdmaWrite r) s = .next t ∧ sameMem s t ∧ fld t ETH_QP_RECV_PSN 0 r.qp = e ∧ sameRegs [] s t ∧
      (open_ → psnBefore r.psn e = true → .ack r.qp ((e + 2 ^ 24 - 1) % 2 ^ 24) ∈ t.out) ∧
      (open_ → psnBefore r.psn e = false → .nak r.qp e 0x60 ∈ t.out)) ∧
    (r.psn = e → rdmaRefused s false r.rkey r.addr r.len = none → s.bad = [] → s.weak = [] → r.found = {} →
      ∃ t, exec (.rdmaReadRequest r) s = .next t ∧ sameMem s t ∧ sameTiles s t ∧ sameBases s t ∧ t.sbn = s.sbn ∧
        fld t ETH_QP_RECV_PSN 0 r.qp = psnAdd r.psn (packets s r.len) ∧ sameRegs [ETH_QP.at 0 r.qp] s t ∧
        (open_ → .readResponse r.qp r.psn (load s r.addr r.len) ∈ t.out)) ∧
    (∀ why, r.psn = e → rdmaRefused s false r.rkey r.addr r.len = some why →
      ∃ t, exec (.rdmaReadRequest r) s = .next t ∧ sameMem s t ∧ fld t ETH_QP_STATE 0 r.qp = 4 ∧
        (open_ → .nak r.qp r.psn 0x62 ∈ t.out))) ∧
  (∀ (s : State) (q psn addr : Nat) (data : List Byte), q < 256 → qpUp s q = true → (psn, addr, data.length) ∈ (qpS s q).reads →
    rdmaReach addr data.length = true → s.bad = [] → s.weak = [] →
    ∃ t, exec (.rdmaReadResponse q psn addr data) s = .next t ∧ load t addr data.length = data ∧
      sameMemBut addr data.length s t ∧ (psn, addr, data.length) ∉ (qpS t q).reads ∧ sameTiles s t ∧ sameBases s t ∧
      t.sbn = s.sbn)

/-- R361, R363, R368, R370: an `ACK` takes what it covers out of a pair; a timer that expires, a sequence NAK or the end of an RNR wait, resends what is
unacknowledged, each packet under the part's marks, and counts the retry; with its retries used up a data pair is lost and faults the job, a mailbox pair is lost,
and with the RNR retries used up a mailbox reply is dropped while its pair stays.
Rests also on the model's choices of log 71. -/
def Obligations.QueuePairsRetry : Prop :=
  let marked := fun (s : State) (q : Nat) (l : List (Nat × Nat × Emit)) =>
    l.flatMap (fun e => [Emit.marks (fld s ETH_QP_PORT 0 q) (fld s ETH_CFG_PRIO) (fld s ETH_CFG_DSCP), e.2.2])
  (∀ (s : State) (q psn : Nat), q < 256 → qpUp s q = true →
    ∃ t, exec (.acknowledge q psn .ack) s = .next t ∧ (qpS t q).unacked = (qpS s q).unacked.filter (fun e => !ackedBy psn e) ∧
      (qpS t q).retries = 0 ∧ (qpS t q).rnrWait = false ∧ sameMem s t ∧ sameRegs [] s t) ∧
  (∀ (s : State) (q psn : Nat), q < 256 → qpUp s q = true →
    ∃ t, exec (.acknowledge q psn .rnr) s = .next t ∧ (qpS t q).rnrWait = true ∧ (qpS t q).unacked = (qpS s q).unacked ∧
      sameMem s t ∧ sameRegs [] s t) ∧
  (∀ (s : State) (q psn : Nat), q < 256 → qpUp s q = true → (qpS s q).retries < 7 →
    kGet? s.eth.paused (fld s ETH_QP_PORT 0 q) = none →
    let l := (qpS s q).unacked.filter (fun e => !ackedBy ((psn + 2 ^ 24 - 1) % 2 ^ 24) e)
    l ≠ [] → ∃ t, exec (.acknowledge q psn .seqErr) s = .next t ∧ (qpS t q).unacked = l ∧
      (qpS t q).retries = (qpS s q).retries + 1 ∧ (∀ e ∈ l, e.2.2 ∈ t.out) ∧ sameMem s t ∧ sameRegs [ETH_EVT.at 0 0] s t) ∧
  (∀ (s : State) (q psn syn : Nat), q < 256 → qpUp s q = true →
    ∃ t, exec (.acknowledge q psn (.nak syn)) s = .next t ∧ fld t ETH_QP_STATE 0 q = 4 ∧ sameMem s t ∧
      sameRegs [ETH_QP.at 0 q] s t) ∧
  (∀ (s : State) (q : Nat), q < 256 → qpUp s q = true → (qpS s q).unacked ≠ [] →
    kGet? s.eth.paused (fld s ETH_QP_PORT 0 q) = none →
    ((qpS s q).retries < 7 → ∃ t, exec (.localAckTimeout q) s = .next t ∧ (qpS t q).retries = (qpS s q).retries + 1 ∧
      t.out = marked s q (qpS s q).unacked ∧ sameMem s t ∧ sameRegs [ETH_EVT.at 0 0] s t) ∧
    (7 ≤ (qpS s q).retries → 8 ≤ q → jobLive s = true → faultsWith (.localAckTimeout q) s 0x6880 ∧
      ∃ t, exec (.localAckTimeout q) s = .next t ∧ fld t ETH_QP_STATE 0 q = 4 ∧ sameMem s t ∧
        sameRegs [ETH_QP.at 0 q, ETH_LOG.at 0 0] s t) ∧
    (7 ≤ (qpS s q).retries → q < 8 → ∃ t, exec (.localAckTimeout q) s = .next t ∧ fld t ETH_QP_STATE 0 q = 4 ∧
      fld t ETH_EVT_MBX_LOST = satAdd ETH_EVT_MBX_LOST.bits (fld s ETH_EVT_MBX_LOST) 1 ∧ jobState t = jobState s ∧ sameMem s t)) ∧
  (∀ (s : State) (q : Nat), q < 256 → qpUp s q = true → (qpS s q).rnrWait = true →
    kGet? s.eth.paused (fld s ETH_QP_PORT 0 q) = none →
    ((qpS s q).rnr < 7 → ∃ t, exec (.rnrRetry q) s = .next t ∧ (qpS t q).rnr = (qpS s q).rnr + 1 ∧
      (qpS t q).rnrWait = false ∧ t.out = marked s q (qpS s q).unacked ∧ sameMem s t) ∧
    (7 ≤ (qpS s q).rnr → q < 8 → ∃ t, exec (.rnrRetry q) s = .next t ∧ (qpS t q).unacked = (qpS s q).unacked.drop 1 ∧
      qpUp t q = true ∧ fld t ETH_EVT_MBX_LOST = satAdd ETH_EVT_MBX_LOST.bits (fld s ETH_EVT_MBX_LOST) 1 ∧ sameMem s t)) ∧
  (∀ (s : State) (q : Nat), (256 ≤ q ∨ qpUp s q = false ∨ (qpS s q).unacked = []) →
    ∃ t, exec (.localAckTimeout q) s = .next t ∧ sameUnits s t ∧ t.out = [] ∧ sameRegs [] s t)

/-- R372: board-stage data on a connected data pair and in PSN order is accepted and acknowledged where no job is live; where the
collective has not been started here it is answered with an RNR NAK and nothing is taken; where it runs and has room, the
data enters its board stage.
Rests also on the model's choices of log 71. -/
def Obligations.BoardStageData : Prop :=
  ∀ (s : State) (q psn imm : Nat) (data : List Byte) (last : Bool), 8 ≤ q → q < 256 → qpUp s q = true →
    psn = fld s ETH_QP_RECV_PSN 0 q →
    let id := imm % 256
    let open_ := kGet? s.eth.paused (fld s ETH_QP_PORT 0 q) = none
    let n := packets s data.length
    (jobLive s = false → ∃ t, exec (.sendWithImmediate q psn imm data last) s = .next t ∧
      fld t ETH_QP_RECV_PSN 0 q = psnAdd psn n ∧ (open_ → .ack q (psnAdd psn (n - 1)) ∈ t.out) ∧ sameMem s t ∧
      t.sbn = s.sbn ∧ sameRegs [ETH_QP.at 0 q] s t) ∧
    (jobLive s = true → imm = collArg s id → (kGet? s.job.colls id).isSome = true → collOf s id = none →
      ∃ t, exec (.sendWithImmediate q psn imm data last) s = .next t ∧ fld t ETH_QP_RECV_PSN 0 q = psn ∧
        (open_ → .rnrNak q psn 1 ∈ t.out) ∧ sameMem s t ∧ t.sbn = s.sbn ∧ sameRegs [] s t) ∧
    (jobLive s = true → imm ≠ collArg s id → faultsWith (.sendWithImmediate q psn imm data last) s 0x6083) ∧
    (∀ c, jobLive s = true → imm = collArg s id → (kGet? s.job.colls id).isSome = true → collOf s id = some c →
      4 * c.boardIn.length + data.length ≤ 2097152 →
      let s1 := serveFrames (fresh s) q (if last then n else 1)
      let u := deliverBoard (ethOut (setFld s1 ETH_QP_RECV_PSN (psnAdd psn n) 0 q) (fld s1 ETH_QP_PORT 0 q)
        (.ack q (psnAdd psn (n - 1)))) c q data
      exec (.sendWithImmediate q psn imm data last) s = .next (finish s (if faulted u then u else sbnSettle u)))

/-! The mailboxes (17). -/

/-- R382, R383, R422, R435: a request that matches a completed one is not performed again: it is answered with the recorded status and
`DUP`. One that fails a check is answered with that check's status, has no effect, and is the refusal recorded where none was.
Rests also on the model's choices of log 81. -/
def Obligations.RequestsAreCheckedFirst : Prop :=
  ∀ (c : Instr) (r : Req) (op : Nat) (ext : Bool) (s : State), requestForm c = some (r, op, ext) → taken s r →
    waitsForBank s c = false →
    (∀ d, dupOf s r = some d → ∃ t, exec c s = .next t ∧ repliedTo s t r op d.status true [] ∧ requestFrame r [] s t) ∧
    (∀ st, dupOf s r = none → requestCheck s r op ext = some st → ∃ t, exec c s = .next t ∧ repliedTo s t r op st false [] ∧
      requestFrame r [MBX_REFUSAL.at 0 0] s t ∧
      (fld s MBX_REFUSAL_VALID = 0 → fld t MBX_REFUSAL_VALID = 1 ∧ fld t MBX_REFUSAL_STATUS = st ∧ fld t MBX_REFUSAL_OPCODE = op) ∧
      (fld s MBX_REFUSAL_VALID = 1 → readReg t MBX_REFUSAL 0 0 = readReg s MBX_REFUSAL 0 0))

/-- R384, R381, R423: the requests that only read answer `OK` with what they read, and change nothing. The layout of the payloads is
the model's (log 84). -/
def Obligations.StatusIsRead : Prop :=
  ∀ (s : State) (r : Req),
    (∀ e ∈ statusReads r (inService s r), serves s r e.2.1 → servedWith e.1 s r e.2.1 0 e.2.2 [] (fun _ => True)) ∧
    (serves s r 0x0204 → jobLoaded s = true → servedWith (.jobStatus r) s r 0x0204 0 (leBytes 1 (jobState s) ++
      leBytes 8 s.step.latchedStep ++ leBytes 8 s.step.committedStep ++ leBytes 4 (fld s PANE_SASH_VERSION) ++
      leBytes 2 s.jobEnd.lastCode ++ leBytes 32 s.jobEnd.lastDetail) [] (fun _ => True)) ∧
    (serves s r 0x0204 → jobLoaded s = false → servedWith (.jobStatus r) s r 0x0204 0 (leBytes 1 (jobState s) ++
      leBytes 8 s.jobEnd.lastLatched ++ leBytes 8 s.jobEnd.lastCommitted ++ leBytes 4 s.jobEnd.lastV ++
      leBytes 2 s.jobEnd.lastCode ++ leBytes 32 s.jobEnd.lastDetail) [] (fun _ => True)) ∧
    (∀ set, set < 256 → serves s r 0x0501 (decide (128 ≤ set)) →
      servedWith (.telemetryGet r set) s r 0x0501 0 (telemetry (inService s r) set) [] (fun _ => True)) ∧
    (∀ table, table < 64 → serves s r 0x0308 → servedWith (.tableStatus r table) s r 0x0308 0
      ((List.range 8).flatMap (fun k => regBytes s EMB_TDESC k table ++ regBytes s EMB_SDESC k table ++ regBytes s EMB_FLIP k)) []
      (fun _ => True)) ∧
    (∀ index, serves s r 0x0901 → servedWith (.logRead r index) s r 0x0901 0
      (((s.mgmt.log.filter (fun e => decide (index ≤ e.1))).take 64).flatMap (fun e => logEntry e.1 e.2)) [] (fun _ => True)) ∧
    (∀ index offset, index ≤ 2 → serves s r 0x0702 → (offset = 0 ∨ offset < (certBytes s index).length) →
      servedWith (.certGet r index offset) s r 0x0702 0 (pageOf (certBytes s index) offset) [] (fun _ => True)) ∧
    (∀ offset, offset < 2 ^ 30 → s.bad = [] → s.weak = [] → serves s r 0x0908 → servedWith (.contextRead r offset) s r 0x0908 0
      (load s (retainedBase + offset) (min 4096 (2 ^ 30 - offset))) [] (fun _ => True)) ∧
    (∀ a n, 0 < n → n ≤ 4096 → a < 2 ^ 48 → serves s r 0x0303 → waitsForBank s (.memRead r ⟨a, {}⟩ n) = false →
      memReadRefused s r.cls a n = none → s.bad = [] → s.weak = [] →
      servedWith (.memRead r ⟨a, {}⟩ n) s r 0x0303 0 (load s a n) [] (fun _ => True)) ∧
    (∀ a n st, 0 < n → n ≤ 4096 → a < 2 ^ 48 → serves s r 0x0303 → waitsForBank s (.memRead r ⟨a, {}⟩ n) = false →
      memReadRefused s r.cls a n = some st → turnedAway (.memRead r ⟨a, {}⟩ n) s r 0x0303 st) ∧
    (∀ a n f, 0 < n → n ≤ 4096 → a < dramTop → serves s r 0x0303 → memReadRefused s r.cls a n = none → jobLive s = false →
      (firstBad s (granules a n)).isSome = true → s.weak = [] →
      ∃ t, exec (.memRead r ⟨a, f⟩ n) s = .next t ∧ repliedTo s t r 0x0303 0x70 false [] ∧ sameMem s t ∧ sameTiles s t) ∧
    (∀ addrs : List Nat, addrs.length ≤ 255 → (∀ a ∈ addrs, a % 8 = 0 ∧ a < 2 ^ 48 ∧ (readEntry s a).isSome = true) →
      serves s r 0x0301 → waitsForBank s (.regRead r (addrs.map (fun a => ⟨a, {}⟩))) = false →
      (r.cls = .debug → ∀ a ∈ addrs, tileWindow a = none) →
      servedWith (.regRead r (addrs.map (fun a => ⟨a, {}⟩))) s r 0x0301 0 (addrs.flatMap (fun a => leBytes 8 ((readEntry (inService s r) a).getD 0))) []
        (fun _ => True))

/-- R9, R385: a word that a class may write puts into each register it names what the access codes make of it, and changes nothing
else; a word of a tile's scratchpad or banks goes to memory, and one for a bank that a running task holds waits. `PANE_CFG`'s length, `SBN_ID` and the routes take no write while a
job is loaded (R27, R323, R345).
Rests also on the model's choices of logs 94, 95 and 97. -/
def Obligations.RegistersAreWritten : Prop :=
  (∀ (s : State) (c : Cls) (a : Nat) (w : BitVec 64), plainWord s c a w.toNat →
    ∃ t, exec (.registerWrite c a w) s = .next t ∧ wordStored s t a w.toNat ∧ sameUnits s t ∧ sameRegs (wordRegs s a) s t) ∧
  (∀ (s : State) (r : Req) (a w : BitVec 64), plainWord s r.cls a.toNat w.toNat → a.toNat < 2 ^ 48 → serves s r 0x0302 →
    (r.cls = .host → ETH_QP.at 0 r.qp ∉ wordRegs s a.toNat) →
    servedWith (.regWrite r [(a, w)]) s r 0x0302 0 (leBytes 2 0xFFFF) (wordRegs s a.toNat)
      (fun t => wordStored (inService s r) t a.toNat w.toNat)) ∧
  (∀ (s : State) (c : Cls) (a k o : Nat) (w : BitVec 64), tileMemory s a = some (k, o) → o < 0x820000 → a % 8 = 0 →
    classRefuses s c .tile false = none →
    (bankBusy s a 8 = false → ∃ t, exec (.registerWrite c a w) s = .next t ∧ load t a 8 = leBytes 8 w.toNat ∧ sameMemBut a 8 s t ∧
      t.stash = s.stash ∧ (∀ j, j ≠ k → tileS t j = tileS s j) ∧ sameRegs [TILE_EVT.at k 0, ACC_FLAGS.at k 0] s t ∧
      (o < 0x800000 → sameTiles s t ∧ readReg t ACC_FLAGS k 0 = readReg s ACC_FLAGS k 0) ∧
      (0x800000 ≤ o → (nfW (w.setWidth 32) || nfW ((w >>> 32).setWidth 32)) = true →
        fld t (if o < 0x810000 then ACC_FLAGS_NF0 else ACC_FLAGS_NF1) k = 1)) ∧
    (bankBusy s a 8 = true → ∃ t, exec (.registerWrite c a w) s = .next t ∧ sameUnits s t ∧ sameRegs [] s t ∧
      t.mgmt.heldWrites = s.mgmt.heldWrites ++ [(a, w.toNat)])) ∧
  (∀ (s : State) (c : Cls) (v : BitVec 32), 2 ≤ power s → classRefuses s c .pane false = none →
    (jobLoaded s = false ∨ v.toNat % 4 = fld s PANE_CFG_LEN) →
    ∃ t, exec (.paneCfgWrite c v) s = .next t ∧ fld t PANE_CFG_LEN = v.toNat % 4 ∧ fld t PANE_CFG_SCHED_EN = bitsOf 8 1 v.toNat ∧
      sameUnits s t ∧ sameRegs [PANE_CFG.at 0 0] s t) ∧
  (∀ (s : State) (c : Cls) (v : BitVec 32), jobLoaded s = true → v.toNat % 4 ≠ fld s PANE_CFG_LEN →
    ∃ t, exec (.paneCfgWrite c v) s = .next t ∧ sameUnits s t ∧ sameRegs [] s t) ∧
  (∀ (s : State) (c : Cls) (v : BitVec 32), 2 ≤ power s → classRefuses s c .sbn false = none → jobLoaded s = false →
    ∃ t, exec (.sbnIdWrite c v) s = .next t ∧ fld t SBN_ID_PART = v.toNat % 16 ∧ fld t SBN_ID_VALID = bitsOf 8 1 v.toNat ∧
      sameUnits s t ∧ sameRegs [SBN_ID.at 0 0] s t) ∧
  (∀ (s : State) (c : Cls) (n : Fin 16) (v : BitVec 64), 2 ≤ power s → classRefuses s c .sbn false = none → jobLoaded s = false →
    ∃ t x, exec (.sbnRouteWrite c n v) s = .next t ∧ kGet? t.sbn.routePending n.val = some x ∧ x % 2 ^ 22 = v.toNat % 2 ^ 22 ∧
      (∀ m, m ≠ n.val → kGet? t.sbn.routePending m = kGet? s.sbn.routePending m) ∧ sameMem s t ∧ sameTiles s t ∧ sameBases s t ∧
      t.eth = s.eth ∧ sameRegs [] s t) ∧
  (∀ (s : State) (c : Cls) (v : BitVec 32) (n : Fin 16) (w : BitVec 64) (i : Instr), jobLoaded s = true →
    i ∈ [Instr.sbnIdWrite c v, .sbnRouteWrite c n w] →
    ∃ t, exec i s = .next t ∧ sameUnits s t ∧ sameRegs [] s t)

/-! Jobs (17, 20). -/

/-- R387, R388, R437, R450: an image that passes every check is loaded as the part's job; one whose digest differs is refused, and so
is any while a job is loaded. A loaded job starts at the mullion after its `JOB_START`: its first step is S0. A stop at once
leaves the part scrubbing, one at a step's end waits for it, and a pause with no step in progress comes at once (log 128). A wicket job is done once every task has retired.
Rests also on the model's choices of logs 2, 11 and 90. -/
def Obligations.JobsLoadStartAndStop : Prop :=
  (∀ (s : State) (r : Req) (a n : Nat) (d : BitVec 256) (x : JobExtra), serves s r 0x0201 → 2 ≤ power s → power s < 5 →
    jobState s = 0 → (wicketAddr a n = true ∨ (fld s RST_STATUS_SERVICE = 2 ∧ a + n ≤ retainedBase ∧
      firstBad s (granules a n) = none ∧ s.weak = [])) →
    (shaNat (load s a n) = d.toNat → 4 ≤ n → imgHead s a 0 4 = 0x49564E52 →
      imageFail (inService s r) (wicketAddr a n) a n x = none →
      ∃ t, exec (.jobLoad r a n d x) s = .next t ∧ jobState t = 1 ∧ t.step = {} ∧ t.jobEnd = {} ∧ t.stash = {} ∧
        fld t SEC_MEAS_DIGEST 0 4 = d.toNat ∧ fld t PANE_STATUS_JOB = 1 ∧ fld t PWR_ENERGY_DEBT = 0 ∧
        repliedTo s t r 0x0201 0 false (leBytes 8 (fingerprint
          (loadJob (wicketAddr a n) (imgAt (inService s r) a n) x d.toNat (inService s r))))) ∧
    (shaNat (load s a n) ≠ d.toNat → turnedAway (.jobLoad r a n d x) s r 0x0201 0x41)) ∧
  (∀ (s : State) (r : Req) (a n : Nat) (d : BitVec 256) (x : JobExtra), serves s r 0x0201 → 2 ≤ power s → power s < 5 →
    jobLoaded s = true → turnedAway (.jobLoad r a n d x) s r 0x0201 0x31) ∧
  (∀ (s : State) (r : Req) (s0 : BitVec 64), serves s r 0x0202 → jobState s = 1 →
    ∃ t, exec (.jobStart r s0) s = .next t ∧ repliedTo s t r 0x0202 0 false [] ∧ jobState t = 2 ∧
      t.job = { s.job with startPending := some (s0.toNat, pane s) } ∧ sameMem s t ∧ sameTiles s t ∧ sameBases s t ∧
      t.sbn = s.sbn ∧ t.step = s.step ∧ sameRegs (serviceRegs r) s t) ∧
  (∀ (s : State) (r : Req) (s0 : BitVec 64), serves s r 0x0202 → jobState s ≠ 1 → turnedAway (.jobStart r s0) s r 0x0202 0x32) ∧
  (∀ (s : State) (s0 p : Nat), s.job.startPending = some (s0, p) → jobState s = 2 →
    (p < pane s → ∃ t, exec .jobStartEffect s = .next t ∧ t.job.startPending = none ∧ fld t PANE_CFG_SCHED_EN = 1 ∧
      t.step.takenStep = (s0 + (2 ^ 64 - 1)) % 2 ^ 64 ∧ t.step.latchedStep = (s0 + (2 ^ 64 - 1)) % 2 ^ 64 ∧
      t.step.committedStep = (s0 + (2 ^ 64 - 1)) % 2 ^ 64 ∧ jobState t = 2 ∧ sameTiles s t ∧ sameNets s t) ∧
    (pane s ≤ p → ∃ t, exec .jobStartEffect s = .next t ∧ t.job = s.job ∧ sameUnits s t ∧ sameRegs [] s t)) ∧
  (∀ (s : State) (r : Req), serves s r 0x0203 → 1 ≤ jobState s → jobState s ≤ 3 →
    ∃ t, exec (.jobStop r 1) s = .next t ∧ repliedTo s t r 0x0203 1 false [] ∧ jobState t = 5 ∧ t.sched.memReqs = [] ∧
      t.jobEnd.lastLatched = s.step.latchedStep ∧ t.jobEnd.lastCommitted = s.step.committedStep ∧
      t.jobEnd.lastV = fld s PANE_SASH_VERSION ∧ t.jobEnd.lastCode = 0 ∧ (∀ k, k < 8 → fld t EMB_FLIP_PENDING k = 0) ∧
      sameMem s t ∧ sameTiles s t ∧ sameBases s t ∧ t.sbn = s.sbn ∧
      sameRegs (serviceRegs r ++ (List.range 8).map (fun k => EMB_FLIP.at k 0)) s t) ∧
  (∀ (s : State) (r : Req) (mode : Nat), serves s r 0x0203 → mode = 0 ∨ (mode = 2 ∧ s.step.open_ = true) → jobState s = 2 →
    s.job.wicket = false → servedWith (.jobStop r mode) s r 0x0203 1 [] [] (fun t => t.jobEnd.stopMode = some mode)) ∧
  (∀ (s : State) (r : Req), serves s r 0x0203 → s.step.open_ = false → jobState s = 2 → s.job.wicket = false →
    ∃ t, exec (.jobStop r 2) s = .next t ∧ repliedTo s t r 0x0203 1 false [] ∧ jobState t = 3 ∧ t.step = { s.step with halt := 2 } ∧
      fld t PANE_COMMIT_STATUS_PHASE = 3 ∧ t.jobEnd.stopMode = none ∧ sameMem s t ∧ sameTiles s t ∧ sameBases s t ∧ t.sbn = s.sbn ∧
      sameRegs (serviceRegs r ++ [PANE_COMMIT_STATUS.at 0 0]) s t) ∧
  (∀ s : State, jobState s = 2 → s.job.wicket = true → s.job.startPending = none → fld s RST_STATUS_WICKET_DONE = 0 →
    (tasksLeft s 0 (fun _ => true) = false → ∃ t, exec .wicketDone s = .next t ∧ fld t RST_STATUS_WICKET_DONE = 1 ∧
      jobState t = 2 ∧ sameUnits s t ∧ sameRegs [] s t) ∧
    (tasksLeft s 0 (fun _ => true) = true → ∃ t, exec .wicketDone s = .next t ∧ fld t RST_STATUS_WICKET_DONE = 0 ∧
      sameUnits s t ∧ sameRegs [] s t))

/-! Windows, queue pairs, tables and shutters (05, 14, 16, 17). -/

/-- R362, R365, R370: a window takes the lowest free entry with a fresh key, and a full table is refused; a destroyed one reads as at
reset. A data queue pair is created in the lowest free entry, connected with what the request gives, and given back.
Rests also on the model's choices of logs 89 and 99. -/
def Obligations.WindowsAndPairsAreMade : Prop :=
  (∀ (s : State) (r : Req) (base len perms : Nat), serves s r 0x0304 → 0 < len → len < 2 ^ 40 → perms < 4 → base < 2 ^ 48 →
    windowReach s base len = true →
    (∀ w, (List.range 64).find? (fun w => fld s ETH_WIN_LENGTH 0 w == 0) = some w →
      let key := w + 256 * ((kGetD s.eth.gens w 0 + 1) % 2 ^ 24)
      servedWith (.winCreate r base len perms) s r 0x0304 0 (leBytes 1 w ++ leBytes 4 key) [ETH_WIN.at 0 w] (fun t =>
        fld t ETH_WIN_BASE 0 w = base ∧ fld t ETH_WIN_LENGTH 0 w = len ∧ fld t ETH_WIN_READ 0 w = perms % 2 ∧
        fld t ETH_WIN_WRITE 0 w = perms / 2 ∧ fld t ETH_WIN_R_KEY 0 w = key)) ∧
    ((∀ w, w < 64 → fld s ETH_WIN_LENGTH 0 w ≠ 0) → turnedAway (.winCreate r base len perms) s r 0x0304 0x60)) ∧
  (∀ (s : State) (r : Req) (base len perms : Nat), serves s r 0x0304 → 0 < len → len < 2 ^ 40 → perms < 4 → base < 2 ^ 48 →
    windowReach s base len = false → turnedAway (.winCreate r base len perms) s r 0x0304 0x61) ∧
  (∀ (s : State) (r : Req) (rkey : Nat), serves s r 0x0305 →
    (∀ w, windowIx s rkey = some w → servedWith (.winDestroy r rkey) s r 0x0305 0 [] [ETH_WIN.at 0 w] (fun t =>
      fld t ETH_WIN_LENGTH 0 w = 0)) ∧
    (windowIx s rkey = none → turnedAway (.winDestroy r rkey) s r 0x0305 0x23)) ∧
  (∀ (s : State) (r : Req) (port q : Nat), serves s r 0x0A01 → port < 2 → 8 ≤ q → q < 256 → fld s ETH_QP_STATE 0 q = 0 →
    (∀ p, 8 ≤ p → p < q → fld s ETH_QP_STATE 0 p ≠ 0) →
    servedWith (.qpCreate r port) s r 0x0A01 0 (leBytes 1 q) [ETH_QP.at 0 q] (fun t => fld t ETH_QP_STATE 0 q = 1 ∧
      fld t ETH_QP_PORT 0 q = port ∧ qpS t q = {})) ∧
  (∀ (s : State) (r : Req) (q qpn sp rp tmo : Nat) (ip : BitVec 128), serves s r 0x0A02 → 8 ≤ q → q < 256 → qpn < 2 ^ 24 →
    sp < 2 ^ 24 → rp < 2 ^ 24 → 6 ≤ tmo → tmo ≤ 21 →
    (fld s ETH_QP_STATE 0 q = 1 → servedWith (.qpConnect r q qpn sp rp ip tmo) s r 0x0A02 0 [] [ETH_QP.at 0 q] (fun t =>
      fld t ETH_QP_STATE 0 q = 3 ∧ fld t ETH_QP_REMOTE_QPN 0 q = qpn ∧ fld t ETH_QP_SEND_PSN 0 q = sp ∧
      fld t ETH_QP_RECV_PSN 0 q = rp ∧ fld t ETH_QP_ACK_TMO 0 q = tmo - 6 ∧ (qpS t q).ip = ip.toNat)) ∧
    (fld s ETH_QP_STATE 0 q ≠ 1 → turnedAway (.qpConnect r q qpn sp rp ip tmo) s r 0x0A02 0x32)) ∧
  (∀ (s : State) (r : Req) (q : Nat), serves s r 0x0A03 → 8 ≤ q → q < 256 →
    (fld s ETH_QP_STATE 0 q ≠ 0 → servedWith (.qpDestroy r q) s r 0x0A03 0 [] [ETH_QP.at 0 q] (fun t =>
      fld t ETH_QP_STATE 0 q = 0 ∧ qpS t q = {})) ∧
    (fld s ETH_QP_STATE 0 q = 0 → turnedAway (.qpDestroy r q) s r 0x0A03 0x32)) ∧
  (∀ (s : State) (r : Req) (parts : BitVec 16), serves s r 0x0A04 →
    ∃ t, exec (.shutter r parts) s = .next t ∧ repliedTo s t r 0x0A04 0 false [] ∧
      fld t SBN_SHUTTER_MASK = fld s SBN_SHUTTER_MASK ||| parts.toNat) ∧
  (∀ (s : State) (r : Req) (parts : BitVec 16), serves s r 0x0A05 →
    (jobLoaded s = false → servedWith (.shutterClear r parts) s r 0x0A05 0 [] [SBN_SHUTTER.at 0 0] (fun t =>
      ∀ p, p < 16 → bitOf p (fld t SBN_SHUTTER_MASK) = (bitOf p (fld s SBN_SHUTTER_MASK) && !bitOf p parts.toNat))) ∧
    (jobLoaded s = true → turnedAway (.shutterClear r parts) s r 0x0A05 0x31))

/-- R125, R135, R136, R137, R142: a staged descriptor that is valid, in order and of a new version becomes its table's shadow; one that
is not, or has a reserved bit set, is refused. A flip whose tables are all staged is pending at every stack. New optimiser values and thresholds of a live
table wait at every stack, a down threshold above its up threshold taken as equal to it. -/
def Obligations.TablesAreStagedAndSet : Prop :=
  (∀ (s : State) (r : Req) (k x : Nat) (d : BitVec 512), serves s r 0x0306 → k < 8 → x < 64 → flipNames s x = false →
    let reserved := descReserved.any (fun f => bitsOf f.1 f.2 d.toNat != 0)
    let good := tdValid d.toNat = true ∧ bitsOf 0 6 d.toNat = x ∧ descOk s k d.toNat = true ∧
      (tdValid (tdesc s k x) = true → tdVersion d.toNat ≠ tdVersion (tdesc s k x))
    (reserved = true → turnedAway (.tableStage r k x d) s r 0x0306 0x23) ∧
    (reserved = false → good → servedWith (.tableStage r k x d) s r 0x0306 0 [] [EMB_SDESC.at k x] (fun t => fld t EMB_SDESC_DESC k x = d.toNat)) ∧
    (reserved = false → ¬good → turnedAway (.tableStage r k x d) s r 0x0306 0x43)) ∧
  (∀ (s : State) (r : Req) (k x : Nat) (d : BitVec 512), serves s r 0x0306 → k < 8 → x < 64 → flipNames s x = true →
    descReserved.all (fun f => bitsOf f.1 f.2 d.toNat == 0) = true →
    turnedAway (.tableStage r k x d) s r 0x0306 0x32) ∧
  (∀ (s : State) (r : Req) (tables step : BitVec 64), serves s r 0x0307 →
    (fld s EMB_FLIP_PENDING = 1 → turnedAway (.tableFlip r tables step) s r 0x0307 0x32) ∧
    (fld s EMB_FLIP_PENDING ≠ 1 → (started s = true → stepAfter step.toNat s.step.takenStep = true) →
      (∀ x, x < 64 → bitOf x tables.toNat = true → (∃ k, k < 8 ∧ staged s k x = true) ∧
        ∀ k, k < 8 → tdValid (tdesc s k x) = true → staged s k x = true) →
      servedWith (.tableFlip r tables step) s r 0x0307 0 [] ((List.range 8).map (fun k => EMB_FLIP.at k 0)) (fun t =>
        ∀ k, k < 8 → fld t EMB_FLIP_PENDING k = 1 ∧ fld t EMB_FLIP_TABLES k = tables.toNat ∧ fld t EMB_FLIP_STEP k = step.toNat))) ∧
  (∀ (s : State) (r : Req) (x : Nat), x < 64 → liveSomewhere s x = true →
    (∀ v : BitVec 160, serves s r 0x0309 → ∃ t, exec (.tableOpt r x v) s = .next t ∧ repliedTo s t r 0x0309 0 false [] ∧
      (∀ k, k < 8 → kGet? (emb t k).optPending x = some v.toNat) ∧ (∀ k, 8 ≤ k → emb t k = emb s k) ∧ sameMem s t ∧
      sameTiles s t ∧ t.graphs = s.graphs ∧ t.brys = s.brys ∧ t.sbn = s.sbn ∧ t.step = s.step ∧ sameRegs (serviceRegs r) s t) ∧
    (∀ up16 dn16 up8 dn8 : Nat, up16 < 256 → dn16 < 256 → up8 < 256 → dn8 < 256 → serves s r 0x030A →
      ∃ t, exec (.tableThresh r x up16 dn16 up8 dn8) s = .next t ∧ repliedTo s t r 0x030A 0 false [] ∧
      (∀ k, k < 8 → kGet? (emb t k).thrPending x =
        some (up16 + 256 * min dn16 up16 + 65536 * up8 + 16777216 * min dn8 up8)) ∧ (∀ k, 8 ≤ k → emb t k = emb s k) ∧
      sameMem s t ∧ sameTiles s t ∧ t.graphs = s.graphs ∧ t.brys = s.brys ∧ t.sbn = s.sbn ∧ t.step = s.step ∧
      sameRegs (serviceRegs r) s t)) ∧
  (∀ (s : State) (r : Req) (x : Nat) (v : BitVec 160), x < 64 → liveSomewhere s x = false → serves s r 0x0309 →
    turnedAway (.tableOpt r x v) s r 0x0309 0x23)

/-! Step control and contexts (13, 17, 20). -/

/-- R289, R290, R294, R295: a halted step goes on as skipped or as rescaled, a paused one as it was, and a stop scrubs; an undo takes the
last committed step back; a replay of the halted step begins it again, and its reply waits for the commit point. What the
state does not allow is refused.
Rests also on the model's choices of logs 77, 80 and 88. -/
def Obligations.HaltedStepsGoOn : Prop :=
  (∀ (s : State) (r : Req), serves s r 0x0402 → jobState s = 3 → s.step.replay = none →
    (s.step.halt = 1 ∨ s.step.halt = 2 → ∃ t, exec (.stepResume r 2) s = .next t ∧ repliedTo s t r 0x0402 0 false [] ∧
      jobState t = 5 ∧ t.jobEnd.lastCommitted = s.step.committedStep ∧ sameMem s t ∧ sameTiles s t ∧ t.sbn = s.sbn) ∧
    (∀ o, o < 2 → s.step.halt = 2 → ∃ t, exec (.stepResume r o) s = .next t ∧ repliedTo s t r 0x0402 0 false [] ∧
      jobState t = 2 ∧ t.step = { s.step with halt := 0 } ∧ fld t PANE_COMMIT_STATUS_PHASE = 0 ∧ sameMem s t ∧ sameTiles s t ∧
      sameBases s t ∧ t.sbn = s.sbn ∧ sameRegs (serviceRegs r ++ [PANE_COMMIT_STATUS.at 0 0]) s t) ∧
    (s.step.halt = 1 → ∃ t, exec (.stepResume r 0) s = .next t ∧ repliedTo s t r 0x0402 0 false [] ∧ jobState t = 2 ∧
      t.step.halt = 0 ∧ t.step.outcome = 2 ∧ t.step.current = s.step.current ∧ fld t PANE_COMMIT_STATUS_PHASE = 2 ∧
      t.commit.digest = 0 ∧ sameMem s t) ∧
    (s.step.halt = 1 → s.bad = [] → s.weak = [] → ∃ t, exec (.stepResume r 1) s = .next t ∧ repliedTo s t r 0x0402 0 false [] ∧ t.step.halt = 0 ∧
      t.step.outcome = 0 ∧ t.step.open_ = true ∧ t.step.current = s.step.current ∧ fld t PANE_COMMIT_STATUS_PHASE = 4 ∧
      t.commit.reruns = s.commit.reruns + 1)) ∧
  (∀ (s : State) (r : Req) (o : Nat), serves s r 0x0402 → o ≤ 2 → jobState s ≠ 3 → turnedAway (.stepResume r o) s r 0x0402 0x32) ∧
  (∀ (s : State) (r : Req) (n : BitVec 64), serves s r 0x0403 → jobState s = 3 → s.step.replay = none →
    (s.step.committedStep = n.toNat → fld s PANE_COMMIT_STATUS_UNDO_VALID = 1 → s.bad = [] → s.weak = [] →
      ∃ t, exec (.stepUndo r n) s = .next t ∧ repliedTo s t r 0x0403 0 false [] ∧ jobState t = 3 ∧ t.step.halt = 3 ∧
        t.step.undone = some n.toNat ∧ t.step.open_ = false ∧ t.step.committedStep = (n.toNat + (2 ^ 64 - 1)) % 2 ^ 64 ∧
        fld t PANE_COMMIT_STATUS_UNDO_VALID = 0 ∧ fld t PANE_COMMIT_STATUS_PHASE = 5 ∧
        fld t PANE_SASH_VERSION = (fld s PANE_SASH_VERSION + (2 ^ 32 - 1)) % 2 ^ 32) ∧
    ((s.step.committedStep ≠ n.toNat ∨ fld s PANE_COMMIT_STATUS_UNDO_VALID = 0) → turnedAway (.stepUndo r n) s r 0x0403 0x32)) ∧
  (∀ (s : State) (r : Req) (n : BitVec 64) (mode : Nat), serves s r 0x0404 → mode ≤ 1 → jobState s = 3 → s.step.replay = none →
    (s.bad = [] → s.weak = [] → (s.step.halt = 1 ∧ s.step.current = n.toNat) ∨ (s.step.halt = 3 ∧ s.step.undone = some n.toNat) →
      ∃ t, exec (.stepReplay r n mode) s = .next t ∧ t.mgmt.replayReq = some r ∧ t.step.replay = some mode ∧
        t.step.current = n.toNat ∧ t.step.open_ = true ∧ fld t PANE_COMMIT_STATUS_PHASE = 6 ∧
        fld t PANE_COMMIT_STATUS_STEP = n.toNat ∧ fld t MBX_STATUS_IN_SERVICE = 1) ∧
    (s.step.halt = 0 ∨ s.step.halt = 2 → turnedAway (.stepReplay r n mode) s r 0x0404 0x32))

/-- R455 to R457: a save is begun by clearing the magic of the save area; it ends once nothing is in progress, with the header last and
the memory of every tile in its place, and changes nothing outside the save area. A restore into a loaded job whose header
matches happens at the next mullion: it takes the saved state over, and its tiles' memory.
Rests also on the model's choices of log 91. -/
def Obligations.ContextsSaveAndRestore : Prop :=
  (∀ (s : State) (r : Req), serves s r 0x0906 → s.rst.saving = 0 → s.bad = [] → s.weak = [] →
    (jobState s = 3 ∨ (jobState s = 2 ∧ s.job.startPending = none ∧ s.job.wicket = false ∧ alone s = true)) →
    ∃ t, exec (.contextSave r) s = .next t ∧ repliedTo s t r 0x0906 1 false [] ∧ load t retainedBase 4 = leBytes 4 0 ∧
      fld t RST_CTX_VALID = 0 ∧ t.rst.saving = (if jobState s = 3 then 2 else 1) ∧ sameMemBut retainedBase 4 s t ∧ sameTiles s t ∧
      sameBases s t ∧ t.sbn = s.sbn ∧ t.step = s.step ∧ t.job = s.job ∧ sameRegs (serviceRegs r ++ [RST_CTX.at 0 0]) s t) ∧
  (∀ (s : State) (r : Req), serves s r 0x0906 → jobState s ≠ 2 → jobState s ≠ 3 → turnedAway (.contextSave r) s r 0x0906 0x32) ∧
  (∀ s : State, Memory.wf s.mem = true → s.rst.saving ≠ 0 → quiet s = true →
    ∃ t, exec .contextSaved s = .next t ∧ t.rst.saving = 0 ∧ fld t RST_CTX_VALID = 1 ∧
      fld t RST_CTX_FINGERPRINT = fingerprint s ∧ load t retainedBase 0xE0 = ctxHeader s ∧
      loadNat t (retainedBase + 0xE0) 32 = shaNat (load t (retainedBase + 0x1000) (ctxBytes - 0x1000)) ∧
      (∀ l i, l < 96 → i < 0x820000 → memRead t.mem (ctxTile l + i) = memRead s.mem (tileBase l + i)) ∧
      sameMemBut retainedBase ctxBytes s t ∧ sameTiles s t ∧ sameBases s t ∧ sameNets s t ∧ t.step = s.step) ∧
  (∀ s : State, (s.rst.saving = 0 ∨ quiet s = false) → ∃ t, exec .contextSaved s = .next t ∧ t.rst = s.rst ∧ sameUnits s t ∧
    sameRegs [] s t) ∧
  (∀ (s : State) (r : Req), serves s r 0x0907 → jobState s = 1 → s.bad = [] → s.weak = [] →
    (ctxMatches s = false → turnedAway (.contextRestore r) s r 0x0907 0x23) ∧
    (ctxMatches s = true → ctxField s 0x30 8 ≠ fld s TILE_GEOM_FINGERPRINT → turnedAway (.contextRestore r) s r 0x0907 0x42) ∧
    (ctxMatches s = true → ctxField s 0x30 8 = fld s TILE_GEOM_FINGERPRINT →
      servedWith (.contextRestore r) s r 0x0907 0 [] [] (fun t => t.rst.restoring = some (pane s)))) ∧
  (∀ (s : State) (p : Nat) (c : CtxS), Memory.wf s.mem = true → s.rst.restoring = some p → jobState s = 1 →
    (p < pane s → (ctxField s 0xE0 32, c) ∈ s.rst.contexts → (∀ e ∈ s.rst.contexts, e.1 = ctxField s 0xE0 32 → e.2 = c) →
      ∃ t, exec .contextRestored s = .next t ∧ t.rst.restoring = none ∧ jobState t = (if ctxField s 6 1 = 3 then 3 else 2) ∧
        t.sched = { c.sched with memReqs := [] } ∧ t.stash = c.stash ∧ t.tiles = c.tiles ∧ t.graphs = c.graphs ∧
        t.step = { c.step with latchPane := pane s, endPane := pane s } ∧ pane t = pane s ∧ t.brys = s.brys ∧
        (∀ l i, l < 96 → i < 0x820000 → memRead t.mem (tileBase l + i) = memRead s.mem (ctxTile l + i)) ∧
        (∀ a, a < tileBase 0 → memRead t.mem a = memRead s.mem a)) ∧
    (pane s ≤ p → ∃ t, exec .contextRestored s = .next t ∧ t.rst = s.rst ∧ sameUnits s t ∧ sameRegs [] s t)) ∧
  (∀ (s : State) (r : Req) (o : Nat) (data : List Byte), serves s r 0x0909 → data.length ≤ 4084 → o + data.length ≤ 2 ^ 30 →
    s.bad = [] → s.weak = [] →
    ∃ t, exec (.contextWrite r o data) s = .next t ∧ repliedTo s t r 0x0909 0 false [] ∧
      load t (retainedBase + o) data.length = data ∧ sameMemBut (retainedBase + o) data.length s t ∧ sameTiles s t ∧ sameBases s t ∧
      t.sbn = s.sbn ∧ t.step = s.step ∧ sameRegs (serviceRegs r ++ [RST_CTX.at 0 0]) s t)

/-! Security and debug (19). -/

/-- R413 to R422, R425: a report is made and held; a challenge issues the one outstanding nonce, which ends at its expiry; the last
fragment of a token is checked once, and consumes the nonce: a good one opens the deadbolt for the cold starts it names. A
close seals an open deadbolt and ends the session. An owner key is enrolled into a free slot. `SEC_POLICY` takes its bits.
Rests also on the model's choices of logs 5, 6, 85 and 87. -/
def Obligations.TrustIsEstablished : Prop :=
  (∀ (s : State) (r : Req) (nonce : BitVec 256), serves s r 0x0701 →
    servedWith (.attest r nonce none) s r 0x0701 0 (pageOf (reportOf (inService s r) nonce) 0) [SEC_EVT.at 0 0] (fun t =>
      (clsNo r.cls, reportOf (inService s r) nonce) ∈ t.sec.reports ∧
      fld t SEC_EVT_REPORTS = satAdd 32 (fld s SEC_EVT_REPORTS) 1) ∧
    ∀ rep o, s.sec.reports = [(clsNo r.cls, rep)] → slice rep 0x10 32 = leBytes 32 nonce.toNat → o < 17344 →
      servedWith (.attest r nonce (some o)) s r 0x0701 0 (pageOf rep o) [] (fun _ => True)) ∧
  (∀ (s : State) (r : Req), serves s r 0x0703 →
    (deadbolt s ≠ 0 → servedWith (.deadboltChallenge r) s r 0x0703 0
      (leBytes 32 (Config.freshNonce s.sec.nonces).toNat ++ leBytes 32 (fld s SEC_DEVID_DEVICE_ID)) [] (fun t =>
        t.sec.nonce = some (Config.freshNonce s.sec.nonces) ∧ t.sec.nonces = s.sec.nonces + 1)) ∧
    (deadbolt s = 0 → turnedAway (.deadboltChallenge r) s r 0x0703 0x32)) ∧
  (∀ s : State, ∃ t, exec .nonceExpiry s = .next t ∧ t.sec = { s.sec with nonce := none } ∧ sameUnits s t ∧ sameRegs [] s t) ∧
  (∀ (s : State) (r : Req) (o : Nat) (bs : List Byte), serves s r 0x0704 →
    (∀ a, joinFragment s.sec.token r.cls r.qp o bs = some a →
      (a.bytes.length < 7984 → servedWith (.deadboltOpen r o bs) s r 0x0704 0 [] [] (fun t => t.sec.token = some a ∧
        t.sec.nonce = s.sec.nonce)) ∧
      (a.bytes.length = 7984 → tokenGood s a.bytes = true →
        servedWith (.deadboltOpen r o bs) s r 0x0704 0 [] [SEC_STATE.at 0 0, SEC_EVT.at 0 0] (fun t => deadbolt t = 2 ∧
          fld t SEC_STATE_REMAINING = leAt a.bytes 8 1 ∧ fld t SEC_STATE_SIGNER = leAt a.bytes 6 1 ∧
          t.sec.scopePending = some (leAt a.bytes 7 1) ∧ t.sec.token = none ∧ t.sec.nonce = none ∧
          fld t SEC_EVT_OPENS = satAdd 32 (fld s SEC_EVT_OPENS) 1)) ∧
      (a.bytes.length = 7984 → tokenGood s a.bytes = false →
        servedWith (.deadboltOpen r o bs) s r 0x0704 0x51 [] [SEC_EVT.at 0 0, MBX_REFUSAL.at 0 0] (fun t =>
          deadbolt t = deadbolt s ∧ t.sec.token = none ∧ t.sec.nonce = none ∧
          fld t SEC_EVT_REJECTS = satAdd 32 (fld s SEC_EVT_REJECTS) 1))) ∧
    (joinFragment s.sec.token r.cls r.qp o bs = none →
      servedWith (.deadboltOpen r o bs) s r 0x0704 0x23 [] [MBX_REFUSAL.at 0 0] (fun t => t.sec.token = none))) ∧
  (∀ (s : State) (r : Req), serves s r 0x0705 →
    (deadbolt s = 2 → servedWith (.deadboltClose r) s r 0x0705 0 [] [SEC_STATE.at 0 0] (fun t => deadbolt t = 1 ∧
      fld t SEC_STATE_SCOPE = 0 ∧ fld t SEC_STATE_REMAINING = 0 ∧ fld t SEC_STATE_SESSION = 0 ∧ fld t DRT_STATUS_ARMED = 0)) ∧
    (deadbolt s = 1 → servedWith (.deadboltClose r) s r 0x0705 0 [] [] (fun t => deadbolt t = 1))) ∧
  (∀ (s : State) (r : Req) (o : Nat) (bs : List Byte), serves s r 0x0706 → jobState s = 0 →
    ∀ a, joinFragment s.sec.auth r.cls r.qp o bs = some a →
      (a.bytes.length < 7984 → servedWith (.ownerEnrol r o bs) s r 0x0706 0 [] [] (fun t => t.sec.auth = some a)) ∧
      (a.bytes.length = 7984 → authOk s a.bytes = true → leAt a.bytes 4 1 = 0 → fld s SEC_OWNER_VALID 0 (leAt a.bytes 5 1) = 0 →
        servedWith (.ownerEnrol r o bs) s r 0x0706 0 [] [SEC_OWNER.at 0 (leAt a.bytes 5 1), SEC_MEAS.at 0 3] (fun t =>
          fld t SEC_OWNER_VALID 0 (leAt a.bytes 5 1) = 1 ∧
          kGet? t.sec.ownerHash (leAt a.bytes 5 1) = some (shaNat (slice a.bytes 40 32)))) ∧
      (a.bytes.length = 7984 → authOk s a.bytes = false →
        servedWith (.ownerEnrol r o bs) s r 0x0706 0x51 [] [SEC_EVT.at 0 0, MBX_REFUSAL.at 0 0] (fun t => t.sec.auth = none ∧
          t.sec.ownerHash = s.sec.ownerHash))) ∧
  (∀ (s : State) (r : Req) (o : Nat) (bs : List Byte), serves s r 0x0706 → jobState s ≠ 0 →
    turnedAway (.ownerEnrol r o bs) s r 0x0706 0x32) ∧
  (∀ (s : State) (r : Req) (v : BitVec 32), serves s r 0x070A →
    (v.toNat < 8 → servedWith (.secPolicy r v) s r 0x070A 0 [] [SEC_POLICY.at 0 0] (fun t =>
      fld t SEC_POLICY_OWNER_ONLY = bitsOf 1 1 v.toNat ∧ fld t SEC_POLICY_DEBUG_MIN = bitsOf 2 1 v.toNat ∧
      t.sec.policyPending = some v.toNat)) ∧
    (8 ≤ v.toNat → turnedAway (.secPolicy r v) s r 0x070A 0x23))

/-- R411, R424, R426 to R428: an update session takes its image in ascending pieces, commits one that passes, and makes it the slot of
the next cold start; one out of order is refused and changes nothing. A trace runs and stops, and keeps its buffer. Draughts
are set, armed at the next mullion and cleared. A session lapses 10 s after the last debug-class message.
Rests also on the model's choices of logs 10, 83, 86 and 96. -/
def Obligations.UpdatesTracesAndDraughts : Prop :=
  (∀ (s : State) (r : Req) (n : Nat) (d : BitVec 256), serves s r 0x0707 → n ≤ 2 ^ 24 →
    ((∀ f, s.sec.fw = some f → f.cls = r.cls) → servedWith (.fwBegin r n d) s r 0x0707 0 [] [SEC_BOOT.at 0 0] (fun t =>
      t.sec.fw = some ⟨r.cls, n, d, []⟩ ∧ t.sec.fwDone = false ∧ fld t SEC_BOOT_UPDATE_READY = 0 ∧
      bitOf (1 - fld s SEC_BOOT_SLOT) t.sec.slotEmpty = true)) ∧
    ((∃ f, s.sec.fw = some f ∧ f.cls ≠ r.cls) → turnedAway (.fwBegin r n d) s r 0x0707 0x32)) ∧
  (∀ (s : State) (r : Req) (f : FwSession) (o : Nat) (bs : List Byte), s.sec.fw = some f → f.cls = r.cls → serves s r 0x0708 →
    (bs.length ≤ 4088 → o = f.bytes.length → o + bs.length ≤ f.size → servedWith (.fwData r o bs) s r 0x0708 0 [] [] (fun t =>
      t.sec.fw = some { f with bytes := f.bytes ++ bs })) ∧
    (o ≠ f.bytes.length → servedWith (.fwData r o bs) s r 0x0708 0x23 [] [MBX_REFUSAL.at 0 0] (fun t => t.sec.fw = some f))) ∧
  (∀ (s : State) (r : Req) (f : FwSession), s.sec.fw = some f → f.cls = r.cls → serves s r 0x0709 →
    (imageOk s f = true → servedWith (.fwCommit r) s r 0x0709 1 [] [SEC_EVT.at 0 0] (fun t => t.sec.fw = some f ∧
      t.sec.fwDone = true ∧ fld t SEC_EVT_UPDATES = satAdd 32 (fld s SEC_EVT_UPDATES) 1)) ∧
    (imageOk s f = false → servedWith (.fwCommit r) s r 0x0709 0x52 [] [SEC_BOOT.at 0 0, MBX_REFUSAL.at 0 0] (fun t =>
      t.sec.fw = none))) ∧
  (∀ s : State,
    (∀ f, s.sec.fw = some f → s.sec.fwDone = true → ∃ t, exec .fwCommitDone s = .next t ∧ t.sec.fw = none ∧
      t.sec.activeSlot = 1 - fld s SEC_BOOT_SLOT ∧ fld t SEC_BOOT_UPDATE_READY = 1 ∧ sameUnits s t ∧ sameRegs [SEC_BOOT.at 0 0] s t) ∧
    ((s.sec.fw = none ∨ s.sec.fwDone = false) → ∃ t, exec .fwCommitDone s = .next t ∧ t.sec = s.sec ∧ sameUnits s t ∧
      sameRegs [] s t)) ∧
  (∀ (s : State) (r : Req) (sel : BitVec 128), serves s r 0x0801 →
    servedWith (.traceStart r sel) s r 0x0801 0 [] [SEC_STATE.at 0 0] (fun t => t.sec.trace = some sel ∧ t.sec.traceHeld = true ∧
      fld t SEC_STATE_SESSION = 1)) ∧
  (∀ (s : State) (r : Req), serves s r 0x0802 → servedWith (.traceStop r) s r 0x0802 0 [] [SEC_STATE.at 0 0] (fun t =>
    t.sec.trace = none ∧ t.sec.traceHeld = s.sec.traceHeld)) ∧
  (∀ (s : State) (r : Req) (o : Nat), serves s r 0x0803 → o < 2 ^ 26 →
    (s.sec.traceHeld = true → ∃ n, n ≤ 4096 ∧ servedWith (.traceRead r o) s r 0x0803 0
      ((List.range n).map (fun i => Config.traceByte (o + i))) [] (fun _ => True)) ∧
    (s.sec.traceHeld = false → servedWith (.traceRead r o) s r 0x0803 0 [] [] (fun _ => True))) ∧
  (∀ (s : State) (r : Req) (a w : BitVec 64), serves s r 0x0804 → a.toNat < 2 ^ 48 → a.toNat % 8 = 0 →
    let ps := (wordPieces a.toNat).filter (fun p => p.reg.block == .drt)
    (ps ≠ [] → (ps.map (fun p => p.reg.at p.k p.n)).Nodup → servedWith (.draughtSet r [(a, w)]) s r 0x0804 0 (leBytes 2 0xFFFF)
      (ps.map (fun p => p.reg.at p.k p.n)) (fun t => t.sec.drtPane = some (pane s) ∧
        ∀ p ∈ ps, readReg t p.reg p.k p.n = written s p w.toNat)) ∧
    (ps = [] → ∃ t, exec (.draughtSet r [(a, w)]) s = .next t ∧ repliedTo s t r 0x0804 0x61 false (leBytes 2 0) ∧
      requestFrame r [MBX_REFUSAL.at 0 0] s t)) ∧
  (∀ s : State,
    (∀ p, s.sec.drtPane = some p → p < pane s → ∃ t, exec .draughtArmed s = .next t ∧ t.sec.drtPane = none ∧
      fld t DRT_STATUS_ARMED = bitsToNat (drtArm.map (fun f => fld s f != 0)) ∧
      (∀ f ∈ drtArm, drt t f = fld s f) ∧ sameUnits s t ∧
      sameRegs [DRT_STATUS.at 0 0, SEC_STATE.at 0 0] s t) ∧
    (∀ p, s.sec.drtPane = some p → pane s ≤ p → ∃ t, exec .draughtArmed s = .next t ∧ t.sec = s.sec ∧ sameUnits s t ∧
      sameRegs [] s t) ∧
    (s.sec.drtPane = none → ∃ t, exec .draughtArmed s = .next t ∧ t.sec = s.sec ∧ sameUnits s t ∧ sameRegs [] s t)) ∧
  (∀ (s : State) (r : Req), serves s r 0x0805 → servedWith (.draughtClear r) s r 0x0805 0 [] [SEC_STATE.at 0 0] (fun t =>
    fld t DRT_STATUS_ARMED = 0 ∧ (∀ f ∈ drtArm, fld t f = 0 ∧ drt t f = 0) ∧ t.sec.drtPane = none)) ∧
  (∀ (s : State) (ms : Nat),
    (10000 ≤ ms → ∃ t, exec (.debugSessionLapse ms) s = .next t ∧ t.sec = { s.sec with debugRecent := false } ∧
      fld t SEC_STATE_SESSION = b2n (s.sec.trace.isSome || fld s DRT_STATUS_ARMED != 0 ||
        (power s == 5 && fld s SEC_STATE_SESSION == 1)) ∧ sameUnits s t ∧ sameRegs [SEC_STATE.at 0 0] s t) ∧
    (ms < 10000 → ∃ t, exec (.debugSessionLapse ms) s = .next t ∧ t.sec = s.sec ∧ sameUnits s t ∧ sameRegs [] s t))

/-! Arrivals, events and logs (17, 20). -/

/-- R378, R380, R389, R390, R392, R453, R454: a message that arrives enters its queue; at a full queue, or with the cores down, the
message engine answers it and it is not queued. The first record of the FIFO that may go leaves it for the error log and its
sinks, an event with all of its code. Sinks, telemetry, log entries and the dump do what their requests say.
Rests also on the model's choices of logs 11, 12 and 82. -/
def Obligations.EventsAndLogs : Prop :=
  (∀ (s : State) (a : Arrival), clsReaches s a.cls a.qp = true →
    (fld s MBX_STATUS_FAILED = 0 → fld s MBX_STATUS_IN_RESET = 0 → fld s MBX_STATUS_READY = 1 → s.rst.serviceRom = false →
      (queueLen s a.cls < queueDepth a.cls → badArrival a = none → (∀ b ∈ s.mgmt.queue, badArrival b = none) →
        ∃ t, exec (.mailboxArrival a) s = .next t ∧ t.mgmt.queue = s.mgmt.queue ++ [a] ∧ t.out = [] ∧ sameUnits s t ∧
          sameRegs [] s t) ∧
      (queueDepth a.cls ≤ queueLen s a.cls → ∃ t, exec (.mailboxArrival a) s = .next t ∧ t.mgmt.queue = s.mgmt.queue ∧
        engineReplies s t a 0x10 (fld s MBX_CFG_BUSY_HINT) ∧
        fld t MBX_EVT_BUSY = satAdd 32 (fld s MBX_EVT_BUSY) 1 ∧ sameMem s t ∧ sameTiles s t ∧ sameBases s t ∧ t.sbn = s.sbn ∧
        sameRegs [ETH_QP.at 0 a.qp, ETH_EVT.at 0 0] s t) ∧
      (∀ st, s.mgmt.queue = [] → badArrival a = some st → ∃ t, exec (.mailboxArrival a) s = .next t ∧ t.mgmt.queue = [] ∧
        engineReplies s t a st 0 ∧ sameMem s t ∧ sameTiles s t ∧ sameBases s t ∧ t.sbn = s.sbn ∧
        sameRegs [ETH_QP.at 0 a.qp, MBX_REFUSAL.at 0 0] s t)) ∧
    (fld s MBX_STATUS_FAILED = 1 → ∃ t, exec (.mailboxArrival a) s = .next t ∧ t.mgmt.queue = s.mgmt.queue ∧
      engineReplies s t a 0x12 0 ∧ sameMem s t ∧ sameRegs [ETH_QP.at 0 a.qp] s t)) ∧
  (∀ (s : State) (e : EvRec) (l : List EvRec) (ms : Nat), fld s MBX_STATUS_READY = 1 → s.rst.serviceRom = false →
    s.mgmt.fifo = e :: l → l.length ≤ 256 →
    (e.kind ≠ 0 → ∃ t, exec (.event ms) s = .next t ∧ t.mgmt.fifo = l ∧
      (s.mgmt.log.length < 4096 → t.mgmt.log = s.mgmt.log ++ [(fld s RST_LOG_NEXT, e)]) ∧
      fld t RST_LOG_NEXT = (fld s RST_LOG_NEXT + 1) % 2 ^ 32 ∧ Emit.event .platform 0xFF s.mgmt.seqPlat e ∈ t.out ∧ sameMem s t ∧
      sameTiles s t ∧ sameBases s t ∧ t.sbn = s.sbn ∧ sameRegs [ETH_QP.at 0 (fld s MBX_SINK_QP)] s t) ∧
    (e.kind = 0 → mayReport s ms e = true → ∃ t, exec (.event ms) s = .next t ∧
      t.mgmt.fifo = l.filter (fun x => !(x.kind == 0 && x.code == e.code)) ∧ kGet? t.mgmt.gaps e.code = some ms ∧
      (bitOf (bitsOf 11 5 e.code) (fld s MBX_EVT_MASK_RANGE 0 1) = true →
        Emit.event .platform 0xFF s.mgmt.seqPlat { e with
          count := sumOf (((e :: l).filter (fun x => x.kind == 0 && x.code == e.code)).map (fun x => x.count)) } ∈ t.out) ∧
      sameMem s t ∧ sameTiles s t ∧ sameBases s t ∧ t.sbn = s.sbn ∧ sameRegs [ETH_QP.at 0 (fld s MBX_SINK_QP)] s t)) ∧
  (∀ (s : State) (ms : Nat), s.mgmt.fifo = [] → nothingHappens (.event ms) s) ∧
  (∀ (s : State) (r : Req) (q : Nat), serves s r 0x0503 →
    (q < 8 → servedWith (.eventSink r q) s r 0x0503 0 [] [MBX_SINK.at 0 0] (fun t => fld t MBX_SINK_VALID = 1 ∧
      fld t MBX_SINK_QP = q)) ∧
    (q = 0xFF → servedWith (.eventSink r q) s r 0x0503 0 [] [MBX_SINK.at 0 0] (fun t => fld t MBX_SINK_VALID = 0)) ∧
    (8 ≤ q → q ≠ 0xFF → turnedAway (.eventSink r q) s r 0x0503 0x23)) ∧
  (∀ (s : State) (r : Req) (ms : Nat), serves s r 0x0502 →
    (ms = 0 ∨ 10 ≤ ms → ms < 65536 → servedWith (.telemetryPeriod r ms) s r 0x0502 0 [] [] (fun t =>
      kGetD t.mgmt.period (clsNo r.cls) 0 = ms)) ∧
    (0 < ms → ms < 10 → turnedAway (.telemetryPeriod r ms) s r 0x0502 0x23)) ∧
  (∀ s : State, fld s MBX_STATUS_READY = 1 → s.rst.serviceRom = false →
    ∃ t, exec .telemetryTick s = .next t ∧ sameMem s t ∧ sameTiles s t ∧ sameBases s t ∧ t.sbn = s.sbn ∧
      sameRegs [ETH_QP.at 0 (fld s MBX_SINK_QP)] s t ∧
      (kGetD s.mgmt.period 1 0 ≠ 0 → Emit.telemetry .platform 0xFF (telemetry s 0) ∈ t.out) ∧
      (kGetD s.mgmt.period 0 0 ≠ 0 → fld s MBX_SINK_VALID = 1 → clsReaches s .host (fld s MBX_SINK_QP) = true →
        fld s ETH_QP_STATE 0 (fld s MBX_SINK_QP) = 3 → kGet? s.eth.paused (fld s ETH_QP_PORT 0 (fld s MBX_SINK_QP)) = none →
        Emit.telemetry .host (fld s MBX_SINK_QP) (telemetry s 0) ∈ t.out) ∧
      (kGetD s.mgmt.period 0 0 = 0 → kGetD s.mgmt.period 1 0 = 0 → t.out = [])) ∧
  (∀ (s : State) (r : Req) (i : Nat), serves s r 0x0902 → servedWith (.logClear r i) s r 0x0902 0 [] [] (fun t =>
    t.mgmt.log = s.mgmt.log.filter (fun e => decide (i < e.1)))) ∧
  (∀ (s : State) (r : Req) (o : Nat), serves s r 0x0903 →
    (s.mgmt.dump = none → turnedAway (.dumpRead r o) s r 0x0903 0x32) ∧
    (∀ d, s.mgmt.dump = some d → o < 0x80000 → servedWith (.dumpRead r o) s r 0x0903 0
      ((List.range (min 4096 (0x80000 - o))).map (fun i => dumpByteAt d (dumpHeader d) (d.fifo.flatMap (fun e => logEntry 0 e))
        (d.msgs.flatMap arrivalHeader) (o + i))) [] (fun t => t.mgmt.dump = if o + 4096 < 0x80000 then some d else none)))

/-! Power (18). -/

/-- R386, R394 to R403, R466: caps and policy wait for the mullion; a report of energy is counted and sets the input limit; a reading
below the trip point is kept, one at or above it trips the part: the job faults, tasks stop, and the part enters Recovery, which
it leaves once scrubbed and cool, with the louvres that are held open open again. An input or a regulator out of range faults the job; the loss of power loses all state but the
fuses' and the flash's. Standby keeps DRAM, and leaving it clears the tiles.
Rests also on the model's choices of logs 21 and 136. -/
def Obligations.PowerManagerActs : Prop :=
  (∀ (s : State) (r : Req) (cap : Nat), serves s r 0x0602 →
    (100 ≤ cap → cap ≤ 2000 → ∃ t, exec (.powerCap r cap) s = .next t ∧ repliedTo s t r 0x0602 0 false [] ∧ powerFrame r s t ∧
      t.power = (if r.cls = .host then { s.power with hostCap := some cap } else { s.power with platCap := some cap })) ∧
    (cap < 100 ∨ 2000 < cap → turnedAway (.powerCap r cap) s r 0x0602 0x23)) ∧
  (∀ (s : State) (r : Req) (mode v : Nat), serves s r 0x0603 → mode ≤ 2 → v < 2 ^ 32 →
    (mode ≠ 2 ∨ v ≠ 0 → ∃ t, exec (.powerPolicy r mode v) s = .next t ∧ repliedTo s t r 0x0603 0 false [] ∧ powerFrame r s t ∧
      t.power = { s.power with policy := some (mode, v) }) ∧
    (mode = 2 → v = 0 → turnedAway (.powerPolicy r mode v) s r 0x0603 0x23)) ∧
  (∀ (s : State) (r : Req), serves s r 0x0601 →
    (2 ≤ power s → jobState s = 0 → (r.cls = .debug ∨ fld s SEC_STATE_SESSION = 0 ∨ fld s SEC_POLICY_SESSION_HOLDS = 0) →
      ∃ t, exec (.powerState r 1) s = .next t ∧ repliedTo s t r 0x0601 0 false [] ∧ power t = 1 ∧ fld t RST_STATUS_SERVICE = 0 ∧
        (∀ p, p < 2 → fld t ETH_PORT_UP 0 p = 0) ∧ (∀ p, p < 10 → fld t SBN_PORT_UP 0 p = 0) ∧
        (∀ k, k < 8 → fld t BRY_STATUS_TRAINED k = 0 ∧ fld t BRY_STATUS_SELF_REF k = 1) ∧ sameMem s t ∧ sameBases s t) ∧
    (2 ≤ power s → jobState s ≠ 0 → turnedAway (.powerState r 1) s r 0x0601 0x32) ∧
    (power s = 1 → servedWith (.powerState r 1) s r 0x0601 0 [] [] (fun _ => True)) ∧
    (2 ≤ power s → servedWith (.powerState r 3) s r 0x0601 0 [] [] (fun _ => True)) ∧
    (power s = 1 → s.rst.held = none → ∃ t, exec (.powerState r 3) s = .next t ∧ repliedTo s t r 0x0601 0 false [] ∧
      power t = 2 ∧ fld t RST_STATUS_SERVICE = 1 ∧ fld t RST_BRINGUP_CAUSE = 3 ∧ t.tiles = [] ∧
      (∀ a, tileBase 0 ≤ a → a < tileBase 96 → memRead t.mem a = 0) ∧ (∀ a, a < tileBase 0 → memRead t.mem a = memRead s.mem a))) ∧
  (∀ (s : State) (n : Nat), power s ≠ 0 → ∃ t, exec (.energyReport n) s = .next t ∧
    t.power = { s.power with measured := s.power.measured + n,
                             filtered := if fld s PWR_INPUT_VOLTS = 0 then s.power.filtered else 42 * fld s PWR_INPUT_VOLTS / 100 } ∧
    fld t PWR_INPUT_WATTS = min (if power s = 2 then n * 9 / 2560 else n * 18 / 2560) 65535 ∧ sameMem s t ∧ sameTiles s t ∧
    sameBases s t ∧ sameNets s t ∧ t.step = s.step ∧ sameRegs [PWR_INPUT.at 0 0] s t) ∧
  (∀ (s : State) (k c ms : Nat), power s ≠ 0 → k ≤ 116 →
    let h := hottest (kSet s.power.sensors k c)
    (h.1 < fld s PWR_TLIM_T_TRIP → ∃ t, exec (.sensorRead [(k, c)] ms) s = .next t ∧
      t.power.sensors = kSet s.power.sensors k c ∧ fld t PWR_STATE_HOTTEST = h.1 % 256 ∧ fld t PWR_STATE_HOT_SRC = h.2 % 128 ∧
      (k < 96 → fld t TILE_STATUS_TEMP k = c % 2 ^ TILE_STATUS_TEMP.bits) ∧ jobState t = jobState s ∧ power t = power s ∧
      t.sched = s.sched ∧ sameMem s t ∧ sameTiles s t ∧ sameBases s t ∧ sameNets s t ∧ t.step = s.step ∧
      sameRegs [TILE_STATUS.at k 0] s t ∧
      (let clear := allBelow t (fld s PWR_TLIM_T_CLEAR)
       t.power.coolMs = (if clear then some (s.power.coolMs.getD ms) else none) ∧
       t.power.scrubHold = (s.power.scrubHold && !allBelow t (fld s PWR_TLIM_T_HOT)) ∧
       fld t PWR_STATE_COOLING = b2n (power s == 5 && !(clear && decide (s.power.coolMs.getD ms + 1000 ≤ ms))))) ∧
    (fld s PWR_TLIM_T_TRIP ≤ h.1 → fld s PANE_STATUS_TRIP = 0 → ∃ t, exec (.sensorRead [(k, c)] ms) s = .next t ∧
      fld t PANE_STATUS_TRIP = 1 ∧ fld t PWR_STATE_TRIP = 1 ∧ t.tap.thermtrip = false ∧ (∀ i, (site t i).run = none) ∧
      (jobLive s = true → jobState t = 4 ∧ t.jobEnd.lastCode = 0x7880) ∧ (2 ≤ power s → power s ≤ 4 → power t = 5) ∧
      (fld s PWR_FAULT_VALID = 0 → fld t PWR_FAULT_VALID = 1 ∧ fld t PWR_FAULT_CODE = 0x7880) ∧ sameMem s t)) ∧
  (∀ (s : State) (ms since : Nat), power s = 5 → jobState s = 0 → s.power.coolMs = some since →
    (since + 1000 ≤ ms → ∃ t, exec (.recoveryExit ms) s = .next t ∧ fld t PANE_STATUS_TRIP = 0 ∧ fld t PWR_STATE_TRIP = 0 ∧
      t.tap.thermtrip = true ∧ (fld s RST_STATUS_SERVICE = 2 → power t = 3 ∨ power t = 4) ∧
      (fld s RST_STATUS_SERVICE ≠ 2 → power t = 2) ∧ t.power = { s.power with scrubHold := false } ∧
      (∀ k, k < 96 → fld t MXA_STATUS_LOUVRE k = if fld s MXA_CFG_LOUVRE_EN k = 0 then 2 else fld s MXA_STATUS_LOUVRE k) ∧
      sameMem s t ∧ sameTiles s t ∧ sameBases s t ∧ sameNets s t ∧ t.step = s.step ∧
      sameRegs (PWR_CAP.at 0 0 :: SEC_STATE.at 0 0 :: (List.range 96).flatMap (fun k => [MXA_STATUS.at k 0, MXA_EVT.at k 0])) s t) ∧
    (ms < since + 1000 → nothingHappens (.recoveryExit ms) s)) ∧
  (∀ (s : State) (ms : Nat), power s ≠ 5 → (power s ≠ 1 ∨ fld s PANE_STATUS_TRIP = 0) → nothingHappens (.recoveryExit ms) s) ∧
  (∀ (s : State) (ms since : Nat), power s = 1 → fld s PANE_STATUS_TRIP = 1 → s.power.coolMs = some since → since + 1000 ≤ ms →
    ∃ t, exec (.recoveryExit ms) s = .next t ∧ fld t PANE_STATUS_TRIP = 0 ∧ t.tap.thermtrip = true ∧ power t = 1 ∧ sameMem s t ∧
      sameTiles s t ∧ sameBases s t ∧ sameNets s t ∧ sameRegs [] s t) ∧
  (∀ (s : State) (v us : Nat), power s ≠ 0 → v < 65536 →
    (100 ≤ us → (v < 4400 ∨ 5950 < v) → ∃ t, exec (.inputFault v us) s = .next t ∧ fld t PWR_INPUT_VOLTS = v ∧
      (jobLive s = true → jobState t = 4 ∧ t.jobEnd.lastCode = 0x7881) ∧ (2 ≤ power s → power s ≤ 4 → power t = 5) ∧
      (fld s PWR_FAULT_VALID = 0 → fld t PWR_FAULT_VALID = 1 ∧ fld t PWR_FAULT_SOURCE = 117 ∧ fld t PWR_FAULT_VALUE = v) ∧
      sameUnits s t ∧ sameRegs [PWR_INPUT.at 0 0, PWR_FAULT.at 0 0] s t) ∧
    ((us < 100 ∨ (4400 ≤ v ∧ v ≤ 5950)) → ∃ t, exec (.inputFault v us) s = .next t ∧ fld t PWR_INPUT_VOLTS = v ∧
      jobState t = jobState s ∧ power t = power s ∧ sameUnits s t ∧ sameRegs [PWR_INPUT.at 0 0] s t)) ∧
  (∀ (s : State) (g : Fin 8) (st : BitVec 3), power s ≠ 0 → st ≠ 0 → ∃ t, exec (.regulatorFault g st) s = .next t ∧
    (jobLive s = true → jobState t = 4 ∧ t.jobEnd.lastCode = 0x7882) ∧ (2 ≤ power s → power s ≤ 4 → power t = 5) ∧
    (st.getLsbD 2 = true → t.tap.pgood = false) ∧ (st.getLsbD 2 = false → t.tap.pgood = s.tap.pgood) ∧
    (fld s PWR_FAULT_VALID = 0 → fld t PWR_FAULT_VALID = 1 ∧ fld t PWR_FAULT_SOURCE = 120 + g.val ∧
      fld t PWR_FAULT_VALUE = st.toNat) ∧ sameMem s t ∧ sameTiles s t ∧ sameRegs [PWR_FAULT.at 0 0] s t) ∧
  (∀ (s : State) (v us : Nat),
    ((v < 4000 ∧ 20 ≤ us) ∨ (6200 < v ∧ 1 ≤ us) → ∃ t, exec (.regulatorShutdown v us) s = .next t ∧ power t = 0 ∧ jobState t = 0 ∧
      t.mem = [] ∧ t.tiles = [] ∧ t.mgmt.queue = [] ∧ t.tap.pgood = false ∧ deadbolt t = deadbolt s ∧
      t.sec.activeSlot = s.sec.activeSlot) ∧
    (¬((v < 4000 ∧ 20 ≤ us) ∨ (6200 < v ∧ 1 ≤ us)) → nothingHappens (.regulatorShutdown v us) s)) ∧
  (∀ s : State, power s ≠ 0 → ∃ t, exec .regulationRegained s = .next t ∧ t.tap.pgood = true ∧ t.power.regulators = 0 ∧ sameMem s t ∧
    sameTiles s t ∧ sameRegs [] s t)

/-! Resets, bring-up and recovery (20). -/

/-- R376, R377, R408, R409, R432, R433, R439 to R446, R449 to R451, R464: an accepted domain reset is answered at once, carried out when
no job stands in its way, and clears its domain alone; a reset of the management complex loses what it holds and ends when the
cores run again; a cold start, a reset pin and full service take the part through its states; a fault is reported, the part
scrubbed and the job state `NONE` again; the detectors fault a job that hangs.
Rests also on the model's choices of logs 100, 103, 104, 105, 108, 119, 136 and 137. -/
def Obligations.ResetsAndRecovery : Prop :=
  (∀ (s : State) (r : Req) (d k n ms : Nat), serves s r 0x0904 → domainInstances d = some n →
    (n ≤ k → turnedAway (.domainReset r d k ms) s r 0x0904 0x23) ∧
    (k < n → d ≤ 2 → jobLive s = true → ∃ t, exec (.domainReset r d k ms) s = .next t ∧ repliedTo s t r 0x0904 1 false [] ∧
      jobState t = 4 ∧ t.jobEnd.lastCode = 0x9081 ∧ (d, k) ∈ t.rst.domains ∧ sameMem s t ∧ sameTiles s t) ∧
    (k < n → (d ≤ 2 ∧ jobLive s = false) ∨ d = 3 → servedWith (.domainReset r d k ms) s r 0x0904 1 [] [] (fun t =>
      (d, k) ∈ t.rst.domains)) ∧
    (k < n → d = 5 → ∃ t, exec (.domainReset r d k ms) s = .next t ∧ repliedTo s t r 0x0904 1 false [] ∧
      fld t MBX_STATUS_READY = 0 ∧ fld t MBX_STATUS_IN_RESET = 1 ∧ t.mgmt.resetAt = ms ∧ sameMem s t ∧ sameTiles s t) ∧
    (k < n → d = 6 → r.cls ≠ .platform → turnedAway (.domainReset r d k ms) s r 0x0904 0x20) ∧
    (k < n → d = 6 → r.cls = .platform → ∃ t, exec (.domainReset r d k ms) s = .next t ∧ repliedTo s t r 0x0904 1 false [] ∧
      jobState t = 0 ∧ power t = 1 ∧ t.mem = [] ∧ t.tiles = [] ∧ (6, 0) ∈ t.rst.domains ∧ deadbolt t = deadbolt s)) ∧
  (∀ (s : State) (dom : Domain) (k : Nat),
    (s.rst.domains.contains (domainCode dom, k) = true → domainCode dom ≤ 4 →
      (3 ≤ domainCode dom ∨ jobState s = 0 ∨ jobState s = 5) → ∃ t, exec (.domainResetDone dom k) s = .next t ∧
      (domainCode dom, k) ∉ t.rst.domains ∧ fld t RST_DOMAIN_LAST = domainCode dom ∧ fld t RST_DOMAIN_INSTANCE = k % 256 ∧
      fld t RST_DOMAIN_COUNT = satAdd 32 (fld s RST_DOMAIN_COUNT) 1 ∧
      (dom = .tile → tileS t k = {} ∧ (∀ j, j ≠ k → tileS t j = tileS s j) ∧ sameBases s t ∧ sameNets s t ∧
        (∀ o, o < 0x1000000 → memRead t.mem (tileBase k + o) = 0) ∧ sameMemBut (tileBase k) 0x1000000 s t) ∧
      (dom = .engine → graph t k = {} ∧ emb t k = {} ∧ sameMem s t ∧ sameTiles s t ∧ t.brys = s.brys) ∧
      (dom = .stack → graph t k = {} ∧ emb t k = {} ∧ stackS t k = {} ∧ sameTiles s t ∧
        ((k ≠ 0 ∨ readReg s BRY_ILV 0 0 = BRY_ILV.reset) → sameMem s t)) ∧
      (dom = .sirben → fld t SBN_PORT_UP 0 k = 0 ∧ port t k = {} ∧ sameMem s t ∧ sameTiles s t ∧ sameBases s t ∧ t.eth = s.eth) ∧
      (dom = .ethernet → fld t ETH_PORT_UP 0 k = 0 ∧ fld t ETH_PORT_MAC 0 k = fld s ETH_PORT_MAC 0 k ∧
        (∀ q, q < 256 → fld s ETH_QP_PORT 0 q = k → fld t ETH_QP_STATE 0 q = 0) ∧
        (∀ w, w < 64 → fld t ETH_WIN_LENGTH 0 w = if (w, k) ∈ s.eth.winPorts then 0 else fld s ETH_WIN_LENGTH 0 w) ∧ sameMem s t ∧ sameTiles s t ∧ sameBases s t ∧
        t.sbn = s.sbn)) ∧
    ((s.rst.domains.contains (domainCode dom, k) = false ∨ 5 ≤ domainCode dom ∨
      (domainCode dom ≤ 2 ∧ 1 ≤ jobState s ∧ jobState s ≤ 4)) → nothingHappens (.domainResetDone dom k) s)) ∧
  (∀ (s : State) (r : Req) (ms : Nat), serves s r 0x0905 → ∃ t, exec (.mgmtReset r ms) s = .next t ∧
    repliedTo s t r 0x0905 0 false [] ∧ fld t MBX_STATUS_READY = 0 ∧ fld t MBX_STATUS_IN_RESET = 1 ∧ t.mgmt.resetAt = ms ∧
    sameMem s t ∧ sameTiles s t ∧ sameBases s t ∧ t.sbn = s.sbn) ∧
  (∀ (s : State) (core : Fin 4) (ms : Nat),
    (fld s MBX_STATUS_READY = 1 → power s ≠ 0 → s.mgmt.replayReq = none → ∃ t, exec (.mgmtWdtReset core ms) s = .next t ∧
      fld t MBX_STATUS_READY = 0 ∧ fld t MBX_STATUS_IN_RESET = 1 ∧ t.mgmt.queue = [] ∧ t.mgmt.resetAt = ms ∧
      fld t MBX_EVT_WDT_RESETS = satAdd 32 (fld s MBX_EVT_WDT_RESETS) 1 ∧
      (∀ a ∈ s.mgmt.queue, a.cls ≠ .host → ∃ j p, Emit.reply a.cls a.qp a.opcode a.seq 0x11 false 0 j p [] ∈ t.out) ∧
      ((recentResets s ms).length + 1 < fld s MBX_WDT_LIMIT → fld t MBX_STATUS_FAILED = fld s MBX_STATUS_FAILED ∧
        jobState t = jobState s) ∧
      (fld s MBX_WDT_LIMIT ≤ (recentResets s ms).length + 1 → fld t MBX_STATUS_FAILED = 1 ∧
        (jobLive s = true → jobState t = 4 ∧ t.jobEnd.lastCode = 0x7080)) ∧ sameMem s t ∧ sameTiles s t) ∧
    (fld s MBX_STATUS_READY = 0 → nothingHappens (.mgmtWdtReset core ms) s)) ∧
  (∀ (s : State) (ok : Bool) (ms : Nat),
    (fld s MBX_STATUS_IN_RESET = 1 → fld s MBX_STATUS_FAILED = 0 → (s.rst.firmwareCopy = false ∨ ok = true) →
      ∃ t, exec (.mgmtReady ok ms) s = .next t ∧ fld t MBX_STATUS_READY = 1 ∧ fld t MBX_STATUS_IN_RESET = 0 ∧
        (5, 0) ∉ t.rst.domains ∧ jobState t = jobState s ∧ sameUnits s t ∧ sameRegs [MBX_WDT.at 0 0, RST_DOMAIN.at 0 0] s t) ∧
    ((fld s MBX_STATUS_IN_RESET = 0 ∨ fld s MBX_STATUS_FAILED = 1) → nothingHappens (.mgmtReady ok ms) s)) ∧
  (∀ (s : State) (code : Nat), s.mgmt.reportDue = some code → fld s MBX_STATUS_READY = 1 →
    (groupOf s).filter (fun p => p != partId s) = [] → ∃ t, exec .faultReport s = .next t ∧ t.mgmt.reportDue = none ∧
      (s.mgmt.dump = none → ∃ d, t.mgmt.dump = some d ∧ d.cause = code ∧ d.fifo = s.mgmt.fifo ∧ d.pane = pane s) ∧
      (∀ d, s.mgmt.dump = some d → t.mgmt.dump = some { d with dropped := satAdd 32 d.dropped 1 }) ∧
      (∀ e rest, removeFirst (fun (e : EvRec) => e.kind == 1 && e.code == code) s.mgmt.fifo = some (e, rest) →
        Emit.event .platform 0xFF s.mgmt.seqPlat e ∈ t.out ∧ (rest.length ≤ 256 → t.mgmt.fifo = rest)) ∧
      jobState t = jobState s ∧ sameMem s t ∧ sameTiles s t ∧ sameBases s t ∧ t.sbn = s.sbn) ∧
  (∀ s : State, s.mgmt.reportDue = none → nothingHappens .faultReport s) ∧
  (∀ s : State, fld s MBX_STATUS_READY = 1 → s.power.scrubHold = false → s.mgmt.reportDue = none → s.mgmt.replayReq = none →
    (jobState s = 4 ∨ (jobState s = 5 ∧ s.rst.scrubbed = false) → ∃ t, exec .scrub s = .next t ∧ jobState t = 5 ∧
      t.rst.scrubbed = true ∧ t.job = {} ∧ t.step = {} ∧ t.tiles = [] ∧ t.graphs = [] ∧ t.embs = [] ∧ fld t SEC_MEAS_DIGEST 0 4 = 0 ∧
      (s.job.wicket = false → (∀ a, a < retainedBase → memRead t.mem a = 0) ∧
        (∀ a, tileBase 0 ≤ a → a < tileBase 96 → memRead t.mem a = 0) ∧
        (∀ a, retainedBase ≤ a → a < tileBase 0 → memRead t.mem a = memRead s.mem a)) ∧
      (s.job.wicket = true → (∀ a, tileBase 0 ≤ a → a < tileBase 16 → memRead t.mem a = 0) ∧
        (∀ a, a < tileBase 0 → memRead t.mem a = memRead s.mem a))) ∧
    (jobState s ≤ 3 → nothingHappens .scrub s)) ∧
  (∀ (s : State) (l : List (Nat × Nat)) (ms : Nat),
    (jobState s = 5 → s.rst.scrubbed = true → s.power.scrubHold = false → ∃ t, exec (.scrubDone l ms) s = .next t ∧
      jobState t = 0 ∧ t.rst.scrubbed = false ∧ fld t RST_EVT_SCRUBS = satAdd 32 (fld s RST_EVT_SCRUBS) 1 ∧ sameMem s t ∧
      sameTiles s t ∧ sameNets s t) ∧
    ((jobState s ≠ 5 ∨ s.rst.scrubbed = false ∨ s.power.scrubHold = true) → nothingHappens (.scrubDone l ms) s)) ∧
  (∀ (s : State) (i : Fin 104),
    (jobLive s = true → ((site s i.val).run.isSome = true ∨ (site s i.val).pieces ≠ []) →
      fld s RST_HANG_SITE_PANES ≤ (site s i.val).runMullions → hangs (.siteDetector i) s 0 i.val) ∧
    ((jobLive s = false ∨ (site s i.val).runMullions < fld s RST_HANG_SITE_PANES) → nothingHappens (.siteDetector i) s)) ∧
  (∀ s : State, jobState s = 2 →
    (s.step.open_ = true → s.commit.retiredIn = false → 2 ^ fld s RST_HANG_RETIRE_EXP ≤ s.commit.retirePanes →
      hangs .retirementDetector s 1 0x7F) ∧
    (s.step.open_ = true → 2 ^ fld s RST_HANG_STEP_EXP ≤ s.commit.stepPanes → hangs .stepDetector s 2 0x7F) ∧
    (s.step.committedStep = s.step.latchedStep → fld s RST_HANG_IDX_EXP ≠ 0 → 2 ^ fld s RST_HANG_IDX_EXP ≤ s.commit.idxPanes →
      hangs .indexDetector s 3 0x7F) ∧
    (s.commit.retirePanes < 2 ^ fld s RST_HANG_RETIRE_EXP → nothingHappens .retirementDetector s) ∧
    (s.commit.stepPanes < 2 ^ fld s RST_HANG_STEP_EXP → nothingHappens .stepDetector s) ∧
    ((fld s RST_HANG_IDX_EXP = 0 ∨ s.commit.idxPanes < 2 ^ fld s RST_HANG_IDX_EXP) → nothingHappens .indexDetector s)) ∧
  (∀ (s : State) (f : BootFindings), (power s = 0 ∨ s.rst.bootDone = false) → s.rst.domains.contains (6, 0) = false →
    (bootsThrough s f → f.strapHold = false → ∃ t, exec (.coldStart f) s = .next t ∧ power t = 2 ∧ fld t MBX_STATUS_READY = 1 ∧
      fld t RST_STATUS_SERVICE = 1 ∧ fld t RST_STATUS_STEP = 13 ∧ fld t RST_BRINGUP_CAUSE = 0 ∧ t.rst.bootDone = true ∧
      fld t SEC_BOOT_BOOT_COUNT = satAdd 32 (fld s SEC_BOOT_BOOT_COUNT) 1 ∧ t.tap.pgood = true ∧
      (∀ a, a < dramTop → memRead t.mem a = 0)) ∧
    (bootsThrough s f → f.strapHold = true → ∃ t, exec (.coldStart f) s = .next t ∧ power t = 1 ∧ fld t MBX_STATUS_READY = 1 ∧
      t.rst.held = some f ∧ sameMem s t) ∧
    (f.stage1Ok = false → ∃ t, exec (.coldStart f) s = .next t ∧ power t = 1 ∧
      fld t MBX_STATUS_READY = fld s MBX_STATUS_READY ∧ (fld s SEC_FAULT_VALID = 0 → fld t SEC_FAULT_STAGE = 1) ∧ sameMem s t)) ∧
  (∀ (s : State) (f : BootFindings), power s ≠ 0 → s.rst.bootDone = true → s.rst.domains.contains (6, 0) = false →
    nothingHappens (.coldStart f) s) ∧
  (∀ (s : State) (f : BootFindings) (ns : Nat),
    (power s ≠ 0 → 10000 ≤ ns → bootsThrough s f → f.strapHold = false → ∃ t, exec (.modRst ns f) s = .next t ∧ power t = 2 ∧
      jobState t = 0 ∧ fld t RST_BRINGUP_CAUSE = 1 ∧ fld t MBX_STATUS_READY = 1 ∧ t.mem = [] ∧ t.tiles = [] ∧
      fld t SEC_BOOT_BOOT_COUNT = satAdd 32 (fld s SEC_BOOT_BOOT_COUNT) 1) ∧
    (power s = 0 ∨ ns < 2000 → nothingHappens (.modRst ns f) s)) ∧
  (∀ (s : State) (ms : Nat),
    (fullReady s = true → jobLoaded s = false → ∃ t, exec (.fullService ms) s = .next t ∧ fld t RST_STATUS_SERVICE = 2 ∧
      fld t RST_STATUS_STEP = 14 ∧ (power t = 3 ∨ power t = 4) ∧ t.rst.firmwareCopy = true ∧ sameUnits s t ∧
      sameRegs [RST_BRINGUP.at 0 0, PWR_CAP.at 0 0] s t) ∧
    (fullReady s = true → jobLoaded s = true → ∃ t, exec (.fullService ms) s = .next t ∧ fld t RST_STATUS_FULL_PENDING = 1 ∧
      fld t RST_STATUS_SERVICE = 1 ∧ power t = power s ∧ sameUnits s t ∧ sameRegs [] s t) ∧
    (fullReady s = false → nothingHappens (.fullService ms) s))

/-! The test access port and I3C (19, 21). -/

/-- R422, R463: with standby power each test instruction is selected and shifts out what it reads; `EXTEST` and its AC forms need
Standby, an internal scan Standby and `FACTORY`, and `BYPASS` stands in their place otherwise. A SETDASA for the part's static
address gives it its dynamic address. Without power nothing happens.
Rests also on the model's choices of log 92. -/
def Obligations.TestPortAnswers : Prop :=
  (∀ s : State, power s ≠ 0 →
    tapSelected .idcode s 0x01 false (fun t => t.out = [.tap ((List.range 32).map (fun i => bitOf i 0x1960C4B3))] ∧
      t.tap.boundary = s.tap.boundary) ∧
    tapSelected .bypass s 0xFF false (fun t => t.out = [] ∧ t.tap.boundary = s.tap.boundary) ∧
    ∀ cells : List Bool, tapSelected (.samplePreload cells) s 0x02 false (fun t => t.tap.boundary = cells ∧
      ∃ l : List Bool, l.length = cells.length ∧ t.out = [.tap l])) ∧
  (∀ (s : State) (cells : List Bool), ∀ e ∈ [(Instr.extest cells, 0x03, 0), (.extestPulse cells, 0x04, 1), (.extestTrain cells, 0x05, 2)],
    (power s = 1 → tapSelected e.1 s e.2.1 true (fun t => t.tap.pulse = e.2.2 ∧ t.tap.boundary = cells ∧
      ∃ l : List Bool, l.length = cells.length ∧ t.out = [.tap l])) ∧
    (2 ≤ power s → tapSelected e.1 s 0xFF false (fun t => t.out = [] ∧ t.tap.boundary = s.tap.boundary))) ∧
  (∀ (s : State) (code : BitVec 4),
    (power s = 1 → deadbolt s = 0 → tapSelected (.internalScan code) s (0x20 + code.toNat) false (fun t => t.out = [])) ∧
    ((2 ≤ power s ∨ (power s = 1 ∧ deadbolt s ≠ 0)) → tapSelected (.internalScan code) s 0xFF false (fun t => t.out = []))) ∧
  (∀ (s : State) (sa da : BitVec 7), power s ≠ 0 →
    (sa.toNat = s.tap.i3cStatic → ∃ t, exec (.setdasa sa da) s = .next t ∧ t.tap.i3cDynamic = some da.toNat ∧
      t.out = [.i3cAck sa.toNat] ∧ sameUnits s t ∧ sameRegs [] s t) ∧
    (sa.toNat ≠ s.tap.i3cStatic → ∃ t, exec (.setdasa sa da) s = .next t ∧ t.tap.i3cDynamic = s.tap.i3cDynamic ∧ t.out = [] ∧
      sameUnits s t ∧ sameRegs [] s t)) ∧
  (∀ (s : State) (cells : List Bool) (code : BitVec 4) (sa da : BitVec 7), power s = 0 →
    ∀ c ∈ [Instr.idcode, .bypass, .samplePreload cells, .extest cells, .extestPulse cells, .extestTrain cells, .internalScan code,
      .setdasa sa da], ∃ t, exec c s = .next t ∧ t.tap.ir = s.tap.ir ∧ t.tap.boundary = s.tap.boundary ∧ t.out = [] ∧
      sameUnits s t ∧ sameRegs [] s t)
end

