-- ==== Sys2Proof/Laws/Kmap.lean ====
section
/-! SUPPORT. The laws of finite maps: reading after writing, and the canonical form. -/

namespace Sys2Proof.Machine

variable {α : Type}

theorem kGet?_kSet_same (m : Kmap α) (k : Nat) (v : α) : kGet? (kSet m k v) k = some v := by
  induction m with
  | nil => simp [kSet, kGet?]
  | cons e m ih =>
    obtain ⟨j, w⟩ := e
    simp only [kSet]
    split
    · simp [kGet?]
    · split
      · simp [kGet?]
      · have h : j ≠ k := by omega
        simp [kGet?, h, ih]

theorem kGet?_kSet_ne (m : Kmap α) {k i : Nat} (v : α) (h : i ≠ k) : kGet? (kSet m k v) i = kGet? m i := by
  induction m with
  | nil => simp [kSet, kGet?, Ne.symm h]
  | cons e m ih =>
    obtain ⟨j, w⟩ := e
    simp only [kSet]
    split
    · simp [kGet?, Ne.symm h]
    · split
      · rename_i h1 h2; subst h2; simp [kGet?, Ne.symm h]
      · simp [kGet?, ih]

theorem kGet?_kErase_ne (m : Kmap α) {k i : Nat} (h : i ≠ k) : kGet? (kErase m k) i = kGet? m i := by
  induction m with
  | nil => simp [kErase]
  | cons e m ih =>
    obtain ⟨j, w⟩ := e
    simp only [kErase]
    split
    · rename_i h1; subst h1; simp [kGet?, Ne.symm h, ih]
    · simp [kGet?, ih]

/-- Below the keys of a sorted map there is nothing. -/
theorem kGet?_below (m : Kmap α) {lo k : Nat} (h : kSortedFrom lo m = true) (hk : k < lo) : kGet? m k = none := by
  induction m generalizing lo with
  | nil => rfl
  | cons e m ih =>
    obtain ⟨j, w⟩ := e
    simp only [kSortedFrom, Bool.and_eq_true, decide_eq_true_eq] at h
    have : j ≠ k := by omega
    simp [kGet?, this, ih h.2 (by omega)]

theorem kGet?_kErase_same (m : Kmap α) (k : Nat) : kGet? (kErase m k) k = none := by
  induction m with
  | nil => rfl
  | cons e m ih =>
    obtain ⟨j, w⟩ := e
    simp only [kErase]
    split
    · exact ih
    · rename_i h; simp [kGet?, h, ih]

/-- Reading a key after writing it. -/
theorem kGetD_kPut_same [DecidableEq α] (m : Kmap α) (k : Nat) (v d : α) : kGetD (kPut m k v d) k d = v := by
  unfold kPut kGetD
  split
  · rename_i e; simp [kGet?_kErase_same m k, e]
  · simp [kGet?_kSet_same]

/-- Reading a key after writing another. -/
theorem kGetD_kPut_ne [DecidableEq α] (m : Kmap α) {k i : Nat} (v d e : α) (h : i ≠ k) :
    kGetD (kPut m k v d) i e = kGetD m i e := by
  unfold kPut kGetD
  split
  · rw [kGet?_kErase_ne m h]
  · rw [kGet?_kSet_ne m v h]

theorem kGetD_kSet_same (m : Kmap α) (k : Nat) (v d : α) : kGetD (kSet m k v) k d = v := by
  simp [kGetD, kGet?_kSet_same]

theorem kGetD_kSet_ne (m : Kmap α) {k i : Nat} (v d : α) (h : i ≠ k) : kGetD (kSet m k v) i d = kGetD m i d := by
  simp [kGetD, kGet?_kSet_ne m v h]

/-- A sorted map is sorted from any lower key. -/
theorem kSortedFrom_mono (m : Kmap α) {lo lo' : Nat} (hl : lo' ≤ lo) (h : kSortedFrom lo m = true) :
    kSortedFrom lo' m = true := by
  cases m with
  | nil => rfl
  | cons e m =>
    obtain ⟨j, w⟩ := e
    simp only [kSortedFrom, Bool.and_eq_true, decide_eq_true_eq] at h ⊢
    exact ⟨by omega, h.2⟩

theorem kSortedFrom_kErase (m : Kmap α) {lo : Nat} (k : Nat) (h : kSortedFrom lo m = true) :
    kSortedFrom lo (kErase m k) = true := by
  induction m generalizing lo with
  | nil => rfl
  | cons e m ih =>
    obtain ⟨j, w⟩ := e
    simp only [kSortedFrom, Bool.and_eq_true, decide_eq_true_eq] at h
    simp only [kErase]
    split
    · exact ih (kSortedFrom_mono m (by omega) h.2)
    · simp [kSortedFrom, h.1, ih h.2]

theorem kSortedFrom_kSet (m : Kmap α) {lo : Nat} (k : Nat) (v : α) (hk : lo ≤ k) (h : kSortedFrom lo m = true) :
    kSortedFrom lo (kSet m k v) = true := by
  induction m generalizing lo with
  | nil => simp [kSet, kSortedFrom, hk]
  | cons e m ih =>
    obtain ⟨j, w⟩ := e
    simp only [kSortedFrom, Bool.and_eq_true, decide_eq_true_eq] at h
    simp only [kSet]
    split
    · rename_i h1
      simp only [kSortedFrom, Bool.and_eq_true, decide_eq_true_eq]
      exact ⟨hk, by omega, h.2⟩
    · split
      · rename_i h1 h2; subst h2; simp [kSortedFrom, hk, h.2]
      · simp only [kSortedFrom, Bool.and_eq_true, decide_eq_true_eq]
        exact ⟨h.1, ih (by omega) h.2⟩

theorem mem_kErase (m : Kmap α) (k : Nat) (e : Nat × α) (h : e ∈ kErase m k) : e ∈ m := by
  induction m with
  | nil => simp [kErase] at h
  | cons a m ih =>
    obtain ⟨j, w⟩ := a
    simp only [kErase] at h
    split at h
    · exact List.mem_cons_of_mem _ (ih h)
    · rcases List.mem_cons.mp h with h | h
      · exact h ▸ List.mem_cons_self ..
      · exact List.mem_cons_of_mem _ (ih h)

theorem mem_kSet (m : Kmap α) (k : Nat) (v : α) (e : Nat × α) (h : e ∈ kSet m k v) : e = (k, v) ∨ e ∈ m := by
  induction m with
  | nil => simpa [kSet] using h
  | cons a m ih =>
    obtain ⟨j, w⟩ := a
    simp only [kSet] at h
    split at h
    · rcases List.mem_cons.mp h with h | h
      · exact .inl h
      · exact .inr h
    · split at h
      · rcases List.mem_cons.mp h with h | h
        · exact .inl h
        · exact .inr (List.mem_cons_of_mem _ h)
      · rcases List.mem_cons.mp h with h | h
        · exact .inr (h ▸ List.mem_cons_self ..)
        · rcases ih h with h | h
          · exact .inl h
          · exact .inr (List.mem_cons_of_mem _ h)

/-- Writing keeps the canonical form, where the writer's default is the reader's. -/
theorem kCanon_kPut [DecidableEq α] (d : Nat → α) (m : Kmap α) (k : Nat) (v : α) (h : kCanon d m = true) :
    kCanon d (kPut m k v (d k)) = true := by
  simp only [kCanon, Bool.and_eq_true, List.all_eq_true, decide_eq_true_eq] at h ⊢
  unfold kPut
  split
  · exact ⟨kSortedFrom_kErase m k h.1, fun e he => h.2 e (mem_kErase m k e he)⟩
  · rename_i hv
    refine ⟨kSortedFrom_kSet m k v (Nat.zero_le _) h.1, fun e he => ?_⟩
    rcases mem_kSet m k v e he with rfl | he
    · exact hv
    · exact h.2 e he

/-- A part of a sorted map is sorted. -/
theorem kSortedFrom_filter (p : Nat × α → Bool) (m : Kmap α) {lo : Nat} (h : kSortedFrom lo m = true) :
    kSortedFrom lo (m.filter p) = true := by
  induction m generalizing lo with
  | nil => rfl
  | cons e m ih =>
    obtain ⟨j, w⟩ := e
    simp only [kSortedFrom, Bool.and_eq_true, decide_eq_true_eq] at h
    simp only [List.filter_cons]
    split
    · simp only [kSortedFrom, Bool.and_eq_true, decide_eq_true_eq]; exact ⟨h.1, ih h.2⟩
    · exact kSortedFrom_mono _ (by omega) (ih h.2)

theorem kCanon_filter [DecidableEq α] (d : Nat → α) (p : Nat × α → Bool) (m : Kmap α) (h : kCanon d m = true) :
    kCanon d (m.filter p) = true := by
  simp only [kCanon, Bool.and_eq_true, List.all_eq_true, decide_eq_true_eq] at h ⊢
  exact ⟨kSortedFrom_filter p m h.1, fun e he => h.2 e ((List.mem_filter.mp he).1)⟩

end Sys2Proof.Machine
end

