-- ==== Sys2Proof/Laws/State.lean ====
section
/-! SUPPORT. One lemma per field and per named update of the state: what the update leaves alone. -/

namespace Sys2Proof.Machine

@[simp] theorem writeReg_pending (s : State) (r : Reg) (k n : Nat) (v : RegVal) : (writeReg s r k n v).pending = s.pending := rfl
@[simp] theorem writeReg_mem (s : State) (r : Reg) (k n : Nat) (v : RegVal) : (writeReg s r k n v).mem = s.mem := rfl
@[simp] theorem writeReg_bad (s : State) (r : Reg) (k n : Nat) (v : RegVal) : (writeReg s r k n v).bad = s.bad := rfl
@[simp] theorem writeReg_weak (s : State) (r : Reg) (k n : Nat) (v : RegVal) : (writeReg s r k n v).weak = s.weak := rfl
@[simp] theorem writeReg_time (s : State) (r : Reg) (k n : Nat) (v : RegVal) : (writeReg s r k n v).time = s.time := rfl
@[simp] theorem writeReg_free (s : State) (r : Reg) (k n : Nat) (v : RegVal) : (writeReg s r k n v).free = s.free := rfl
@[simp] theorem writeReg_raised (s : State) (r : Reg) (k n : Nat) (v : RegVal) : (writeReg s r k n v).raised = s.raised := rfl
@[simp] theorem writeReg_out (s : State) (r : Reg) (k n : Nat) (v : RegVal) : (writeReg s r k n v).out = s.out := rfl
@[simp] theorem writeReg_sched (s : State) (r : Reg) (k n : Nat) (v : RegVal) : (writeReg s r k n v).sched = s.sched := rfl
@[simp] theorem writeReg_job (s : State) (r : Reg) (k n : Nat) (v : RegVal) : (writeReg s r k n v).job = s.job := rfl
@[simp] theorem writeReg_jobEnd (s : State) (r : Reg) (k n : Nat) (v : RegVal) : (writeReg s r k n v).jobEnd = s.jobEnd := rfl
@[simp] theorem writeReg_step (s : State) (r : Reg) (k n : Nat) (v : RegVal) : (writeReg s r k n v).step = s.step := rfl
@[simp] theorem writeReg_commit (s : State) (r : Reg) (k n : Nat) (v : RegVal) : (writeReg s r k n v).commit = s.commit := rfl
@[simp] theorem writeReg_stash (s : State) (r : Reg) (k n : Nat) (v : RegVal) : (writeReg s r k n v).stash = s.stash := rfl
@[simp] theorem writeReg_power (s : State) (r : Reg) (k n : Nat) (v : RegVal) : (writeReg s r k n v).power = s.power := rfl
@[simp] theorem writeReg_graphs (s : State) (r : Reg) (k n : Nat) (v : RegVal) : (writeReg s r k n v).graphs = s.graphs := rfl
@[simp] theorem writeReg_embs (s : State) (r : Reg) (k n : Nat) (v : RegVal) : (writeReg s r k n v).embs = s.embs := rfl
@[simp] theorem writeReg_brys (s : State) (r : Reg) (k n : Nat) (v : RegVal) : (writeReg s r k n v).brys = s.brys := rfl
@[simp] theorem writeReg_tiles (s : State) (r : Reg) (k n : Nat) (v : RegVal) : (writeReg s r k n v).tiles = s.tiles := rfl
@[simp] theorem writeReg_mesh (s : State) (r : Reg) (k n : Nat) (v : RegVal) : (writeReg s r k n v).mesh = s.mesh := rfl
@[simp] theorem writeReg_sbn (s : State) (r : Reg) (k n : Nat) (v : RegVal) : (writeReg s r k n v).sbn = s.sbn := rfl
@[simp] theorem writeReg_eth (s : State) (r : Reg) (k n : Nat) (v : RegVal) : (writeReg s r k n v).eth = s.eth := rfl
@[simp] theorem writeReg_mgmt (s : State) (r : Reg) (k n : Nat) (v : RegVal) : (writeReg s r k n v).mgmt = s.mgmt := rfl
@[simp] theorem writeReg_sec (s : State) (r : Reg) (k n : Nat) (v : RegVal) : (writeReg s r k n v).sec = s.sec := rfl
@[simp] theorem writeReg_tap (s : State) (r : Reg) (k n : Nat) (v : RegVal) : (writeReg s r k n v).tap = s.tap := rfl
@[simp] theorem writeReg_rst (s : State) (r : Reg) (k n : Nat) (v : RegVal) : (writeReg s r k n v).rst = s.rst := rfl

@[simp] theorem setFld_pending (s : State) (f : Field) (x k n : Nat) : (setFld s f x k n).pending = s.pending := rfl
@[simp] theorem setFld_mem (s : State) (f : Field) (x k n : Nat) : (setFld s f x k n).mem = s.mem := rfl
@[simp] theorem setFld_bad (s : State) (f : Field) (x k n : Nat) : (setFld s f x k n).bad = s.bad := rfl
@[simp] theorem setFld_weak (s : State) (f : Field) (x k n : Nat) : (setFld s f x k n).weak = s.weak := rfl
@[simp] theorem setFld_time (s : State) (f : Field) (x k n : Nat) : (setFld s f x k n).time = s.time := rfl
@[simp] theorem setFld_free (s : State) (f : Field) (x k n : Nat) : (setFld s f x k n).free = s.free := rfl
@[simp] theorem setFld_raised (s : State) (f : Field) (x k n : Nat) : (setFld s f x k n).raised = s.raised := rfl
@[simp] theorem setFld_out (s : State) (f : Field) (x k n : Nat) : (setFld s f x k n).out = s.out := rfl
@[simp] theorem setFld_sched (s : State) (f : Field) (x k n : Nat) : (setFld s f x k n).sched = s.sched := rfl
@[simp] theorem setFld_job (s : State) (f : Field) (x k n : Nat) : (setFld s f x k n).job = s.job := rfl
@[simp] theorem setFld_jobEnd (s : State) (f : Field) (x k n : Nat) : (setFld s f x k n).jobEnd = s.jobEnd := rfl
@[simp] theorem setFld_step (s : State) (f : Field) (x k n : Nat) : (setFld s f x k n).step = s.step := rfl
@[simp] theorem setFld_commit (s : State) (f : Field) (x k n : Nat) : (setFld s f x k n).commit = s.commit := rfl
@[simp] theorem setFld_stash (s : State) (f : Field) (x k n : Nat) : (setFld s f x k n).stash = s.stash := rfl
@[simp] theorem setFld_power (s : State) (f : Field) (x k n : Nat) : (setFld s f x k n).power = s.power := rfl
@[simp] theorem setFld_graphs (s : State) (f : Field) (x k n : Nat) : (setFld s f x k n).graphs = s.graphs := rfl
@[simp] theorem setFld_embs (s : State) (f : Field) (x k n : Nat) : (setFld s f x k n).embs = s.embs := rfl
@[simp] theorem setFld_brys (s : State) (f : Field) (x k n : Nat) : (setFld s f x k n).brys = s.brys := rfl
@[simp] theorem setFld_tiles (s : State) (f : Field) (x k n : Nat) : (setFld s f x k n).tiles = s.tiles := rfl
@[simp] theorem setFld_mesh (s : State) (f : Field) (x k n : Nat) : (setFld s f x k n).mesh = s.mesh := rfl
@[simp] theorem setFld_sbn (s : State) (f : Field) (x k n : Nat) : (setFld s f x k n).sbn = s.sbn := rfl
@[simp] theorem setFld_eth (s : State) (f : Field) (x k n : Nat) : (setFld s f x k n).eth = s.eth := rfl
@[simp] theorem setFld_mgmt (s : State) (f : Field) (x k n : Nat) : (setFld s f x k n).mgmt = s.mgmt := rfl
@[simp] theorem setFld_sec (s : State) (f : Field) (x k n : Nat) : (setFld s f x k n).sec = s.sec := rfl
@[simp] theorem setFld_tap (s : State) (f : Field) (x k n : Nat) : (setFld s f x k n).tap = s.tap := rfl
@[simp] theorem setFld_rst (s : State) (f : Field) (x k n : Nat) : (setFld s f x k n).rst = s.rst := rfl

@[simp] theorem setReg_pending (s : State) (r : Reg) (x k n : Nat) : (setReg s r x k n).pending = s.pending := rfl
@[simp] theorem setReg_mem (s : State) (r : Reg) (x k n : Nat) : (setReg s r x k n).mem = s.mem := rfl
@[simp] theorem setReg_bad (s : State) (r : Reg) (x k n : Nat) : (setReg s r x k n).bad = s.bad := rfl
@[simp] theorem setReg_weak (s : State) (r : Reg) (x k n : Nat) : (setReg s r x k n).weak = s.weak := rfl
@[simp] theorem setReg_time (s : State) (r : Reg) (x k n : Nat) : (setReg s r x k n).time = s.time := rfl
@[simp] theorem setReg_free (s : State) (r : Reg) (x k n : Nat) : (setReg s r x k n).free = s.free := rfl
@[simp] theorem setReg_raised (s : State) (r : Reg) (x k n : Nat) : (setReg s r x k n).raised = s.raised := rfl
@[simp] theorem setReg_out (s : State) (r : Reg) (x k n : Nat) : (setReg s r x k n).out = s.out := rfl
@[simp] theorem setReg_sched (s : State) (r : Reg) (x k n : Nat) : (setReg s r x k n).sched = s.sched := rfl
@[simp] theorem setReg_job (s : State) (r : Reg) (x k n : Nat) : (setReg s r x k n).job = s.job := rfl
@[simp] theorem setReg_jobEnd (s : State) (r : Reg) (x k n : Nat) : (setReg s r x k n).jobEnd = s.jobEnd := rfl
@[simp] theorem setReg_step (s : State) (r : Reg) (x k n : Nat) : (setReg s r x k n).step = s.step := rfl
@[simp] theorem setReg_commit (s : State) (r : Reg) (x k n : Nat) : (setReg s r x k n).commit = s.commit := rfl
@[simp] theorem setReg_stash (s : State) (r : Reg) (x k n : Nat) : (setReg s r x k n).stash = s.stash := rfl
@[simp] theorem setReg_power (s : State) (r : Reg) (x k n : Nat) : (setReg s r x k n).power = s.power := rfl
@[simp] theorem setReg_graphs (s : State) (r : Reg) (x k n : Nat) : (setReg s r x k n).graphs = s.graphs := rfl
@[simp] theorem setReg_embs (s : State) (r : Reg) (x k n : Nat) : (setReg s r x k n).embs = s.embs := rfl
@[simp] theorem setReg_brys (s : State) (r : Reg) (x k n : Nat) : (setReg s r x k n).brys = s.brys := rfl
@[simp] theorem setReg_tiles (s : State) (r : Reg) (x k n : Nat) : (setReg s r x k n).tiles = s.tiles := rfl
@[simp] theorem setReg_mesh (s : State) (r : Reg) (x k n : Nat) : (setReg s r x k n).mesh = s.mesh := rfl
@[simp] theorem setReg_sbn (s : State) (r : Reg) (x k n : Nat) : (setReg s r x k n).sbn = s.sbn := rfl
@[simp] theorem setReg_eth (s : State) (r : Reg) (x k n : Nat) : (setReg s r x k n).eth = s.eth := rfl
@[simp] theorem setReg_mgmt (s : State) (r : Reg) (x k n : Nat) : (setReg s r x k n).mgmt = s.mgmt := rfl
@[simp] theorem setReg_sec (s : State) (r : Reg) (x k n : Nat) : (setReg s r x k n).sec = s.sec := rfl
@[simp] theorem setReg_tap (s : State) (r : Reg) (x k n : Nat) : (setReg s r x k n).tap = s.tap := rfl
@[simp] theorem setReg_rst (s : State) (r : Reg) (x k n : Nat) : (setReg s r x k n).rst = s.rst := rfl

@[simp] theorem bump_pending (s : State) (f : Field) (d k n : Nat) : (bump s f d k n).pending = s.pending := rfl
@[simp] theorem bump_mem (s : State) (f : Field) (d k n : Nat) : (bump s f d k n).mem = s.mem := rfl
@[simp] theorem bump_bad (s : State) (f : Field) (d k n : Nat) : (bump s f d k n).bad = s.bad := rfl
@[simp] theorem bump_weak (s : State) (f : Field) (d k n : Nat) : (bump s f d k n).weak = s.weak := rfl
@[simp] theorem bump_time (s : State) (f : Field) (d k n : Nat) : (bump s f d k n).time = s.time := rfl
@[simp] theorem bump_free (s : State) (f : Field) (d k n : Nat) : (bump s f d k n).free = s.free := rfl
@[simp] theorem bump_raised (s : State) (f : Field) (d k n : Nat) : (bump s f d k n).raised = s.raised := rfl
@[simp] theorem bump_out (s : State) (f : Field) (d k n : Nat) : (bump s f d k n).out = s.out := rfl
@[simp] theorem bump_sched (s : State) (f : Field) (d k n : Nat) : (bump s f d k n).sched = s.sched := rfl
@[simp] theorem bump_job (s : State) (f : Field) (d k n : Nat) : (bump s f d k n).job = s.job := rfl
@[simp] theorem bump_jobEnd (s : State) (f : Field) (d k n : Nat) : (bump s f d k n).jobEnd = s.jobEnd := rfl
@[simp] theorem bump_step (s : State) (f : Field) (d k n : Nat) : (bump s f d k n).step = s.step := rfl
@[simp] theorem bump_commit (s : State) (f : Field) (d k n : Nat) : (bump s f d k n).commit = s.commit := rfl
@[simp] theorem bump_stash (s : State) (f : Field) (d k n : Nat) : (bump s f d k n).stash = s.stash := rfl
@[simp] theorem bump_power (s : State) (f : Field) (d k n : Nat) : (bump s f d k n).power = s.power := rfl
@[simp] theorem bump_graphs (s : State) (f : Field) (d k n : Nat) : (bump s f d k n).graphs = s.graphs := rfl
@[simp] theorem bump_embs (s : State) (f : Field) (d k n : Nat) : (bump s f d k n).embs = s.embs := rfl
@[simp] theorem bump_brys (s : State) (f : Field) (d k n : Nat) : (bump s f d k n).brys = s.brys := rfl
@[simp] theorem bump_tiles (s : State) (f : Field) (d k n : Nat) : (bump s f d k n).tiles = s.tiles := rfl
@[simp] theorem bump_mesh (s : State) (f : Field) (d k n : Nat) : (bump s f d k n).mesh = s.mesh := rfl
@[simp] theorem bump_sbn (s : State) (f : Field) (d k n : Nat) : (bump s f d k n).sbn = s.sbn := rfl
@[simp] theorem bump_eth (s : State) (f : Field) (d k n : Nat) : (bump s f d k n).eth = s.eth := rfl
@[simp] theorem bump_mgmt (s : State) (f : Field) (d k n : Nat) : (bump s f d k n).mgmt = s.mgmt := rfl
@[simp] theorem bump_sec (s : State) (f : Field) (d k n : Nat) : (bump s f d k n).sec = s.sec := rfl
@[simp] theorem bump_tap (s : State) (f : Field) (d k n : Nat) : (bump s f d k n).tap = s.tap := rfl
@[simp] theorem bump_rst (s : State) (f : Field) (d k n : Nat) : (bump s f d k n).rst = s.rst := rfl

@[simp] theorem setFldBit_pending (s : State) (f : Field) (i : Nat) (b : Bool) (k n : Nat) : (setFldBit s f i b k n).pending = s.pending := rfl
@[simp] theorem setFldBit_mem (s : State) (f : Field) (i : Nat) (b : Bool) (k n : Nat) : (setFldBit s f i b k n).mem = s.mem := rfl
@[simp] theorem setFldBit_bad (s : State) (f : Field) (i : Nat) (b : Bool) (k n : Nat) : (setFldBit s f i b k n).bad = s.bad := rfl
@[simp] theorem setFldBit_weak (s : State) (f : Field) (i : Nat) (b : Bool) (k n : Nat) : (setFldBit s f i b k n).weak = s.weak := rfl
@[simp] theorem setFldBit_time (s : State) (f : Field) (i : Nat) (b : Bool) (k n : Nat) : (setFldBit s f i b k n).time = s.time := rfl
@[simp] theorem setFldBit_free (s : State) (f : Field) (i : Nat) (b : Bool) (k n : Nat) : (setFldBit s f i b k n).free = s.free := rfl
@[simp] theorem setFldBit_raised (s : State) (f : Field) (i : Nat) (b : Bool) (k n : Nat) : (setFldBit s f i b k n).raised = s.raised := rfl
@[simp] theorem setFldBit_out (s : State) (f : Field) (i : Nat) (b : Bool) (k n : Nat) : (setFldBit s f i b k n).out = s.out := rfl
@[simp] theorem setFldBit_sched (s : State) (f : Field) (i : Nat) (b : Bool) (k n : Nat) : (setFldBit s f i b k n).sched = s.sched := rfl
@[simp] theorem setFldBit_job (s : State) (f : Field) (i : Nat) (b : Bool) (k n : Nat) : (setFldBit s f i b k n).job = s.job := rfl
@[simp] theorem setFldBit_jobEnd (s : State) (f : Field) (i : Nat) (b : Bool) (k n : Nat) : (setFldBit s f i b k n).jobEnd = s.jobEnd := rfl
@[simp] theorem setFldBit_step (s : State) (f : Field) (i : Nat) (b : Bool) (k n : Nat) : (setFldBit s f i b k n).step = s.step := rfl
@[simp] theorem setFldBit_commit (s : State) (f : Field) (i : Nat) (b : Bool) (k n : Nat) : (setFldBit s f i b k n).commit = s.commit := rfl
@[simp] theorem setFldBit_stash (s : State) (f : Field) (i : Nat) (b : Bool) (k n : Nat) : (setFldBit s f i b k n).stash = s.stash := rfl
@[simp] theorem setFldBit_power (s : State) (f : Field) (i : Nat) (b : Bool) (k n : Nat) : (setFldBit s f i b k n).power = s.power := rfl
@[simp] theorem setFldBit_graphs (s : State) (f : Field) (i : Nat) (b : Bool) (k n : Nat) : (setFldBit s f i b k n).graphs = s.graphs := rfl
@[simp] theorem setFldBit_embs (s : State) (f : Field) (i : Nat) (b : Bool) (k n : Nat) : (setFldBit s f i b k n).embs = s.embs := rfl
@[simp] theorem setFldBit_brys (s : State) (f : Field) (i : Nat) (b : Bool) (k n : Nat) : (setFldBit s f i b k n).brys = s.brys := rfl
@[simp] theorem setFldBit_tiles (s : State) (f : Field) (i : Nat) (b : Bool) (k n : Nat) : (setFldBit s f i b k n).tiles = s.tiles := rfl
@[simp] theorem setFldBit_mesh (s : State) (f : Field) (i : Nat) (b : Bool) (k n : Nat) : (setFldBit s f i b k n).mesh = s.mesh := rfl
@[simp] theorem setFldBit_sbn (s : State) (f : Field) (i : Nat) (b : Bool) (k n : Nat) : (setFldBit s f i b k n).sbn = s.sbn := rfl
@[simp] theorem setFldBit_eth (s : State) (f : Field) (i : Nat) (b : Bool) (k n : Nat) : (setFldBit s f i b k n).eth = s.eth := rfl
@[simp] theorem setFldBit_mgmt (s : State) (f : Field) (i : Nat) (b : Bool) (k n : Nat) : (setFldBit s f i b k n).mgmt = s.mgmt := rfl
@[simp] theorem setFldBit_sec (s : State) (f : Field) (i : Nat) (b : Bool) (k n : Nat) : (setFldBit s f i b k n).sec = s.sec := rfl
@[simp] theorem setFldBit_tap (s : State) (f : Field) (i : Nat) (b : Bool) (k n : Nat) : (setFldBit s f i b k n).tap = s.tap := rfl
@[simp] theorem setFldBit_rst (s : State) (f : Field) (i : Nat) (b : Bool) (k n : Nat) : (setFldBit s f i b k n).rst = s.rst := rfl

@[simp] theorem resetReg_pending (s : State) (r : Reg) (k n : Nat) : (resetReg s r k n).pending = s.pending := rfl
@[simp] theorem resetReg_mem (s : State) (r : Reg) (k n : Nat) : (resetReg s r k n).mem = s.mem := rfl
@[simp] theorem resetReg_bad (s : State) (r : Reg) (k n : Nat) : (resetReg s r k n).bad = s.bad := rfl
@[simp] theorem resetReg_weak (s : State) (r : Reg) (k n : Nat) : (resetReg s r k n).weak = s.weak := rfl
@[simp] theorem resetReg_time (s : State) (r : Reg) (k n : Nat) : (resetReg s r k n).time = s.time := rfl
@[simp] theorem resetReg_free (s : State) (r : Reg) (k n : Nat) : (resetReg s r k n).free = s.free := rfl
@[simp] theorem resetReg_raised (s : State) (r : Reg) (k n : Nat) : (resetReg s r k n).raised = s.raised := rfl
@[simp] theorem resetReg_out (s : State) (r : Reg) (k n : Nat) : (resetReg s r k n).out = s.out := rfl
@[simp] theorem resetReg_sched (s : State) (r : Reg) (k n : Nat) : (resetReg s r k n).sched = s.sched := rfl
@[simp] theorem resetReg_job (s : State) (r : Reg) (k n : Nat) : (resetReg s r k n).job = s.job := rfl
@[simp] theorem resetReg_jobEnd (s : State) (r : Reg) (k n : Nat) : (resetReg s r k n).jobEnd = s.jobEnd := rfl
@[simp] theorem resetReg_step (s : State) (r : Reg) (k n : Nat) : (resetReg s r k n).step = s.step := rfl
@[simp] theorem resetReg_commit (s : State) (r : Reg) (k n : Nat) : (resetReg s r k n).commit = s.commit := rfl
@[simp] theorem resetReg_stash (s : State) (r : Reg) (k n : Nat) : (resetReg s r k n).stash = s.stash := rfl
@[simp] theorem resetReg_power (s : State) (r : Reg) (k n : Nat) : (resetReg s r k n).power = s.power := rfl
@[simp] theorem resetReg_graphs (s : State) (r : Reg) (k n : Nat) : (resetReg s r k n).graphs = s.graphs := rfl
@[simp] theorem resetReg_embs (s : State) (r : Reg) (k n : Nat) : (resetReg s r k n).embs = s.embs := rfl
@[simp] theorem resetReg_brys (s : State) (r : Reg) (k n : Nat) : (resetReg s r k n).brys = s.brys := rfl
@[simp] theorem resetReg_tiles (s : State) (r : Reg) (k n : Nat) : (resetReg s r k n).tiles = s.tiles := rfl
@[simp] theorem resetReg_mesh (s : State) (r : Reg) (k n : Nat) : (resetReg s r k n).mesh = s.mesh := rfl
@[simp] theorem resetReg_sbn (s : State) (r : Reg) (k n : Nat) : (resetReg s r k n).sbn = s.sbn := rfl
@[simp] theorem resetReg_eth (s : State) (r : Reg) (k n : Nat) : (resetReg s r k n).eth = s.eth := rfl
@[simp] theorem resetReg_mgmt (s : State) (r : Reg) (k n : Nat) : (resetReg s r k n).mgmt = s.mgmt := rfl
@[simp] theorem resetReg_sec (s : State) (r : Reg) (k n : Nat) : (resetReg s r k n).sec = s.sec := rfl
@[simp] theorem resetReg_tap (s : State) (r : Reg) (k n : Nat) : (resetReg s r k n).tap = s.tap := rfl
@[simp] theorem resetReg_rst (s : State) (r : Reg) (k n : Nat) : (resetReg s r k n).rst = s.rst := rfl

@[simp] theorem store_pending (s : State) (a : Nat) (bs : List Byte) : (store s a bs).pending = s.pending := rfl
@[simp] theorem store_regs (s : State) (a : Nat) (bs : List Byte) : (store s a bs).regs = s.regs := rfl
@[simp] theorem store_time (s : State) (a : Nat) (bs : List Byte) : (store s a bs).time = s.time := rfl
@[simp] theorem store_free (s : State) (a : Nat) (bs : List Byte) : (store s a bs).free = s.free := rfl
@[simp] theorem store_raised (s : State) (a : Nat) (bs : List Byte) : (store s a bs).raised = s.raised := rfl
@[simp] theorem store_out (s : State) (a : Nat) (bs : List Byte) : (store s a bs).out = s.out := rfl
@[simp] theorem store_sched (s : State) (a : Nat) (bs : List Byte) : (store s a bs).sched = s.sched := rfl
@[simp] theorem store_job (s : State) (a : Nat) (bs : List Byte) : (store s a bs).job = s.job := rfl
@[simp] theorem store_jobEnd (s : State) (a : Nat) (bs : List Byte) : (store s a bs).jobEnd = s.jobEnd := rfl
@[simp] theorem store_step (s : State) (a : Nat) (bs : List Byte) : (store s a bs).step = s.step := rfl
@[simp] theorem store_commit (s : State) (a : Nat) (bs : List Byte) : (store s a bs).commit = s.commit := rfl
@[simp] theorem store_stash (s : State) (a : Nat) (bs : List Byte) : (store s a bs).stash = s.stash := rfl
@[simp] theorem store_power (s : State) (a : Nat) (bs : List Byte) : (store s a bs).power = s.power := rfl
@[simp] theorem store_graphs (s : State) (a : Nat) (bs : List Byte) : (store s a bs).graphs = s.graphs := rfl
@[simp] theorem store_embs (s : State) (a : Nat) (bs : List Byte) : (store s a bs).embs = s.embs := rfl
@[simp] theorem store_brys (s : State) (a : Nat) (bs : List Byte) : (store s a bs).brys = s.brys := rfl
@[simp] theorem store_tiles (s : State) (a : Nat) (bs : List Byte) : (store s a bs).tiles = s.tiles := rfl
@[simp] theorem store_mesh (s : State) (a : Nat) (bs : List Byte) : (store s a bs).mesh = s.mesh := rfl
@[simp] theorem store_sbn (s : State) (a : Nat) (bs : List Byte) : (store s a bs).sbn = s.sbn := rfl
@[simp] theorem store_eth (s : State) (a : Nat) (bs : List Byte) : (store s a bs).eth = s.eth := rfl
@[simp] theorem store_mgmt (s : State) (a : Nat) (bs : List Byte) : (store s a bs).mgmt = s.mgmt := rfl
@[simp] theorem store_sec (s : State) (a : Nat) (bs : List Byte) : (store s a bs).sec = s.sec := rfl
@[simp] theorem store_tap (s : State) (a : Nat) (bs : List Byte) : (store s a bs).tap = s.tap := rfl
@[simp] theorem store_rst (s : State) (a : Nat) (bs : List Byte) : (store s a bs).rst = s.rst := rfl

@[simp] theorem storeNat_pending (s : State) (a n v : Nat) : (storeNat s a n v).pending = s.pending := rfl
@[simp] theorem storeNat_regs (s : State) (a n v : Nat) : (storeNat s a n v).regs = s.regs := rfl
@[simp] theorem storeNat_time (s : State) (a n v : Nat) : (storeNat s a n v).time = s.time := rfl
@[simp] theorem storeNat_free (s : State) (a n v : Nat) : (storeNat s a n v).free = s.free := rfl
@[simp] theorem storeNat_raised (s : State) (a n v : Nat) : (storeNat s a n v).raised = s.raised := rfl
@[simp] theorem storeNat_out (s : State) (a n v : Nat) : (storeNat s a n v).out = s.out := rfl
@[simp] theorem storeNat_sched (s : State) (a n v : Nat) : (storeNat s a n v).sched = s.sched := rfl
@[simp] theorem storeNat_job (s : State) (a n v : Nat) : (storeNat s a n v).job = s.job := rfl
@[simp] theorem storeNat_jobEnd (s : State) (a n v : Nat) : (storeNat s a n v).jobEnd = s.jobEnd := rfl
@[simp] theorem storeNat_step (s : State) (a n v : Nat) : (storeNat s a n v).step = s.step := rfl
@[simp] theorem storeNat_commit (s : State) (a n v : Nat) : (storeNat s a n v).commit = s.commit := rfl
@[simp] theorem storeNat_stash (s : State) (a n v : Nat) : (storeNat s a n v).stash = s.stash := rfl
@[simp] theorem storeNat_power (s : State) (a n v : Nat) : (storeNat s a n v).power = s.power := rfl
@[simp] theorem storeNat_graphs (s : State) (a n v : Nat) : (storeNat s a n v).graphs = s.graphs := rfl
@[simp] theorem storeNat_embs (s : State) (a n v : Nat) : (storeNat s a n v).embs = s.embs := rfl
@[simp] theorem storeNat_brys (s : State) (a n v : Nat) : (storeNat s a n v).brys = s.brys := rfl
@[simp] theorem storeNat_tiles (s : State) (a n v : Nat) : (storeNat s a n v).tiles = s.tiles := rfl
@[simp] theorem storeNat_mesh (s : State) (a n v : Nat) : (storeNat s a n v).mesh = s.mesh := rfl
@[simp] theorem storeNat_sbn (s : State) (a n v : Nat) : (storeNat s a n v).sbn = s.sbn := rfl
@[simp] theorem storeNat_eth (s : State) (a n v : Nat) : (storeNat s a n v).eth = s.eth := rfl
@[simp] theorem storeNat_mgmt (s : State) (a n v : Nat) : (storeNat s a n v).mgmt = s.mgmt := rfl
@[simp] theorem storeNat_sec (s : State) (a n v : Nat) : (storeNat s a n v).sec = s.sec := rfl
@[simp] theorem storeNat_tap (s : State) (a n v : Nat) : (storeNat s a n v).tap = s.tap := rfl
@[simp] theorem storeNat_rst (s : State) (a n v : Nat) : (storeNat s a n v).rst = s.rst := rfl

@[simp] theorem clearRange_pending (s : State) (lo hi : Nat) : (clearRange s lo hi).pending = s.pending := rfl
@[simp] theorem clearRange_regs (s : State) (lo hi : Nat) : (clearRange s lo hi).regs = s.regs := rfl
@[simp] theorem clearRange_time (s : State) (lo hi : Nat) : (clearRange s lo hi).time = s.time := rfl
@[simp] theorem clearRange_free (s : State) (lo hi : Nat) : (clearRange s lo hi).free = s.free := rfl
@[simp] theorem clearRange_raised (s : State) (lo hi : Nat) : (clearRange s lo hi).raised = s.raised := rfl
@[simp] theorem clearRange_out (s : State) (lo hi : Nat) : (clearRange s lo hi).out = s.out := rfl
@[simp] theorem clearRange_sched (s : State) (lo hi : Nat) : (clearRange s lo hi).sched = s.sched := rfl
@[simp] theorem clearRange_job (s : State) (lo hi : Nat) : (clearRange s lo hi).job = s.job := rfl
@[simp] theorem clearRange_jobEnd (s : State) (lo hi : Nat) : (clearRange s lo hi).jobEnd = s.jobEnd := rfl
@[simp] theorem clearRange_step (s : State) (lo hi : Nat) : (clearRange s lo hi).step = s.step := rfl
@[simp] theorem clearRange_commit (s : State) (lo hi : Nat) : (clearRange s lo hi).commit = s.commit := rfl
@[simp] theorem clearRange_stash (s : State) (lo hi : Nat) : (clearRange s lo hi).stash = s.stash := rfl
@[simp] theorem clearRange_power (s : State) (lo hi : Nat) : (clearRange s lo hi).power = s.power := rfl
@[simp] theorem clearRange_graphs (s : State) (lo hi : Nat) : (clearRange s lo hi).graphs = s.graphs := rfl
@[simp] theorem clearRange_embs (s : State) (lo hi : Nat) : (clearRange s lo hi).embs = s.embs := rfl
@[simp] theorem clearRange_brys (s : State) (lo hi : Nat) : (clearRange s lo hi).brys = s.brys := rfl
@[simp] theorem clearRange_tiles (s : State) (lo hi : Nat) : (clearRange s lo hi).tiles = s.tiles := rfl
@[simp] theorem clearRange_mesh (s : State) (lo hi : Nat) : (clearRange s lo hi).mesh = s.mesh := rfl
@[simp] theorem clearRange_sbn (s : State) (lo hi : Nat) : (clearRange s lo hi).sbn = s.sbn := rfl
@[simp] theorem clearRange_eth (s : State) (lo hi : Nat) : (clearRange s lo hi).eth = s.eth := rfl
@[simp] theorem clearRange_mgmt (s : State) (lo hi : Nat) : (clearRange s lo hi).mgmt = s.mgmt := rfl
@[simp] theorem clearRange_sec (s : State) (lo hi : Nat) : (clearRange s lo hi).sec = s.sec := rfl
@[simp] theorem clearRange_tap (s : State) (lo hi : Nat) : (clearRange s lo hi).tap = s.tap := rfl
@[simp] theorem clearRange_rst (s : State) (lo hi : Nat) : (clearRange s lo hi).rst = s.rst := rfl

@[simp] theorem emit_pending (s : State) (e : Emit) : (emit s e).pending = s.pending := rfl
@[simp] theorem emit_regs (s : State) (e : Emit) : (emit s e).regs = s.regs := rfl
@[simp] theorem emit_mem (s : State) (e : Emit) : (emit s e).mem = s.mem := rfl
@[simp] theorem emit_bad (s : State) (e : Emit) : (emit s e).bad = s.bad := rfl
@[simp] theorem emit_weak (s : State) (e : Emit) : (emit s e).weak = s.weak := rfl
@[simp] theorem emit_time (s : State) (e : Emit) : (emit s e).time = s.time := rfl
@[simp] theorem emit_free (s : State) (e : Emit) : (emit s e).free = s.free := rfl
@[simp] theorem emit_raised (s : State) (e : Emit) : (emit s e).raised = s.raised := rfl
@[simp] theorem emit_sched (s : State) (e : Emit) : (emit s e).sched = s.sched := rfl
@[simp] theorem emit_job (s : State) (e : Emit) : (emit s e).job = s.job := rfl
@[simp] theorem emit_jobEnd (s : State) (e : Emit) : (emit s e).jobEnd = s.jobEnd := rfl
@[simp] theorem emit_step (s : State) (e : Emit) : (emit s e).step = s.step := rfl
@[simp] theorem emit_commit (s : State) (e : Emit) : (emit s e).commit = s.commit := rfl
@[simp] theorem emit_stash (s : State) (e : Emit) : (emit s e).stash = s.stash := rfl
@[simp] theorem emit_power (s : State) (e : Emit) : (emit s e).power = s.power := rfl
@[simp] theorem emit_graphs (s : State) (e : Emit) : (emit s e).graphs = s.graphs := rfl
@[simp] theorem emit_embs (s : State) (e : Emit) : (emit s e).embs = s.embs := rfl
@[simp] theorem emit_brys (s : State) (e : Emit) : (emit s e).brys = s.brys := rfl
@[simp] theorem emit_tiles (s : State) (e : Emit) : (emit s e).tiles = s.tiles := rfl
@[simp] theorem emit_mesh (s : State) (e : Emit) : (emit s e).mesh = s.mesh := rfl
@[simp] theorem emit_sbn (s : State) (e : Emit) : (emit s e).sbn = s.sbn := rfl
@[simp] theorem emit_eth (s : State) (e : Emit) : (emit s e).eth = s.eth := rfl
@[simp] theorem emit_mgmt (s : State) (e : Emit) : (emit s e).mgmt = s.mgmt := rfl
@[simp] theorem emit_sec (s : State) (e : Emit) : (emit s e).sec = s.sec := rfl
@[simp] theorem emit_tap (s : State) (e : Emit) : (emit s e).tap = s.tap := rfl
@[simp] theorem emit_rst (s : State) (e : Emit) : (emit s e).rst = s.rst := rfl

@[simp] theorem raise_pending (s : State) (code kind : Nat) (record : Option Nat) (count : Nat) : (raise_ s code kind record count).pending = s.pending := rfl
@[simp] theorem raise_regs (s : State) (code kind : Nat) (record : Option Nat) (count : Nat) : (raise_ s code kind record count).regs = s.regs := rfl
@[simp] theorem raise_mem (s : State) (code kind : Nat) (record : Option Nat) (count : Nat) : (raise_ s code kind record count).mem = s.mem := rfl
@[simp] theorem raise_bad (s : State) (code kind : Nat) (record : Option Nat) (count : Nat) : (raise_ s code kind record count).bad = s.bad := rfl
@[simp] theorem raise_weak (s : State) (code kind : Nat) (record : Option Nat) (count : Nat) : (raise_ s code kind record count).weak = s.weak := rfl
@[simp] theorem raise_time (s : State) (code kind : Nat) (record : Option Nat) (count : Nat) : (raise_ s code kind record count).time = s.time := rfl
@[simp] theorem raise_free (s : State) (code kind : Nat) (record : Option Nat) (count : Nat) : (raise_ s code kind record count).free = s.free := rfl
@[simp] theorem raise_out (s : State) (code kind : Nat) (record : Option Nat) (count : Nat) : (raise_ s code kind record count).out = s.out := rfl
@[simp] theorem raise_sched (s : State) (code kind : Nat) (record : Option Nat) (count : Nat) : (raise_ s code kind record count).sched = s.sched := rfl
@[simp] theorem raise_job (s : State) (code kind : Nat) (record : Option Nat) (count : Nat) : (raise_ s code kind record count).job = s.job := rfl
@[simp] theorem raise_jobEnd (s : State) (code kind : Nat) (record : Option Nat) (count : Nat) : (raise_ s code kind record count).jobEnd = s.jobEnd := rfl
@[simp] theorem raise_step (s : State) (code kind : Nat) (record : Option Nat) (count : Nat) : (raise_ s code kind record count).step = s.step := rfl
@[simp] theorem raise_commit (s : State) (code kind : Nat) (record : Option Nat) (count : Nat) : (raise_ s code kind record count).commit = s.commit := rfl
@[simp] theorem raise_stash (s : State) (code kind : Nat) (record : Option Nat) (count : Nat) : (raise_ s code kind record count).stash = s.stash := rfl
@[simp] theorem raise_power (s : State) (code kind : Nat) (record : Option Nat) (count : Nat) : (raise_ s code kind record count).power = s.power := rfl
@[simp] theorem raise_graphs (s : State) (code kind : Nat) (record : Option Nat) (count : Nat) : (raise_ s code kind record count).graphs = s.graphs := rfl
@[simp] theorem raise_embs (s : State) (code kind : Nat) (record : Option Nat) (count : Nat) : (raise_ s code kind record count).embs = s.embs := rfl
@[simp] theorem raise_brys (s : State) (code kind : Nat) (record : Option Nat) (count : Nat) : (raise_ s code kind record count).brys = s.brys := rfl
@[simp] theorem raise_tiles (s : State) (code kind : Nat) (record : Option Nat) (count : Nat) : (raise_ s code kind record count).tiles = s.tiles := rfl
@[simp] theorem raise_mesh (s : State) (code kind : Nat) (record : Option Nat) (count : Nat) : (raise_ s code kind record count).mesh = s.mesh := rfl
@[simp] theorem raise_sbn (s : State) (code kind : Nat) (record : Option Nat) (count : Nat) : (raise_ s code kind record count).sbn = s.sbn := rfl
@[simp] theorem raise_eth (s : State) (code kind : Nat) (record : Option Nat) (count : Nat) : (raise_ s code kind record count).eth = s.eth := rfl
@[simp] theorem raise_mgmt (s : State) (code kind : Nat) (record : Option Nat) (count : Nat) : (raise_ s code kind record count).mgmt = s.mgmt := rfl
@[simp] theorem raise_sec (s : State) (code kind : Nat) (record : Option Nat) (count : Nat) : (raise_ s code kind record count).sec = s.sec := rfl
@[simp] theorem raise_tap (s : State) (code kind : Nat) (record : Option Nat) (count : Nat) : (raise_ s code kind record count).tap = s.tap := rfl
@[simp] theorem raise_rst (s : State) (code kind : Nat) (record : Option Nat) (count : Nat) : (raise_ s code kind record count).rst = s.rst := rfl

@[simp] theorem eventWith_pending (s : State) (code detail : Nat) : (eventWith s code detail).pending = s.pending := rfl
@[simp] theorem eventWith_regs (s : State) (code detail : Nat) : (eventWith s code detail).regs = s.regs := rfl
@[simp] theorem eventWith_mem (s : State) (code detail : Nat) : (eventWith s code detail).mem = s.mem := rfl
@[simp] theorem eventWith_bad (s : State) (code detail : Nat) : (eventWith s code detail).bad = s.bad := rfl
@[simp] theorem eventWith_weak (s : State) (code detail : Nat) : (eventWith s code detail).weak = s.weak := rfl
@[simp] theorem eventWith_time (s : State) (code detail : Nat) : (eventWith s code detail).time = s.time := rfl
@[simp] theorem eventWith_free (s : State) (code detail : Nat) : (eventWith s code detail).free = s.free := rfl
@[simp] theorem eventWith_out (s : State) (code detail : Nat) : (eventWith s code detail).out = s.out := rfl
@[simp] theorem eventWith_sched (s : State) (code detail : Nat) : (eventWith s code detail).sched = s.sched := rfl
@[simp] theorem eventWith_job (s : State) (code detail : Nat) : (eventWith s code detail).job = s.job := rfl
@[simp] theorem eventWith_jobEnd (s : State) (code detail : Nat) : (eventWith s code detail).jobEnd = s.jobEnd := rfl
@[simp] theorem eventWith_step (s : State) (code detail : Nat) : (eventWith s code detail).step = s.step := rfl
@[simp] theorem eventWith_commit (s : State) (code detail : Nat) : (eventWith s code detail).commit = s.commit := rfl
@[simp] theorem eventWith_stash (s : State) (code detail : Nat) : (eventWith s code detail).stash = s.stash := rfl
@[simp] theorem eventWith_power (s : State) (code detail : Nat) : (eventWith s code detail).power = s.power := rfl
@[simp] theorem eventWith_graphs (s : State) (code detail : Nat) : (eventWith s code detail).graphs = s.graphs := rfl
@[simp] theorem eventWith_embs (s : State) (code detail : Nat) : (eventWith s code detail).embs = s.embs := rfl
@[simp] theorem eventWith_brys (s : State) (code detail : Nat) : (eventWith s code detail).brys = s.brys := rfl
@[simp] theorem eventWith_tiles (s : State) (code detail : Nat) : (eventWith s code detail).tiles = s.tiles := rfl
@[simp] theorem eventWith_mesh (s : State) (code detail : Nat) : (eventWith s code detail).mesh = s.mesh := rfl
@[simp] theorem eventWith_sbn (s : State) (code detail : Nat) : (eventWith s code detail).sbn = s.sbn := rfl
@[simp] theorem eventWith_eth (s : State) (code detail : Nat) : (eventWith s code detail).eth = s.eth := rfl
@[simp] theorem eventWith_mgmt (s : State) (code detail : Nat) : (eventWith s code detail).mgmt = s.mgmt := rfl
@[simp] theorem eventWith_sec (s : State) (code detail : Nat) : (eventWith s code detail).sec = s.sec := rfl
@[simp] theorem eventWith_tap (s : State) (code detail : Nat) : (eventWith s code detail).tap = s.tap := rfl
@[simp] theorem eventWith_rst (s : State) (code detail : Nat) : (eventWith s code detail).rst = s.rst := rfl

@[simp] theorem event_pending (s : State) (code count : Nat) : (event s code count).pending = s.pending := by unfold event; split <;> rfl
@[simp] theorem event_regs (s : State) (code count : Nat) : (event s code count).regs = s.regs := by unfold event; split <;> rfl
@[simp] theorem event_mem (s : State) (code count : Nat) : (event s code count).mem = s.mem := by unfold event; split <;> rfl
@[simp] theorem event_bad (s : State) (code count : Nat) : (event s code count).bad = s.bad := by unfold event; split <;> rfl
@[simp] theorem event_weak (s : State) (code count : Nat) : (event s code count).weak = s.weak := by unfold event; split <;> rfl
@[simp] theorem event_time (s : State) (code count : Nat) : (event s code count).time = s.time := by unfold event; split <;> rfl
@[simp] theorem event_free (s : State) (code count : Nat) : (event s code count).free = s.free := by unfold event; split <;> rfl
@[simp] theorem event_out (s : State) (code count : Nat) : (event s code count).out = s.out := by unfold event; split <;> rfl
@[simp] theorem event_sched (s : State) (code count : Nat) : (event s code count).sched = s.sched := by unfold event; split <;> rfl
@[simp] theorem event_job (s : State) (code count : Nat) : (event s code count).job = s.job := by unfold event; split <;> rfl
@[simp] theorem event_jobEnd (s : State) (code count : Nat) : (event s code count).jobEnd = s.jobEnd := by unfold event; split <;> rfl
@[simp] theorem event_step (s : State) (code count : Nat) : (event s code count).step = s.step := by unfold event; split <;> rfl
@[simp] theorem event_commit (s : State) (code count : Nat) : (event s code count).commit = s.commit := by unfold event; split <;> rfl
@[simp] theorem event_stash (s : State) (code count : Nat) : (event s code count).stash = s.stash := by unfold event; split <;> rfl
@[simp] theorem event_power (s : State) (code count : Nat) : (event s code count).power = s.power := by unfold event; split <;> rfl
@[simp] theorem event_graphs (s : State) (code count : Nat) : (event s code count).graphs = s.graphs := by unfold event; split <;> rfl
@[simp] theorem event_embs (s : State) (code count : Nat) : (event s code count).embs = s.embs := by unfold event; split <;> rfl
@[simp] theorem event_brys (s : State) (code count : Nat) : (event s code count).brys = s.brys := by unfold event; split <;> rfl
@[simp] theorem event_tiles (s : State) (code count : Nat) : (event s code count).tiles = s.tiles := by unfold event; split <;> rfl
@[simp] theorem event_mesh (s : State) (code count : Nat) : (event s code count).mesh = s.mesh := by unfold event; split <;> rfl
@[simp] theorem event_sbn (s : State) (code count : Nat) : (event s code count).sbn = s.sbn := by unfold event; split <;> rfl
@[simp] theorem event_eth (s : State) (code count : Nat) : (event s code count).eth = s.eth := by unfold event; split <;> rfl
@[simp] theorem event_mgmt (s : State) (code count : Nat) : (event s code count).mgmt = s.mgmt := by unfold event; split <;> rfl
@[simp] theorem event_sec (s : State) (code count : Nat) : (event s code count).sec = s.sec := by unfold event; split <;> rfl
@[simp] theorem event_tap (s : State) (code count : Nat) : (event s code count).tap = s.tap := by unfold event; split <;> rfl
@[simp] theorem event_rst (s : State) (code count : Nat) : (event s code count).rst = s.rst := by unfold event; split <;> rfl

@[simp] theorem fault_pending (s : State) (code : Nat) (record : Option Nat) : (fault s code record).pending = s.pending := by unfold fault; split <;> rfl
@[simp] theorem fault_regs (s : State) (code : Nat) (record : Option Nat) : (fault s code record).regs = s.regs := by unfold fault; split <;> rfl
@[simp] theorem fault_mem (s : State) (code : Nat) (record : Option Nat) : (fault s code record).mem = s.mem := by unfold fault; split <;> rfl
@[simp] theorem fault_bad (s : State) (code : Nat) (record : Option Nat) : (fault s code record).bad = s.bad := by unfold fault; split <;> rfl
@[simp] theorem fault_weak (s : State) (code : Nat) (record : Option Nat) : (fault s code record).weak = s.weak := by unfold fault; split <;> rfl
@[simp] theorem fault_time (s : State) (code : Nat) (record : Option Nat) : (fault s code record).time = s.time := by unfold fault; split <;> rfl
@[simp] theorem fault_free (s : State) (code : Nat) (record : Option Nat) : (fault s code record).free = s.free := by unfold fault; split <;> rfl
@[simp] theorem fault_out (s : State) (code : Nat) (record : Option Nat) : (fault s code record).out = s.out := by unfold fault; split <;> rfl
@[simp] theorem fault_sched (s : State) (code : Nat) (record : Option Nat) : (fault s code record).sched = s.sched := by unfold fault; split <;> rfl
@[simp] theorem fault_job (s : State) (code : Nat) (record : Option Nat) : (fault s code record).job = s.job := by unfold fault; split <;> rfl
@[simp] theorem fault_jobEnd (s : State) (code : Nat) (record : Option Nat) : (fault s code record).jobEnd = s.jobEnd := by unfold fault; split <;> rfl
@[simp] theorem fault_step (s : State) (code : Nat) (record : Option Nat) : (fault s code record).step = s.step := by unfold fault; split <;> rfl
@[simp] theorem fault_commit (s : State) (code : Nat) (record : Option Nat) : (fault s code record).commit = s.commit := by unfold fault; split <;> rfl
@[simp] theorem fault_stash (s : State) (code : Nat) (record : Option Nat) : (fault s code record).stash = s.stash := by unfold fault; split <;> rfl
@[simp] theorem fault_power (s : State) (code : Nat) (record : Option Nat) : (fault s code record).power = s.power := by unfold fault; split <;> rfl
@[simp] theorem fault_graphs (s : State) (code : Nat) (record : Option Nat) : (fault s code record).graphs = s.graphs := by unfold fault; split <;> rfl
@[simp] theorem fault_embs (s : State) (code : Nat) (record : Option Nat) : (fault s code record).embs = s.embs := by unfold fault; split <;> rfl
@[simp] theorem fault_brys (s : State) (code : Nat) (record : Option Nat) : (fault s code record).brys = s.brys := by unfold fault; split <;> rfl
@[simp] theorem fault_tiles (s : State) (code : Nat) (record : Option Nat) : (fault s code record).tiles = s.tiles := by unfold fault; split <;> rfl
@[simp] theorem fault_mesh (s : State) (code : Nat) (record : Option Nat) : (fault s code record).mesh = s.mesh := by unfold fault; split <;> rfl
@[simp] theorem fault_sbn (s : State) (code : Nat) (record : Option Nat) : (fault s code record).sbn = s.sbn := by unfold fault; split <;> rfl
@[simp] theorem fault_eth (s : State) (code : Nat) (record : Option Nat) : (fault s code record).eth = s.eth := by unfold fault; split <;> rfl
@[simp] theorem fault_mgmt (s : State) (code : Nat) (record : Option Nat) : (fault s code record).mgmt = s.mgmt := by unfold fault; split <;> rfl
@[simp] theorem fault_sec (s : State) (code : Nat) (record : Option Nat) : (fault s code record).sec = s.sec := by unfold fault; split <;> rfl
@[simp] theorem fault_tap (s : State) (code : Nat) (record : Option Nat) : (fault s code record).tap = s.tap := by unfold fault; split <;> rfl
@[simp] theorem fault_rst (s : State) (code : Nat) (record : Option Nat) : (fault s code record).rst = s.rst := by unfold fault; split <;> rfl

@[simp] theorem faultWith_pending (s : State) (code detail : Nat) : (faultWith s code detail).pending = s.pending := by unfold faultWith; split <;> rfl
@[simp] theorem faultWith_regs (s : State) (code detail : Nat) : (faultWith s code detail).regs = s.regs := by unfold faultWith; split <;> rfl
@[simp] theorem faultWith_mem (s : State) (code detail : Nat) : (faultWith s code detail).mem = s.mem := by unfold faultWith; split <;> rfl
@[simp] theorem faultWith_bad (s : State) (code detail : Nat) : (faultWith s code detail).bad = s.bad := by unfold faultWith; split <;> rfl
@[simp] theorem faultWith_weak (s : State) (code detail : Nat) : (faultWith s code detail).weak = s.weak := by unfold faultWith; split <;> rfl
@[simp] theorem faultWith_time (s : State) (code detail : Nat) : (faultWith s code detail).time = s.time := by unfold faultWith; split <;> rfl
@[simp] theorem faultWith_free (s : State) (code detail : Nat) : (faultWith s code detail).free = s.free := by unfold faultWith; split <;> rfl
@[simp] theorem faultWith_out (s : State) (code detail : Nat) : (faultWith s code detail).out = s.out := by unfold faultWith; split <;> rfl
@[simp] theorem faultWith_sched (s : State) (code detail : Nat) : (faultWith s code detail).sched = s.sched := by unfold faultWith; split <;> rfl
@[simp] theorem faultWith_job (s : State) (code detail : Nat) : (faultWith s code detail).job = s.job := by unfold faultWith; split <;> rfl
@[simp] theorem faultWith_jobEnd (s : State) (code detail : Nat) : (faultWith s code detail).jobEnd = s.jobEnd := by unfold faultWith; split <;> rfl
@[simp] theorem faultWith_step (s : State) (code detail : Nat) : (faultWith s code detail).step = s.step := by unfold faultWith; split <;> rfl
@[simp] theorem faultWith_commit (s : State) (code detail : Nat) : (faultWith s code detail).commit = s.commit := by unfold faultWith; split <;> rfl
@[simp] theorem faultWith_stash (s : State) (code detail : Nat) : (faultWith s code detail).stash = s.stash := by unfold faultWith; split <;> rfl
@[simp] theorem faultWith_power (s : State) (code detail : Nat) : (faultWith s code detail).power = s.power := by unfold faultWith; split <;> rfl
@[simp] theorem faultWith_graphs (s : State) (code detail : Nat) : (faultWith s code detail).graphs = s.graphs := by unfold faultWith; split <;> rfl
@[simp] theorem faultWith_embs (s : State) (code detail : Nat) : (faultWith s code detail).embs = s.embs := by unfold faultWith; split <;> rfl
@[simp] theorem faultWith_brys (s : State) (code detail : Nat) : (faultWith s code detail).brys = s.brys := by unfold faultWith; split <;> rfl
@[simp] theorem faultWith_tiles (s : State) (code detail : Nat) : (faultWith s code detail).tiles = s.tiles := by unfold faultWith; split <;> rfl
@[simp] theorem faultWith_mesh (s : State) (code detail : Nat) : (faultWith s code detail).mesh = s.mesh := by unfold faultWith; split <;> rfl
@[simp] theorem faultWith_sbn (s : State) (code detail : Nat) : (faultWith s code detail).sbn = s.sbn := by unfold faultWith; split <;> rfl
@[simp] theorem faultWith_eth (s : State) (code detail : Nat) : (faultWith s code detail).eth = s.eth := by unfold faultWith; split <;> rfl
@[simp] theorem faultWith_mgmt (s : State) (code detail : Nat) : (faultWith s code detail).mgmt = s.mgmt := by unfold faultWith; split <;> rfl
@[simp] theorem faultWith_sec (s : State) (code detail : Nat) : (faultWith s code detail).sec = s.sec := by unfold faultWith; split <;> rfl
@[simp] theorem faultWith_tap (s : State) (code detail : Nat) : (faultWith s code detail).tap = s.tap := by unfold faultWith; split <;> rfl
@[simp] theorem faultWith_rst (s : State) (code detail : Nat) : (faultWith s code detail).rst = s.rst := by unfold faultWith; split <;> rfl

@[simp] theorem setJob_pending (s : State) (st : Nat) : (setJob s st).pending = s.pending := by unfold setJob; split <;> rfl
@[simp] theorem setJob_mem (s : State) (st : Nat) : (setJob s st).mem = s.mem := by unfold setJob; split <;> rfl
@[simp] theorem setJob_bad (s : State) (st : Nat) : (setJob s st).bad = s.bad := by unfold setJob; split <;> rfl
@[simp] theorem setJob_weak (s : State) (st : Nat) : (setJob s st).weak = s.weak := by unfold setJob; split <;> rfl
@[simp] theorem setJob_time (s : State) (st : Nat) : (setJob s st).time = s.time := by unfold setJob; split <;> rfl
@[simp] theorem setJob_free (s : State) (st : Nat) : (setJob s st).free = s.free := by unfold setJob; split <;> rfl
@[simp] theorem setJob_out (s : State) (st : Nat) : (setJob s st).out = s.out := by unfold setJob; split <;> rfl
@[simp] theorem setJob_sched (s : State) (st : Nat) : (setJob s st).sched = s.sched := by unfold setJob; split <;> rfl
@[simp] theorem setJob_job (s : State) (st : Nat) : (setJob s st).job = s.job := by unfold setJob; split <;> rfl
@[simp] theorem setJob_jobEnd (s : State) (st : Nat) : (setJob s st).jobEnd = s.jobEnd := by unfold setJob; split <;> rfl
@[simp] theorem setJob_step (s : State) (st : Nat) : (setJob s st).step = s.step := by unfold setJob; split <;> rfl
@[simp] theorem setJob_commit (s : State) (st : Nat) : (setJob s st).commit = s.commit := by unfold setJob; split <;> rfl
@[simp] theorem setJob_stash (s : State) (st : Nat) : (setJob s st).stash = s.stash := by unfold setJob; split <;> rfl
@[simp] theorem setJob_power (s : State) (st : Nat) : (setJob s st).power = s.power := by unfold setJob; split <;> rfl
@[simp] theorem setJob_graphs (s : State) (st : Nat) : (setJob s st).graphs = s.graphs := by unfold setJob; split <;> rfl
@[simp] theorem setJob_embs (s : State) (st : Nat) : (setJob s st).embs = s.embs := by unfold setJob; split <;> rfl
@[simp] theorem setJob_brys (s : State) (st : Nat) : (setJob s st).brys = s.brys := by unfold setJob; split <;> rfl
@[simp] theorem setJob_tiles (s : State) (st : Nat) : (setJob s st).tiles = s.tiles := by unfold setJob; split <;> rfl
@[simp] theorem setJob_mesh (s : State) (st : Nat) : (setJob s st).mesh = s.mesh := by unfold setJob; split <;> rfl
@[simp] theorem setJob_sbn (s : State) (st : Nat) : (setJob s st).sbn = s.sbn := by unfold setJob; split <;> rfl
@[simp] theorem setJob_eth (s : State) (st : Nat) : (setJob s st).eth = s.eth := by unfold setJob; split <;> rfl
@[simp] theorem setJob_mgmt (s : State) (st : Nat) : (setJob s st).mgmt = s.mgmt := by unfold setJob; split <;> rfl
@[simp] theorem setJob_sec (s : State) (st : Nat) : (setJob s st).sec = s.sec := by unfold setJob; split <;> rfl
@[simp] theorem setJob_tap (s : State) (st : Nat) : (setJob s st).tap = s.tap := by unfold setJob; split <;> rfl
@[simp] theorem setJob_rst (s : State) (st : Nat) : (setJob s st).rst = s.rst := by unfold setJob; split <;> rfl

@[simp] theorem setSite_pending (s : State) (i : Nat) (x : SiteS) : (setSite s i x).pending = s.pending := rfl
@[simp] theorem setSite_regs (s : State) (i : Nat) (x : SiteS) : (setSite s i x).regs = s.regs := rfl
@[simp] theorem setSite_mem (s : State) (i : Nat) (x : SiteS) : (setSite s i x).mem = s.mem := rfl
@[simp] theorem setSite_bad (s : State) (i : Nat) (x : SiteS) : (setSite s i x).bad = s.bad := rfl
@[simp] theorem setSite_weak (s : State) (i : Nat) (x : SiteS) : (setSite s i x).weak = s.weak := rfl
@[simp] theorem setSite_time (s : State) (i : Nat) (x : SiteS) : (setSite s i x).time = s.time := rfl
@[simp] theorem setSite_free (s : State) (i : Nat) (x : SiteS) : (setSite s i x).free = s.free := rfl
@[simp] theorem setSite_raised (s : State) (i : Nat) (x : SiteS) : (setSite s i x).raised = s.raised := rfl
@[simp] theorem setSite_out (s : State) (i : Nat) (x : SiteS) : (setSite s i x).out = s.out := rfl
@[simp] theorem setSite_job (s : State) (i : Nat) (x : SiteS) : (setSite s i x).job = s.job := rfl
@[simp] theorem setSite_jobEnd (s : State) (i : Nat) (x : SiteS) : (setSite s i x).jobEnd = s.jobEnd := rfl
@[simp] theorem setSite_step (s : State) (i : Nat) (x : SiteS) : (setSite s i x).step = s.step := rfl
@[simp] theorem setSite_commit (s : State) (i : Nat) (x : SiteS) : (setSite s i x).commit = s.commit := rfl
@[simp] theorem setSite_stash (s : State) (i : Nat) (x : SiteS) : (setSite s i x).stash = s.stash := rfl
@[simp] theorem setSite_power (s : State) (i : Nat) (x : SiteS) : (setSite s i x).power = s.power := rfl
@[simp] theorem setSite_graphs (s : State) (i : Nat) (x : SiteS) : (setSite s i x).graphs = s.graphs := rfl
@[simp] theorem setSite_embs (s : State) (i : Nat) (x : SiteS) : (setSite s i x).embs = s.embs := rfl
@[simp] theorem setSite_brys (s : State) (i : Nat) (x : SiteS) : (setSite s i x).brys = s.brys := rfl
@[simp] theorem setSite_tiles (s : State) (i : Nat) (x : SiteS) : (setSite s i x).tiles = s.tiles := rfl
@[simp] theorem setSite_mesh (s : State) (i : Nat) (x : SiteS) : (setSite s i x).mesh = s.mesh := rfl
@[simp] theorem setSite_sbn (s : State) (i : Nat) (x : SiteS) : (setSite s i x).sbn = s.sbn := rfl
@[simp] theorem setSite_eth (s : State) (i : Nat) (x : SiteS) : (setSite s i x).eth = s.eth := rfl
@[simp] theorem setSite_mgmt (s : State) (i : Nat) (x : SiteS) : (setSite s i x).mgmt = s.mgmt := rfl
@[simp] theorem setSite_sec (s : State) (i : Nat) (x : SiteS) : (setSite s i x).sec = s.sec := rfl
@[simp] theorem setSite_tap (s : State) (i : Nat) (x : SiteS) : (setSite s i x).tap = s.tap := rfl
@[simp] theorem setSite_rst (s : State) (i : Nat) (x : SiteS) : (setSite s i x).rst = s.rst := rfl

@[simp] theorem setTile_pending (s : State) (t : Nat) (x : TileS) : (setTile s t x).pending = s.pending := rfl
@[simp] theorem setTile_regs (s : State) (t : Nat) (x : TileS) : (setTile s t x).regs = s.regs := rfl
@[simp] theorem setTile_mem (s : State) (t : Nat) (x : TileS) : (setTile s t x).mem = s.mem := rfl
@[simp] theorem setTile_bad (s : State) (t : Nat) (x : TileS) : (setTile s t x).bad = s.bad := rfl
@[simp] theorem setTile_weak (s : State) (t : Nat) (x : TileS) : (setTile s t x).weak = s.weak := rfl
@[simp] theorem setTile_time (s : State) (t : Nat) (x : TileS) : (setTile s t x).time = s.time := rfl
@[simp] theorem setTile_free (s : State) (t : Nat) (x : TileS) : (setTile s t x).free = s.free := rfl
@[simp] theorem setTile_raised (s : State) (t : Nat) (x : TileS) : (setTile s t x).raised = s.raised := rfl
@[simp] theorem setTile_out (s : State) (t : Nat) (x : TileS) : (setTile s t x).out = s.out := rfl
@[simp] theorem setTile_sched (s : State) (t : Nat) (x : TileS) : (setTile s t x).sched = s.sched := rfl
@[simp] theorem setTile_job (s : State) (t : Nat) (x : TileS) : (setTile s t x).job = s.job := rfl
@[simp] theorem setTile_jobEnd (s : State) (t : Nat) (x : TileS) : (setTile s t x).jobEnd = s.jobEnd := rfl
@[simp] theorem setTile_step (s : State) (t : Nat) (x : TileS) : (setTile s t x).step = s.step := rfl
@[simp] theorem setTile_commit (s : State) (t : Nat) (x : TileS) : (setTile s t x).commit = s.commit := rfl
@[simp] theorem setTile_stash (s : State) (t : Nat) (x : TileS) : (setTile s t x).stash = s.stash := rfl
@[simp] theorem setTile_power (s : State) (t : Nat) (x : TileS) : (setTile s t x).power = s.power := rfl
@[simp] theorem setTile_graphs (s : State) (t : Nat) (x : TileS) : (setTile s t x).graphs = s.graphs := rfl
@[simp] theorem setTile_embs (s : State) (t : Nat) (x : TileS) : (setTile s t x).embs = s.embs := rfl
@[simp] theorem setTile_brys (s : State) (t : Nat) (x : TileS) : (setTile s t x).brys = s.brys := rfl
@[simp] theorem setTile_mesh (s : State) (t : Nat) (x : TileS) : (setTile s t x).mesh = s.mesh := rfl
@[simp] theorem setTile_sbn (s : State) (t : Nat) (x : TileS) : (setTile s t x).sbn = s.sbn := rfl
@[simp] theorem setTile_eth (s : State) (t : Nat) (x : TileS) : (setTile s t x).eth = s.eth := rfl
@[simp] theorem setTile_mgmt (s : State) (t : Nat) (x : TileS) : (setTile s t x).mgmt = s.mgmt := rfl
@[simp] theorem setTile_sec (s : State) (t : Nat) (x : TileS) : (setTile s t x).sec = s.sec := rfl
@[simp] theorem setTile_tap (s : State) (t : Nat) (x : TileS) : (setTile s t x).tap = s.tap := rfl
@[simp] theorem setTile_rst (s : State) (t : Nat) (x : TileS) : (setTile s t x).rst = s.rst := rfl

@[simp] theorem setGraph_pending (s : State) (k : Nat) (x : GraphS) : (setGraph s k x).pending = s.pending := rfl
@[simp] theorem setGraph_regs (s : State) (k : Nat) (x : GraphS) : (setGraph s k x).regs = s.regs := rfl
@[simp] theorem setGraph_mem (s : State) (k : Nat) (x : GraphS) : (setGraph s k x).mem = s.mem := rfl
@[simp] theorem setGraph_bad (s : State) (k : Nat) (x : GraphS) : (setGraph s k x).bad = s.bad := rfl
@[simp] theorem setGraph_weak (s : State) (k : Nat) (x : GraphS) : (setGraph s k x).weak = s.weak := rfl
@[simp] theorem setGraph_time (s : State) (k : Nat) (x : GraphS) : (setGraph s k x).time = s.time := rfl
@[simp] theorem setGraph_free (s : State) (k : Nat) (x : GraphS) : (setGraph s k x).free = s.free := rfl
@[simp] theorem setGraph_raised (s : State) (k : Nat) (x : GraphS) : (setGraph s k x).raised = s.raised := rfl
@[simp] theorem setGraph_out (s : State) (k : Nat) (x : GraphS) : (setGraph s k x).out = s.out := rfl
@[simp] theorem setGraph_sched (s : State) (k : Nat) (x : GraphS) : (setGraph s k x).sched = s.sched := rfl
@[simp] theorem setGraph_job (s : State) (k : Nat) (x : GraphS) : (setGraph s k x).job = s.job := rfl
@[simp] theorem setGraph_jobEnd (s : State) (k : Nat) (x : GraphS) : (setGraph s k x).jobEnd = s.jobEnd := rfl
@[simp] theorem setGraph_step (s : State) (k : Nat) (x : GraphS) : (setGraph s k x).step = s.step := rfl
@[simp] theorem setGraph_commit (s : State) (k : Nat) (x : GraphS) : (setGraph s k x).commit = s.commit := rfl
@[simp] theorem setGraph_stash (s : State) (k : Nat) (x : GraphS) : (setGraph s k x).stash = s.stash := rfl
@[simp] theorem setGraph_power (s : State) (k : Nat) (x : GraphS) : (setGraph s k x).power = s.power := rfl
@[simp] theorem setGraph_embs (s : State) (k : Nat) (x : GraphS) : (setGraph s k x).embs = s.embs := rfl
@[simp] theorem setGraph_brys (s : State) (k : Nat) (x : GraphS) : (setGraph s k x).brys = s.brys := rfl
@[simp] theorem setGraph_tiles (s : State) (k : Nat) (x : GraphS) : (setGraph s k x).tiles = s.tiles := rfl
@[simp] theorem setGraph_mesh (s : State) (k : Nat) (x : GraphS) : (setGraph s k x).mesh = s.mesh := rfl
@[simp] theorem setGraph_sbn (s : State) (k : Nat) (x : GraphS) : (setGraph s k x).sbn = s.sbn := rfl
@[simp] theorem setGraph_eth (s : State) (k : Nat) (x : GraphS) : (setGraph s k x).eth = s.eth := rfl
@[simp] theorem setGraph_mgmt (s : State) (k : Nat) (x : GraphS) : (setGraph s k x).mgmt = s.mgmt := rfl
@[simp] theorem setGraph_sec (s : State) (k : Nat) (x : GraphS) : (setGraph s k x).sec = s.sec := rfl
@[simp] theorem setGraph_tap (s : State) (k : Nat) (x : GraphS) : (setGraph s k x).tap = s.tap := rfl
@[simp] theorem setGraph_rst (s : State) (k : Nat) (x : GraphS) : (setGraph s k x).rst = s.rst := rfl

@[simp] theorem setEmb_pending (s : State) (k : Nat) (x : EmbS) : (setEmb s k x).pending = s.pending := rfl
@[simp] theorem setEmb_regs (s : State) (k : Nat) (x : EmbS) : (setEmb s k x).regs = s.regs := rfl
@[simp] theorem setEmb_mem (s : State) (k : Nat) (x : EmbS) : (setEmb s k x).mem = s.mem := rfl
@[simp] theorem setEmb_bad (s : State) (k : Nat) (x : EmbS) : (setEmb s k x).bad = s.bad := rfl
@[simp] theorem setEmb_weak (s : State) (k : Nat) (x : EmbS) : (setEmb s k x).weak = s.weak := rfl
@[simp] theorem setEmb_time (s : State) (k : Nat) (x : EmbS) : (setEmb s k x).time = s.time := rfl
@[simp] theorem setEmb_free (s : State) (k : Nat) (x : EmbS) : (setEmb s k x).free = s.free := rfl
@[simp] theorem setEmb_raised (s : State) (k : Nat) (x : EmbS) : (setEmb s k x).raised = s.raised := rfl
@[simp] theorem setEmb_out (s : State) (k : Nat) (x : EmbS) : (setEmb s k x).out = s.out := rfl
@[simp] theorem setEmb_sched (s : State) (k : Nat) (x : EmbS) : (setEmb s k x).sched = s.sched := rfl
@[simp] theorem setEmb_job (s : State) (k : Nat) (x : EmbS) : (setEmb s k x).job = s.job := rfl
@[simp] theorem setEmb_jobEnd (s : State) (k : Nat) (x : EmbS) : (setEmb s k x).jobEnd = s.jobEnd := rfl
@[simp] theorem setEmb_step (s : State) (k : Nat) (x : EmbS) : (setEmb s k x).step = s.step := rfl
@[simp] theorem setEmb_commit (s : State) (k : Nat) (x : EmbS) : (setEmb s k x).commit = s.commit := rfl
@[simp] theorem setEmb_stash (s : State) (k : Nat) (x : EmbS) : (setEmb s k x).stash = s.stash := rfl
@[simp] theorem setEmb_power (s : State) (k : Nat) (x : EmbS) : (setEmb s k x).power = s.power := rfl
@[simp] theorem setEmb_graphs (s : State) (k : Nat) (x : EmbS) : (setEmb s k x).graphs = s.graphs := rfl
@[simp] theorem setEmb_brys (s : State) (k : Nat) (x : EmbS) : (setEmb s k x).brys = s.brys := rfl
@[simp] theorem setEmb_tiles (s : State) (k : Nat) (x : EmbS) : (setEmb s k x).tiles = s.tiles := rfl
@[simp] theorem setEmb_mesh (s : State) (k : Nat) (x : EmbS) : (setEmb s k x).mesh = s.mesh := rfl
@[simp] theorem setEmb_sbn (s : State) (k : Nat) (x : EmbS) : (setEmb s k x).sbn = s.sbn := rfl
@[simp] theorem setEmb_eth (s : State) (k : Nat) (x : EmbS) : (setEmb s k x).eth = s.eth := rfl
@[simp] theorem setEmb_mgmt (s : State) (k : Nat) (x : EmbS) : (setEmb s k x).mgmt = s.mgmt := rfl
@[simp] theorem setEmb_sec (s : State) (k : Nat) (x : EmbS) : (setEmb s k x).sec = s.sec := rfl
@[simp] theorem setEmb_tap (s : State) (k : Nat) (x : EmbS) : (setEmb s k x).tap = s.tap := rfl
@[simp] theorem setEmb_rst (s : State) (k : Nat) (x : EmbS) : (setEmb s k x).rst = s.rst := rfl

@[simp] theorem setStack_pending (s : State) (k : Nat) (x : StackS) : (setStack s k x).pending = s.pending := rfl
@[simp] theorem setStack_regs (s : State) (k : Nat) (x : StackS) : (setStack s k x).regs = s.regs := rfl
@[simp] theorem setStack_mem (s : State) (k : Nat) (x : StackS) : (setStack s k x).mem = s.mem := rfl
@[simp] theorem setStack_bad (s : State) (k : Nat) (x : StackS) : (setStack s k x).bad = s.bad := rfl
@[simp] theorem setStack_weak (s : State) (k : Nat) (x : StackS) : (setStack s k x).weak = s.weak := rfl
@[simp] theorem setStack_time (s : State) (k : Nat) (x : StackS) : (setStack s k x).time = s.time := rfl
@[simp] theorem setStack_free (s : State) (k : Nat) (x : StackS) : (setStack s k x).free = s.free := rfl
@[simp] theorem setStack_raised (s : State) (k : Nat) (x : StackS) : (setStack s k x).raised = s.raised := rfl
@[simp] theorem setStack_out (s : State) (k : Nat) (x : StackS) : (setStack s k x).out = s.out := rfl
@[simp] theorem setStack_sched (s : State) (k : Nat) (x : StackS) : (setStack s k x).sched = s.sched := rfl
@[simp] theorem setStack_job (s : State) (k : Nat) (x : StackS) : (setStack s k x).job = s.job := rfl
@[simp] theorem setStack_jobEnd (s : State) (k : Nat) (x : StackS) : (setStack s k x).jobEnd = s.jobEnd := rfl
@[simp] theorem setStack_step (s : State) (k : Nat) (x : StackS) : (setStack s k x).step = s.step := rfl
@[simp] theorem setStack_commit (s : State) (k : Nat) (x : StackS) : (setStack s k x).commit = s.commit := rfl
@[simp] theorem setStack_stash (s : State) (k : Nat) (x : StackS) : (setStack s k x).stash = s.stash := rfl
@[simp] theorem setStack_power (s : State) (k : Nat) (x : StackS) : (setStack s k x).power = s.power := rfl
@[simp] theorem setStack_graphs (s : State) (k : Nat) (x : StackS) : (setStack s k x).graphs = s.graphs := rfl
@[simp] theorem setStack_embs (s : State) (k : Nat) (x : StackS) : (setStack s k x).embs = s.embs := rfl
@[simp] theorem setStack_tiles (s : State) (k : Nat) (x : StackS) : (setStack s k x).tiles = s.tiles := rfl
@[simp] theorem setStack_mesh (s : State) (k : Nat) (x : StackS) : (setStack s k x).mesh = s.mesh := rfl
@[simp] theorem setStack_sbn (s : State) (k : Nat) (x : StackS) : (setStack s k x).sbn = s.sbn := rfl
@[simp] theorem setStack_eth (s : State) (k : Nat) (x : StackS) : (setStack s k x).eth = s.eth := rfl
@[simp] theorem setStack_mgmt (s : State) (k : Nat) (x : StackS) : (setStack s k x).mgmt = s.mgmt := rfl
@[simp] theorem setStack_sec (s : State) (k : Nat) (x : StackS) : (setStack s k x).sec = s.sec := rfl
@[simp] theorem setStack_tap (s : State) (k : Nat) (x : StackS) : (setStack s k x).tap = s.tap := rfl
@[simp] theorem setStack_rst (s : State) (k : Nat) (x : StackS) : (setStack s k x).rst = s.rst := rfl

@[simp] theorem setPort_pending (s : State) (p : Nat) (x : SbPort) : (setPort s p x).pending = s.pending := rfl
@[simp] theorem setPort_regs (s : State) (p : Nat) (x : SbPort) : (setPort s p x).regs = s.regs := rfl
@[simp] theorem setPort_mem (s : State) (p : Nat) (x : SbPort) : (setPort s p x).mem = s.mem := rfl
@[simp] theorem setPort_bad (s : State) (p : Nat) (x : SbPort) : (setPort s p x).bad = s.bad := rfl
@[simp] theorem setPort_weak (s : State) (p : Nat) (x : SbPort) : (setPort s p x).weak = s.weak := rfl
@[simp] theorem setPort_time (s : State) (p : Nat) (x : SbPort) : (setPort s p x).time = s.time := rfl
@[simp] theorem setPort_free (s : State) (p : Nat) (x : SbPort) : (setPort s p x).free = s.free := rfl
@[simp] theorem setPort_raised (s : State) (p : Nat) (x : SbPort) : (setPort s p x).raised = s.raised := rfl
@[simp] theorem setPort_out (s : State) (p : Nat) (x : SbPort) : (setPort s p x).out = s.out := rfl
@[simp] theorem setPort_sched (s : State) (p : Nat) (x : SbPort) : (setPort s p x).sched = s.sched := rfl
@[simp] theorem setPort_job (s : State) (p : Nat) (x : SbPort) : (setPort s p x).job = s.job := rfl
@[simp] theorem setPort_jobEnd (s : State) (p : Nat) (x : SbPort) : (setPort s p x).jobEnd = s.jobEnd := rfl
@[simp] theorem setPort_step (s : State) (p : Nat) (x : SbPort) : (setPort s p x).step = s.step := rfl
@[simp] theorem setPort_commit (s : State) (p : Nat) (x : SbPort) : (setPort s p x).commit = s.commit := rfl
@[simp] theorem setPort_stash (s : State) (p : Nat) (x : SbPort) : (setPort s p x).stash = s.stash := rfl
@[simp] theorem setPort_power (s : State) (p : Nat) (x : SbPort) : (setPort s p x).power = s.power := rfl
@[simp] theorem setPort_graphs (s : State) (p : Nat) (x : SbPort) : (setPort s p x).graphs = s.graphs := rfl
@[simp] theorem setPort_embs (s : State) (p : Nat) (x : SbPort) : (setPort s p x).embs = s.embs := rfl
@[simp] theorem setPort_brys (s : State) (p : Nat) (x : SbPort) : (setPort s p x).brys = s.brys := rfl
@[simp] theorem setPort_tiles (s : State) (p : Nat) (x : SbPort) : (setPort s p x).tiles = s.tiles := rfl
@[simp] theorem setPort_mesh (s : State) (p : Nat) (x : SbPort) : (setPort s p x).mesh = s.mesh := rfl
@[simp] theorem setPort_eth (s : State) (p : Nat) (x : SbPort) : (setPort s p x).eth = s.eth := rfl
@[simp] theorem setPort_mgmt (s : State) (p : Nat) (x : SbPort) : (setPort s p x).mgmt = s.mgmt := rfl
@[simp] theorem setPort_sec (s : State) (p : Nat) (x : SbPort) : (setPort s p x).sec = s.sec := rfl
@[simp] theorem setPort_tap (s : State) (p : Nat) (x : SbPort) : (setPort s p x).tap = s.tap := rfl
@[simp] theorem setPort_rst (s : State) (p : Nat) (x : SbPort) : (setPort s p x).rst = s.rst := rfl

@[simp] theorem setTx_pending (s : State) (dst vc : Nat) (c : TxConn) : (setTx s dst vc c).pending = s.pending := rfl
@[simp] theorem setTx_regs (s : State) (dst vc : Nat) (c : TxConn) : (setTx s dst vc c).regs = s.regs := rfl
@[simp] theorem setTx_mem (s : State) (dst vc : Nat) (c : TxConn) : (setTx s dst vc c).mem = s.mem := rfl
@[simp] theorem setTx_bad (s : State) (dst vc : Nat) (c : TxConn) : (setTx s dst vc c).bad = s.bad := rfl
@[simp] theorem setTx_weak (s : State) (dst vc : Nat) (c : TxConn) : (setTx s dst vc c).weak = s.weak := rfl
@[simp] theorem setTx_time (s : State) (dst vc : Nat) (c : TxConn) : (setTx s dst vc c).time = s.time := rfl
@[simp] theorem setTx_free (s : State) (dst vc : Nat) (c : TxConn) : (setTx s dst vc c).free = s.free := rfl
@[simp] theorem setTx_raised (s : State) (dst vc : Nat) (c : TxConn) : (setTx s dst vc c).raised = s.raised := rfl
@[simp] theorem setTx_out (s : State) (dst vc : Nat) (c : TxConn) : (setTx s dst vc c).out = s.out := rfl
@[simp] theorem setTx_sched (s : State) (dst vc : Nat) (c : TxConn) : (setTx s dst vc c).sched = s.sched := rfl
@[simp] theorem setTx_job (s : State) (dst vc : Nat) (c : TxConn) : (setTx s dst vc c).job = s.job := rfl
@[simp] theorem setTx_jobEnd (s : State) (dst vc : Nat) (c : TxConn) : (setTx s dst vc c).jobEnd = s.jobEnd := rfl
@[simp] theorem setTx_step (s : State) (dst vc : Nat) (c : TxConn) : (setTx s dst vc c).step = s.step := rfl
@[simp] theorem setTx_commit (s : State) (dst vc : Nat) (c : TxConn) : (setTx s dst vc c).commit = s.commit := rfl
@[simp] theorem setTx_stash (s : State) (dst vc : Nat) (c : TxConn) : (setTx s dst vc c).stash = s.stash := rfl
@[simp] theorem setTx_power (s : State) (dst vc : Nat) (c : TxConn) : (setTx s dst vc c).power = s.power := rfl
@[simp] theorem setTx_graphs (s : State) (dst vc : Nat) (c : TxConn) : (setTx s dst vc c).graphs = s.graphs := rfl
@[simp] theorem setTx_embs (s : State) (dst vc : Nat) (c : TxConn) : (setTx s dst vc c).embs = s.embs := rfl
@[simp] theorem setTx_brys (s : State) (dst vc : Nat) (c : TxConn) : (setTx s dst vc c).brys = s.brys := rfl
@[simp] theorem setTx_tiles (s : State) (dst vc : Nat) (c : TxConn) : (setTx s dst vc c).tiles = s.tiles := rfl
@[simp] theorem setTx_mesh (s : State) (dst vc : Nat) (c : TxConn) : (setTx s dst vc c).mesh = s.mesh := rfl
@[simp] theorem setTx_eth (s : State) (dst vc : Nat) (c : TxConn) : (setTx s dst vc c).eth = s.eth := rfl
@[simp] theorem setTx_mgmt (s : State) (dst vc : Nat) (c : TxConn) : (setTx s dst vc c).mgmt = s.mgmt := rfl
@[simp] theorem setTx_sec (s : State) (dst vc : Nat) (c : TxConn) : (setTx s dst vc c).sec = s.sec := rfl
@[simp] theorem setTx_tap (s : State) (dst vc : Nat) (c : TxConn) : (setTx s dst vc c).tap = s.tap := rfl
@[simp] theorem setTx_rst (s : State) (dst vc : Nat) (c : TxConn) : (setTx s dst vc c).rst = s.rst := rfl

@[simp] theorem setRx_pending (s : State) (src vc : Nat) (c : RxConn) : (setRx s src vc c).pending = s.pending := rfl
@[simp] theorem setRx_regs (s : State) (src vc : Nat) (c : RxConn) : (setRx s src vc c).regs = s.regs := rfl
@[simp] theorem setRx_mem (s : State) (src vc : Nat) (c : RxConn) : (setRx s src vc c).mem = s.mem := rfl
@[simp] theorem setRx_bad (s : State) (src vc : Nat) (c : RxConn) : (setRx s src vc c).bad = s.bad := rfl
@[simp] theorem setRx_weak (s : State) (src vc : Nat) (c : RxConn) : (setRx s src vc c).weak = s.weak := rfl
@[simp] theorem setRx_time (s : State) (src vc : Nat) (c : RxConn) : (setRx s src vc c).time = s.time := rfl
@[simp] theorem setRx_free (s : State) (src vc : Nat) (c : RxConn) : (setRx s src vc c).free = s.free := rfl
@[simp] theorem setRx_raised (s : State) (src vc : Nat) (c : RxConn) : (setRx s src vc c).raised = s.raised := rfl
@[simp] theorem setRx_out (s : State) (src vc : Nat) (c : RxConn) : (setRx s src vc c).out = s.out := rfl
@[simp] theorem setRx_sched (s : State) (src vc : Nat) (c : RxConn) : (setRx s src vc c).sched = s.sched := rfl
@[simp] theorem setRx_job (s : State) (src vc : Nat) (c : RxConn) : (setRx s src vc c).job = s.job := rfl
@[simp] theorem setRx_jobEnd (s : State) (src vc : Nat) (c : RxConn) : (setRx s src vc c).jobEnd = s.jobEnd := rfl
@[simp] theorem setRx_step (s : State) (src vc : Nat) (c : RxConn) : (setRx s src vc c).step = s.step := rfl
@[simp] theorem setRx_commit (s : State) (src vc : Nat) (c : RxConn) : (setRx s src vc c).commit = s.commit := rfl
@[simp] theorem setRx_stash (s : State) (src vc : Nat) (c : RxConn) : (setRx s src vc c).stash = s.stash := rfl
@[simp] theorem setRx_power (s : State) (src vc : Nat) (c : RxConn) : (setRx s src vc c).power = s.power := rfl
@[simp] theorem setRx_graphs (s : State) (src vc : Nat) (c : RxConn) : (setRx s src vc c).graphs = s.graphs := rfl
@[simp] theorem setRx_embs (s : State) (src vc : Nat) (c : RxConn) : (setRx s src vc c).embs = s.embs := rfl
@[simp] theorem setRx_brys (s : State) (src vc : Nat) (c : RxConn) : (setRx s src vc c).brys = s.brys := rfl
@[simp] theorem setRx_tiles (s : State) (src vc : Nat) (c : RxConn) : (setRx s src vc c).tiles = s.tiles := rfl
@[simp] theorem setRx_mesh (s : State) (src vc : Nat) (c : RxConn) : (setRx s src vc c).mesh = s.mesh := rfl
@[simp] theorem setRx_eth (s : State) (src vc : Nat) (c : RxConn) : (setRx s src vc c).eth = s.eth := rfl
@[simp] theorem setRx_mgmt (s : State) (src vc : Nat) (c : RxConn) : (setRx s src vc c).mgmt = s.mgmt := rfl
@[simp] theorem setRx_sec (s : State) (src vc : Nat) (c : RxConn) : (setRx s src vc c).sec = s.sec := rfl
@[simp] theorem setRx_tap (s : State) (src vc : Nat) (c : RxConn) : (setRx s src vc c).tap = s.tap := rfl
@[simp] theorem setRx_rst (s : State) (src vc : Nat) (c : RxConn) : (setRx s src vc c).rst = s.rst := rfl

@[simp] theorem setQp_pending (s : State) (q : Nat) (x : QpS) : (setQp s q x).pending = s.pending := rfl
@[simp] theorem setQp_regs (s : State) (q : Nat) (x : QpS) : (setQp s q x).regs = s.regs := rfl
@[simp] theorem setQp_mem (s : State) (q : Nat) (x : QpS) : (setQp s q x).mem = s.mem := rfl
@[simp] theorem setQp_bad (s : State) (q : Nat) (x : QpS) : (setQp s q x).bad = s.bad := rfl
@[simp] theorem setQp_weak (s : State) (q : Nat) (x : QpS) : (setQp s q x).weak = s.weak := rfl
@[simp] theorem setQp_time (s : State) (q : Nat) (x : QpS) : (setQp s q x).time = s.time := rfl
@[simp] theorem setQp_free (s : State) (q : Nat) (x : QpS) : (setQp s q x).free = s.free := rfl
@[simp] theorem setQp_raised (s : State) (q : Nat) (x : QpS) : (setQp s q x).raised = s.raised := rfl
@[simp] theorem setQp_out (s : State) (q : Nat) (x : QpS) : (setQp s q x).out = s.out := rfl
@[simp] theorem setQp_sched (s : State) (q : Nat) (x : QpS) : (setQp s q x).sched = s.sched := rfl
@[simp] theorem setQp_job (s : State) (q : Nat) (x : QpS) : (setQp s q x).job = s.job := rfl
@[simp] theorem setQp_jobEnd (s : State) (q : Nat) (x : QpS) : (setQp s q x).jobEnd = s.jobEnd := rfl
@[simp] theorem setQp_step (s : State) (q : Nat) (x : QpS) : (setQp s q x).step = s.step := rfl
@[simp] theorem setQp_commit (s : State) (q : Nat) (x : QpS) : (setQp s q x).commit = s.commit := rfl
@[simp] theorem setQp_stash (s : State) (q : Nat) (x : QpS) : (setQp s q x).stash = s.stash := rfl
@[simp] theorem setQp_power (s : State) (q : Nat) (x : QpS) : (setQp s q x).power = s.power := rfl
@[simp] theorem setQp_graphs (s : State) (q : Nat) (x : QpS) : (setQp s q x).graphs = s.graphs := rfl
@[simp] theorem setQp_embs (s : State) (q : Nat) (x : QpS) : (setQp s q x).embs = s.embs := rfl
@[simp] theorem setQp_brys (s : State) (q : Nat) (x : QpS) : (setQp s q x).brys = s.brys := rfl
@[simp] theorem setQp_tiles (s : State) (q : Nat) (x : QpS) : (setQp s q x).tiles = s.tiles := rfl
@[simp] theorem setQp_mesh (s : State) (q : Nat) (x : QpS) : (setQp s q x).mesh = s.mesh := rfl
@[simp] theorem setQp_sbn (s : State) (q : Nat) (x : QpS) : (setQp s q x).sbn = s.sbn := rfl
@[simp] theorem setQp_mgmt (s : State) (q : Nat) (x : QpS) : (setQp s q x).mgmt = s.mgmt := rfl
@[simp] theorem setQp_sec (s : State) (q : Nat) (x : QpS) : (setQp s q x).sec = s.sec := rfl
@[simp] theorem setQp_tap (s : State) (q : Nat) (x : QpS) : (setQp s q x).tap = s.tap := rfl
@[simp] theorem setQp_rst (s : State) (q : Nat) (x : QpS) : (setQp s q x).rst = s.rst := rfl

end Sys2Proof.Machine
end

