-- ==== Sys2Proof/Laws/Memory.lean ====
section
/-! SUPPORT. The laws of memory: reading after writing, frames, and that every memory operation keeps the canonical form. -/

namespace Sys2Proof.Machine

theorem memRead_memWrite_ne (m : List Host.Cell) (a b : Nat) (v : Byte) (h : b ≠ a) : memRead (memWrite m a v) b = memRead m b :=
  kGetD_kPut_ne m v 0 0 h

theorem memRead_memWrite_same (m : List Host.Cell) (a : Nat) (v : Byte) : memRead (memWrite m a v) a = v :=
  kGetD_kPut_same m a v 0

theorem wf_memWrite (m : List Host.Cell) (a : Nat) (v : Byte) (h : Memory.wf m = true) : Memory.wf (memWrite m a v) = true :=
  kCanon_kPut (fun _ => (0 : Byte)) m a v h

theorem wf_memWrites (bs : List Byte) (m : List Host.Cell) (a : Nat) (h : Memory.wf m = true) :
    Memory.wf (memWrites m a bs) = true := by
  induction bs generalizing m a with
  | nil => exact h
  | cons b bs ih => exact ih _ _ (wf_memWrite m a b h)

/-- Bytes outside those written read as before. -/
theorem memRead_memWrites_outside (bs : List Byte) (m : List Host.Cell) (a b : Nat) (h : b < a ∨ a + bs.length ≤ b) :
    memRead (memWrites m a bs) b = memRead m b := by
  induction bs generalizing m a with
  | nil => rfl
  | cons x bs ih =>
    simp only [List.length_cons] at h
    rw [memWrites, ih _ _ (by omega), memRead_memWrite_ne _ _ _ _ (by omega)]

/-- The bytes written are read back. -/
theorem memRead_memWrites_inside (bs : List Byte) (m : List Host.Cell) (a i : Nat) (h : i < bs.length) :
    memRead (memWrites m a bs) (a + i) = bs[i] := by
  induction bs generalizing m a i with
  | nil => simp at h
  | cons x bs ih =>
    cases i with
    | zero =>
      rw [memWrites, memRead_memWrites_outside _ _ _ _ (by omega)]
      simpa using memRead_memWrite_same m a x
    | succ i =>
      have := ih (memWrite m a x) (a + 1) i (by simpa using h)
      rw [memWrites, show a + (i + 1) = a + 1 + i by omega, this]
      simp

theorem memReads_getElem (m : List Host.Cell) (n a i : Nat) (h : i < (memReads m a n).length) :
    (memReads m a n)[i] = memRead m (a + i) := by
  induction n generalizing a i with
  | zero => simp [memReads] at h
  | succ n ih =>
    cases i with
    | zero => simp [memReads]
    | succ i =>
      simp only [memReads, List.getElem_cons_succ]
      rw [ih, show a + 1 + i = a + (i + 1) by omega]

@[simp] theorem memReads_length (m : List Host.Cell) (a n : Nat) : (memReads m a n).length = n := by
  induction n generalizing a with
  | zero => rfl
  | succ n ih => simp [memReads, ih]

/-- A string of bytes written is read back whole. -/
theorem memReads_memWrites (m : List Host.Cell) (a : Nat) (bs : List Byte) :
    memReads (memWrites m a bs) a bs.length = bs := by
  apply List.ext_getElem (by simp)
  intro i h1 h2
  rw [memReads_getElem, memRead_memWrites_inside bs m a i h2]

/-- What a store leaves: bytes outside it. -/
theorem load_store_same (s : State) (a : Nat) (bs : List Byte) : load (store s a bs) a bs.length = bs :=
  memReads_memWrites s.mem a bs

theorem memRead_store_outside (s : State) (a b : Nat) (bs : List Byte) (h : b < a ∨ a + bs.length ≤ b) :
    memRead (store s a bs).mem b = memRead s.mem b :=
  memRead_memWrites_outside bs s.mem a b h

theorem wf_store (s : State) (a : Nat) (bs : List Byte) (h : Memory.wf s.mem = true) : Memory.wf (store s a bs).mem = true :=
  wf_memWrites bs s.mem a h

theorem wf_clearRange (s : State) (lo hi : Nat) (h : Memory.wf s.mem = true) : Memory.wf (clearRange s lo hi).mem = true :=
  kCanon_filter (fun _ => (0 : Byte)) _ s.mem h

theorem kGet?_filter_out {α : Type} (p : Nat → Bool) (m : Kmap α) (k : Nat) (h : p k = false) :
    kGet? (m.filter (fun e => p e.1)) k = none := by
  induction m with
  | nil => rfl
  | cons e m ih =>
    obtain ⟨j, w⟩ := e
    simp only [List.filter_cons]
    by_cases hj : j = k
    · subst hj; simp [h, ih]
    · by_cases hp : p j = true
      · simp [hp, kGet?, hj, ih]
      · simp [hp, ih]

theorem kGet?_filter_in {α : Type} (p : Nat → Bool) (m : Kmap α) (k : Nat) (h : p k = true) :
    kGet? (m.filter (fun e => p e.1)) k = kGet? m k := by
  induction m with
  | nil => rfl
  | cons e m ih =>
    obtain ⟨j, w⟩ := e
    simp only [List.filter_cons]
    by_cases hj : j = k
    · subst hj; simp [h, kGet?]
    · by_cases hp : p j = true
      · simp [hp, kGet?, hj, ih]
      · simp [hp, kGet?, hj, ih]

/-- A cleared range reads 0. -/
theorem memRead_clearRange_inside (s : State) (lo hi a : Nat) (h1 : lo ≤ a) (h2 : a < hi) :
    memRead (clearRange s lo hi).mem a = 0 := by
  unfold memRead clearRange kGetD
  rw [kGet?_filter_out (fun k => decide (k < lo) || decide (hi ≤ k))]
  · rfl
  · simp; omega

/-- Outside a cleared range memory reads as before. -/
theorem memRead_clearRange_outside (s : State) (lo hi a : Nat) (h : a < lo ∨ hi ≤ a) :
    memRead (clearRange s lo hi).mem a = memRead s.mem a := by
  unfold memRead clearRange kGetD
  rw [kGet?_filter_in (fun k => decide (k < lo) || decide (hi ≤ k))]
  simp; omega

theorem wf_foldl_memWrite {α : Type} (f : α → Nat) (g : α → Byte) (l : List α) (m : List Host.Cell) (h : Memory.wf m = true) :
    Memory.wf (l.foldl (fun m e => memWrite m (f e) (g e)) m) = true := by
  induction l generalizing m with
  | nil => exact h
  | cons e l ih => exact ih _ (wf_memWrite m _ _ h)

theorem wf_moveBytes (src dst n : Nat) (s : State) (h : Memory.wf s.mem = true) : Memory.wf (moveBytes src dst n s).mem = true := by
  unfold moveBytes
  exact wf_foldl_memWrite (fun e : Host.Cell => e.1 - src + dst) (fun e => e.2) _ _ (wf_clearRange s _ _ h)

/-! What the stack controller does with a read and a write: memory keeps its form, and a read changes no byte. -/

theorem ite_mem (b : Bool) (x y : State) (m : List Host.Cell) (hx : x.mem = m) (hy : y.mem = m) :
    (if b then x else y).mem = m := by
  cases b
  · exact hy
  · exact hx

theorem corrected_mem (s : State) (a : Nat) : (corrected s a).mem = s.mem := by
  have h : ∀ k (x : StackS), (setStack (event (bump s BRY_ECC_CE_COUNT 1 k) 0x5001) k x).mem = s.mem := fun k x =>
    (setStack_mem _ _ _).trans ((event_mem _ _ _).trans (bump_mem _ _ _ _ _))
  unfold corrected
  exact ite_mem _ _ _ _ ((eventWith_mem _ _ _).trans ((bump_mem _ _ _ _ _).trans (h _ _))) (h _ _)

theorem heal_mem (s : State) (g : Nat) : (heal s g).mem = s.mem := by
  unfold heal
  split
  · rfl
  · rw [corrected_mem]

theorem healAll_mem (l : List Nat) (s : State) : (healAll s l).mem = s.mem := by
  unfold healAll
  induction l generalizing s with
  | nil => rfl
  | cons g l ih => rw [List.foldl_cons, ih, heal_mem]

theorem ueLog_mem (s : State) (a req : Nat) : (ueLog s a req).mem = s.mem := by
  unfold ueLog firstRecord
  dsimp only
  split
  · rfl
  · rfl

theorem markBad_mem (s : State) (g : Nat) : (markBad s g).mem = s.mem := by
  unfold markBad
  split <;> rfl

theorem uncorrectable_mem (s : State) (a req : Nat) : (uncorrectable s a req).mem = s.mem := by
  unfold uncorrectable
  dsimp only
  split
  · rw [fault_mem, ueLog_mem, markBad_mem]
  · rw [event_mem, bump_mem, ueLog_mem, markBad_mem]

/-- A read by a requester leaves every byte as it was. -/
theorem readGranules_mem (s : State) (l : List Nat) (req : Nat) : (readGranules s l req).1.mem = s.mem := by
  unfold readGranules
  dsimp only
  split
  · rw [uncorrectable_mem, healAll_mem]
  · rw [healAll_mem]

/-- A write by a requester keeps the canonical form. -/
theorem wf_dramWrite (s : State) (a : Nat) (bs : List Byte) (req : Nat) (h : Memory.wf s.mem = true) :
    Memory.wf (dramWrite s a bs req).mem = true := by
  have hk : ∀ (l : List Nat) (u : State),
      (l.foldl (fun s g => uncorrectable s (64 * g) req) u).mem = u.mem := by
    intro l
    induction l with
    | nil => exact fun _ => rfl
    | cons g l ih => intro u; rw [List.foldl_cons, ih, uncorrectable_mem]
  unfold dramWrite
  dsimp only
  split
  · exact wf_store _ _ _ (by rw [healAll_mem]; exact h)
  · rw [hk]
    exact wf_foldl_memWrite _ _ _ _ (by rw [healAll_mem]; exact h)

/-- Another interleaving moves bytes and keeps the canonical form (R61). -/
theorem wf_remapDram (s t : State) (h : Memory.wf t.mem = true) : Memory.wf (remapDram s t).mem = true := by
  unfold remapDram
  exact wf_foldl_memWrite _ _ _ _ (kCanon_filter (fun _ => (0 : Byte)) _ t.mem h)

end Sys2Proof.Machine
end

