-- ==== Sys2Proof/Laws/Bytes.lean ====
section
/-! SUPPORT. Numbers and their bytes (R7), what a load finds beside a store, and the check codes: a digest is a number of 32 bytes,
and the check of a flit that the part makes is in order. -/

namespace Sys2Proof.Machine

@[simp] theorem leBytes_length (n v : Nat) : (leBytes n v).length = n := by
  induction n generalizing v with
  | zero => rfl
  | succ n ih => simp [leBytes, ih]

theorem leNat_leBytes (n v : Nat) (h : v < 256 ^ n) : leNat (leBytes n v) = v := by
  induction n generalizing v with
  | zero => simp [leBytes, leNat] at *; omega
  | succ n ih =>
    rw [leBytes, leNat, ih (v / 256) (by rw [Nat.pow_succ] at h; omega)]
    simp
    omega

theorem leNat_lt (bs : List Byte) : leNat bs < 256 ^ bs.length := by
  induction bs with
  | nil => simp [leNat]
  | cons b bs ih =>
    have := b.isLt
    simp only [leNat, List.length_cons, Nat.pow_succ]
    omega

/-- A load beside a store finds what it found before. -/
theorem load_store_outside (s : State) (a b n : Nat) (bs : List Byte) (h : b + n ≤ a ∨ a + bs.length ≤ b) :
    load (store s a bs) b n = load s b n := by
  apply List.ext_getElem (by simp [load])
  intro i h1 h2
  have hi : i < n := by simpa [load] using h2
  simp only [load, memReads_getElem]
  exact memRead_store_outside s a (b + i) bs (by omega)

/-- A number stored is the number loaded. -/
theorem loadNat_store_leBytes (s : State) (a n v : Nat) (h : v < 256 ^ n) : loadNat (store s a (leBytes n v)) a n = v := by
  have e := load_store_same s a (leBytes n v)
  rw [leBytes_length] at e
  rw [loadNat, e, leNat_leBytes n v h]

theorem shaBlock_length (h : List (BitVec 32)) (bs : List Byte) : (shaBlock h bs).length ≤ h.length := by
  simp only [shaBlock, List.length_zipWith]
  omega

theorem sha256_length (bs : List Byte) : (sha256 bs).length ≤ 32 := by
  have fold : ∀ (l : List Nat) (h : List (BitVec 32)) (f : Nat → List Byte), h.length ≤ 8 →
      (l.foldl (fun h i => shaBlock h (f i)) h).length ≤ 8 := by
    intro l
    induction l with
    | nil => intro h f hh; exact hh
    | cons i l ih => intro h f hh; exact ih _ f (Nat.le_trans (shaBlock_length h (f i)) hh)
  have flat : ∀ h : List (BitVec 32), (h.flatMap (fun w => (leBytes 4 w.toNat).reverse)).length = 4 * h.length := by
    intro h
    induction h with
    | nil => rfl
    | cons w h ih => simp only [List.flatMap_cons, List.length_append, ih, List.length_reverse, leBytes_length, List.length_cons]; omega
  have h8 := fold (List.range ((shaPad bs).length / 64)) firstChain (fun i => slice (shaPad bs) (64 * i) 64) (by decide)
  simp only [sha256, flat]
  omega

/-- A digest is a number of 32 bytes. -/
theorem shaNat_lt (bs : List Byte) : shaNat bs < 256 ^ 32 :=
  Nat.lt_of_lt_of_le (leNat_lt _) (Nat.pow_le_pow_right (by omega) (sha256_length bs))

/-- The check of a flit that the part makes is in order (R315). -/
theorem flitGood_flitOf (hdr : Nat) (payload : List Byte) (h : payload.length ≤ 248) : flitGood (flitOf hdr payload) = true := by
  have hp : (padTo 248 payload).length = 248 := by simp [padTo]; omega
  generalize hq : padTo 248 payload = p at hp
  have hl := leBytes_length 5 hdr
  have h3 := leBytes_length 3 (crc24 (leBytes 5 hdr ++ p)).toNat
  have e1 : slice (flitOf hdr payload) 5 3 = leBytes 3 (crc24 (leBytes 5 hdr ++ p)).toNat := by
    simp only [slice, flitOf, hq, List.append_assoc]
    rw [List.drop_left' hl, List.take_left' h3]
  have e2 : slice (flitOf hdr payload) 0 5 = leBytes 5 hdr := by
    simp only [slice, flitOf, hq, List.append_assoc, List.drop_zero]
    rw [List.take_left' hl]
  have e3 : slice (flitOf hdr payload) 8 248 = p := by
    simp only [slice, flitOf, hq]
    rw [List.drop_left' (by simp [hl, h3]), List.take_of_length_le (by omega)]
  have e4 : (flitOf hdr payload).length = 256 := by simp [flitOf, hq, hl, h3, hp]
  have e5 := (crc24 (leBytes 5 hdr ++ p)).isLt
  simp only [flitGood, leAt, e1, e2, e3, e4, leNat_leBytes 3 _ (by omega)]
  simp

end Sys2Proof.Machine
end

