-- ==== Sys2Proof/Laws/Exec.lean ====
section
/-! SUPPORT. Every command's arm, said once: its effect, closed by `runCmd`. -/

namespace Sys2Proof.Machine

theorem exec_mullion (s : State) :
    exec (.mullion) s = runCmd mullionAll s := rfl

theorem exec_admissionDecision (s : State) :
    exec (.admissionDecision) s = runCmd admissionDecision s := rfl

theorem exec_seedIntake (s : State) :
    exec (.seedIntake) s = runCmd seedIntake s := rfl

theorem exec_stepLatch (sliceFail : List (Fin 104 × Nat)) (s : State) :
    exec (.stepLatch sliceFail) s = runCmd (stepLatch sliceFail) s := rfl

theorem exec_peepholePrefetch (stack : Fin 8) (s : State) :
    exec (.peepholePrefetch stack) s = runCmd (peepholePrefetch stack.val) s := rfl

theorem exec_windowRefill (site : Fin 104) (s : State) :
    exec (.windowRefill site) s = runCmd (windowRefill site.val) s := rfl

theorem exec_taskRetire (site : Fin 104) (s : State) :
    exec (.taskRetire site) s = runCmd (taskRetire site.val) s := rfl

theorem exec_memoryRequestComplete (req : MemReq) (ecc : Ecc) (s : State) :
    exec (.memoryRequestComplete req ecc) s = runCmd (memoryRequestComplete req ecc) s := rfl

theorem exec_patrolScrubRead (stack : Fin 8) (offset : Nat) (ecc : Ecc) (s : State) :
    exec (.patrolScrubRead stack offset ecc) s = runCmd (patrolScrubRead stack.val offset ecc) s := rfl

theorem exec_bankRefresh (stack : Fin 8) (pch : Fin 32) (bank : Refreshed) (s : State) :
    exec (.bankRefresh stack pch bank) s = runCmd (bankRefresh stack.val pch.val bank.bank bank.lost) s := rfl

theorem exec_dramTempReport (stack : Fin 8) (die : Fin 16) (celsius : Nat) (s : State) :
    exec (.dramTempReport stack die celsius) s = runCmd (dramTempReport stack.val die.val celsius) s := rfl

theorem exec_dieInterfaceReplay (stack : Fin 8) (t : Nat) (s : State) :
    exec (.dieInterfaceReplay stack t) s = runCmd (dieInterfaceReplay stack.val t) s := rfl

theorem exec_bryRecentre (stack : Fin 8) (t : Nat) (s : State) :
    exec (.bryRecentre stack t) s = runCmd (bryRecentre stack.val t) s := rfl

theorem exec_sample (stack : Fin 8) (req : Word32B) (s : State) :
    exec (.sample stack req) s = runCmd (sample stack.val req) s := rfl

theorem exec_aggregate (stack : Fin 8) (req : Word32B) (s : State) :
    exec (.aggregate stack req) s = runCmd (engineRequest 2 stack.val req) s := rfl

theorem exec_fullAggregate (stack : Fin 8) (req : Word32B) (s : State) :
    exec (.fullAggregate stack req) s = runCmd (engineRequest 3 stack.val req) s := rfl

theorem exec_reverse (stack : Fin 8) (req : Word32B) (s : State) :
    exec (.reverse stack req) s = runCmd (engineRequest 4 stack.val req) s := rfl

theorem exec_ownScatter (stack : Fin 8) (req : Word32B) (s : State) :
    exec (.ownScatter stack req) s = runCmd (engineRequest 5 stack.val req) s := rfl

theorem exec_roundClose (stack : Fin 8) (s : State) :
    exec (.roundClose stack) s = runCmd (roundClose stack.val) s := rfl

theorem exec_scatterApply (stack : Fin 8) (s : State) :
    exec (.scatterApply stack) s = runCmd (scatterApply stack.val) s := rfl

theorem exec_migrationOpen (stack : Fin 8) (s : State) :
    exec (.migrationOpen stack) s = runCmd (migrationOpen stack.val) s := rfl

theorem exec_migrationCopy (stack : Fin 8) (s : State) :
    exec (.migrationCopy stack) s = runCmd (migrationCopy stack.val) s := rfl

theorem exec_migrationSwitch (stack : Fin 8) (s : State) :
    exec (.migrationSwitch stack) s = runCmd (migrationSwitch stack.val) s := rfl

theorem exec_migrDone (stack : Fin 8) (s : State) :
    exec (.migrDone stack) s = runCmd (migrDone stack.val) s := rfl

theorem exec_mma (i : TileIns) (s : State) :
    exec (.mma i) s = runCmd (unitIns 0x10 mma i) s := rfl

theorem exec_mvm (i : TileIns) (s : State) :
    exec (.mvm i) s = runCmd (unitIns 0x11 mvm i) s := rfl

theorem exec_louvreClose (tile : LouvreStep) (s : State) :
    exec (.louvreClose tile) s = runCmd (louvreClose tile.tile.val tile.bands.val) s := rfl

theorem exec_drain (i : TileIns) (s : State) :
    exec (.drain i) s = runCmd (unitIns 0x30 drain i) s := rfl

theorem exec_load (i : TileIns) (s : State) :
    exec (.load i) s = runCmd (unitIns 0x31 load_ i) s := rfl

theorem exec_zero (i : TileIns) (s : State) :
    exec (.zero i) s = runCmd (unitIns 0x32 zero_ i) s := rfl

theorem exec_cvt (i : TileIns) (s : State) :
    exec (.cvt i) s = runCmd (unitIns 0x21 cvt i) s := rfl

theorem exec_ovfReplay (tile : TileAct) (s : State) :
    exec (.ovfReplay tile) s = runCmd (ovfReplay tile.tile.val tile.env) s := rfl

theorem exec_add (i : TileIns) (s : State) :
    exec (.add i) s = runCmd (vopIns 0x01 laneAdd i) s := rfl

theorem exec_sub (i : TileIns) (s : State) :
    exec (.sub i) s = runCmd (vopIns 0x02 laneSub i) s := rfl

theorem exec_mul (i : TileIns) (s : State) :
    exec (.mul i) s = runCmd (vopIns 0x03 laneMul i) s := rfl

theorem exec_fma (i : TileIns) (s : State) :
    exec (.fma i) s = runCmd (vopIns 0x04 laneFma i) s := rfl

theorem exec_div (i : TileIns) (s : State) :
    exec (.div i) s = runCmd (vopIns 0x05 laneDiv i) s := rfl

theorem exec_sqrt (i : TileIns) (s : State) :
    exec (.sqrt i) s = runCmd (vopIns 0x06 laneSqrt i) s := rfl

theorem exec_rsqrt (i : TileIns) (s : State) :
    exec (.rsqrt i) s = runCmd (vopIns 0x07 laneRsqrt i) s := rfl

theorem exec_rcp (i : TileIns) (s : State) :
    exec (.rcp i) s = runCmd (vopIns 0x08 laneRcp i) s := rfl

theorem exec_exp (i : TileIns) (s : State) :
    exec (.exp i) s = runCmd (vopIns 0x09 laneExp i) s := rfl

theorem exec_log (i : TileIns) (s : State) :
    exec (.log i) s = runCmd (vopIns 0x0A laneLog i) s := rfl

theorem exec_tanh (i : TileIns) (s : State) :
    exec (.tanh i) s = runCmd (vopIns 0x0B laneTanh i) s := rfl

theorem exec_sigmoid (i : TileIns) (s : State) :
    exec (.sigmoid i) s = runCmd (vopIns 0x0C laneSigmoid i) s := rfl

theorem exec_gelu (i : TileIns) (s : State) :
    exec (.gelu i) s = runCmd (vopIns 0x0D laneGelu i) s := rfl

theorem exec_relu (i : TileIns) (s : State) :
    exec (.relu i) s = runCmd (vopIns 0x0E laneRelu i) s := rfl

theorem exec_lrelu (i : TileIns) (s : State) :
    exec (.lrelu i) s = runCmd (vopIns 0x0F laneLrelu i) s := rfl

theorem exec_max (i : TileIns) (s : State) :
    exec (.max i) s = runCmd (vopIns 0x10 laneMax i) s := rfl

theorem exec_min (i : TileIns) (s : State) :
    exec (.min i) s = runCmd (vopIns 0x11 laneMin i) s := rfl

theorem exec_cmplt (i : TileIns) (s : State) :
    exec (.cmplt i) s = runCmd (vopIns 0x12 laneCmplt i) s := rfl

theorem exec_cmpeq (i : TileIns) (s : State) :
    exec (.cmpeq i) s = runCmd (vopIns 0x13 laneCmpeq i) s := rfl

theorem exec_mask (i : TileIns) (s : State) :
    exec (.mask i) s = runCmd (vopIns 0x14 laneMask i) s := rfl

theorem exec_rng (i : TileIns) (s : State) :
    exec (.rng i) s = runCmd (unitIns 0x23 rng i) s := rfl

theorem exec_cmp (i : TileIns) (s : State) :
    exec (.cmp i) s = runCmd (unitIns 0x40 cmp i) s := rfl

theorem exec_split (i : TileIns) (s : State) :
    exec (.split i) s = runCmd (unitIns 0x41 split i) s := rfl

theorem exec_recomputePiece (tile : TileAct) (s : State) :
    exec (.recomputePiece tile) s = runCmd (recomputePiece tile.tile.val tile.env) s := rfl

theorem exec_gtag (i : TileIns) (s : State) :
    exec (.gtag i) s = runCmd (unitIns 0x22 gtag i) s := rfl

theorem exec_stash (i : TileIns) (s : State) :
    exec (.stash i) s = runCmd (unitIns 0x50 stash i) s := rfl

theorem exec_refill (i : TileIns) (s : State) :
    exec (.refill i) s = runCmd (unitIns 0x51 refill i) s := rfl

theorem exec_cstart (i : TileIns) (s : State) :
    exec (.cstart i) s = runCmd (unitIns 0x60 cstart i) s := rfl

theorem exec_collTimeout (coll : Fin 256) (s : State) :
    exec (.collTimeout coll) s = runCmd (collTimeout coll.val) s := rfl

theorem exec_commitDue (s : State) :
    exec (.commitDue) s = runCmd commitDue s := rfl

theorem exec_commitOutcome (s : State) :
    exec (.commitOutcome) s = runCmd commitOutcome s := rfl

theorem exec_densePhase (s : State) :
    exec (.densePhase) s = runCmd densePhase s := rfl

theorem exec_embeddingPhase (s : State) :
    exec (.embeddingPhase) s = runCmd embeddingPhase s := rfl

theorem exec_commitEnd (s : State) :
    exec (.commitEnd) s = runCmd commitEnd s := rfl

theorem exec_hingeFlip (s : State) :
    exec (.hingeFlip) s = runCmd hingeFlip s := rfl

theorem exec_tableReleased (s : State) :
    exec (.tableReleased) s = runCmd tableReleased s := rfl

theorem exec_flitReceive (port : Fin 10) (flit : List Byte) (fec : FecReport) (s : State) :
    exec (.flitReceive port flit fec) s = runCmd (flitReceive port.val flit fec.bad fec.corrected) s := rfl

theorem exec_retry (port : Fin 10) (lseq : Nat) (s : State) :
    exec (.retry port lseq) s = runCmd (retry port.val lseq) s := rfl

theorem exec_linkRetryTimeout (port : Fin 10) (s : State) :
    exec (.linkRetryTimeout port) s = runCmd (linkRetryTimeout port.val) s := rfl

theorem exec_linkDownNotice (port : Fin 10) (s : State) :
    exec (.linkDownNotice port) s = runCmd (fun s => portDown s port.val) s := rfl

theorem exec_fecLockLoss (port : Fin 10) (s : State) :
    exec (.fecLockLoss port) s = runCmd (fun s => portDown s port.val) s := rfl

theorem exec_noGoodFlitTimeout (port : Fin 10) (s : State) :
    exec (.noGoodFlitTimeout port) s = runCmd (fun s => portDown s port.val) s := rfl

theorem exec_linkUp (port : Fin 10) (laneOk : BitVec 8) (peerPart : Fin 16) (peerPort : Fin 10) (s : State) :
    exec (.linkUp port laneOk peerPart peerPort) s = runCmd (linkUp port.val laneOk peerPart.val peerPort.val) s := rfl

theorem exec_messageForward (what : Forward) (s : State) :
    exec (.messageForward what) s = runCmd (messageForward what.transit what.start) s := rfl

theorem exec_write (m : SbnMsg) (s : State) :
    exec (.write m) s = runCmd (takeIn [0x01] 0 m) s := rfl

theorem exec_read (m : SbnMsg) (s : State) :
    exec (.read m) s = runCmd (takeIn [0x02] 0 m) s := rfl

theorem exec_readData (m : SbnMsg) (s : State) :
    exec (.readData m) s = runCmd (takeIn [0x03] 0 m) s := rfl

theorem exec_draw (m : SbnMsg) (s : State) :
    exec (.draw m) s = runCmd (takeIn [0x04] 0 m) s := rfl

theorem exec_place (m : SbnMsg) (s : State) :
    exec (.place m) s = runCmd (takeIn [0x05] 0 m) s := rfl

theorem exec_rowreq (m : SbnMsg) (s : State) :
    exec (.rowreq m) s = runCmd (takeIn [0x06] 0 m) s := rfl

theorem exec_rows (m : SbnMsg) (s : State) :
    exec (.rows m) s = runCmd (takeIn [0x07] 0 m) s := rfl

theorem exec_partialRows (m : SbnMsg) (s : State) :
    exec (.partialRows m) s = runCmd (takeIn [0x08] 0 m) s := rfl

theorem exec_handdown (m : SbnMsg) (s : State) :
    exec (.handdown m) s = runCmd (handdown m) s := rfl

theorem exec_scatter (m : SbnMsg) (s : State) :
    exec (.scatter m) s = runCmd (takeIn [0x0A] 0 m) s := rfl

theorem exec_token (m : SbnMsg) (s : State) :
    exec (.token m) s = runCmd (takeIn [0x0B] 0 m) s := rfl

theorem exec_coll (m : SbnMsg) (s : State) :
    exec (.coll m) s = runCmd (takeIn [0x10] 0 m) s := rfl

theorem exec_ack (m : SbnMsg) (t : Nat) (s : State) :
    exec (.ack m t) s = runCmd (takeIn [0x30] t m) s := rfl

theorem exec_ackTimer (src : Fin 16) (vc : Fin 6) (s : State) :
    exec (.ackTimer src vc) s = runCmd (ackTimer src.val vc.val) s := rfl

theorem exec_transportRetx (dst : Fin 16) (vc : Fin 6) (s : State) :
    exec (.transportRetx dst vc) s = runCmd (transportRetx dst.val vc.val) s := rfl

theorem exec_shutterNotice (m : SbnMsg) (s : State) :
    exec (.shutterNotice m) s = runCmd (takeIn [0x40] 0 m) s := rfl

theorem exec_faultNotice (m : SbnMsg) (s : State) :
    exec (.faultNotice m) s = runCmd (takeIn [0x41] 0 m) s := rfl

theorem exec_collCtl (m : SbnMsg) (s : State) :
    exec (.collCtl m) s = runCmd (takeIn [0x42] 0 m) s := rfl

theorem exec_ethFrame (port : Fin 2) (bytes : Nat) (frame : Frame) (t : Nat) (s : State) :
    exec (.ethFrame port bytes frame t) s = runCmd (ethFrame port.val bytes frame t) s := rfl

theorem exec_ethLinkDown (port : Fin 2) (s : State) :
    exec (.ethLinkDown port) s = runCmd (ethDown port.val) s := rfl

theorem exec_ethLinkUp (port : Fin 2) (s : State) :
    exec (.ethLinkUp port) s = runCmd (ethLinkUp port.val) s := rfl

theorem exec_cmReq (port : Fin 2) (remoteQpn psn : Nat) (entry : Fin 8) (s : State) :
    exec (.cmReq port remoteQpn psn entry) s = runCmd (cmReq port.val remoteQpn psn entry.val) s := rfl

theorem exec_cmRtu (entry : Fin 8) (s : State) :
    exec (.cmRtu entry) s = runCmd (cmRtu entry.val) s := rfl

theorem exec_cmDreq (entry : Fin 8) (s : State) :
    exec (.cmDreq entry) s = runCmd (cmDreq entry.val) s := rfl

theorem exec_mailboxArrival (a : Arrival) (s : State) :
    exec (.mailboxArrival a) s = runCmd (mailboxArrival a) s := rfl

theorem exec_rdmaWrite (r : Rdma) (s : State) :
    exec (.rdmaWrite r) s = runCmd (rdmaWrite r) s := rfl

theorem exec_rdmaReadRequest (r : Rdma) (s : State) :
    exec (.rdmaReadRequest r) s = runCmd (rdmaReadRequest r) s := rfl

theorem exec_rdmaReadResponse (qp psn : Nat) (addr : Nat) (data : List Byte) (s : State) :
    exec (.rdmaReadResponse qp psn addr data) s = runCmd (rdmaReadResponse qp psn addr data) s := rfl

theorem exec_acknowledge (qp psn : Nat) (kind : AckKind) (s : State) :
    exec (.acknowledge qp psn kind) s = runCmd (acknowledge qp psn kind) s := rfl

theorem exec_sendWithImmediate (qp psn : Nat) (imm : Nat) (data : List Byte) (last : Bool) (s : State) :
    exec (.sendWithImmediate qp psn imm data last) s = runCmd (sendWithImmediate qp psn imm data last) s := rfl

theorem exec_cnp (qp : Nat) (t : Nat) (s : State) :
    exec (.cnp qp t) s = runCmd (cnp qp t) s := rfl

theorem exec_rateRaise (qp : Nat) (s : State) :
    exec (.rateRaise qp) s = runCmd (rateRaise qp) s := rfl

theorem exec_pfcPause (port : Fin 2) (prio : Fin 8) (quanta : Nat) (t : Nat) (s : State) :
    exec (.pfcPause port prio quanta t) s = runCmd (pfcPause port.val prio.val quanta t) s := rfl

theorem exec_pfcStorm (port : Fin 2) (t : Nat) (s : State) :
    exec (.pfcStorm port t) s = runCmd (pfcStorm port.val t) s := rfl

theorem exec_localAckTimeout (qp : Nat) (s : State) :
    exec (.localAckTimeout qp) s = runCmd (localAckTimeout qp) s := rfl

theorem exec_getIdentity (r : Req) (s : State) :
    exec (.getIdentity r) s = runCmd (serveReqst 0x0101 r false getIdentity) s := rfl

theorem exec_getCaps (r : Req) (s : State) :
    exec (.getCaps r) s = runCmd (serveReqst 0x0102 r false getCaps) s := rfl

theorem exec_getState (r : Req) (s : State) :
    exec (.getState r) s = runCmd (serveReqst 0x0103 r false getState) s := rfl

theorem exec_jobLoad (r : Req) (addr bytes : Nat) (digest : BitVec 256) (extra : JobExtra) (s : State) :
    exec (.jobLoad r addr bytes digest extra) s = runCmd (serveReqst 0x0201 r false (jobLoad addr bytes digest extra)) s := rfl

theorem exec_jobStart (r : Req) (s0 : BitVec 64) (s : State) :
    exec (.jobStart r s0) s = runCmd (serveReqst 0x0202 r false (jobStart s0)) s := rfl

theorem exec_jobStartEffect (s : State) :
    exec (.jobStartEffect) s = runCmd jobStartEffect s := rfl

theorem exec_jobStop (r : Req) (mode : Nat) (s : State) :
    exec (.jobStop r mode) s = runCmd (serveReqst 0x0203 r false (jobStop mode)) s := rfl

theorem exec_jobStatus (r : Req) (s : State) :
    exec (.jobStatus r) s = runCmd (serveReqst 0x0204 r false jobStatus) s := rfl

theorem exec_regRead (r : Req) (addrs : List ReadAt) (s : State) :
    exec (.regRead r addrs) s = runCmd (regRead r (addrs.map ReadAt.addr) (addrs.map ReadAt.found)) s := rfl

theorem exec_regWrite (r : Req) (entries : List (BitVec 64 × BitVec 64)) (s : State) :
    exec (.regWrite r entries) s = runCmd (regWrite r entries) s := rfl

theorem exec_memRead (r : Req) (addr : ReadAt) (len : Nat) (s : State) :
    exec (.memRead r addr len) s = runCmd (memReadReq r addr.addr len addr.found) s := rfl

theorem exec_winCreate (r : Req) (base len perms : Nat) (s : State) :
    exec (.winCreate r base len perms) s = runCmd (serveReqst 0x0304 r false (winCreate r.qp base len perms)) s := rfl

theorem exec_winDestroy (r : Req) (rkey : Nat) (s : State) :
    exec (.winDestroy r rkey) s = runCmd (serveReqst 0x0305 r false (winDestroy rkey)) s := rfl

theorem exec_tableStage (r : Req) (stack table : Nat) (desc : BitVec 512) (s : State) :
    exec (.tableStage r stack table desc) s = runCmd (serveReqst 0x0306 r false (tableStage stack table desc)) s := rfl

theorem exec_tableFlip (r : Req) (tables : BitVec 64) (step : BitVec 64) (s : State) :
    exec (.tableFlip r tables step) s = runCmd (serveReqst 0x0307 r false (tableFlip tables step)) s := rfl

theorem exec_tableStatus (r : Req) (table : Nat) (s : State) :
    exec (.tableStatus r table) s = runCmd (serveReqst 0x0308 r false (tableStatus table)) s := rfl

theorem exec_tableOpt (r : Req) (table : Nat) (values : BitVec 160) (s : State) :
    exec (.tableOpt r table values) s = runCmd (serveReqst 0x0309 r false (tableOpt table values)) s := rfl

theorem exec_tableThresh (r : Req) (table up16 dn16 up8 dn8 : Nat) (s : State) :
    exec (.tableThresh r table up16 dn16 up8 dn8) s = runCmd (serveReqst 0x030A r false (tableThresh table up16 dn16 up8 dn8)) s := rfl

theorem exec_stepStatus (r : Req) (s : State) :
    exec (.stepStatus r) s = runCmd (serveReqst 0x0401 r false stepStatus) s := rfl

theorem exec_stepResume (r : Req) (outcome : Nat) (s : State) :
    exec (.stepResume r outcome) s = runCmd (serveReqst 0x0402 r false (stepResumeReq outcome)) s := rfl

theorem exec_stepUndo (r : Req) (step : BitVec 64) (s : State) :
    exec (.stepUndo r step) s = runCmd (serveReqst 0x0403 r false (stepUndoReq step)) s := rfl

theorem exec_stepReplay (r : Req) (step : BitVec 64) (mode : Nat) (s : State) :
    exec (.stepReplay r step mode) s = runCmd (serveReqst 0x0404 r false (stepReplayReq step mode)) s := rfl

theorem exec_telemetryGet (r : Req) (set : Nat) (s : State) :
    exec (.telemetryGet r set) s = runCmd (serveReqst 0x0501 r (decide (128 ≤ set)) (fun s => if 256 ≤ set then refuse s 0x23 else done s (telemetry s set))) s := rfl

theorem exec_telemetryPeriod (r : Req) (period : Nat) (s : State) :
    exec (.telemetryPeriod r period) s = runCmd (serveReqst 0x0502 r false (telemetryPeriod r.cls period)) s := rfl

theorem exec_telemetryTick (s : State) :
    exec (.telemetryTick) s = runCmd telemetryTick s := rfl

theorem exec_eventSink (r : Req) (entry : Nat) (s : State) :
    exec (.eventSink r entry) s = runCmd (serveReqst 0x0503 r false (eventSink entry)) s := rfl

theorem exec_event (timeMs : Nat) (s : State) :
    exec (.event timeMs) s = runCmd (eventSend timeMs) s := rfl

theorem exec_powerState (r : Req) (state : Nat) (s : State) :
    exec (.powerState r state) s = runCmd (serveReqst 0x0601 r false (powerState r.cls state)) s := rfl

theorem exec_powerCap (r : Req) (cap : Nat) (s : State) :
    exec (.powerCap r cap) s = runCmd (serveReqst 0x0602 r false (powerCap r.cls cap)) s := rfl

theorem exec_powerPolicy (r : Req) (mode fixed : Nat) (s : State) :
    exec (.powerPolicy r mode fixed) s = runCmd (serveReqst 0x0603 r false (powerPolicy mode fixed)) s := rfl

theorem exec_powerStatus (r : Req) (s : State) :
    exec (.powerStatus r) s = runCmd (serveReqst 0x0604 r false powerStatus) s := rfl

theorem exec_attest (r : Req) (nonce : BitVec 256) (offset : Option Nat) (s : State) :
    exec (.attest r nonce offset) s = runCmd (serveReqst 0x0701 r false (attest r.cls nonce offset)) s := rfl

theorem exec_certGet (r : Req) (index : Nat) (offset : Nat) (s : State) :
    exec (.certGet r index offset) s = runCmd (serveReqst 0x0702 r false (certGet index offset)) s := rfl

theorem exec_deadboltChallenge (r : Req) (s : State) :
    exec (.deadboltChallenge r) s = runCmd (serveReqst 0x0703 r false deadboltChallenge) s := rfl

theorem exec_nonceExpiry (s : State) :
    exec (.nonceExpiry) s = runCmd nonceExpiry s := rfl

theorem exec_deadboltOpen (r : Req) (offset : Nat) (fragment : List Byte) (s : State) :
    exec (.deadboltOpen r offset fragment) s = runCmd (serveReqst 0x0704 r false (deadboltOpen r offset fragment)) s := rfl

theorem exec_deadboltClose (r : Req) (s : State) :
    exec (.deadboltClose r) s = runCmd (serveReqst 0x0705 r false (deadboltClose r.cls)) s := rfl

theorem exec_ownerEnrol (r : Req) (offset : Nat) (fragment : List Byte) (s : State) :
    exec (.ownerEnrol r offset fragment) s = runCmd (serveReqst 0x0706 r false (ownerEnrol r offset fragment)) s := rfl

theorem exec_fwBegin (r : Req) (bytes : Nat) (digest : BitVec 256) (s : State) :
    exec (.fwBegin r bytes digest) s = runCmd (serveReqst 0x0707 r false (fwBegin r.cls bytes digest)) s := rfl

theorem exec_fwData (r : Req) (offset : Nat) (fragment : List Byte) (s : State) :
    exec (.fwData r offset fragment) s = runCmd (serveReqst 0x0708 r false (fwData r.cls offset fragment)) s := rfl

theorem exec_fwCommit (r : Req) (s : State) :
    exec (.fwCommit r) s = runCmd (serveReqst 0x0709 r false (fwCommit r.cls)) s := rfl

theorem exec_secPolicy (r : Req) (value : BitVec 32) (s : State) :
    exec (.secPolicy r value) s = runCmd (serveReqst 0x070A r false (secPolicy value)) s := rfl

theorem exec_traceStart (r : Req) (selection : BitVec 128) (s : State) :
    exec (.traceStart r selection) s = runCmd (serveReqst 0x0801 r false (traceStart selection)) s := rfl

theorem exec_traceStop (r : Req) (s : State) :
    exec (.traceStop r) s = runCmd (serveReqst 0x0802 r false traceStop) s := rfl

theorem exec_traceRead (r : Req) (offset : Nat) (s : State) :
    exec (.traceRead r offset) s = runCmd (serveReqst 0x0803 r false (traceRead offset)) s := rfl

theorem exec_draughtSet (r : Req) (entries : List (BitVec 64 × BitVec 64)) (s : State) :
    exec (.draughtSet r entries) s = runCmd (serveReqst 0x0804 r false (draughtSet entries)) s := rfl

theorem exec_draughtArmed (s : State) :
    exec (.draughtArmed) s = runCmd draughtArmed s := rfl

theorem exec_draughtClear (r : Req) (s : State) :
    exec (.draughtClear r) s = runCmd (serveReqst 0x0805 r false draughtClear) s := rfl

theorem exec_logRead (r : Req) (index : Nat) (s : State) :
    exec (.logRead r index) s = runCmd (serveReqst 0x0901 r false (logRead index)) s := rfl

theorem exec_logClear (r : Req) (index : Nat) (s : State) :
    exec (.logClear r index) s = runCmd (serveReqst 0x0902 r false (logClear index)) s := rfl

theorem exec_dumpRead (r : Req) (offset : Nat) (s : State) :
    exec (.dumpRead r offset) s = runCmd (serveReqst 0x0903 r false (dumpRead offset)) s := rfl

theorem exec_domainReset (r : Req) (domain inst timeMs : Nat) (s : State) :
    exec (.domainReset r domain inst timeMs) s = runCmd (fun s => holdIfAsked timeMs (serveReqst 0x0904 r false (domainReset r.cls domain inst) s)) s := rfl

theorem exec_domainResetDone (domain : Domain) (inst : Nat) (s : State) :
    exec (.domainResetDone domain inst) s = runCmd (domainResetDone (domainCode domain) inst) s := rfl

theorem exec_mgmtReset (r : Req) (timeMs : Nat) (s : State) :
    exec (.mgmtReset r timeMs) s = runCmd (fun s => holdIfAsked timeMs (serveReqst 0x0905 r false mgmtReset s)) s := rfl

theorem exec_contextSave (r : Req) (s : State) :
    exec (.contextSave r) s = runCmd (serveReqst 0x0906 r false contextSave) s := rfl

theorem exec_contextSaved (s : State) :
    exec (.contextSaved) s = runCmd contextSaved s := rfl

theorem exec_contextRestore (r : Req) (s : State) :
    exec (.contextRestore r) s = runCmd (serveReqst 0x0907 r false contextRestore) s := rfl

theorem exec_contextRestored (s : State) :
    exec (.contextRestored) s = runCmd contextRestored s := rfl

theorem exec_contextRead (r : Req) (offset : Nat) (s : State) :
    exec (.contextRead r offset) s = runCmd (serveReqst 0x0908 r false (contextRead offset)) s := rfl

theorem exec_contextWrite (r : Req) (offset : Nat) (data : List Byte) (s : State) :
    exec (.contextWrite r offset data) s = runCmd (serveReqst 0x0909 r false (contextWrite offset data)) s := rfl

theorem exec_qpCreate (r : Req) (port : Nat) (s : State) :
    exec (.qpCreate r port) s = runCmd (serveReqst 0x0A01 r false (qpCreate port)) s := rfl

theorem exec_qpConnect (r : Req) (entry remoteQpn sendPsn recvPsn : Nat) (ip : BitVec 128) (ackTmo : Nat) (s : State) :
    exec (.qpConnect r entry remoteQpn sendPsn recvPsn ip ackTmo) s = runCmd (serveReqst 0x0A02 r false (qpConnect entry remoteQpn sendPsn recvPsn ip ackTmo)) s := rfl

theorem exec_qpDestroy (r : Req) (entry : Nat) (s : State) :
    exec (.qpDestroy r entry) s = runCmd (serveReqst 0x0A03 r false (qpDestroy entry)) s := rfl

theorem exec_shutter (r : Req) (parts : BitVec 16) (s : State) :
    exec (.shutter r parts) s = runCmd (serveReqst 0x0A04 r false (shutterReq parts)) s := rfl

theorem exec_shutterClear (r : Req) (parts : BitVec 16) (s : State) :
    exec (.shutterClear r parts) s = runCmd (serveReqst 0x0A05 r false (shutterClear parts)) s := rfl

theorem exec_fabricStatus (r : Req) (s : State) :
    exec (.fabricStatus r) s = runCmd (serveReqst 0x0A06 r false fabricStatus) s := rfl

theorem exec_mgmtWdtReset (core : Fin 4) (timeMs : Nat) (s : State) :
    exec (.mgmtWdtReset core timeMs) s = runCmd (mgmtWdtReset timeMs) s := rfl

theorem exec_mgmtReady (copyOk : Bool) (timeMs : Nat) (s : State) :
    exec (.mgmtReady copyOk timeMs) s = runCmd (mgmtReady copyOk timeMs) s := rfl

theorem exec_faultReport (s : State) :
    exec (.faultReport) s = runCmd faultReport s := rfl

theorem exec_scrub (s : State) :
    exec (.scrub) s = runCmd scrub s := rfl

theorem exec_scrubDone (trainFails : List (Nat × Nat)) (timeMs : Nat) (s : State) :
    exec (.scrubDone trainFails timeMs) s = runCmd (scrubDone trainFails timeMs) s := rfl

theorem exec_siteDetector (site : Fin 104) (s : State) :
    exec (.siteDetector site) s = runCmd (siteDetector site.val) s := rfl

theorem exec_retirementDetector (s : State) :
    exec (.retirementDetector) s = runCmd retirementDetector s := rfl

theorem exec_stepDetector (s : State) :
    exec (.stepDetector) s = runCmd stepDetector s := rfl

theorem exec_indexDetector (s : State) :
    exec (.indexDetector) s = runCmd indexDetector s := rfl

theorem exec_coldStart (f : BootFindings) (s : State) :
    exec (.coldStart f) s = runCmd (coldStart f) s := rfl

theorem exec_fullService (timeMs : Nat) (s : State) :
    exec (.fullService timeMs) s = runCmd (fullService timeMs) s := rfl

theorem exec_wicketDone (s : State) :
    exec (.wicketDone) s = runCmd wicketDone s := rfl

theorem exec_modRst (lowNs : Nat) (f : BootFindings) (s : State) :
    exec (.modRst lowNs f) s = runCmd (modRst lowNs f) s := rfl

theorem exec_energyReport (nJ : Nat) (s : State) :
    exec (.energyReport nJ) s = runCmd (energyReport nJ) s := rfl

theorem exec_sensorRead (readings : List (Nat × Nat)) (timeMs : Nat) (s : State) :
    exec (.sensorRead readings timeMs) s = runCmd (sensorRead readings timeMs) s := rfl

theorem exec_recoveryExit (timeMs : Nat) (s : State) :
    exec (.recoveryExit timeMs) s = runCmd (recoveryExit timeMs) s := rfl

theorem exec_inputFault (tenMilliVolts durationUs : Nat) (s : State) :
    exec (.inputFault tenMilliVolts durationUs) s = runCmd (inputFault tenMilliVolts durationUs) s := rfl

theorem exec_regulatorFault (regulator : Fin 8) (status : BitVec 3) (s : State) :
    exec (.regulatorFault regulator status) s = runCmd (regulatorFault regulator status) s := rfl

theorem exec_regulatorShutdown (tenMilliVolts durationUs : Nat) (s : State) :
    exec (.regulatorShutdown tenMilliVolts durationUs) s = runCmd (regulatorShutdown tenMilliVolts durationUs) s := rfl

theorem exec_idcode (s : State) :
    exec (.idcode) s = runCmd idcode s := rfl

theorem exec_bypass (s : State) :
    exec (.bypass) s = runCmd bypass s := rfl

theorem exec_samplePreload (cells : List Bool) (s : State) :
    exec (.samplePreload cells) s = runCmd (samplePreload cells) s := rfl

theorem exec_extest (cells : List Bool) (s : State) :
    exec (.extest cells) s = runCmd (extestWith 0x03 cells) s := rfl

theorem exec_extestPulse (cells : List Bool) (s : State) :
    exec (.extestPulse cells) s = runCmd (extestWith 0x04 cells) s := rfl

theorem exec_extestTrain (cells : List Bool) (s : State) :
    exec (.extestTrain cells) s = runCmd (extestWith 0x05 cells) s := rfl

theorem exec_internalScan (code : BitVec 4) (s : State) :
    exec (.internalScan code) s = runCmd (internalScan code.toNat) s := rfl

theorem exec_paneCfgWrite (cls : Cls) (value : BitVec 32) (s : State) :
    exec (.paneCfgWrite cls value) s = runCmd (writeOne cls PANE_CFG.base value.toNat) s := rfl

theorem exec_bryIlvWrite (cls : Cls) (value : BitVec 32) (s : State) :
    exec (.bryIlvWrite cls value) s = runCmd (writeOne cls BRY_ILV.base value.toNat) s := rfl

theorem exec_sbnIdWrite (cls : Cls) (value : BitVec 32) (s : State) :
    exec (.sbnIdWrite cls value) s = runCmd (writeOne cls SBN_ID.base value.toNat) s := rfl

theorem exec_sbnRouteWrite (cls : Cls) (part : Fin 16) (value : BitVec 64) (s : State) :
    exec (.sbnRouteWrite cls part value) s = runCmd (writeOne cls (SBN_ROUTE.at 0 part.val) value.toNat) s := rfl

theorem exec_sbnPortEnable (en : Bool) (s : State) :
    exec (.sbnPortEnable en) s = runCmd (sbnPortEnable en) s := rfl

theorem exec_ethPortEnable (port : Fin 2) (en : Bool) (s : State) :
    exec (.ethPortEnable port en) s = runCmd (ethPortEnable port.val en) s := rfl

theorem exec_registerWrite (cls : Cls) (addr : Nat) (value : BitVec 64) (s : State) :
    exec (.registerWrite cls addr value) s = runCmd (registerWrite cls addr value) s := rfl

theorem exec_debugSessionLapse (timeMs : Nat) (s : State) :
    exec (.debugSessionLapse timeMs) s = runCmd (debugSessionLapse timeMs) s := rfl

theorem exec_rnrRetry (qp : Nat) (s : State) :
    exec (.rnrRetry qp) s = runCmd (rnrRetry qp) s := rfl

theorem exec_regulationRegained (s : State) :
    exec (.regulationRegained) s = runCmd regulationRegained s := rfl

theorem exec_setdasa (staticAddr dynamicAddr : BitVec 7) (s : State) :
    exec (.setdasa staticAddr dynamicAddr) s = runCmd (setdasa staticAddr.toNat dynamicAddr.toNat) s := rfl

theorem exec_fwCommitDone (s : State) :
    exec (.fwCommitDone) s = runCmd fwCommitDone s := rfl

/-- Every command is an effect closed by `runCmd`. -/
theorem exec_runs : (i : Instr) → ∃ f, ∀ s, exec i s = runCmd f s
  | .mullion => ⟨_, exec_mullion⟩
  | .admissionDecision => ⟨_, exec_admissionDecision⟩
  | .seedIntake => ⟨_, exec_seedIntake⟩
  | .stepLatch sliceFail => ⟨_, exec_stepLatch sliceFail⟩
  | .peepholePrefetch stack => ⟨_, exec_peepholePrefetch stack⟩
  | .windowRefill site => ⟨_, exec_windowRefill site⟩
  | .taskRetire site => ⟨_, exec_taskRetire site⟩
  | .memoryRequestComplete req ecc => ⟨_, exec_memoryRequestComplete req ecc⟩
  | .patrolScrubRead stack offset ecc => ⟨_, exec_patrolScrubRead stack offset ecc⟩
  | .bankRefresh stack pch bank => ⟨_, exec_bankRefresh stack pch bank⟩
  | .dramTempReport stack die celsius => ⟨_, exec_dramTempReport stack die celsius⟩
  | .dieInterfaceReplay stack t => ⟨_, exec_dieInterfaceReplay stack t⟩
  | .bryRecentre stack t => ⟨_, exec_bryRecentre stack t⟩
  | .sample stack req => ⟨_, exec_sample stack req⟩
  | .aggregate stack req => ⟨_, exec_aggregate stack req⟩
  | .fullAggregate stack req => ⟨_, exec_fullAggregate stack req⟩
  | .reverse stack req => ⟨_, exec_reverse stack req⟩
  | .ownScatter stack req => ⟨_, exec_ownScatter stack req⟩
  | .roundClose stack => ⟨_, exec_roundClose stack⟩
  | .scatterApply stack => ⟨_, exec_scatterApply stack⟩
  | .migrationOpen stack => ⟨_, exec_migrationOpen stack⟩
  | .migrationCopy stack => ⟨_, exec_migrationCopy stack⟩
  | .migrationSwitch stack => ⟨_, exec_migrationSwitch stack⟩
  | .migrDone stack => ⟨_, exec_migrDone stack⟩
  | .mma i => ⟨_, exec_mma i⟩
  | .mvm i => ⟨_, exec_mvm i⟩
  | .louvreClose tile => ⟨_, exec_louvreClose tile⟩
  | .drain i => ⟨_, exec_drain i⟩
  | .load i => ⟨_, exec_load i⟩
  | .zero i => ⟨_, exec_zero i⟩
  | .cvt i => ⟨_, exec_cvt i⟩
  | .ovfReplay tile => ⟨_, exec_ovfReplay tile⟩
  | .add i => ⟨_, exec_add i⟩
  | .sub i => ⟨_, exec_sub i⟩
  | .mul i => ⟨_, exec_mul i⟩
  | .fma i => ⟨_, exec_fma i⟩
  | .div i => ⟨_, exec_div i⟩
  | .sqrt i => ⟨_, exec_sqrt i⟩
  | .rsqrt i => ⟨_, exec_rsqrt i⟩
  | .rcp i => ⟨_, exec_rcp i⟩
  | .exp i => ⟨_, exec_exp i⟩
  | .log i => ⟨_, exec_log i⟩
  | .tanh i => ⟨_, exec_tanh i⟩
  | .sigmoid i => ⟨_, exec_sigmoid i⟩
  | .gelu i => ⟨_, exec_gelu i⟩
  | .relu i => ⟨_, exec_relu i⟩
  | .lrelu i => ⟨_, exec_lrelu i⟩
  | .max i => ⟨_, exec_max i⟩
  | .min i => ⟨_, exec_min i⟩
  | .cmplt i => ⟨_, exec_cmplt i⟩
  | .cmpeq i => ⟨_, exec_cmpeq i⟩
  | .mask i => ⟨_, exec_mask i⟩
  | .rng i => ⟨_, exec_rng i⟩
  | .cmp i => ⟨_, exec_cmp i⟩
  | .split i => ⟨_, exec_split i⟩
  | .recomputePiece tile => ⟨_, exec_recomputePiece tile⟩
  | .gtag i => ⟨_, exec_gtag i⟩
  | .stash i => ⟨_, exec_stash i⟩
  | .refill i => ⟨_, exec_refill i⟩
  | .cstart i => ⟨_, exec_cstart i⟩
  | .collTimeout coll => ⟨_, exec_collTimeout coll⟩
  | .commitDue => ⟨_, exec_commitDue⟩
  | .commitOutcome => ⟨_, exec_commitOutcome⟩
  | .densePhase => ⟨_, exec_densePhase⟩
  | .embeddingPhase => ⟨_, exec_embeddingPhase⟩
  | .commitEnd => ⟨_, exec_commitEnd⟩
  | .hingeFlip => ⟨_, exec_hingeFlip⟩
  | .tableReleased => ⟨_, exec_tableReleased⟩
  | .flitReceive port flit fec => ⟨_, exec_flitReceive port flit fec⟩
  | .retry port lseq => ⟨_, exec_retry port lseq⟩
  | .linkRetryTimeout port => ⟨_, exec_linkRetryTimeout port⟩
  | .linkDownNotice port => ⟨_, exec_linkDownNotice port⟩
  | .fecLockLoss port => ⟨_, exec_fecLockLoss port⟩
  | .noGoodFlitTimeout port => ⟨_, exec_noGoodFlitTimeout port⟩
  | .linkUp port laneOk peerPart peerPort => ⟨_, exec_linkUp port laneOk peerPart peerPort⟩
  | .messageForward what => ⟨_, exec_messageForward what⟩
  | .write m => ⟨_, exec_write m⟩
  | .read m => ⟨_, exec_read m⟩
  | .readData m => ⟨_, exec_readData m⟩
  | .draw m => ⟨_, exec_draw m⟩
  | .place m => ⟨_, exec_place m⟩
  | .rowreq m => ⟨_, exec_rowreq m⟩
  | .rows m => ⟨_, exec_rows m⟩
  | .partialRows m => ⟨_, exec_partialRows m⟩
  | .handdown m => ⟨_, exec_handdown m⟩
  | .scatter m => ⟨_, exec_scatter m⟩
  | .token m => ⟨_, exec_token m⟩
  | .coll m => ⟨_, exec_coll m⟩
  | .ack m t => ⟨_, exec_ack m t⟩
  | .ackTimer src vc => ⟨_, exec_ackTimer src vc⟩
  | .transportRetx dst vc => ⟨_, exec_transportRetx dst vc⟩
  | .shutterNotice m => ⟨_, exec_shutterNotice m⟩
  | .faultNotice m => ⟨_, exec_faultNotice m⟩
  | .collCtl m => ⟨_, exec_collCtl m⟩
  | .ethFrame port bytes frame t => ⟨_, exec_ethFrame port bytes frame t⟩
  | .ethLinkDown port => ⟨_, exec_ethLinkDown port⟩
  | .ethLinkUp port => ⟨_, exec_ethLinkUp port⟩
  | .cmReq port remoteQpn psn entry => ⟨_, exec_cmReq port remoteQpn psn entry⟩
  | .cmRtu entry => ⟨_, exec_cmRtu entry⟩
  | .cmDreq entry => ⟨_, exec_cmDreq entry⟩
  | .mailboxArrival a => ⟨_, exec_mailboxArrival a⟩
  | .rdmaWrite r => ⟨_, exec_rdmaWrite r⟩
  | .rdmaReadRequest r => ⟨_, exec_rdmaReadRequest r⟩
  | .rdmaReadResponse qp psn addr data => ⟨_, exec_rdmaReadResponse qp psn addr data⟩
  | .acknowledge qp psn kind => ⟨_, exec_acknowledge qp psn kind⟩
  | .sendWithImmediate qp psn imm data last => ⟨_, exec_sendWithImmediate qp psn imm data last⟩
  | .cnp qp t => ⟨_, exec_cnp qp t⟩
  | .rateRaise qp => ⟨_, exec_rateRaise qp⟩
  | .pfcPause port prio quanta t => ⟨_, exec_pfcPause port prio quanta t⟩
  | .pfcStorm port t => ⟨_, exec_pfcStorm port t⟩
  | .localAckTimeout qp => ⟨_, exec_localAckTimeout qp⟩
  | .getIdentity r => ⟨_, exec_getIdentity r⟩
  | .getCaps r => ⟨_, exec_getCaps r⟩
  | .getState r => ⟨_, exec_getState r⟩
  | .jobLoad r addr bytes digest extra => ⟨_, exec_jobLoad r addr bytes digest extra⟩
  | .jobStart r s0 => ⟨_, exec_jobStart r s0⟩
  | .jobStartEffect => ⟨_, exec_jobStartEffect⟩
  | .jobStop r mode => ⟨_, exec_jobStop r mode⟩
  | .jobStatus r => ⟨_, exec_jobStatus r⟩
  | .regRead r addrs => ⟨_, exec_regRead r addrs⟩
  | .regWrite r entries => ⟨_, exec_regWrite r entries⟩
  | .memRead r addr len => ⟨_, exec_memRead r addr len⟩
  | .winCreate r base len perms => ⟨_, exec_winCreate r base len perms⟩
  | .winDestroy r rkey => ⟨_, exec_winDestroy r rkey⟩
  | .tableStage r stack table desc => ⟨_, exec_tableStage r stack table desc⟩
  | .tableFlip r tables step => ⟨_, exec_tableFlip r tables step⟩
  | .tableStatus r table => ⟨_, exec_tableStatus r table⟩
  | .tableOpt r table values => ⟨_, exec_tableOpt r table values⟩
  | .tableThresh r table up16 dn16 up8 dn8 => ⟨_, exec_tableThresh r table up16 dn16 up8 dn8⟩
  | .stepStatus r => ⟨_, exec_stepStatus r⟩
  | .stepResume r outcome => ⟨_, exec_stepResume r outcome⟩
  | .stepUndo r step => ⟨_, exec_stepUndo r step⟩
  | .stepReplay r step mode => ⟨_, exec_stepReplay r step mode⟩
  | .telemetryGet r set => ⟨_, exec_telemetryGet r set⟩
  | .telemetryPeriod r period => ⟨_, exec_telemetryPeriod r period⟩
  | .telemetryTick => ⟨_, exec_telemetryTick⟩
  | .eventSink r entry => ⟨_, exec_eventSink r entry⟩
  | .event timeMs => ⟨_, exec_event timeMs⟩
  | .powerState r state => ⟨_, exec_powerState r state⟩
  | .powerCap r cap => ⟨_, exec_powerCap r cap⟩
  | .powerPolicy r mode fixed => ⟨_, exec_powerPolicy r mode fixed⟩
  | .powerStatus r => ⟨_, exec_powerStatus r⟩
  | .attest r nonce offset => ⟨_, exec_attest r nonce offset⟩
  | .certGet r index offset => ⟨_, exec_certGet r index offset⟩
  | .deadboltChallenge r => ⟨_, exec_deadboltChallenge r⟩
  | .nonceExpiry => ⟨_, exec_nonceExpiry⟩
  | .deadboltOpen r offset fragment => ⟨_, exec_deadboltOpen r offset fragment⟩
  | .deadboltClose r => ⟨_, exec_deadboltClose r⟩
  | .ownerEnrol r offset fragment => ⟨_, exec_ownerEnrol r offset fragment⟩
  | .fwBegin r bytes digest => ⟨_, exec_fwBegin r bytes digest⟩
  | .fwData r offset fragment => ⟨_, exec_fwData r offset fragment⟩
  | .fwCommit r => ⟨_, exec_fwCommit r⟩
  | .secPolicy r value => ⟨_, exec_secPolicy r value⟩
  | .traceStart r selection => ⟨_, exec_traceStart r selection⟩
  | .traceStop r => ⟨_, exec_traceStop r⟩
  | .traceRead r offset => ⟨_, exec_traceRead r offset⟩
  | .draughtSet r entries => ⟨_, exec_draughtSet r entries⟩
  | .draughtArmed => ⟨_, exec_draughtArmed⟩
  | .draughtClear r => ⟨_, exec_draughtClear r⟩
  | .logRead r index => ⟨_, exec_logRead r index⟩
  | .logClear r index => ⟨_, exec_logClear r index⟩
  | .dumpRead r offset => ⟨_, exec_dumpRead r offset⟩
  | .domainReset r domain inst timeMs => ⟨_, exec_domainReset r domain inst timeMs⟩
  | .domainResetDone domain inst => ⟨_, exec_domainResetDone domain inst⟩
  | .mgmtReset r timeMs => ⟨_, exec_mgmtReset r timeMs⟩
  | .contextSave r => ⟨_, exec_contextSave r⟩
  | .contextSaved => ⟨_, exec_contextSaved⟩
  | .contextRestore r => ⟨_, exec_contextRestore r⟩
  | .contextRestored => ⟨_, exec_contextRestored⟩
  | .contextRead r offset => ⟨_, exec_contextRead r offset⟩
  | .contextWrite r offset data => ⟨_, exec_contextWrite r offset data⟩
  | .qpCreate r port => ⟨_, exec_qpCreate r port⟩
  | .qpConnect r entry remoteQpn sendPsn recvPsn ip ackTmo => ⟨_, exec_qpConnect r entry remoteQpn sendPsn recvPsn ip ackTmo⟩
  | .qpDestroy r entry => ⟨_, exec_qpDestroy r entry⟩
  | .shutter r parts => ⟨_, exec_shutter r parts⟩
  | .shutterClear r parts => ⟨_, exec_shutterClear r parts⟩
  | .fabricStatus r => ⟨_, exec_fabricStatus r⟩
  | .mgmtWdtReset core timeMs => ⟨_, exec_mgmtWdtReset core timeMs⟩
  | .mgmtReady copyOk timeMs => ⟨_, exec_mgmtReady copyOk timeMs⟩
  | .faultReport => ⟨_, exec_faultReport⟩
  | .scrub => ⟨_, exec_scrub⟩
  | .scrubDone trainFails timeMs => ⟨_, exec_scrubDone trainFails timeMs⟩
  | .siteDetector site => ⟨_, exec_siteDetector site⟩
  | .retirementDetector => ⟨_, exec_retirementDetector⟩
  | .stepDetector => ⟨_, exec_stepDetector⟩
  | .indexDetector => ⟨_, exec_indexDetector⟩
  | .coldStart f => ⟨_, exec_coldStart f⟩
  | .fullService timeMs => ⟨_, exec_fullService timeMs⟩
  | .wicketDone => ⟨_, exec_wicketDone⟩
  | .modRst lowNs f => ⟨_, exec_modRst lowNs f⟩
  | .energyReport nJ => ⟨_, exec_energyReport nJ⟩
  | .sensorRead readings timeMs => ⟨_, exec_sensorRead readings timeMs⟩
  | .recoveryExit timeMs => ⟨_, exec_recoveryExit timeMs⟩
  | .inputFault tenMilliVolts durationUs => ⟨_, exec_inputFault tenMilliVolts durationUs⟩
  | .regulatorFault regulator status => ⟨_, exec_regulatorFault regulator status⟩
  | .regulatorShutdown tenMilliVolts durationUs => ⟨_, exec_regulatorShutdown tenMilliVolts durationUs⟩
  | .idcode => ⟨_, exec_idcode⟩
  | .bypass => ⟨_, exec_bypass⟩
  | .samplePreload cells => ⟨_, exec_samplePreload cells⟩
  | .extest cells => ⟨_, exec_extest cells⟩
  | .extestPulse cells => ⟨_, exec_extestPulse cells⟩
  | .extestTrain cells => ⟨_, exec_extestTrain cells⟩
  | .internalScan code => ⟨_, exec_internalScan code⟩
  | .paneCfgWrite cls value => ⟨_, exec_paneCfgWrite cls value⟩
  | .bryIlvWrite cls value => ⟨_, exec_bryIlvWrite cls value⟩
  | .sbnIdWrite cls value => ⟨_, exec_sbnIdWrite cls value⟩
  | .sbnRouteWrite cls part value => ⟨_, exec_sbnRouteWrite cls part value⟩
  | .sbnPortEnable en => ⟨_, exec_sbnPortEnable en⟩
  | .ethPortEnable port en => ⟨_, exec_ethPortEnable port en⟩
  | .registerWrite cls addr value => ⟨_, exec_registerWrite cls addr value⟩
  | .debugSessionLapse timeMs => ⟨_, exec_debugSessionLapse timeMs⟩
  | .rnrRetry qp => ⟨_, exec_rnrRetry qp⟩
  | .regulationRegained => ⟨_, exec_regulationRegained⟩
  | .setdasa staticAddr dynamicAddr => ⟨_, exec_setdasa staticAddr dynamicAddr⟩
  | .fwCommitDone => ⟨_, exec_fwCommitDone⟩

/-- Every command takes a next state. -/
theorem exec_next (i : Instr) (s : State) : ∃ t, exec i s = .next t := by
  obtain ⟨f, h⟩ := exec_runs i
  exact ⟨_, h s⟩

end Sys2Proof.Machine
end

