-- ==== Sys2Proof/Laws/Fld.lean ====
section
/-! SUPPORT. The laws of register fields: a field reads what was written to it, and every other field reads as before. -/

namespace Sys2Proof.Machine

theorem testBit_getBits (lo n : Nat) (v : RegVal) (i : Nat) :
    (getBits lo n v).testBit i = (decide (i < n) && v.getLsbD (lo + i)) := by
  simp [getBits, bitsOf, Nat.testBit_mod_two_pow, Nat.testBit_shiftRight, BitVec.testBit_toNat]

theorem getLsbD_fieldMask (lo n i : Nat) :
    (fieldMask lo n).getLsbD i = (decide (i < 512) && decide (lo ≤ i) && decide (i - lo < n)) := by
  simp only [fieldMask, BitVec.getLsbD_ofNat, Nat.testBit_shiftLeft, Nat.testBit_two_pow_sub_one, ge_iff_le]
  rw [Bool.and_assoc]

theorem getLsbD_setBits (lo n : Nat) (v : RegVal) (x i : Nat) :
    (setBits lo n v x).getLsbD i =
      if i < 512 ∧ lo ≤ i ∧ i - lo < n then x.testBit (i - lo) else v.getLsbD i := by
  simp only [setBits, BitVec.getLsbD_or, BitVec.getLsbD_and, BitVec.getLsbD_not, getLsbD_fieldMask, BitVec.getLsbD_ofNat,
    Nat.testBit_shiftLeft, Nat.testBit_mod_two_pow, ge_iff_le]
  by_cases h1 : i < 512 <;> by_cases h2 : lo ≤ i <;> by_cases h3 : i - lo < n <;>
    simp [h1, h2, h3]
  all_goals exact BitVec.getLsbD_of_ge v i (by omega)

/-- A field reads what was written to it, cut to its width. -/
theorem getBits_setBits_same (lo n : Nat) (v : RegVal) (x : Nat) (h : lo + n ≤ 512) :
    getBits lo n (setBits lo n v x) = x % 2 ^ n := by
  apply Nat.eq_of_testBit_eq
  intro i
  rw [testBit_getBits, getLsbD_setBits, Nat.testBit_mod_two_pow]
  by_cases hi : i < n
  · have h1 : lo + i < 512 := by omega
    have h2 : lo + i - lo = i := by omega
    simp [hi, h1, h2]
  · simp [hi]

/-- A field apart from the one written reads as before. -/
theorem getBits_setBits_disjoint (lo n lo' n' : Nat) (v : RegVal) (x : Nat) (h : lo' + n' ≤ lo ∨ lo + n ≤ lo') :
    getBits lo' n' (setBits lo n v x) = getBits lo' n' v := by
  apply Nat.eq_of_testBit_eq
  intro i
  rw [testBit_getBits, testBit_getBits, getLsbD_setBits]
  by_cases hi : i < n'
  · have : ¬(lo' + i < 512 ∧ lo ≤ lo' + i ∧ lo' + i - lo < n) := by omega
    simp [this]
  · simp [hi]

/-- Where a register lies. -/
def Field.addr (f : Field) (k n : Nat) : Nat := f.reg.at k n

/-- A register reads what was written to it. -/
@[simp] theorem readReg_writeReg_same (s : State) (r : Reg) (k n : Nat) (v : RegVal) :
    readReg (writeReg s r k n v) r k n = v := by
  simp [readReg, writeReg, kGetD_kPut_same]

theorem readReg_writeReg_ne (s : State) (r r' : Reg) (k n k' n' : Nat) (v : RegVal) (h : r'.at k' n' ≠ r.at k n) :
    readReg (writeReg s r k n v) r' k' n' = readReg s r' k' n' := by
  simp [readReg, writeReg, kGetD_kPut_ne _ _ _ _ h]

/-- A field reads what was written to it. -/
theorem fld_setFld_same (s : State) (f : Field) (x k n : Nat) (hw : f.lo + f.bits ≤ 512) :
    fld (setFld s f x k n) f k n = x % 2 ^ f.bits := by
  simp only [fld, setFld]
  rw [readReg_writeReg_same, getBits_setBits_same _ _ _ _ hw]

/-- A field of another register, or of another instance, reads as before. -/
theorem fld_setFld_ne (s : State) (f g : Field) (x k n k' n' : Nat) (h : g.reg.at k' n' ≠ f.reg.at k n) :
    fld (setFld s f x k n) g k' n' = fld s g k' n' := by
  simp only [fld, setFld]
  rw [readReg_writeReg_ne _ _ _ _ _ _ _ _ h]

/-- Another field of the same register reads as before. -/
theorem fld_setFld_disjoint (s : State) (f g : Field) (x k n : Nat) (hr : g.reg = f.reg)
    (hd : g.lo + g.bits ≤ f.lo ∨ f.lo + f.bits ≤ g.lo) :
    fld (setFld s f x k n) g k n = fld s g k n := by
  simp only [fld, setFld, hr]
  rw [readReg_writeReg_same, getBits_setBits_disjoint _ _ _ _ _ _ hd]

/-- A field fits its register. -/
theorem fld_lt (s : State) (f : Field) (k n : Nat) : fld s f k n < 2 ^ f.bits := by
  simp only [fld, getBits, bitsOf]
  exact Nat.mod_lt _ (Nat.two_pow_pos _)

/-- A register back at its reset value. -/
@[simp] theorem readReg_resetReg (s : State) (r : Reg) (k n : Nat) :
    readReg (resetReg s r k n) r k n = BitVec.ofNat 512 (r.resetVal n) := by
  simp [readReg, resetReg, kGetD, kGet?_kErase_same]

end Sys2Proof.Machine
end

