-- ==== Sys2Proof/Laws/PerInstr.lean ====
section
/-! SUPPORT. What well-formedness says of each command: a unit instruction's word, an engine request and a transport message
carry the command's own operation, and a request comes from an entry its class has. -/

namespace Sys2Proof.Laws.OwnWord

/-- A well-formed command carries its own operation (R99, R160, R197, R198, R333) and an entry of its class (R362, R393). -/
def Statement (i : Instr) : Prop :=
  wellFormed i = true →
    (∀ op func t, unitWord i = some (op, func, t) → Machine.bitsOf 0 8 t.word.toNat = op) ∧
    (∀ op w, engineWord i = some (op, w) → Machine.bitsOf 0 8 w.toNat = op) ∧
    (∀ op x, transportMsg i = some (op, x) → x.op = op ∧ x.vc ≤ 5) ∧
    (∀ op r, requestOf i = some (op, r) → r.cls ≠ .host → r.qp = 0xFF)

/-- Of every command at once. -/
theorem all (i : Instr) : Statement i := by
  intro h
  simp only [wellFormed, Bool.and_eq_true] at h
  obtain ⟨⟨⟨⟨_, h1⟩, h2⟩, h3⟩, h4⟩ := h
  refine ⟨fun op func t e => ?_, fun op w e => ?_, fun op x e => ?_, fun op r e hc => ?_⟩
  · rw [e] at h1
    simp only [unitWordOk, Bool.and_eq_true, beq_iff_eq] at h1
    exact h1.1.1
  · rw [e] at h2
    simpa using h2
  · rw [e] at h3
    simp only [msgOk, Bool.and_eq_true, beq_iff_eq, decide_eq_true_eq] at h3
    exact ⟨h3.1.1.1.1.1.1.1.1.1.1.1, h3.1.1.1.1.1.1.1.1.1.1.2⟩
  · rw [e] at h4
    simp only [reqOk, Bool.and_eq_true, hc, if_false, beq_iff_eq] at h4
    exact h4.2

theorem mullion : Statement (.mullion) := all _
theorem admissionDecision : Statement (.admissionDecision) := all _
theorem seedIntake : Statement (.seedIntake) := all _
theorem stepLatch (sliceFail : List (Fin 104 × Nat)) : Statement (.stepLatch sliceFail) := all _
theorem peepholePrefetch (stack : Fin 8) : Statement (.peepholePrefetch stack) := all _
theorem windowRefill (site : Fin 104) : Statement (.windowRefill site) := all _
theorem taskRetire (site : Fin 104) : Statement (.taskRetire site) := all _
theorem memoryRequestComplete (req : MemReq) (ecc : Ecc) : Statement (.memoryRequestComplete req ecc) := all _
theorem patrolScrubRead (stack : Fin 8) (offset : Nat) (ecc : Ecc) : Statement (.patrolScrubRead stack offset ecc) := all _
theorem bankRefresh (stack : Fin 8) (pch : Fin 32) (bank : Refreshed) : Statement (.bankRefresh stack pch bank) := all _
theorem dramTempReport (stack : Fin 8) (die : Fin 16) (celsius : Nat) : Statement (.dramTempReport stack die celsius) := all _
theorem dieInterfaceReplay (stack : Fin 8) (t : Nat) : Statement (.dieInterfaceReplay stack t) := all _
theorem bryRecentre (stack : Fin 8) (t : Nat) : Statement (.bryRecentre stack t) := all _
theorem sample (stack : Fin 8) (req : Word32B) : Statement (.sample stack req) := all _
theorem aggregate (stack : Fin 8) (req : Word32B) : Statement (.aggregate stack req) := all _
theorem fullAggregate (stack : Fin 8) (req : Word32B) : Statement (.fullAggregate stack req) := all _
theorem reverse (stack : Fin 8) (req : Word32B) : Statement (.reverse stack req) := all _
theorem ownScatter (stack : Fin 8) (req : Word32B) : Statement (.ownScatter stack req) := all _
theorem roundClose (stack : Fin 8) : Statement (.roundClose stack) := all _
theorem scatterApply (stack : Fin 8) : Statement (.scatterApply stack) := all _
theorem migrationOpen (stack : Fin 8) : Statement (.migrationOpen stack) := all _
theorem migrationCopy (stack : Fin 8) : Statement (.migrationCopy stack) := all _
theorem migrationSwitch (stack : Fin 8) : Statement (.migrationSwitch stack) := all _
theorem migrDone (stack : Fin 8) : Statement (.migrDone stack) := all _
theorem mma (i : TileIns) : Statement (.mma i) := all _
theorem mvm (i : TileIns) : Statement (.mvm i) := all _
theorem louvreClose (tile : LouvreStep) : Statement (.louvreClose tile) := all _
theorem drain (i : TileIns) : Statement (.drain i) := all _
theorem load (i : TileIns) : Statement (.load i) := all _
theorem zero (i : TileIns) : Statement (.zero i) := all _
theorem cvt (i : TileIns) : Statement (.cvt i) := all _
theorem ovfReplay (tile : TileAct) : Statement (.ovfReplay tile) := all _
theorem add (i : TileIns) : Statement (.add i) := all _
theorem sub (i : TileIns) : Statement (.sub i) := all _
theorem mul (i : TileIns) : Statement (.mul i) := all _
theorem fma (i : TileIns) : Statement (.fma i) := all _
theorem div (i : TileIns) : Statement (.div i) := all _
theorem sqrt (i : TileIns) : Statement (.sqrt i) := all _
theorem rsqrt (i : TileIns) : Statement (.rsqrt i) := all _
theorem rcp (i : TileIns) : Statement (.rcp i) := all _
theorem exp (i : TileIns) : Statement (.exp i) := all _
theorem log (i : TileIns) : Statement (.log i) := all _
theorem tanh (i : TileIns) : Statement (.tanh i) := all _
theorem sigmoid (i : TileIns) : Statement (.sigmoid i) := all _
theorem gelu (i : TileIns) : Statement (.gelu i) := all _
theorem relu (i : TileIns) : Statement (.relu i) := all _
theorem lrelu (i : TileIns) : Statement (.lrelu i) := all _
theorem max (i : TileIns) : Statement (.max i) := all _
theorem min (i : TileIns) : Statement (.min i) := all _
theorem cmplt (i : TileIns) : Statement (.cmplt i) := all _
theorem cmpeq (i : TileIns) : Statement (.cmpeq i) := all _
theorem mask (i : TileIns) : Statement (.mask i) := all _
theorem rng (i : TileIns) : Statement (.rng i) := all _
theorem cmp (i : TileIns) : Statement (.cmp i) := all _
theorem split (i : TileIns) : Statement (.split i) := all _
theorem recomputePiece (tile : TileAct) : Statement (.recomputePiece tile) := all _
theorem gtag (i : TileIns) : Statement (.gtag i) := all _
theorem stash (i : TileIns) : Statement (.stash i) := all _
theorem refill (i : TileIns) : Statement (.refill i) := all _
theorem cstart (i : TileIns) : Statement (.cstart i) := all _
theorem collTimeout (coll : Fin 256) : Statement (.collTimeout coll) := all _
theorem commitDue : Statement (.commitDue) := all _
theorem commitOutcome : Statement (.commitOutcome) := all _
theorem densePhase : Statement (.densePhase) := all _
theorem embeddingPhase : Statement (.embeddingPhase) := all _
theorem commitEnd : Statement (.commitEnd) := all _
theorem hingeFlip : Statement (.hingeFlip) := all _
theorem tableReleased : Statement (.tableReleased) := all _
theorem flitReceive (port : Fin 10) (flit : List Byte) (fec : FecReport) : Statement (.flitReceive port flit fec) := all _
theorem retry (port : Fin 10) (lseq : Nat) : Statement (.retry port lseq) := all _
theorem linkRetryTimeout (port : Fin 10) : Statement (.linkRetryTimeout port) := all _
theorem linkDownNotice (port : Fin 10) : Statement (.linkDownNotice port) := all _
theorem fecLockLoss (port : Fin 10) : Statement (.fecLockLoss port) := all _
theorem noGoodFlitTimeout (port : Fin 10) : Statement (.noGoodFlitTimeout port) := all _
theorem linkUp (port : Fin 10) (laneOk : BitVec 8) (peerPart : Fin 16) (peerPort : Fin 10) : Statement (.linkUp port laneOk peerPart peerPort) := all _
theorem messageForward (what : Forward) : Statement (.messageForward what) := all _
theorem write (m : SbnMsg) : Statement (.write m) := all _
theorem read (m : SbnMsg) : Statement (.read m) := all _
theorem readData (m : SbnMsg) : Statement (.readData m) := all _
theorem draw (m : SbnMsg) : Statement (.draw m) := all _
theorem place (m : SbnMsg) : Statement (.place m) := all _
theorem rowreq (m : SbnMsg) : Statement (.rowreq m) := all _
theorem rows (m : SbnMsg) : Statement (.rows m) := all _
theorem partialRows (m : SbnMsg) : Statement (.partialRows m) := all _
theorem handdown (m : SbnMsg) : Statement (.handdown m) := all _
theorem scatter (m : SbnMsg) : Statement (.scatter m) := all _
theorem token (m : SbnMsg) : Statement (.token m) := all _
theorem coll (m : SbnMsg) : Statement (.coll m) := all _
theorem ack (m : SbnMsg) (t : Nat) : Statement (.ack m t) := all _
theorem ackTimer (src : Fin 16) (vc : Fin 6) : Statement (.ackTimer src vc) := all _
theorem transportRetx (dst : Fin 16) (vc : Fin 6) : Statement (.transportRetx dst vc) := all _
theorem shutterNotice (m : SbnMsg) : Statement (.shutterNotice m) := all _
theorem faultNotice (m : SbnMsg) : Statement (.faultNotice m) := all _
theorem collCtl (m : SbnMsg) : Statement (.collCtl m) := all _
theorem ethFrame (port : Fin 2) (bytes : Nat) (frame : Frame) (t : Nat) : Statement (.ethFrame port bytes frame t) := all _
theorem ethLinkDown (port : Fin 2) : Statement (.ethLinkDown port) := all _
theorem ethLinkUp (port : Fin 2) : Statement (.ethLinkUp port) := all _
theorem cmReq (port : Fin 2) (remoteQpn psn : Nat) (entry : Fin 8) : Statement (.cmReq port remoteQpn psn entry) := all _
theorem cmRtu (entry : Fin 8) : Statement (.cmRtu entry) := all _
theorem cmDreq (entry : Fin 8) : Statement (.cmDreq entry) := all _
theorem mailboxArrival (a : Arrival) : Statement (.mailboxArrival a) := all _
theorem rdmaWrite (r : Rdma) : Statement (.rdmaWrite r) := all _
theorem rdmaReadRequest (r : Rdma) : Statement (.rdmaReadRequest r) := all _
theorem rdmaReadResponse (qp psn : Nat) (addr : Nat) (data : List Byte) : Statement (.rdmaReadResponse qp psn addr data) := all _
theorem acknowledge (qp psn : Nat) (kind : AckKind) : Statement (.acknowledge qp psn kind) := all _
theorem sendWithImmediate (qp psn : Nat) (imm : Nat) (data : List Byte) (last : Bool) : Statement (.sendWithImmediate qp psn imm data last) := all _
theorem cnp (qp : Nat) (t : Nat) : Statement (.cnp qp t) := all _
theorem rateRaise (qp : Nat) : Statement (.rateRaise qp) := all _
theorem pfcPause (port : Fin 2) (prio : Fin 8) (quanta : Nat) (t : Nat) : Statement (.pfcPause port prio quanta t) := all _
theorem pfcStorm (port : Fin 2) (t : Nat) : Statement (.pfcStorm port t) := all _
theorem localAckTimeout (qp : Nat) : Statement (.localAckTimeout qp) := all _
theorem getIdentity (r : Req) : Statement (.getIdentity r) := all _
theorem getCaps (r : Req) : Statement (.getCaps r) := all _
theorem getState (r : Req) : Statement (.getState r) := all _
theorem jobLoad (r : Req) (addr bytes : Nat) (digest : BitVec 256) (extra : JobExtra) : Statement (.jobLoad r addr bytes digest extra) := all _
theorem jobStart (r : Req) (s0 : BitVec 64) : Statement (.jobStart r s0) := all _
theorem jobStartEffect : Statement (.jobStartEffect) := all _
theorem jobStop (r : Req) (mode : Nat) : Statement (.jobStop r mode) := all _
theorem jobStatus (r : Req) : Statement (.jobStatus r) := all _
theorem regRead (r : Req) (addrs : List ReadAt) : Statement (.regRead r addrs) := all _
theorem regWrite (r : Req) (entries : List (BitVec 64 × BitVec 64)) : Statement (.regWrite r entries) := all _
theorem memRead (r : Req) (addr : ReadAt) (len : Nat) : Statement (.memRead r addr len) := all _
theorem winCreate (r : Req) (base len perms : Nat) : Statement (.winCreate r base len perms) := all _
theorem winDestroy (r : Req) (rkey : Nat) : Statement (.winDestroy r rkey) := all _
theorem tableStage (r : Req) (stack table : Nat) (desc : BitVec 512) : Statement (.tableStage r stack table desc) := all _
theorem tableFlip (r : Req) (tables : BitVec 64) (step : BitVec 64) : Statement (.tableFlip r tables step) := all _
theorem tableStatus (r : Req) (table : Nat) : Statement (.tableStatus r table) := all _
theorem tableOpt (r : Req) (table : Nat) (values : BitVec 160) : Statement (.tableOpt r table values) := all _
theorem tableThresh (r : Req) (table up16 dn16 up8 dn8 : Nat) : Statement (.tableThresh r table up16 dn16 up8 dn8) := all _
theorem stepStatus (r : Req) : Statement (.stepStatus r) := all _
theorem stepResume (r : Req) (outcome : Nat) : Statement (.stepResume r outcome) := all _
theorem stepUndo (r : Req) (step : BitVec 64) : Statement (.stepUndo r step) := all _
theorem stepReplay (r : Req) (step : BitVec 64) (mode : Nat) : Statement (.stepReplay r step mode) := all _
theorem telemetryGet (r : Req) (set : Nat) : Statement (.telemetryGet r set) := all _
theorem telemetryPeriod (r : Req) (period : Nat) : Statement (.telemetryPeriod r period) := all _
theorem telemetryTick : Statement (.telemetryTick) := all _
theorem eventSink (r : Req) (entry : Nat) : Statement (.eventSink r entry) := all _
theorem event (timeMs : Nat) : Statement (.event timeMs) := all _
theorem powerState (r : Req) (state : Nat) : Statement (.powerState r state) := all _
theorem powerCap (r : Req) (cap : Nat) : Statement (.powerCap r cap) := all _
theorem powerPolicy (r : Req) (mode fixed : Nat) : Statement (.powerPolicy r mode fixed) := all _
theorem powerStatus (r : Req) : Statement (.powerStatus r) := all _
theorem attest (r : Req) (nonce : BitVec 256) (offset : Option Nat) : Statement (.attest r nonce offset) := all _
theorem certGet (r : Req) (index : Nat) (offset : Nat) : Statement (.certGet r index offset) := all _
theorem deadboltChallenge (r : Req) : Statement (.deadboltChallenge r) := all _
theorem nonceExpiry : Statement (.nonceExpiry) := all _
theorem deadboltOpen (r : Req) (offset : Nat) (fragment : List Byte) : Statement (.deadboltOpen r offset fragment) := all _
theorem deadboltClose (r : Req) : Statement (.deadboltClose r) := all _
theorem ownerEnrol (r : Req) (offset : Nat) (fragment : List Byte) : Statement (.ownerEnrol r offset fragment) := all _
theorem fwBegin (r : Req) (bytes : Nat) (digest : BitVec 256) : Statement (.fwBegin r bytes digest) := all _
theorem fwData (r : Req) (offset : Nat) (fragment : List Byte) : Statement (.fwData r offset fragment) := all _
theorem fwCommit (r : Req) : Statement (.fwCommit r) := all _
theorem secPolicy (r : Req) (value : BitVec 32) : Statement (.secPolicy r value) := all _
theorem traceStart (r : Req) (selection : BitVec 128) : Statement (.traceStart r selection) := all _
theorem traceStop (r : Req) : Statement (.traceStop r) := all _
theorem traceRead (r : Req) (offset : Nat) : Statement (.traceRead r offset) := all _
theorem draughtSet (r : Req) (entries : List (BitVec 64 × BitVec 64)) : Statement (.draughtSet r entries) := all _
theorem draughtArmed : Statement (.draughtArmed) := all _
theorem draughtClear (r : Req) : Statement (.draughtClear r) := all _
theorem logRead (r : Req) (index : Nat) : Statement (.logRead r index) := all _
theorem logClear (r : Req) (index : Nat) : Statement (.logClear r index) := all _
theorem dumpRead (r : Req) (offset : Nat) : Statement (.dumpRead r offset) := all _
theorem domainReset (r : Req) (domain inst timeMs : Nat) : Statement (.domainReset r domain inst timeMs) := all _
theorem domainResetDone (domain : Domain) (inst : Nat) : Statement (.domainResetDone domain inst) := all _
theorem mgmtReset (r : Req) (timeMs : Nat) : Statement (.mgmtReset r timeMs) := all _
theorem contextSave (r : Req) : Statement (.contextSave r) := all _
theorem contextSaved : Statement (.contextSaved) := all _
theorem contextRestore (r : Req) : Statement (.contextRestore r) := all _
theorem contextRestored : Statement (.contextRestored) := all _
theorem contextRead (r : Req) (offset : Nat) : Statement (.contextRead r offset) := all _
theorem contextWrite (r : Req) (offset : Nat) (data : List Byte) : Statement (.contextWrite r offset data) := all _
theorem qpCreate (r : Req) (port : Nat) : Statement (.qpCreate r port) := all _
theorem qpConnect (r : Req) (entry remoteQpn sendPsn recvPsn : Nat) (ip : BitVec 128) (ackTmo : Nat) : Statement (.qpConnect r entry remoteQpn sendPsn recvPsn ip ackTmo) := all _
theorem qpDestroy (r : Req) (entry : Nat) : Statement (.qpDestroy r entry) := all _
theorem shutter (r : Req) (parts : BitVec 16) : Statement (.shutter r parts) := all _
theorem shutterClear (r : Req) (parts : BitVec 16) : Statement (.shutterClear r parts) := all _
theorem fabricStatus (r : Req) : Statement (.fabricStatus r) := all _
theorem mgmtWdtReset (core : Fin 4) (timeMs : Nat) : Statement (.mgmtWdtReset core timeMs) := all _
theorem mgmtReady (copyOk : Bool) (timeMs : Nat) : Statement (.mgmtReady copyOk timeMs) := all _
theorem faultReport : Statement (.faultReport) := all _
theorem scrub : Statement (.scrub) := all _
theorem scrubDone (trainFails : List (Nat × Nat)) (timeMs : Nat) : Statement (.scrubDone trainFails timeMs) := all _
theorem siteDetector (site : Fin 104) : Statement (.siteDetector site) := all _
theorem retirementDetector : Statement (.retirementDetector) := all _
theorem stepDetector : Statement (.stepDetector) := all _
theorem indexDetector : Statement (.indexDetector) := all _
theorem coldStart (f : BootFindings) : Statement (.coldStart f) := all _
theorem fullService (timeMs : Nat) : Statement (.fullService timeMs) := all _
theorem wicketDone : Statement (.wicketDone) := all _
theorem modRst (lowNs : Nat) (f : BootFindings) : Statement (.modRst lowNs f) := all _
theorem energyReport (nJ : Nat) : Statement (.energyReport nJ) := all _
theorem sensorRead (readings : List (Nat × Nat)) (timeMs : Nat) : Statement (.sensorRead readings timeMs) := all _
theorem recoveryExit (timeMs : Nat) : Statement (.recoveryExit timeMs) := all _
theorem inputFault (tenMilliVolts durationUs : Nat) : Statement (.inputFault tenMilliVolts durationUs) := all _
theorem regulatorFault (regulator : Fin 8) (status : BitVec 3) : Statement (.regulatorFault regulator status) := all _
theorem regulatorShutdown (tenMilliVolts durationUs : Nat) : Statement (.regulatorShutdown tenMilliVolts durationUs) := all _
theorem idcode : Statement (.idcode) := all _
theorem bypass : Statement (.bypass) := all _
theorem samplePreload (cells : List Bool) : Statement (.samplePreload cells) := all _
theorem extest (cells : List Bool) : Statement (.extest cells) := all _
theorem extestPulse (cells : List Bool) : Statement (.extestPulse cells) := all _
theorem extestTrain (cells : List Bool) : Statement (.extestTrain cells) := all _
theorem internalScan (code : BitVec 4) : Statement (.internalScan code) := all _
theorem paneCfgWrite (cls : Cls) (value : BitVec 32) : Statement (.paneCfgWrite cls value) := all _
theorem bryIlvWrite (cls : Cls) (value : BitVec 32) : Statement (.bryIlvWrite cls value) := all _
theorem sbnIdWrite (cls : Cls) (value : BitVec 32) : Statement (.sbnIdWrite cls value) := all _
theorem sbnRouteWrite (cls : Cls) (part : Fin 16) (value : BitVec 64) : Statement (.sbnRouteWrite cls part value) := all _
theorem sbnPortEnable (en : Bool) : Statement (.sbnPortEnable en) := all _
theorem ethPortEnable (port : Fin 2) (en : Bool) : Statement (.ethPortEnable port en) := all _
theorem registerWrite (cls : Cls) (addr : Nat) (value : BitVec 64) : Statement (.registerWrite cls addr value) := all _
theorem debugSessionLapse (timeMs : Nat) : Statement (.debugSessionLapse timeMs) := all _
theorem rnrRetry (qp : Nat) : Statement (.rnrRetry qp) := all _
theorem regulationRegained : Statement (.regulationRegained) := all _
theorem setdasa (staticAddr dynamicAddr : BitVec 7) : Statement (.setdasa staticAddr dynamicAddr) := all _
theorem fwCommitDone : Statement (.fwCommitDone) := all _

end Sys2Proof.Laws.OwnWord
end

