-- ==== Sys2Proof/Laws/Run.lean ====
section
/-! SUPPORT. What the closing of a command does, said once: what it leaves alone, and that the part stands settled after it. -/

namespace Sys2Proof.Machine

/-! What entering records in the FIFO leaves alone. -/

/-- What every part of the closing keeps. -/
structure Kept (s t : State) : Prop where
  mem : t.mem = s.mem
  bad : t.bad = s.bad
  weak : t.weak = s.weak
  time : t.time = s.time
  free : t.free = s.free
  raised : t.raised = s.raised
  out : t.out = s.out
  step : t.step = s.step
  stash : t.stash = s.stash
  power : t.power = s.power
  graphs : t.graphs = s.graphs
  embs : t.embs = s.embs
  brys : t.brys = s.brys
  tiles : t.tiles = s.tiles
  mesh : t.mesh = s.mesh
  sbn : t.sbn = s.sbn
  eth : t.eth = s.eth

/-- What the closing of a command without a fault keeps beside these. -/
structure KeptAll (s t : State) : Prop extends Kept s t where
  sched : t.sched = s.sched
  job : t.job = s.job
  jobEnd : t.jobEnd = s.jobEnd
  sec : t.sec = s.sec
  rst : t.rst = s.rst

theorem Kept.trans {s t u : State} (a : Kept s t) (b : Kept t u) : Kept s u :=
  ⟨b.mem.trans a.mem, b.bad.trans a.bad, b.weak.trans a.weak, b.time.trans a.time, b.free.trans a.free, b.raised.trans a.raised, b.out.trans a.out,
   b.step.trans a.step, b.stash.trans a.stash, b.power.trans a.power, b.graphs.trans a.graphs, b.embs.trans a.embs,
   b.brys.trans a.brys, b.tiles.trans a.tiles, b.mesh.trans a.mesh, b.sbn.trans a.sbn, b.eth.trans a.eth⟩

theorem KeptAll.trans {s t u : State} (a : KeptAll s t) (b : KeptAll t u) : KeptAll s u :=
  ⟨a.toKept.trans b.toKept, b.sched.trans a.sched, b.job.trans a.job, b.jobEnd.trans a.jobEnd, b.sec.trans a.sec,
   b.rst.trans a.rst⟩

theorem Kept.refl (s : State) : Kept s s := ⟨rfl, rfl, rfl, rfl, rfl, rfl, rfl, rfl, rfl, rfl, rfl, rfl, rfl, rfl, rfl, rfl, rfl⟩

theorem KeptAll.refl (s : State) : KeptAll s s := ⟨Kept.refl s, rfl, rfl, rfl, rfl, rfl⟩

theorem keptAll_setFld (s : State) (f : Field) (x k n : Nat) : KeptAll s (setFld s f x k n) :=
  ⟨⟨rfl, rfl, rfl, rfl, rfl, rfl, rfl, rfl, rfl, rfl, rfl, rfl, rfl, rfl, rfl, rfl, rfl⟩, rfl, rfl, rfl, rfl, rfl⟩

theorem keptAll_fifoPush (s : State) (r : EvRec) : KeptAll s (fifoPush s r) := by
  unfold fifoPush
  split
  · exact ⟨⟨rfl, rfl, rfl, rfl, rfl, rfl, rfl, rfl, rfl, rfl, rfl, rfl, rfl, rfl, rfl, rfl, rfl⟩, rfl, rfl, rfl, rfl, rfl⟩
  · split <;> exact ⟨⟨rfl, rfl, rfl, rfl, rfl, rfl, rfl, rfl, rfl, rfl, rfl, rfl, rfl, rfl, rfl, rfl, rfl⟩, rfl, rfl, rfl, rfl, rfl⟩

theorem keptAll_fifoRaise (s : State) (r : Raised) : KeptAll s (fifoRaise s r) := by
  unfold fifoRaise
  split
  · split
    · exact ⟨⟨rfl, rfl, rfl, rfl, rfl, rfl, rfl, rfl, rfl, rfl, rfl, rfl, rfl, rfl, rfl, rfl, rfl⟩, rfl, rfl, rfl, rfl, rfl⟩
    · refine KeptAll.trans ?_ (keptAll_fifoPush _ _)
      exact ⟨⟨rfl, rfl, rfl, rfl, rfl, rfl, rfl, rfl, rfl, rfl, rfl, rfl, rfl, rfl, rfl, rfl, rfl⟩, rfl, rfl, rfl, rfl, rfl⟩
  · exact keptAll_fifoPush _ _

theorem keptAll_fifoRaises (rs : List Raised) (s : State) : KeptAll s (rs.foldl fifoRaise s) := by
  induction rs generalizing s with
  | nil => exact KeptAll.refl s
  | cons r rs ih => exact (keptAll_fifoRaise s r).trans (ih _)

theorem keptAll_recordAll (s : State) : KeptAll s (recordAll s) := keptAll_fifoRaises s.raised s

theorem keptAll_mirrorRegs (s : State) : KeptAll s (mirrorRegs s) := by
  unfold mirrorRegs
  refine (keptAll_setFld _ _ _ _ _).trans ((keptAll_setFld _ _ _ _ _).trans ((keptAll_setFld _ _ _ _ _).trans
    ((keptAll_setFld _ _ _ _ _).trans ((keptAll_setFld _ _ _ _ _).trans (keptAll_setFld _ _ _ _ _)))))

theorem keptAll_setAlert (s : State) : KeptAll s (setAlert s) :=
  ⟨⟨rfl, rfl, rfl, rfl, rfl, rfl, rfl, rfl, rfl, rfl, rfl, rfl, rfl, rfl, rfl, rfl, rfl⟩, rfl, rfl, rfl, rfl, rfl⟩

theorem setAlert_regs (s : State) : (setAlert s).regs = s.regs := rfl

theorem keptAll_mirror (s : State) : KeptAll s (mirror s) := (keptAll_mirrorRegs s).trans (keptAll_setAlert _)

theorem closeOut_regs (s t : State) : (closeOut s t).regs = t.regs := rfl

theorem keptAll_closeOut (s t : State) : KeptAll { t with raised := [] } (closeOut s t) :=
  ⟨⟨rfl, rfl, rfl, rfl, rfl, rfl, rfl, rfl, rfl, rfl, rfl, rfl, rfl, rfl, rfl, rfl, rfl⟩, rfl, rfl, rfl, rfl, rfl⟩

theorem judge_quiet (t : State) (h : lowestFault t.raised = none) : judge t = t := by
  unfold judge
  rw [h]

/-- A command whose cycle had no fault keeps, in its closing, everything but the registers it mirrors, the event FIFO and the
queue. -/
theorem finish_quiet (s t : State) (h : lowestFault t.raised = none) :
    KeptAll { t with raised := [] } (finish s t) := by
  have k := (keptAll_recordAll t).trans (keptAll_mirror (recordAll t))
  unfold finish
  rw [judge_quiet t h]
  generalize mirror (recordAll t) = u at k
  have c := keptAll_closeOut s u
  exact ⟨⟨c.mem.trans k.mem, c.bad.trans k.bad, c.weak.trans k.weak, c.time.trans k.time, c.free.trans k.free, c.raised, c.out.trans k.out,
    c.step.trans k.step, c.stash.trans k.stash, c.power.trans k.power, c.graphs.trans k.graphs, c.embs.trans k.embs,
    c.brys.trans k.brys, c.tiles.trans k.tiles, c.mesh.trans k.mesh, c.sbn.trans k.sbn, c.eth.trans k.eth⟩, c.sched.trans k.sched,
    c.job.trans k.job, c.jobEnd.trans k.jobEnd, c.sec.trans k.sec, c.rst.trans k.rst⟩

/-! What a fault's stop keeps. -/

theorem kept_resetRegs (rs : List Reg) (s : State) : Kept s (rs.foldl (fun s r => resetReg s r 0 0) s) := by
  induction rs generalizing s with
  | nil => exact Kept.refl s
  | cons r rs ih =>
    refine Kept.trans ?_ (ih (resetReg s r 0 0))
    exact ⟨rfl, rfl, rfl, rfl, rfl, rfl, rfl, rfl, rfl, rfl, rfl, rfl, rfl, rfl, rfl, rfl, rfl⟩

theorem kept_sec (s : State) (x : SecS) : Kept s { s with sec := x } :=
  ⟨rfl, rfl, rfl, rfl, rfl, rfl, rfl, rfl, rfl, rfl, rfl, rfl, rfl, rfl, rfl, rfl, rfl⟩

theorem kept_clearDraughts (s : State) : Kept s (clearDraughts s) := by
  unfold clearDraughts
  exact (kept_resetRegs [DRT_STATUS, DRT_MESH, DRT_LINK, DRT_MEMDLY, DRT_STRETCH, DRT_CREDIT, DRT_CRC, DRT_MBXDLY,
    DRT_PRED, DRT_OVF, DRT_EVT] s).trans (kept_sec _ _)

theorem kept_enterRecovery (s : State) : Kept s (enterRecovery s) := by
  unfold enterRecovery
  split
  · exact ((keptAll_setFld s PWR_STATE_STATE 5 0 0).toKept.trans (kept_sec _ _)).trans (kept_clearDraughts _)
  · exact Kept.refl s

theorem setJob_eq (s : State) (x : Nat) : setJob s x = s ∨ setJob s x = raise_ (setFld s RST_STATUS_JOB_STATE x) 0 2 := by
  unfold setJob
  split
  · exact .inl rfl
  · exact .inr rfl

theorem kept_stopFields (s : State) (a : Sched) (b : JobEnd) (c : MgmtS) (d : JobS) (e : RstS) :
    Kept s { s with sched := a, jobEnd := b, mgmt := c, job := d, rst := e } :=
  ⟨rfl, rfl, rfl, rfl, rfl, rfl, rfl, rfl, rfl, rfl, rfl, rfl, rfl, rfl, rfl, rfl, rfl⟩

/-- What a fault's stop sets beside the job state: the scheduler, the job's end, the report owed, saves and starts. -/
theorem faultStop_eq (s : State) (c d : Nat) :
    ∃ a b m j r, faultStop s c d = enterRecovery { setJob s 4 with sched := a, jobEnd := b, mgmt := m, job := j, rst := r } :=
  ⟨_, _, _, _, _, rfl⟩

/-- What a cycle keeps whatever it raised: all but `raised` of `Kept`. -/
theorem kept_raise (s : State) (l : List Raised) : Kept { s with raised := [] } { { s with raised := l } with raised := [] } :=
  ⟨rfl, rfl, rfl, rfl, rfl, rfl, rfl, rfl, rfl, rfl, rfl, rfl, rfl, rfl, rfl, rfl, rfl⟩

theorem kept_clear {s t : State} (h : Kept s t) : Kept { s with raised := [] } { t with raised := [] } :=
  ⟨h.mem, h.bad, h.weak, h.time, h.free, rfl, h.out, h.step, h.stash, h.power, h.graphs, h.embs, h.brys, h.tiles, h.mesh, h.sbn, h.eth⟩

theorem kept_setJob (s : State) (x : Nat) : Kept { s with raised := [] } { setJob s x with raised := [] } := by
  rcases setJob_eq s x with h | h <;> rw [h]
  · exact Kept.refl _
  · exact ⟨rfl, rfl, rfl, rfl, rfl, rfl, rfl, rfl, rfl, rfl, rfl, rfl, rfl, rfl, rfl, rfl, rfl⟩

theorem kept_judge (t : State) : Kept { t with raised := [] } { judge t with raised := [] } := by
  unfold judge
  split
  · exact Kept.refl _
  · split
    · obtain ⟨a, b, m, j, r, e⟩ := faultStop_eq t _ _
      rw [e]
      refine Kept.trans (kept_setJob t 4) ?_
      generalize setJob t 4 = u
      exact kept_clear ((kept_stopFields u a b m j r).trans (kept_enterRecovery _))
    · exact Kept.refl _

/-- The closing of a command keeps memory, what was sent and the parts that only the meanings write. -/
theorem finish_kept (s t : State) : Kept { t with raised := [] } (finish s t) := by
  unfold finish
  refine (kept_judge t).trans ?_
  generalize judge t = u
  have k := (keptAll_recordAll u).trans (keptAll_mirror (recordAll u))
  generalize mirror (recordAll u) = v at k
  exact (kept_clear k.toKept).trans (keptAll_closeOut s v).toKept

/-- The closing of a command writes no memory. -/
theorem finish_mem (s t : State) : (finish s t).mem = t.mem := (finish_kept s t).mem

/-- The closing of a command sends nothing. -/
theorem finish_out (s t : State) : (finish s t).out = t.out := (finish_kept s t).out

@[simp] theorem finish_pending (s t : State) : (finish s t).pending = s.pending := rfl

@[simp] theorem finish_raised (s t : State) : (finish s t).raised = [] := rfl

theorem finish_fifo_length (s t : State) : (finish s t).mgmt.fifo.length ≤ 256 := by
  have : (finish s t).mgmt.fifo.length = min 256 (mirror (recordAll (judge t))).mgmt.fifo.length := List.length_take
  omega

/-! Registers across the closing. -/

theorem kGet_setFld_other (s : State) (f : Field) (x k n a : Nat) (h : a ≠ f.reg.at k n) :
    kGet? (setFld s f x k n).regs a = kGet? s.regs a := by
  unfold setFld writeReg kPut
  dsimp only
  split
  · exact kGet?_kErase_ne _ h
  · exact kGet?_kSet_ne _ _ h

theorem kGet_fifoPush (s : State) (r : EvRec) (a : Nat) (h : a ≠ MBX_EVT.at 0 0) :
    kGet? (fifoPush s r).regs a = kGet? s.regs a := by
  unfold fifoPush
  split
  · exact kGet_setFld_other _ _ _ _ _ _ h
  · split <;> rfl

theorem kGet_fifoRaises (rs : List Raised) (s : State) (a : Nat) (h : a ≠ MBX_EVT.at 0 0) :
    kGet? (rs.foldl fifoRaise s).regs a = kGet? s.regs a := by
  induction rs generalizing s with
  | nil => rfl
  | cons r rs ih =>
    rw [List.foldl_cons, ih]
    unfold fifoRaise
    split
    · split
      · rfl
      · exact kGet_fifoPush _ _ _ h
    · exact kGet_fifoPush _ _ _ h

theorem kGet_mirror (s : State) (a : Nat) (h : mirrored a = false) : kGet? (mirror s).regs a = kGet? s.regs a := by
  simp only [mirrored, Bool.or_eq_false_iff, beq_eq_false_iff_ne, ne_eq] at h
  obtain ⟨⟨⟨⟨h1, h2⟩, h3⟩, h4⟩, h5⟩ := h
  unfold mirror
  rw [setAlert_regs]
  unfold mirrorRegs
  rw [kGet_setFld_other _ RST_LOG_DUMP_HELD _ _ _ _ h4, kGet_setFld_other _ MBX_STATUS_DBG_Q _ _ _ _ h3,
    kGet_setFld_other _ MBX_STATUS_PLAT_Q _ _ _ _ h3, kGet_setFld_other _ MBX_STATUS_HOST_Q _ _ _ _ h3,
    kGet_setFld_other _ PANE_WINDOW_OCCUPANCY _ _ _ _ h2, kGet_setFld_other _ PANE_STATUS_JOB _ _ _ _ h1]

/-- With no fault in the cycle, every register but the mirrored ones is as the command left it. -/
theorem finish_readReg (s t : State) (r : Reg) (k n : Nat) (h : lowestFault t.raised = none)
    (hm : mirrored (r.at k n) = false) : readReg (finish s t) r k n = readReg t r k n := by
  have hm' := hm
  simp only [mirrored, Bool.or_eq_false_iff, beq_eq_false_iff_ne, ne_eq] at hm'
  have e : (finish s t).regs = (mirror (recordAll t)).regs := by
    unfold finish
    rw [judge_quiet t h, closeOut_regs]
  unfold readReg kGetD
  rw [e, kGet_mirror _ _ hm]
  unfold recordAll
  rw [kGet_fifoRaises _ _ _ hm'.2]

theorem finish_fld (s t : State) (f : Field) (k n : Nat) (h : lowestFault t.raised = none)
    (hm : mirrored (f.reg.at k n) = false) : fld (finish s t) f k n = fld t f k n := by
  unfold fld
  rw [finish_readReg s t f.reg k n h hm]

theorem kGet_resetRegs (rs : List Reg) (s : State) (a : Nat) (h : rs.any (fun r => a == r.at 0 0) = false) :
    kGet? (rs.foldl (fun s r => resetReg s r 0 0) s).regs a = kGet? s.regs a := by
  induction rs generalizing s with
  | nil => rfl
  | cons r rs ih =>
    simp only [List.any_cons, Bool.or_eq_false_iff, beq_eq_false_iff_ne, ne_eq] at h
    rw [List.foldl_cons, ih _ h.2]
    exact kGet?_kErase_ne _ h.1

theorem kGet_judge (t : State) (a : Nat) (h : closing a = false) : kGet? (judge t).regs a = kGet? t.regs a := by
  simp only [closing, Bool.or_eq_false_iff] at h
  obtain ⟨⟨⟨_, h1⟩, h2⟩, h3⟩ := h
  simp only [beq_eq_false_iff_ne, ne_eq] at h1 h2
  have he : ∀ u : State, kGet? (enterRecovery u).regs a = kGet? u.regs a := by
    intro u
    unfold enterRecovery
    split
    · unfold clearDraughts
      refine (kGet_resetRegs _ _ _ h3).trans ?_
      exact kGet_setFld_other u PWR_STATE_STATE _ _ _ _ h2
    · rfl
  unfold judge
  split
  · rfl
  · split
    · obtain ⟨x, b, m, j, r, e⟩ := faultStop_eq t _ _
      rw [e, he]
      rcases setJob_eq t 4 with h | h <;> rw [h]
      exact kGet_setFld_other t RST_STATUS_JOB_STATE _ _ _ _ h1
    · rfl

/-- Every other register is as the command left it, fault or no fault. -/
theorem finish_readReg_any (s t : State) (r : Reg) (k n : Nat) (h : closing (r.at k n) = false) :
    readReg (finish s t) r k n = readReg t r k n := by
  have hm : mirrored (r.at k n) = false := by
    simp only [closing, Bool.or_eq_false_iff] at h
    exact h.1.1.1
  have hm' := hm
  simp only [mirrored, Bool.or_eq_false_iff, beq_eq_false_iff_ne, ne_eq] at hm'
  unfold readReg kGetD finish
  rw [closeOut_regs, kGet_mirror _ _ hm]
  unfold recordAll
  rw [kGet_fifoRaises _ _ _ hm'.2, kGet_judge _ _ h]

theorem finish_fld_any (s t : State) (f : Field) (k n : Nat) (h : closing (f.reg.at k n) = false) :
    fld (finish s t) f k n = fld t f k n := by
  unfold fld
  rw [finish_readReg_any s t f.reg k n h]

theorem jobEnd_enterRecovery (s : State) : (enterRecovery s).jobEnd = s.jobEnd := by
  have h : ∀ (rs : List Reg) (u : State), (rs.foldl (fun s r => resetReg s r 0 0) u).jobEnd = u.jobEnd := by
    intro rs
    induction rs with
    | nil => exact fun _ => rfl
    | cons r rs ih => exact fun u => ih _
  unfold enterRecovery
  split
  · unfold clearDraughts
    exact h _ _
  · rfl

theorem jobState_enterRecovery (s : State) : jobState (enterRecovery s) = jobState s := by
  unfold enterRecovery
  split
  · unfold clearDraughts jobState fld readReg kGetD
    dsimp only
    rw [kGet_resetRegs _ _ _ (by decide), kGet_setFld_other _ PWR_STATE_STATE _ _ _ _ (by decide)]
  · rfl

theorem jobState_setJob (s : State) (x : Nat) (h : x < 8) : jobState (setJob s x) = x := by
  unfold setJob
  split
  · assumption
  · have : jobState (raise_ (setFld s RST_STATUS_JOB_STATE x) 0 2) = fld (setFld s RST_STATUS_JOB_STATE x) RST_STATUS_JOB_STATE :=
      rfl
    rw [this, fld_setFld_same _ _ _ _ _ (by decide)]
    exact Nat.mod_eq_of_lt h

theorem jobState_congr (s t : State) (h : s.regs = t.regs) : jobState s = jobState t := by
  unfold jobState fld readReg
  rw [h]

theorem jobState_finish (s t : State) : jobState (finish s t) = jobState (judge t) := by
  unfold finish jobState fld readReg kGetD
  rw [closeOut_regs, kGet_mirror _ _ (by decide)]
  unfold recordAll
  rw [kGet_fifoRaises _ _ _ (by decide)]

theorem jobEnd_finish (s t : State) : (finish s t).jobEnd = (judge t).jobEnd := by
  unfold finish
  generalize judge t = u
  have k := (keptAll_recordAll u).trans (keptAll_mirror (recordAll u))
  generalize mirror (recordAll u) = v at k
  exact (keptAll_closeOut s v).jobEnd.trans k.jobEnd

/-- A command that raised a fault with the job live stops it with the lowest code (R447, R448). -/
theorem finish_fault (s t : State) (r : Raised) (h : lowestFault t.raised = some r) (hl : jobLive t = true) :
    jobState (finish s t) = 4 ∧ (finish s t).jobEnd.lastCode = r.code := by
  rw [jobState_finish, jobEnd_finish]
  have hj : judge t = faultStop t r.code (recordBits t r) := by
    unfold judge
    rw [h]
    simp [hl]
  rw [hj]
  unfold faultStop
  rw [jobState_enterRecovery, jobEnd_enterRecovery]
  refine ⟨?_, rfl⟩
  exact (jobState_congr _ _ rfl).trans (jobState_setJob t 4 (by decide))

/-- The job state of a command whose cycle had no fault. -/
theorem jobState_finish_quiet (s t : State) (h : lowestFault t.raised = none) : jobState (finish s t) = jobState t := by
  rw [jobState_finish, judge_quiet t h]

/-! The mirrored registers. -/

theorem fld_mirror (s : State) (f : Field) (k n : Nat) : fld (mirror s) f k n = fld (mirrorRegs s) f k n := by
  unfold fld readReg mirror
  rw [setAlert_regs]

theorem jobState_mirror (s : State) : jobState (mirror s) = jobState s := by
  unfold jobState fld readReg kGetD
  rw [kGet_mirror _ _ (by decide)]

theorem mirror_job (s : State) : fld (mirror s) PANE_STATUS_JOB = b2n (jobLoaded s) % 2 ^ 1 := by
  rw [fld_mirror]
  unfold mirrorRegs
  rw [fld_setFld_ne _ RST_LOG_DUMP_HELD PANE_STATUS_JOB _ _ _ _ _ (by decide), 
    fld_setFld_ne _ MBX_STATUS_DBG_Q PANE_STATUS_JOB _ _ _ _ _ (by decide), 
    fld_setFld_ne _ MBX_STATUS_PLAT_Q PANE_STATUS_JOB _ _ _ _ _ (by decide), 
    fld_setFld_ne _ MBX_STATUS_HOST_Q PANE_STATUS_JOB _ _ _ _ _ (by decide), 
    fld_setFld_ne _ PANE_WINDOW_OCCUPANCY PANE_STATUS_JOB _ _ _ _ _ (by decide), 
    fld_setFld_same _ PANE_STATUS_JOB _ _ _ (by decide)]
  rfl

theorem mirror_window (s : State) : fld (mirror s) PANE_WINDOW_OCCUPANCY = occupancy s % 2 ^ 13 := by
  rw [fld_mirror]
  unfold mirrorRegs
  rw [fld_setFld_ne _ RST_LOG_DUMP_HELD PANE_WINDOW_OCCUPANCY _ _ _ _ _ (by decide), 
    fld_setFld_ne _ MBX_STATUS_DBG_Q PANE_WINDOW_OCCUPANCY _ _ _ _ _ (by decide), 
    fld_setFld_ne _ MBX_STATUS_PLAT_Q PANE_WINDOW_OCCUPANCY _ _ _ _ _ (by decide), 
    fld_setFld_ne _ MBX_STATUS_HOST_Q PANE_WINDOW_OCCUPANCY _ _ _ _ _ (by decide), 
    fld_setFld_same _ PANE_WINDOW_OCCUPANCY _ _ _ (by decide)]
  rfl

theorem mirror_hostQ (s : State) : fld (mirror s) MBX_STATUS_HOST_Q = queueLen s .host % 2 ^ 7 := by
  rw [fld_mirror]
  unfold mirrorRegs
  rw [fld_setFld_ne _ RST_LOG_DUMP_HELD MBX_STATUS_HOST_Q _ _ _ _ _ (by decide), 
    fld_setFld_disjoint _ MBX_STATUS_DBG_Q MBX_STATUS_HOST_Q _ _ _ rfl (by decide), 
    fld_setFld_disjoint _ MBX_STATUS_PLAT_Q MBX_STATUS_HOST_Q _ _ _ rfl (by decide), 
    fld_setFld_same _ MBX_STATUS_HOST_Q _ _ _ (by decide)]
  rfl

theorem mirror_platQ (s : State) : fld (mirror s) MBX_STATUS_PLAT_Q = queueLen s .platform % 2 ^ 4 := by
  rw [fld_mirror]
  unfold mirrorRegs
  rw [fld_setFld_ne _ RST_LOG_DUMP_HELD MBX_STATUS_PLAT_Q _ _ _ _ _ (by decide), 
    fld_setFld_disjoint _ MBX_STATUS_DBG_Q MBX_STATUS_PLAT_Q _ _ _ rfl (by decide), 
    fld_setFld_same _ MBX_STATUS_PLAT_Q _ _ _ (by decide)]
  rfl

theorem mirror_dbgQ (s : State) : fld (mirror s) MBX_STATUS_DBG_Q = queueLen s .debug % 2 ^ 3 := by
  rw [fld_mirror]
  unfold mirrorRegs
  rw [fld_setFld_ne _ RST_LOG_DUMP_HELD MBX_STATUS_DBG_Q _ _ _ _ _ (by decide), 
    fld_setFld_same _ MBX_STATUS_DBG_Q _ _ _ (by decide)]
  rfl

end Sys2Proof.Machine
end

