-- ==== Sys2Proof/Tests/Slice0.lean ====
section
/-! SUPPORT. The model's own tests: what `wellFormed` refuses, a few operations on fixed values, and for every obligation states and
operands that meet the hypotheses of each of its clauses (`witness_<Name>`). No statement is proved here. -/

namespace Sys2Proof.Tests

open Sys2Proof Sys2Proof.Machine

set_option Elab.async false

/-! The small states the tests run on. -/

/-- A state with these fields holding these values: (field, instance, element, value). -/
def withFlds (s : State) (l : List (Field × Nat × Nat × Nat)) : State := l.foldl (fun s e => setFld s e.1 e.2.2.2 e.2.1 e.2.2.1) s

/-- A word with these values at these bits. -/
def wordOf (l : List (Nat × Nat)) : Nat := l.foldl (fun n e => n + e.2 * 2 ^ e.1) 0

/-- A part in Active, in full service, with job 7 `RUNNING` in pane 100 and all its stacks trained. -/
def base : State :=
  { withFlds State.reset
      ([(MBX_STATUS_READY, 0, 0, 1), (PWR_STATE_STATE, 0, 0, 3), (RST_STATUS_JOB_STATE, 0, 0, 2), (RST_STATUS_SERVICE, 0, 0, 2),
        (PANE_COUNT_COUNT, 0, 0, 100)] ++
       ((List.range 8).map (fun k => (BRY_STATUS_TRAINED, k, 0, 1)) ++ (List.range 8).map (fun k => (GRE_CFG_EN, k, 0, 1))))
    with job := { State.reset.job with id := 7 } }

/-- `base` with no job loaded. -/
def idle : State := withFlds base [(RST_STATUS_JOB_STATE, 0, 0, 0)]

/-- `base` with its job in a state. -/
def inJob (st : Nat) : State := withFlds base [(RST_STATUS_JOB_STATE, 0, 0, st)]

/-- The first local address of stack 0 with the reset interleave (R61). -/
def loc0 : Nat := 2 ^ 36

/-- A task descriptor: number, class, site, layer. -/
def descOf (task cls site layer : Nat) : Word32B :=
  BitVec.ofNat 256 (wordOf [(0, task), (32, cls), (40, site), (64, 10), (96, layer), (128, 2 ^ 64 - 1), (192, 0xFFFF)])

/-- A task of that descriptor, of the table pass `pass`. -/
def taskOf (d : Word32B) (pass : Nat) : WinTask := { desc := d, addr := 0x1000, pass := pass }

/-- `base` with a task running at a site. -/
def runAt (s : State) (i : Nat) (w : WinTask) : State := setSite s i { site s i with run := some w }

/-- `base` with an index region, slots of 4 KiB, one hop of fanout 1 sampled from node 5 of this part, and step 1 in its slot. -/
def intakeS : State :=
  let s := withFlds base [(BRY_REGION_KIND, 0, 0, 1), (BRY_REGION_BASE, 0, 0, 0x10000), (BRY_REGION_SIZE, 0, 0, 0x10000),
    (GRE_SHARD_VALID, 0, 0, 1), (GRE_SHARD_HI, 0, 0, 100)]
  store { s with job := { s.job with slotSize := 4096, plans := [(0, 1024)], mbPlans := [(0, 0)] } } 0x11040
    (leBytes 8 1 ++ leBytes 4 1 ++ leBytes 4 1 ++ leBytes 48 0 ++ leBytes 8 5)

/-- The same with no micro-batch named in the slot. -/
def badSlotS : State := storeNat intakeS 0x11048 2 0

/-- A step taken in: step 1, one micro-batch of one seed, node 5. -/
def taken1 : TakenStep := ⟨1, 1, 1, [5]⟩

/-- `intakeS` with step 1 taken in and not latched. -/
def latchS : State := { intakeS with step := { intakeS.step with takenStep := 1, taken := [taken1] } }

/-- A descriptor of a table of 4 rows of 32 elements, in class 0 and class 1, at stack 0 (R116). -/
def table0 : Nat := wordOf [(8, 1), (24, 1), (32, 32), (64, 4), (128, loc0 + 0x1000), (192, loc0 + 0x1000000), (240, 1),
  (256, loc0 + 0x2000000), (304, 1)]

/-- `latchS` with that table at stack 0, its row 1 present in class 0 and slot 0, a `DELTA` and a `JOURNAL` region, node 1 with one edge to itself and waiting as a sample of the
coming step. -/
def tableS : State :=
  let s := withFlds latchS [(EMB_TDESC_DESC, 0, 0, table0), (BRY_REGION_KIND, 0, 1, 4), (BRY_REGION_BASE, 0, 1, loc0 + 0x100000),
    (BRY_REGION_SIZE, 0, 1, 0x10000), (BRY_REGION_KIND, 0, 2, 3), (BRY_REGION_BASE, 0, 2, loc0 + 0x200000),
    (BRY_REGION_SIZE, 0, 2, 0x10000), (GRE_GRAPH_NODE_BASE, 0, 0, loc0 + 0x300000), (GRE_GRAPH_EDGE_BASE, 0, 0, loc0 + 0x400000),
    (GRE_GRAPH_EDGE_COUNT, 0, 0, 1)]
  let s := storeNat (storeNat s (loc0 + 0x300010) 16 (2 ^ 40)) (loc0 + 0x400000) 16 (1 + 0x3F800000 * 2 ^ 64)
  setGraph (storeNat s (loc0 + 0x1008) 8 4) 0 { graph s 0 with nodes := [(treeKey 0 1 0 0, 1)] }

/-- `tableS` with a journal entry of the coming step that names node 1. -/
def journalS : State :=
  let s := storeNat tableS (loc0 + 0x208000) 16 1
  setGraph s 0 { graph s 0 with jdir := [(treeKey 0 1 0 0, (loc0 + 0x208000, 1))] }

/-- A contribution to row 1 of table 0 in round (0, 1). -/
def contrib1 : Contrib := ⟨1, 0, 0, 0, 0, 0, 1, false, 0, 0, List.replicate 32 0x3F800000⟩

/-- A delta record of that row. -/
def delta1 : DeltaRec := ⟨1, 1, 0, List.replicate 32 0x40000000⟩

/-- `tableS` in step 1, layer 1 scattered, every marker of round (0, 1) in, and one contribution staged. -/
def roundS : State :=
  let s := { tableS with step := { tableS.step with latchedStep := 1, current := 1, open_ := true },
                         job := { tableS.job with scatterLayers := 2 } }
  setEmb s 0 { staged := [contrib1], markers := (List.range 8).map (fun k => (0, 1, 0, k)) }

/-- `tableS` with that contribution issued in the pane before this one, and a delta record of its row. -/
def issuedS : State :=
  store (setEmb tableS 0 { issued := segmentsIn [contrib1] 99, deltas := [(placeKey 0 0 0, (loc0 + 0x100000, 144))] }) (loc0 + 0x100000)
    (deltaRecBytes (placeKey 0 0 0) delta1)

/-- The segment of that contribution. -/
def seg1 : SegS := (segmentsIn [contrib1] 99).headD ⟨0, 0, []⟩

/-- A memory request of site 3 issued in pane 99. -/
def memQ (isWrite : Bool) (addr len : Nat) (phase : MemPhase) : MemReq :=
  { site := 3, issuePane := 99, isWrite := isWrite, addr := addr, len := len, data := if isWrite then List.replicate len 0xA5 else [],
    region := 0, regionStack := 0, token := none, requester := .dieInterface, phase := phase }

/-- A migration of row 1 to class 1, as far as `phase`, opened in pane 97. -/
def migr1 (phase : Nat) : MigrS := ⟨0, 1, 0, 0, 1, 3, 97, phase, [], none, List.replicate 128 0⟩
def migratingS (m : MigrS) : State := setEmb tableS 0 { migrs := [m] }

/-- `tableS` with a migration task running at stack 0's engine and a list that moves row 1 to class 1. -/
def migrS : State := setEmb (runAt tableS 96 (taskOf (descOf 1 9 96 0) 1)) 0 { migrList := [(0, 1, 1)] }

/-- An engine request: opcode, layer, width, output format and address. -/
def reqOf (op layer width addr : Nat) : Word32B :=
  BitVec.ofNat 256 (wordOf [(0, op), (24, layer), (32, 1), (88, 1), (128, addr), (176, 0xFFFF), (224, width)])

/-- `tableS` in step 1, its seed sampled, with a task of the sampler's class running at stack 0's engine. -/
def engineS (cls : Nat) : State :=
  runAt { tableS with step := { tableS.step with latchedStep := 1, current := 1, open_ := true } } 96 (taskOf (descOf 1 cls 96 0) 1)

/-- `engineS` with the sample placed, its table gathered without a hold, and the local rows 0 and 1 present. -/
def placedS (cls : Nat) : State :=
  let s := engineS cls
  let s := storeNat (withFlds (setGraph s 0 { graph s 0 with place := [(treeKey 0 1 0 0, 0x80)] }) [(GRE_CFG_NODE_CACHE_EN, 0, 0, 0)])
    (loc0 + 0x1000) 8 4
  s

/-- A request of that state once it has begun. -/
def begun (s : State) (req : Word32B) : WaitAgg := (begin_ (fresh s) 0 { req := req, step := 1, begun := false }).2

/-- `base` with 63 tasks in the window of site 3 and the next descriptor of its table at 0x3000. -/
def refillS : State :=
  let s := store { base with job := { base.job with tables := [(3, [0x3000])] }, step := { base.step with takenStep := 1 } } 0x3000
    (leBytes 32 (descOf 9 5 3 0).toNat)
  setSite s 3 { window := List.replicate 63 (taskOf (descOf 1 5 3 0) 0) }

/-- A recompute piece. -/
def pieceT : WinTask := { taskOf (descOf 1 5 2 0) 1 with recompute := true }

/-- A drained chain of tile 95 with one owed block, and the recompute piece of it. -/
def owed1 : OwedS := ⟨0, 1, 1, [], true, 0x1000, 16, 16, 0, [(0, 0)], [], []⟩
def pieceW : WinTask := { taskOf (descOf 1 5 95 0) 1 with recompute := true }
def pieceS : State := setTile (runAt base 95 pieceW) 95 { tileS base 95 with owed := [owed1] }

/-- A sample request for hop 1 of micro-batch 0: one destination, fanout 1. -/
def sampleRq : Word32B := BitVec.ofNat 256 (wordOf [(0, 1), (32, 1), (88, 1), (176, 0xFFFF)])

/-- `placedS` whose tables' optimiser states make a gather of step 1 wait. -/
def waitS : State :=
  withFlds { placedS 3 with step := { (placedS 3).step with committedStep := 5 } }
    [(EMB_FLIP_PENDING, 0, 0, 1), (EMB_FLIP_TABLES, 0, 0, 1), (EMB_FLIP_STEP, 0, 0, 1)]

/-- A unit instruction of tile 95 with these fields in its word. -/
def insOf (l : List (Nat × Nat)) : TileIns := { tile := 95, index := 0, word := BitVec.ofNat 256 (wordOf l) }

/-- The task that runs on tile 95: class 5, layer 3, of step 1. -/
def unitT : WinTask := taskOf (descOf 1 5 95 3) 1

/-- `base` with that task running. -/
def unitS : State := runAt base 95 unitT

/-- Two FP32 lanes, 1 and 2, at offset 0x100 and two, 3 and infinity, at offset 0x200 of tile 95's scratchpad. -/
def lanesS : State :=
  store (store unitS (tileBase 95 + 0x100) (wordBytes [0x3F800000, 0x40000000])) (tileBase 95 + 0x200)
    (wordBytes [0x40400000, 0x7F800000])

/-- A `VOP` of two FP32 lanes from 0x100 and 0x200 to 0x300. -/
def vopI (func : Nat) : TileIns :=
  insOf [(0, 0x20), (8, func), (16, 10), (20, 10), (64, 0x100), (96, 0x200), (128, 0x300), (192, 2)]

/-- An `MMA` of 2 × 16 by 16 BF16 into bank 0, and an `MVM` of one vector. -/
def mmaI : TileIns := insOf [(0, 0x10), (16, 8), (20, 8), (29, 1), (32, 1), (64, 0x100), (96, 0x1000)]
def mvmI : TileIns := insOf [(0, 0x11), (16, 8), (20, 8), (29, 1), (32, 1), (64, 0x100), (96, 0x1000)]

/-- A `ZERO`, `LOAD` or `DRAIN` of the last two rows and columns of bank 1, at 0x400 of the scratchpad. -/
def bankI (op addr more : Nat) : TileIns :=
  insOf [(0, op), (8, 1), (16, 126), (24, 1), (32, 126), (40, 1), (64, addr), (9, more)]

/-- A `CVT` of 32 values from FP32 to `fout`, from 0x100 to 0x400, scales at 0x800. -/
def cvtI (fout grad scale : Nat) : TileIns :=
  insOf [(0, 0x21), (16, 10), (20, fout), (29, grad), (64, 0x100), (128, 0x400), (160, scale), (192, 32)]

/-- `lanesS` between attempts of a gradient conversion. -/
def attemptS (tries : Nat) : State :=
  setTile lanesS 95 { tileS lanesS 95 with attempt := some ⟨0, (cvtI 3 1 0x800).word, {}, tries, 0⟩ }

/-- A `CMP` of one 16 × 16 block from 0x100 with room for `cap` blocks. -/
def cmpI (cap : Nat) : TileIns :=
  insOf [(0, 0x40), (8, 8), (64, 0x100), (96, 0x2000), (160, 0x1000), (224, cap)]

/-- `unitS` whose task's list holds a `SPLIT` and two products. -/
def splitS (steps : Nat) : State :=
  let s := store (store (store unitS 0x8000 (leBytes 32 (wordOf [(0, 0x41), (16, steps)]))) 0x8020 (leBytes 32 mmaI.word.toNat)) 0x8040
    (leBytes 32 mmaI.word.toNat)
  { s with job := { s.job with lists := [(1, (0x8000, 3))] } }

/-- So many bytes of zero. -/
def zeros (n : Nat) : List Byte := List.replicate n 0

/-- A stash record of the task at tile 95 and a state that holds it. -/
def rec1 : StashRec := ⟨1, 0, 3, 0, 5, 9, 95, false, [0], 32⟩
def stashS : State :=
  let s := withFlds unitS [(TILE_STASH_BANKS, 95, 0, 1)]
  { s with stash := { s.stash with recs := [rec1] } }

/-- No bank of tile 95 for the stash, and a `STASH` region with a bound of 64 KiB for each step and micro-batch. -/
def spillS : State :=
  withFlds unitS [(TILE_STASH_BANKS, 95, 0, 0), (BRY_REGION_KIND, 0, 3, 2), (BRY_REGION_BASE, 0, 3, 0x20000),
    (BRY_REGION_SIZE, 0, 3, 0x10000), (PANE_STASH_BOUND, 0, 0, 1)]
def stashI (op bytes last seq : Nat) : TileIns :=
  insOf [(0, op), (16, 3), (24, seq), (64, 0x100), (96, bytes), (128, last)]

/-- `base` in its commit: step 1 open and latched in pane 50, the phase and the outcome given. -/
def commitS (phase outcome : Nat) : State :=
  let s := withFlds base [(PANE_COMMIT_STATUS_PHASE, 0, 0, phase)]
  { s with step := { s.step with taken := [taken1], takenStep := 1, latchedStep := 1, current := 1, open_ := true,
                                 latchPane := 50, endPane := 60, voted := decide (phase ≠ 0), voteDone := decide (phase ≠ 0),
                                 outcome := outcome } }

/-- The descriptor of a wide tensor of 2 × 2 values with its sashes, and a commit that writes the tensor; `d` is what stands at the
descriptor's place in the image. -/
def tensorDesc : Nat :=
  wordOf [(8, 1), (16, 1), (17, 1), (20, 8), (32, 2), (48, 2), (64, 0x100000), (128, 0x200000), (192, 0x10000)]
def tensor1 : Tensor := tensorOf tensorDesc ⟨0x40, [(95, 0x100)], [], []⟩
def denseS (d : Nat) : State :=
  let s := commitS 2 1
  storeNat { s with job := { s.job with addr := 0x40000, tensors := [tensor1] } } 0x40040 64 d

/-- `commitS` with a flip pending of table 0 for the step after the committed one. -/
def flipS : State :=
  let s := withFlds (commitS 0 0) ((List.range 8).flatMap (fun k =>
    [(EMB_FLIP_PENDING, k, 0, 1), (EMB_FLIP_TABLES, k, 0, 1), (EMB_FLIP_STEP, k, 0, 2)]))
  setReg { s with step := { s.step with open_ := false, committedStep := 1 } } EMB_SDESC 5 0 0

/-- `commitS` whose vote found a value that is not finite, under a policy. -/
def nfS (cfg : Nat) : State :=
  let s := commitS 1 0
  { s with step := { s.step with jobNf := true, pol := { s.step.pol with cfg := cfg } } }

/-- `commitS` with outcome `COMMIT` and both phases done. -/
def endS : State :=
  let s := commitS 2 1
  { s with step := { s.step with denseDone := true, embDone := List.range 8 } }

/-- `unitS` with two blocks of values that are not zero, and a `CMP` of both with room for one. -/
def cmpFullS : State := store (store unitS (tileBase 95 + 0x100) (wordBytes [0x3F800000])) (tileBase 95 + 0x140) (wordBytes [0x3F800000])
def cmpI2 : TileIns := insOf [(0, 0x40), (8, 8), (36, 1), (64, 0x100), (96, 0x2000), (160, 0x1000), (224, 1)]

/-- `lanesS` with a value that the layer's T lifts out of range. -/
def bigS : State := store (withFlds lanesS [(PANE_GFC_T, 0, 3, 120)]) (tileBase 95 + 0x100) (wordBytes [0x7F000000])
def bigAttemptS (tries : Nat) : State :=
  setTile bigS 95 { tileS bigS 95 with attempt := some ⟨0, (cvtI 3 1 0x800).word, {}, tries, 0⟩ }

/-- `base` as part 3, its Sirben and Ethernet ports up, a route to part 5 through port 9, queue pairs 4 and 255 connected on port 1
and pair 0 on port 0, and a window of 4 KiB at 0x10000 for reading and writing. -/
def netS : State :=
  withFlds base
    ([(SBN_ID_PART, 0, 0, 3), (SBN_ID_VALID, 0, 0, 1), (SBN_CFG_EN, 0, 0, 1), (SBN_PORT_UP, 0, 9, 1), (SBN_PORT_LANES, 0, 9, 3),
      (SBN_ROUTE_VALID, 0, 5, 1), (SBN_ROUTE_USABLE, 0, 5, 512), (ETH_PORT_UP, 0, 0, 1), (ETH_PORT_UP, 0, 1, 1), (ETH_CFG_EN0, 0, 0, 1),
      (ETH_CFG_EN1, 0, 0, 1), (ETH_QP_STATE, 0, 0, 3), (ETH_QP_STATE, 0, 4, 3), (ETH_QP_PORT, 0, 4, 1), (ETH_QP_STATE, 0, 255, 3),
      (ETH_QP_PORT, 0, 255, 1), (ETH_WIN_BASE, 0, 63, 0x10000), (ETH_WIN_READ, 0, 63, 1), (ETH_WIN_WRITE, 0, 63, 1),
      (ETH_WIN_LENGTH, 0, 63, 4096), (ETH_WIN_R_KEY, 0, 63, 0x3F01), (ETH_CC_EN, 0, 0, 1), (ETH_ADDR_V4_VALID, 0, 1, 1),
      (ETH_ADDR_IPV4, 0, 1, 0x0A000001)])

/-- A message from part 5 to part 3 with its end-to-end check in order. -/
def msgOf (op vc addr arg : Nat) (data : List Byte) : SbnMsg :=
  let m : SbnMsg := { src := 5, dst := 3, op := op, vc := vc, job := 7, addr := addr, arg := arg, data := data }
  { m with ecrc := sbnCheck m }

/-- A data flit on port 9 that holds the whole of a message. -/
def flit1 : List Byte := flitOf (2 ^ 5 + 2 ^ 6) (encMsg (msgOf 0x0B 1 0 0 []))

/-- `netS` with a message in the replay buffer of port 9, one unacknowledged at its connection, one delivery not yet acknowledged. -/
def linkS (resends expiries : Nat) : State :=
  setRx (setTx (setPort netS 9 { txSeq := 8, replay := [(7, 0, [1, 2])], resends := resends }) 5 1
    { next := 1, unacked := [{ msgOf 0x0B 1 0 0 [] with src := 3, dst := 5 }], expiries := expiries }) 5 1
    { expected := 3, since := 2 }

/-- A message of this part to part 5, waiting to start. -/
def txS : State := { netS with sbn := { netS.sbn with txq := [{ msgOf 0x0B 1 0 0 [] with src := 3, dst := 5 }] } }

/-- A READ of 16 bytes, waiting to start while answers may fill the receive space. -/
def readM : SbnMsg := { src := 3, dst := 5, op := 0x02, vc := 1, job := 7, addr := 0x4000, arg := 16 }
def fullRxS : State := { netS with sbn := { netS.sbn with txq := [readM], awaits := [(2, 5, 0, receiveSpace)] } }

/-- `netS` with collective 5 declared, of parts 3 and 6, and a task on tile 95; and collectives running. -/
def collS (n : Nat) : State :=
  let s := runAt netS 95 unitT
  { s with job := { s.job with colls := [(5, leBytes 8 (5 + 2 * 2 ^ 13) ++ leBytes 8 (6 + 16 * 3) ++ leBytes 48 0)] },
           sbn := { s.sbn with colls := (List.range n).map (fun i => { id := 100 + i, active := true, armed := some 90, length := 10 }) } }

/-- `netS` whose pair `q` has sent what nobody acknowledged. -/
def sentS (q retries rnr : Nat) (wait : Bool) : State :=
  setQp netS q { unacked := [(5, 1, .send q 5 none [1])], retries := retries, rnr := rnr, rnrWait := wait }

/-- `netS` with port 1 paused from 100 µs to 200 ms. -/
def pausedS (storm : List Nat) : State := { netS with eth := { netS.eth with paused := [(1, 100, 200000)], storm := storm } }

/-- `collS` with collective 5 running. -/
def boardS : State := { collS 0 with sbn := { (collS 0).sbn with colls := [{ id := 5, active := true }] } }

/-- Requests of the host at mailbox pair 0 and of the platform, for job 7; and of the debug class. -/
def hostR : Req := ⟨.host, 0, 1, 7⟩
def platR : Req := ⟨.platform, 0xFF, 1, 7⟩
def debugR : Req := ⟨.debug, 0xFF, 1, 7⟩

/-- `netS` in a job state. -/
def atJob (st : Nat) : State := withFlds netS [(RST_STATUS_JOB_STATE, 0, 0, st)]

/-- `netS` with these changes. -/
def netW (l : List (Field × Nat × Nat × Nat)) : State := withFlds netS l

/-- A wicket image of 64 bytes: a header and no section, for 4 tiles of part 3, at the scratchpad of tile 0. -/
def wicketS : State :=
  store (withFlds netS [(RST_STATUS_JOB_STATE, 0, 0, 0), (TILE_PMAP_ENABLED, 0, 0, 2 ^ 96 - 1)]) (tileBase 0)
    (leBytes 4 0x49564E52 ++ leBytes 2 1 ++ leBytes 2 0 ++ leBytes 4 7 ++ leBytes 4 0 ++ leBytes 8 64 ++ leBytes 16 0 ++ leBytes 2 4 ++
      leBytes 2 3 ++ leBytes 20 0)

/-- A start accepted in pane 99 and not carried out; a wicket job with nothing left. -/
def startS (p : Nat) : State := { netS with job := { netS.job with startPending := some (1, p) } }
def wickS : State := { netS with job := { netS.job with wicket := true } }

/-- A step halted for a reason. -/
def haltS (why : Nat) : State :=
  let s := withFlds (commitS 3 3) [(RST_STATUS_JOB_STATE, 0, 0, 3), (ETH_QP_STATE, 0, 0, 3), (PANE_COMMIT_STATUS_UNDO_VALID, 0, 0, 1)]
  { s with step := { s.step with halt := why, committedStep := 1 } }

/-- A context with its header, and a restore accepted in pane `p`. -/
def ctx1 : CtxS := default
def restoreS (p : Nat) : State :=
  let s := atJob 1
  { s with rst := { s.rst with restoring := some p, contexts := [(0, ctx1)] } }

/-- The part with a deadbolt state. -/
def boltS (st : Nat) : State := withFlds netS [(SEC_STATE_DEADBOLT, 0, 0, st)]

/-- A head of 128 bytes, and a signature of zeros all but its last byte: what an assembly holds before its last fragment. -/
def allButLast (head : List Byte) : List Byte := head ++ List.replicate 7855 0

/-- The part in a job state with its nonce out and all but the last byte of a token and of an authorisation with this head. -/
def tokenS (st : Nat) (head : List Byte) : State :=
  let s := withFlds (boltS 1) [(RST_STATUS_JOB_STATE, 0, 0, st)]
  { s with sec := { s.sec with nonce := some 0, token := some ⟨.debug, 0xFF, allButLast head⟩, auth := some ⟨.host, 0, allButLast head⟩ } }

/-- The head of a token of the vendor's for one cold start with every scope, and of an authorisation that enrols in slot 0. -/
def tokenHead : List Byte := leBytes 4 0x4B544244 ++ leBytes 2 1 ++ [0, 15, 1] ++ List.replicate 119 0
def authHead : List Byte := leBytes 4 0x4E574F44 ++ List.replicate 124 0

/-- An image with no body and a signature of zeros, and an update session of the platform's that has staged it whole. -/
def imageBytes : List Byte :=
  leBytes 4 0x57465254 ++ leBytes 2 1 ++ List.replicate 10 0 ++ leBytes 32 (shaNat []) ++ List.replicate 80 0 ++ List.replicate 7856 0
def imageF : FwSession := ⟨.platform, 7984, BitVec.ofNat 256 (shaNat imageBytes), imageBytes⟩

/-- An update session with two bytes staged, done or not. -/
def fwS (done : Bool) : State :=
  { netS with sec := { netS.sec with fw := some ⟨.platform, 4, 0, [1, 2]⟩, fwDone := done } }

/-- An event record, and a FIFO that holds two of its code. -/
def ev1 (kind : Nat) : EvRec := ⟨0x1005, kind, 3, 1, 90, 7, 0⟩
def fifoS (kind : Nat) : State := { netS with mgmt := { netS.mgmt with fifo := [ev1 kind, { ev1 kind with count := 4 }] } }

/-- An arrival of the host's. -/
def arr1 : Arrival := ⟨.host, 0, 0x0101, 5, 0, 0, 0, 0⟩
def fullQ : State := { netS with mgmt := { netS.mgmt with queue := List.replicate 64 arr1 } }

/-- A dump held. -/
def dump1 : DumpS := ⟨0x1081, 90, 1, 7, 0, 1, [], [], [], []⟩
def dumpS : State := { netS with mgmt := { netS.mgmt with dump := some dump1 } }

/-- In Recovery with no job, cool since 500 ms. -/
def coolS : State :=
  let s := withFlds netS [(PWR_STATE_STATE, 0, 0, 5), (RST_STATUS_JOB_STATE, 0, 0, 0)]
  { s with power := { s.power with coolMs := some 500 } }

/-- A fault whose report is due. -/
def reportS : State :=
  let s := atJob 4
  { s with mgmt := { s.mgmt with reportDue := some 0x1081, fifo := [⟨0x1081, 1, 1, 1, 90, 7, 0⟩] } }

/-- A domain reset owed in a job state. -/
def owedS (st d k : Nat) : State := { atJob st with rst := { (atJob st).rst with domains := [(d, k)] } }

/-- In wicket service and ready for full service. -/
def readyS (st : Nat) : State :=
  withFlds netS [(RST_STATUS_JOB_STATE, 0, 0, st), (PWR_STATE_STATE, 0, 0, 2), (RST_STATUS_SERVICE, 0, 0, 1), (RST_STATUS_STEP, 0, 0, 13),
    (RST_STATUS_STACKS_OK, 0, 0, 0xFF), (TILE_PMAP_ENABLED, 0, 0, 2 ^ 96 - 1)]

/-- A site that has run long, and a step that has. -/
def hangS : State := setSite netS 103 { run := some unitT, runMullions := 100000000 }
def longS : State := { commitS 0 0 with commit := { (commitS 0 0).commit with retirePanes := 2 ^ 40, stepPanes := 2 ^ 40 } }
def waitIdxS : State := { netW [(RST_HANG_IDX_EXP, 0, 0, 10)] with commit := { netS.commit with idxPanes := 1024 } }

/-- A context whose header matches the loaded job but for its digest, with a fingerprint of the defect map; and one with its digest. -/
def ctxHead (geom : Nat) : State :=
  store (atJob 1) retainedBase (leBytes 4 0x58544E43 ++ leBytes 2 1 ++ leBytes 2 0 ++ leBytes 4 7 ++ leBytes 4 ctxBytes ++
    leBytes 32 0 ++ leBytes 8 geom)
def ctxS (geom : Nat) : State :=
  store (ctxHead geom) (retainedBase + 0xE0)
    (leBytes 32 (shaNat (load (ctxHead geom) (retainedBase + 0x1000) (ctxBytes - 0x1000))))

/-- Its header reads as it stood before the digest. -/
theorem ctxS_field (geom o n : Nat) (h : o + n ≤ 0xE0) : ctxField (ctxS geom) o n = ctxField (ctxHead geom) o n := by
  unfold ctxField loadNat ctxS
  rw [load_store_outside]
  omega

/-- It matches the loaded job. -/
theorem ctxS_matches (geom : Nat) (h : ctxField (ctxHead geom) 0 4 = 0x58544E43 ∧ ctxField (ctxHead geom) 4 2 = 1 ∧
    ctxField (ctxHead geom) 0x0C 4 = ctxBytes ∧ ctxField (ctxHead geom) 8 4 = (atJob 1).job.id ∧
    ctxField (ctxHead geom) 0x10 32 = fld (atJob 1) SEC_MEAS_DIGEST 0 4) : ctxMatches (ctxS geom) = true := by
  have hd : ctxField (ctxS geom) 0xE0 32 = shaNat (load (ctxHead geom) (retainedBase + 0x1000) (ctxBytes - 0x1000)) :=
    loadNat_store_leBytes _ _ _ _ (shaNat_lt _)
  have hl : load (ctxS geom) (retainedBase + 0x1000) (ctxBytes - 0x1000)
      = load (ctxHead geom) (retainedBase + 0x1000) (ctxBytes - 0x1000) := by
    unfold ctxS
    rw [load_store_outside]
    rw [leBytes_length]
    omega
  simp only [ctxMatches, ctxS_field geom _ _ (show 0 + 4 ≤ 0xE0 by decide), ctxS_field geom _ _ (show 4 + 2 ≤ 0xE0 by decide),
    ctxS_field geom _ _ (show 0x0C + 4 ≤ 0xE0 by decide), ctxS_field geom _ _ (show 8 + 4 ≤ 0xE0 by decide),
    ctxS_field geom _ _ (show 0x10 + 32 ≤ 0xE0 by decide), hd, hl, h.1, h.2.1, h.2.2.1, h.2.2.2.1, h.2.2.2.2]
  have e : ∀ s bs bs', (store (store s retainedBase bs) (retainedBase + 0xE0) bs').job.id = s.job.id ∧
      fld (store (store s retainedBase bs) (retainedBase + 0xE0) bs') SEC_MEAS_DIGEST 0 4 = fld s SEC_MEAS_DIGEST 0 4 :=
    fun _ _ _ => ⟨rfl, rfl⟩
  have e1 : (ctxS geom).job.id = (atJob 1).job.id := (e _ _ _).1
  have e2 : fld (ctxS geom) SEC_MEAS_DIGEST 0 4 = fld (atJob 1) SEC_MEAS_DIGEST 0 4 := (e _ _ _).2
  simp only [e1, e2, beq_self_eq_true, Bool.and_self]

/-- With no job, an update session of the platform's with two bytes staged. -/
def fwJ (done : Bool) : State := { fwS done with regs := (atJob 0).regs }

/-- With the deadbolt open for every scope. -/
def openS : State := withFlds netS [(SEC_STATE_DEADBOLT, 0, 0, 2), (SEC_STATE_SCOPE, 0, 0, 15), (SEC_STATE_REMAINING, 0, 0, 1)]

/-- In Standby, with no job and firmware running. -/
def standbyS : State := netW [(RST_STATUS_JOB_STATE, 0, 0, 0), (PWR_STATE_STATE, 0, 0, 1), (RST_STATUS_SERVICE, 0, 0, 0)]

/-- In Standby after a trip, cool since 500 ms. -/
def trippedS : State :=
  let s := withFlds standbyS [(PANE_STATUS_TRIP, 0, 0, 1)]
  { s with power := { s.power with coolMs := some 500 } }

/-- With `n` watchdog resets in the last seconds, and a debug-class request waiting. -/
def wdtS (n : Nat) : State :=
  { netS with mgmt := { netS.mgmt with wdt := List.replicate n 1, queue := [{ arr1 with cls := .debug, qp := 0xFF }] } }

/-! What `wellFormed` refuses: one ill-formed command for each of its checks. -/

/-- A well-formed request, message and RDMA operation, to be spoiled in one place. -/
def okReq : Req := ⟨.host, 7, 0, 0⟩
def okMsg : SbnMsg := { src := 5, dst := 3, op := 0x01, vc := 1, job := 7, data := [1] }
def okRdma : Rdma := { qp := 255, psn := 5, packets := 1, rkey := 1, addr := 0, len := 1, data := [1] }
def okMem : MemReq :=
  { site := 3, issuePane := 1, isWrite := true, addr := 0, len := 1, data := [1], region := 0, regionStack := 0, token := none,
    requester := .dieInterface }

theorem test_wellFormed_accepts :
    ([.write okMsg, .getState okReq, .rdmaWrite okRdma, .memoryRequestComplete okMem .clean, .mma (insOf [(0, 0x10)]),
      .add (insOf [(0, 0x20), (8, 1)]), .sample 0 (reqOf 1 0 0 0), .flitReceive 9 (List.replicate 256 0) {},
      .coldStart {}, .ethFrame 1 64 .other 0, .acknowledge 255 5 .ack, .mullion] : List Instr).all wellFormed = true := by
  decide +kernel

theorem test_wellFormed_refuses_words :
    ([.mma (insOf [(0, 0x11)]), .add (insOf [(0, 0x20), (8, 2)]), .add (insOf [(0, 0x21), (8, 1)]), .sample 0 (reqOf 2 0 0 0)] :
      List Instr).all (fun c => !wellFormed c) = true := by
  decide +kernel

theorem test_wellFormed_refuses_messages :
    ([.write { okMsg with op := 0x02 }, .write { okMsg with vc := 6 }, .write { okMsg with hop := 4 },
      .write { okMsg with tseq := 2 ^ 32 }, .write { okMsg with job := 2 ^ 32 }, .write { okMsg with token := 2 ^ 16 },
      .write { okMsg with addr := 2 ^ 48 }, .write { okMsg with tag := 2 ^ 16 }, .write { okMsg with arg := 2 ^ 32 },
      .write { okMsg with ecrc := 2 ^ 32 }, .messageForward { transit := some { okMsg with vc := 6 } }, .flitReceive 9 [] {}] : List Instr).all
      (fun c => !wellFormed c) = true := by
  decide +kernel

theorem test_wellFormed_refuses_long_payload : wellFormed (.write { okMsg with data := List.replicate 7905 0 }) = false := by
  simp [wellFormed, shapeOk, unitWord, engineWord, transportMsg, requestOf, msgOk, okMsg, -List.reduceReplicate]

theorem test_wellFormed_refuses_requests :
    ([.getState { okReq with seq := 2 ^ 32 }, .getState { okReq with job := 2 ^ 32 }, .getState { okReq with qp := 8 },
      .getState ⟨.platform, 0, 0, 0⟩, .mailboxArrival { arr1 with opcode := 2 ^ 16 }, .mailboxArrival { arr1 with length := 2 ^ 16 },
      .mailboxArrival { arr1 with seq := 2 ^ 32 }] : List Instr).all (fun c => !wellFormed c) = true := by
  decide +kernel

theorem test_wellFormed_refuses_accesses :
    ([.memoryRequestComplete { okMem with data := [] } .clean, .memoryRequestComplete { okMem with len := 2 } .clean,
      .memoryRequestComplete { okMem with isWrite := false } .clean,
      .memoryRequestComplete { okMem with isWrite := false, data := [], len := 0 } .clean,
      .memoryRequestComplete { okMem with addr := 2 ^ 48 } .clean, .rdmaWrite { okRdma with packets := 0 },
      .rdmaWrite { okRdma with psn := 2 ^ 24 }, .rdmaWrite { okRdma with qp := 256 }, .rdmaWrite { okRdma with len := 2 },
      .rdmaReadRequest okRdma, .ethFrame 1 65536 .other 0, .acknowledge 256 5 .ack, .acknowledge 255 (2 ^ 24) .ack] : List Instr).all
      (fun c => !wellFormed c) = true := by
  decide +kernel

theorem test_wellFormed_refuses_findings :
    ([.coldStart { fusedOff := [100] }, .coldStart { tileFail := [100] }, .coldStart { tileRows := [(100, [])] },
      .coldStart { tileRows := [(0, [(132, true)])] }, .coldStart { tileRows := [(0, [(5, true), (5, true)])] },
      .coldStart { i3cAddr := 4 }, .coldStart { slotId := 8 }, .modRst 5 { slotId := 8 }] : List Instr).all
      (fun c => !wellFormed c) = true := by
  decide +kernel

/-! One step or one operation on fixed values. -/

/-- FIPS 180-4's example, the digest of "abc". -/
theorem test_sha256_abc : sha256 [0x61, 0x62, 0x63] =
    [0xba, 0x78, 0x16, 0xbf, 0x8f, 0x01, 0xcf, 0xea, 0x41, 0x41, 0x40, 0xde, 0x5d, 0xae, 0x22, 0x23,
     0xb0, 0x03, 0x61, 0xa3, 0x96, 0x17, 0x7a, 0x9c, 0xb4, 0x10, 0xff, 0x61, 0xf2, 0x00, 0x15, 0xad] := by
  decide +kernel

/-- The published check value of CRC-32C, over the digits 1 to 9 (log 15). -/
theorem test_crc32c_check : crc32c ((List.range 9).map (fun i => BitVec.ofNat 8 (0x31 + i))) = 0xE3069283#32 := by
  decide +kernel

/-- R61 by hand with the reset interleave of 4 KiB: device address 5000 is byte 904 of stack 1. -/
theorem test_addressMap : stackOf State.reset 5000 = (1, 904) := by
  decide +kernel

/-- The chapter's worked draw: sample index 5,603 of stream 0x01, layer field 1, micro-batch 2, step 4 is word 3 of the evaluation
at counter (1,400, 0, 0, 0). -/
theorem test_worked_draw : rngWord 9 4 1 1 2 5603 =
    (rngF 9 [4, 0, 0x20101, 0] [1400, 0, 0, 0]).getD 3 0 := by
  decide +kernel

/-- 1.5 + 2.25 = 3.75 in FP32. -/
theorem test_add : (laneAdd ⟨false, fpFP32, 0, .rne, readNum fpFP32 false 0x3FC00000, readNum fpFP32 false 0x40100000, .fin false 0 0, 0, 0,
    false⟩).1.bits = 0x40700000 := by
  decide +kernel

/-- What a field of the next state is, where a step answers one. -/
def after (o : Host.Outcome State Fault Refusal) (f : State → Nat) : Option Nat :=
  match o with
  | .next t => some (f t)
  | _ => none

/-- R29: the command in front is taken, and the others stay. -/
theorem test_step_mullion : after (step { base with pending := [.mullion, .idcode] }) pane = some 101 ∧
    after (step { base with pending := [.mullion, .idcode] }) (fun t => t.pending.length) = some 1 := by
  decide +kernel

/-- With nothing waiting the block idles (log 13). -/
theorem test_step_idles : after (step base) pane = some 100 := by
  decide +kernel

/-- R11: no register named is at another value than its table's. -/
theorem test_reset_values : regNat State.reset PANE_CFG = 0x80080001 ∧ regNat State.reset SEC_STATE = 1 := by
  decide +kernel

/-! States and operands that meet the hypotheses of each obligation, clause by clause. -/

theorem witness_StepRunsFrontCommand :
    (∃ (c : Instr) (rest : List Instr) (s : State),
      s.pending = c :: rest) ∧
    (∃ (s : State),
      s.pending = []) :=
  ⟨⟨.mullion, [], {base with pending := [.mullion]}, by decide +kernel⟩,
   ⟨base, by decide +kernel⟩⟩

theorem witness_EveryStepLeavesSettled :
    ∃ s t : State,
      settled s ∧ step s = .next t :=
  ⟨State.reset, State.reset, by decide +kernel, rfl⟩

-- none for ResetSettled
theorem witness_LowestFaultStopsJob :
    (∃ (f : State → State) (s : State),
      let u := f { s with out := [], raised := [] }
      (∃ r ∈ u.raised, r.kind = 1) ∧ jobLive u = true) ∧
    (∃ (f : State → State) (s : State),
      let u := f { s with out := [], raised := [] }
      ∀ r ∈ u.raised, r.kind ≠ 1) :=
  ⟨⟨fun s => fault s 0x1081, base, by decide +kernel⟩,
   ⟨id, base, by decide +kernel⟩⟩

theorem witness_MullionAddsOnePane :
    (∃ (s : State),
      2 ≤ power s) ∧
    (∃ (s : State),
      power s < 2) ∧
    (∃ (s : State) (ns : Nat),
      power s ≠ 0 ∧ 10000 ≤ ns) ∧
    (∃ (s : State) (r : Req),
      serves s r 0x0904 ∧ r.cls = .platform) ∧
    (∃ (dom : Domain) (k : Nat) (ms : Nat) (core : Fin 4) (ok : Bool) (c : Instr),
      c ∈ [Instr.domainResetDone dom k, .mgmtWdtReset core ms, .mgmtReady ok ms]) ∧
    (∃ (d : Nat),
      d ≠ 6) :=
  ⟨⟨base, by decide +kernel⟩,
   ⟨State.reset, by decide +kernel⟩,
   ⟨base, 10000, by decide +kernel⟩,
   ⟨base, ⟨.platform,0xFF,1,0⟩, by decide +kernel⟩,
   ⟨.tile, 3, 5, 0, true, .mgmtReady true 5, by decide +kernel⟩,
   ⟨0, by decide +kernel⟩⟩

theorem witness_AdmissionStaysWithinAllowance :
    (∃ (s : State),
      2 ≤ power s) ∧
    (∃ (eOrd : Nat) (eHard : Nat),
      eOrd ≤ eHard) ∧
    (∃ (s : State),
      power s < 2) :=
  ⟨⟨base, by decide +kernel⟩,
   ⟨5, 5, by decide +kernel⟩,
   ⟨State.reset, by decide +kernel⟩⟩

theorem witness_SeedIntakeTakesStepIn :
    (∃ (s : State) (a : Nat),
      let mbs := loadNat s (a + 8) 2
      let per := loadNat s (a + 12) 4
      let seeds := (List.range (mbs * per)).map (fun i => loadNat s (a + 0x40 + 8 * i) 6)
      intakeDue s = some a ∧ slotCheck s mbs per = none ∧ firstBad s (granules a 0x40) = none ∧ firstBad s (granules (a
      + 0x40) (mbs * per * 8)) = none ∧ overLimit s mbs per = none ∧ badSeed s seeds = none) ∧
    (∃ (s : State) (a : Nat) (c : Nat),
      intakeDue s = some a ∧ firstBad s (granules a 0x40) = none ∧ slotCheck s (loadNat s (a + 8) 2) (loadNat s (a + 12)
      4) = some c) :=
  ⟨⟨intakeS, 0x11040, by decide +kernel⟩,
   ⟨badSlotS, 0x11040, 0, by decide +kernel⟩⟩

theorem witness_StepLatchOpensStep :
    (∃ (s : State) (k : TakenStep),
      latchReady s = true ∧ flipFirst s = false ∧ takenOf s s.step.takenStep = some k) ∧
    (∃ (s : State) (k : TakenStep) (l : List (Fin 104 × Nat)),
      latchReady s = true ∧ flipFirst s = false ∧ takenOf s s.step.takenStep = some k ∧ l ≠ []) :=
  ⟨⟨latchS, taken1, by decide +kernel⟩,
   ⟨latchS, taken1, [(0,7),(103,1)], by decide +kernel⟩⟩

theorem witness_WindowRefillKeepsTableOrder :
    ∃ (s : State) (i : Fin 104) (a : Nat),
      jobLive s = true ∧ windowPlaces (site s i.val) = 63 ∧ (site s i.val).redo = none ∧ (site s i.val).parked = [] ∧
      (s.job.wicket = false ∨ (site s i.val).pass = 0) ∧ (siteTable s i.val)[(site s i.val).tableNext]? = some a ∧
      descCheck s (wordAt s a) = 0 ∧ (dClass (wordAt s a) = 0 → (site s i.val).pass ≠ s.step.committedStep) :=
  ⟨refillS, 3, 0x3000, by decide +kernel⟩

theorem witness_RetirementEndsTask :
    (∃ (s : State) (i : Fin 104) (w : WinTask),
      (site s i.val).run = some w ∧ w.recompute = false ∧ ((tileS s i.val).attempt = none ∨ 96 ≤ i.val)) ∧
    (∃ (s : State) (i : Fin 96) (w : WinTask),
      (site s i.val).run = some w ∧ w.recompute = true ∧ jobLive s = false ∧ s.mgmt.heldWrites = []) ∧
    (∃ (s : State) (i : Fin 96) (w : WinTask),
      (site s i.val).run = some w ∧ w.recompute = true ∧ jobLive s = true ∧ s.mgmt.heldWrites = [] ∧ s.job.queues = [] ∧
      (tileS s i.val).owed.find? (fun o => o.drained && o.key == w.owedAt && o.taskId == dTaskId w.desc) = none) ∧
    (∃ (s : State) (i : Fin 96) (w : WinTask) (o : OwedS),
      (site s i.val).run = some w ∧ w.recompute = true ∧ jobLive s = true ∧ s.mgmt.heldWrites = [] ∧ s.job.queues = [] ∧
      (site s i.val).pieces = [] ∧ (∀ u ∈ (site s i.val).window, u.queued = false) ∧ (tileS s i.val).owed = [o] ∧
      o.drained = true ∧ o.key = w.owedAt ∧ o.taskId = dTaskId w.desc ∧ o.held = [] ∧ o.mode ≠ 2 ∧ o.rows ≤ 128 ∧ 16 *
      w.owedNb + 16 ≤ o.cols ∧ o.addr + 4 * o.cols * o.rows ≤ spadBytes ∧ (∀ x, kGet? s.sched.tokens (dRaises w.desc) =
      some x → x.count < 65535)) ∧
    (∃ (s : State) (i : Fin 104) (w : WinTask),
      (site s i.val).run = some w ∧ w.recompute = false ∧ ((tileS s i.val).attempt = none ∨ 96 ≤ i.val) ∧ jobLive s =
      true ∧ w.lastPiece = true ∧ (tileS s i.val).owed = [] ∧ s.mgmt.heldWrites = [] ∧ s.job.queues = [] ∧ roundsOf s
      (stepMbs s) = [] ∧ (site s i.val).pieces = [] ∧ (∀ u ∈ (site s i.val).window, u.queued = false) ∧ (∀ x, kGet?
      s.sched.tokens (dRaises w.desc) = some x → x.count < 65535)) ∧
    (∃ (s : State) (i : Fin 104) (w : WinTask),
      (site s i.val).run = some w ∧ w.recompute = false ∧ ((tileS s i.val).attempt = none ∨ 96 ≤ i.val) ∧ jobLive s =
      false ∧ s.mgmt.heldWrites = []) :=
  ⟨⟨runAt base 2 (taskOf (descOf 1 5 2 0) 1), 2, taskOf (descOf 1 5 2 0) 1, by decide +kernel⟩,
   ⟨runAt idle 2 pieceT, 2, pieceT, by decide +kernel⟩,
   ⟨runAt base 2 pieceT, 2, pieceT, by decide +kernel⟩,
   ⟨pieceS, 95, pieceW, owed1, by decide +kernel⟩,
   ⟨runAt base 2 (taskOf (descOf 1 5 2 0) 1), 2, taskOf (descOf 1 5 2 0) 1, by decide +kernel⟩,
   ⟨runAt idle 2 (taskOf (descOf 1 5 2 0) 1), 2, taskOf (descOf 1 5 2 0) 1, by decide +kernel⟩⟩

theorem witness_MemoryRequestWritesItsBytes :
    (∃ (s : State) (q : MemReq),
      jobLive s = true ∧ q.isWrite = true ∧ q.phase = .complete ∧ s.sched.memReqs = [] ∧ q.addr + q.data.length ≤
      dramTop ∧ inRetained q.addr q.data.length = false ∧ partGranules q.addr q.data.length = [] ∧ (q.region < 3 ∨
      pastRegion s q.region q.regionStack.val q.addr q.data.length = false)) ∧
    (∃ (s : State) (q : MemReq),
      jobLive s = true ∧ q.isWrite = false ∧ q.phase = .complete ∧ s.sched.memReqs = [] ∧ q.site.val < 96 ∧ q.addr +
      q.len ≤ dramTop ∧ inRetained q.addr q.len = false ∧ goesTo s q = q.addr ∧ firstBad s (granules q.addr q.len) =
      none ∧ q.dst + q.len ≤ spadBytes) ∧
    (∃ (s : State) (q : MemReq),
      jobLive s = true ∧ q.phase = .issue ∧ q.addr + reqBytes q ≤ dramTop ∧ inRetained q.addr (reqBytes q) = false ∧
      (q.isWrite = false ∨ q.region < 3 ∨ pastRegion s q.region q.regionStack.val q.addr (reqBytes q) = false)) ∧
    (∃ (s : State) (q : MemReq),
      jobLive s = true ∧ (dramTop < q.addr + reqBytes q ∨ inRetained q.addr (reqBytes q) = true)) :=
  ⟨⟨base, {site:=3,issuePane:=99,isWrite:=true,addr:=0x4000,len:=64,data:=List.replicate 64 0xA5,region:=0,regionStack:=0,token:=none,requester:=.dieInterface}, by decide +kernel⟩,
   ⟨storeNat base 0x4000 8 5, memQ false 0x4000 64 .complete, by decide +kernel⟩,
   ⟨base, memQ false 0x4000 64 .issue, by decide +kernel⟩,
   ⟨base, memQ false (2^39-63) 64 .complete, by decide +kernel⟩⟩

theorem witness_StackUpkeep :
    (∃ (s : State) (k : Fin 8) (x : Nat),
      fld s BRY_SCRUB_EN k.val = 1 ∧ fld s BRY_STATUS_TRAINED k.val = 1 ∧ x < 2 ^ 36 ∧ s.bad.contains (addrOf s k.val x
      / 64) = false) ∧
    (∃ (s : State) (k : Fin 8) (x : Nat),
      fld s BRY_SCRUB_EN k.val = 1 ∧ fld s BRY_STATUS_TRAINED k.val = 1 ∧ x < 2 ^ 36 ∧ jobLoaded s = false) ∧
    (∃ (s : State),
      power s ≠ 0) ∧
    (∃ (s : State) (k : Fin 8),
      fld s BRY_STATUS_TRAINED k.val = 1) ∧
    (∃ (s : State) (k : Fin 8) (c : Nat),
      (stackS s k.val).recentreDue = true ∧ ((stackS s k.val).recentres.filter (fun u => decide (c ≤ u + 65536))).length
      < 3) ∧
    (∃ (s : State) (k : Fin 8) (c : Nat),
      jobLive s = true ∧ (stackS s k.val).recentreDue = true ∧ 3 ≤ ((stackS s k.val).recentres.filter (fun u => decide
      (c ≤ u + 65536))).length) ∧
    (∃ (s : State) (k : Fin 8) (b : Nat),
      fld s BRY_STATUS_TRAINED k.val = 1 ∧ fld s BRY_STATUS_SELF_REF k.val = 0 ∧ b < 65536) :=
  ⟨⟨withFlds base [(BRY_SCRUB_EN,7,0,1)], 7, 2^36-64, by decide +kernel⟩,
   ⟨withFlds idle [(BRY_SCRUB_EN,7,0,1)], 7, 2^36-64, by decide +kernel⟩,
   ⟨base, by decide +kernel⟩,
   ⟨base, 7, by decide +kernel⟩,
   ⟨setStack base 7 {recentreDue:=true}, 7, 70000, by decide +kernel⟩,
   ⟨setStack base 7 {recentreDue:=true,recentres:=[70000,69000,68000]}, 7, 133536, by decide +kernel⟩,
   ⟨base, 7, 65535, by decide +kernel⟩⟩

theorem witness_AddressMapInverts :
    (∃ (s : State) (a : Nat) (g : Nat),
      a < 2 ^ 39 ∧ (fld s BRY_ILV_GRAN = 0 → g = 256) ∧ (fld s BRY_ILV_GRAN = 1 → g = 4096) ∧ (fld s BRY_ILV_GRAN = 2 →
      g = 65536) ∧ (fld s BRY_ILV_GRAN = 3 → g = 2097152)) ∧
    (∃ (k : Nat) (x : Nat),
      k < 8 ∧ x < 2 ^ 36) ∧
    (∃ (s : State) (c : Cls),
      2 ≤ power s ∧ classRefuses s c .bry false = none ∧ jobLoaded s = false) ∧
    (∃ (s : State) (r : Req) (a : BitVec 64),
      a.toNat = BRY_ILV.at 0 0 ∧ serves s r 0x0302 ∧ 2 ≤ power s ∧ jobLoaded s = true ∧ classRefuses s r.cls .bry false
      = none) ∧
    (∃ (s : State),
      jobLoaded s = true) :=
  ⟨⟨base, 2^39-1, 4096, by decide +kernel⟩,
   ⟨7, 2^36-1, by decide +kernel⟩,
   ⟨atJob 0, .host, by decide +kernel⟩,
   ⟨netS, hostR, BitVec.ofNat 64 (BRY_ILV.at 0 0), by decide +kernel⟩,
   ⟨netS, by decide +kernel⟩⟩

theorem witness_PrefetchStagesRows :
    ∃ (s : State) (k : Fin 8) (node : Nat) (row : Nat) (tb : Nat),
      running s = true ∧ fld s EMB_CFG_PF_EN k.val = 1 ∧ 0 < fld s EMB_CFG_PF_WAYS k.val ∧ nextSeeds s ++ nextNodes s =
      [node] ∧ owner s node = some (partId s, k.val, row) ∧ tb < 64 ∧ tdValid (tdesc s k.val tb) = true ∧ descOk s k.val
      (tdesc s k.val tb) = true ∧ row < tdRows (tdesc s k.val tb) ∧ (∀ j, j < 64 → j ≠ tb → tdValid (tdesc s k.val j) =
      false) ∧ s.bad = [] ∧ rmPresent (loadNat s (mapAddr (tdesc s k.val tb) row) 8) = true ∧ rmOk (tdesc s k.val tb)
      (loadNat s (mapAddr (tdesc s k.val tb) row) 8) = true :=
  ⟨journalS, 0, 1, 1, 0, by decide +kernel⟩

theorem witness_RoundsCloseAndApply :
    (∃ (s : State) (k : Fin 8) (r : Nat × Nat),
      openRound s k.val = some r ∧ running s = true ∧ s.job.fast = false ∧ roundBegun (emb s k.val) r = true ∧
      markersMissing s k.val r = 0) ∧
    (∃ (s : State),
      running s = true) ∧
    (∃ (s : State) (k : Fin 8) (g : SegS) (c : Contrib) (e : Nat) (a : Nat) (n : Nat),
      running s = true ∧ (emb s k.val).issued = [g] ∧ g.items = [c] ∧ g.pane < pane s ∧ srHub g.record = false ∧ rowHeld
      s k.val (srTable g.record) (srTarget g.record) e ∧ s.bad = [] ∧ s.weak = [] ∧ kGet? (emb s k.val).deltas (placeKey
      (srTable g.record) (rmClass e) (rmSlot e)) = some (a, n) ∧ migrOf (emb s k.val) (srTable g.record) (srTarget
      g.record) = none) :=
  ⟨⟨roundS, 0, (0,1), by decide +kernel⟩,
   ⟨roundS, by decide +kernel⟩,
   ⟨issuedS, 0, seg1, contrib1, 4, loc0+0x100000, 144, by decide +kernel⟩⟩

theorem witness_MigrationStages :
    (∃ (s : State) (k : Fin 8) (w : WinTask) (tb : Nat) (row : Nat) (c : Nat) (e : Nat) (slot : Nat) (rest : List (Nat × Nat × Nat)),
      mayMigrate s k.val = some w ∧ (emb s k.val).migrList = (tb, row, c) :: rest ∧ rowHeld s k.val tb row e ∧ (freeSlot
      s k.val tb c).2 = some slot ∧ s.bad = [] ∧ s.weak = []) ∧
    (∃ (s : State) (k : Fin 8),
      running s = true ∧ s.bad = [] ∧ s.weak = [] ∧ (∀ m ∈ (emb s k.val).migrs, m.phase = 0 → m.copy = none ∧ m.log =
      [])) ∧
    (∃ (s : State) (k : Fin 8) (m : MigrS),
      let d := tdesc s k.val m.table
      running s = true ∧ s.bad = [] ∧ s.weak = [] ∧ (emb s k.val).migrs = [m] ∧ m.phase = 0 ∧ m.pane + 2 ≤ pane s ∧
      m.copy = none ∧ m.log = [] ∧ m.newSlot < tdCap d m.newCls) ∧
    (∃ (s : State) (k : Fin 8) (m : MigrS) (r : DeltaRec) (a : Nat),
      let key := placeKey m.table m.newCls m.newSlot
      let rec_ := m.log.foldl (fun (r : DeltaRec) v =>
        { r with vals := addVals (strictMode s) r.vals v, applied := satAdd 32 r.applied 1 }) r
      let rb := deltaRecBytes key rec_
      running s = true ∧ s.bad = [] ∧ s.weak = [] ∧ (emb s k.val).migrs = [m] ∧ m.phase = 0 ∧ m.pane + 2 ≤ pane s ∧
      m.copy = some r ∧ kGet? (emb s k.val).deltas key = none ∧ deltaRoom s k.val rb.length = some a) ∧
    (∃ (s : State),
      running s = true ∧ s.bad = [] ∧ s.weak = []) ∧
    (∃ (s : State) (k : Fin 8) (m : MigrS),
      running s = true ∧ s.bad = [] ∧ s.weak = [] ∧ (emb s k.val).migrs = [m] ∧ m.phase = 2 ∧ m.pane + 3 ≤ pane s) ∧
    (∃ (s : State),
      running s = true) :=
  ⟨⟨migrS, 0, taskOf (descOf 1 9 96 0) 1, 0, 1, 1, 4, (Config.freeValue 0 + 0) % 262144, [], by decide +kernel, by decide +kernel, by decide +kernel, by
      unfold freeSlot
      rw [show usedSlots migrS (0 : Fin 8).val 0 1 = [] by decide +kernel,
        show tdCap (tdesc migrS (0 : Fin 8).val 0) 1 = 262144 by decide +kernel]
      rfl, by decide +kernel, by decide +kernel⟩,
   ⟨migratingS (migr1 0), 0, by decide +kernel⟩,
   ⟨migratingS (migr1 0), 0, migr1 0, by decide +kernel⟩,
   ⟨migratingS {migr1 0 with copy:=some delta1}, 0, {migr1 0 with copy:=some delta1}, delta1, loc0+0x100000, by decide +kernel⟩,
   ⟨migratingS (migr1 2), by decide +kernel⟩,
   ⟨migratingS (migr1 2), 0, migr1 2, by decide +kernel⟩,
   ⟨migratingS {migr1 3 with pane:=96}, by decide +kernel⟩⟩

theorem witness_SampleDrawsItsDestinations :
    (∃ (s : State) (k : Fin 8) (req : Word32B) (w : WinTask) (tk : TakenStep),
      engineTask s k.val = some w ∧ takenOf s w.pass = some tk ∧ sampleOk s req tk = true ∧ rqHop req ≤ planHops (planOf
      s (rqMb req)) ∧ rerunning s w.pass = false) ∧
    (∃ (s : State) (k : Fin 8) (req : Word32B) (w : WinTask) (tk : TakenStep) (kd : Nat) (node : Nat) (o : Nat × Nat × Nat),
      let key := treeKey (partId s) w.pass (rqMb req) (rqFirst req)
      let start := bitsOf 0 40 (loadNat s (nodeAddr s kd o.2.2) 16)
      let deg := bitsOf 40 32 (loadNat s (nodeAddr s kd o.2.2) 16)
      let half := journalHalf s kd (w.pass % 2)
      let off := kGetD (graph s kd).jNext (w.pass % 2) 0
      engineTask s k.val = some w ∧ takenOf s w.pass = some tk ∧ sampleOk s req tk = true ∧ rerunning s w.pass = false ∧
      rqCount req = 1 ∧ rqHop req = planHops (planOf s (rqMb req)) ∧ planMode (planOf s (rqMb req)) (rqHop req) = 0 ∧
      holderOf s (partId s) w.pass (rqMb req) (rqFirst req) = some (kd, node) ∧ node ≠ emptyNode ∧ owner s node = some o
      ∧ (∀ e ∈ s.graphs, e.2.waitDraw = []) ∧ fld s GRE_CFG_NODE_CACHE_EN kd = 0 ∧ s.bad = [] ∧ s.weak = [] ∧ (graph s
      kd).byDraw.contains key = false ∧ kGet? (graph s (rqMb req % 8)).place key = none ∧ deg ≤ planFan (planOf s (rqMb
      req)) (rqHop req) ∧ start + deg ≤ fld s GRE_GRAPH_EDGE_COUNT kd ∧ (∀ e, e < deg → owner s (edgeNbr (loadNat s
      (edgeAddr s kd (start + e)) 16)) ≠ none) ∧ off + (16 * planFan (planOf s (rqMb req)) (rqHop req) + 16) ≤ half.2 ∧
      (∀ tok x, samplingToken s (rqMb req) = some tok → kGet? s.sched.tokens tok = some x → x.count < 65535)) ∧
    (∃ (s : State) (k : Fin 8) (req : Word32B) (w : WinTask) (tk : TakenStep),
      engineTask s k.val = some w ∧ takenOf s w.pass = some tk ∧ sampleOk s req tk = true ∧ rerunning s w.pass = true) ∧
    (∃ (s : State) (k : Fin 8) (req : Word32B) (w : WinTask) (tk : TakenStep),
      engineTask s k.val = some w ∧ takenOf s w.pass = some tk ∧ sampleOk s req tk = false) :=
  ⟨⟨engineS 2, 0, sampleRq, taskOf (descOf 1 2 96 0) 1, taken1, by decide +kernel⟩,
   ⟨withFlds (engineS 2) [(GRE_CFG_NODE_CACHE_EN,0,0,0)], 0, sampleRq, taskOf (descOf 1 2 96 0) 1, taken1, 0, 1, (0,0,1), by decide +kernel, by decide +kernel, by decide +kernel, by decide +kernel, by decide +kernel, by decide +kernel, by decide +kernel, by decide +kernel, by decide +kernel, by decide +kernel, by decide +kernel, by decide +kernel, by decide +kernel, by decide +kernel, by decide +kernel, by decide +kernel, by decide +kernel, by decide +kernel, by decide +kernel, by decide +kernel, fun _ _ h _ => nomatch h.symm.trans
      (show samplingToken (withFlds (engineS 2) [(GRE_CFG_NODE_CACHE_EN, 0, 0, 0)]) (rqMb sampleRq) = none by decide +kernel)⟩,
   ⟨withFlds (engineS 2) [(PANE_COMMIT_STATUS_PHASE,0,0,4)], 0, sampleRq, taskOf (descOf 1 2 96 0) 1, taken1, by decide +kernel⟩,
   ⟨engineS 2, 0, 0, taskOf (descOf 1 2 96 0) 1, taken1, by decide +kernel⟩⟩

theorem witness_EngineRequestsServed :
    (∃ (s : State) (k : Fin 8) (req : Word32B) (w : WinTask) (op : Nat) (c : Instr) (w1 : _),
      let w0 : WaitAgg := { req := req, step := w.pass, begun := false }
      (c, op) ∈ [(Instr.aggregate k req, 2), (Instr.fullAggregate k req, 3), (Instr.reverse k req, 4), (Instr.ownScatter
      k req, 5)] ∧ engineTask s k.val = some w ∧ requestOk s op req = true ∧ allPlaced s w0 = true ∧ begin_ (fresh s)
      k.val w0 = (fresh s, w1) ∧ mayServe (fresh s) k.val w1 = true ∧ faulted (serve (fresh s) k.val w1) = false) ∧
    (∃ (s : State) (k : Fin 8) (req : Word32B) (w : WinTask) (op : Nat) (c : Instr),
      let w0 : WaitAgg := { req := req, step := w.pass, begun := false }
      (c, op) ∈ [(Instr.aggregate k req, 2), (Instr.fullAggregate k req, 3), (Instr.reverse k req, 4), (Instr.ownScatter
      k req, 5)] ∧ engineTask s k.val = some w ∧ requestOk s op req = true ∧ allPlaced s w0 = false) ∧
    (∃ (s : State) (k : Fin 8) (req : Word32B) (w : WinTask) (op : Nat) (c : Instr) (w1 : _),
      let w0 : WaitAgg := { req := req, step := w.pass, begun := false }
      (c, op) ∈ [(Instr.aggregate k req, 2), (Instr.fullAggregate k req, 3), (Instr.reverse k req, 4), (Instr.ownScatter
      k req, 5)] ∧ engineTask s k.val = some w ∧ requestOk s op req = true ∧ allPlaced s w0 = true ∧ begin_ (fresh s)
      k.val w0 = (fresh s, w1) ∧ mayServe (fresh s) k.val w1 = false) ∧
    (∃ (s : State) (k : Fin 8) (req : Word32B) (w : WinTask) (op : Nat) (c : Instr),
      (c, op) ∈ [(Instr.aggregate k req, 2), (Instr.fullAggregate k req, 3), (Instr.reverse k req, 4), (Instr.ownScatter
      k req, 5)] ∧ engineTask s k.val = some w ∧ requestOk s op req = false) ∧
    (∃ (s : State) (k : Fin 8) (req : Word32B) (w : WinTask) (op : Nat) (c : Instr) (d : Dest) (p : Nat) (st : Nat) (loc : Nat) (e : Nat),
      let own := fitRow (rqWidth req) (decodeRow (strictMode s) (tdesc s st (rqTable req)) (rmClass e)
        (placeBytes s (tdesc s st (rqTable req)) (rmClass e) (rmSlot e)))
      let t1 := tilesOf (strictMode s) (outFmt req) (numRows s [zeroVals (rqWidth req)])
      let t2 := tilesOf (strictMode s) (outFmt req) (numRows s [own])
      let a2 := align128 (rqAddr req + t1.length)
      (c, op) ∈ [(Instr.aggregate k req, 2), (Instr.fullAggregate k req, 3)] ∧ engineTask s k.val = some w ∧ requestOk s
      op req = true ∧ rqMode req ∈ [0, 1, 3] ∧ rqCount req = 1 ∧ d.node ≠ emptyNode ∧ childless s k.val req w.pass d ∧
      owner s d.node = some (p, st, loc) ∧ rowHeld s st (rqTable req) loc e ∧ gatherHeld s d.k (rqTable req) w.pass =
      false ∧ s.bad = [] ∧ s.weak = [] ∧ a2 + t2.length ≤ dramTop ∧ inRetained (rqAddr req) t1.length = false ∧
      inRetained a2 t2.length = false) ∧
    (∃ (s : State) (k : Fin 8) (req : Word32B) (w : WinTask) (kd : Nat) (node : Nat),
      let es := journalOf s kd (treeKey (partId s) w.pass (rqMb req) (rqFirst req))
      let g := ((readTiles s (rqAddr req) 1 (rqWidth req)).headD []).map (numW (strictMode s))
      let rows := (List.range (childrenOf (seedsOf s w.pass) (planOf s (rqMb req)) (rqFirst req)).2).map (fun j =>
        match es[j]? with
        | some x => if bitOf 74 x then zeroVals (rqWidth req) else g
        | none => zeroVals (rqWidth req))
      let bs := tilesOf (strictMode s) (outFmt req) (numRows s rows)
      let a := align128 (rqAddr req + tilesBytes s (rqAddr req) 1 (rqWidth req))
      engineTask s k.val = some w ∧ requestOk s 4 req = true ∧ rqMode req = 0 ∧ rqCount req = 1 ∧ drawn s req w.pass
      (rqFirst req) = true ∧ holderOf s (partId s) w.pass (rqMb req) (rqFirst req) = some (kd, node) ∧ node ≠ emptyNode
      ∧ placeOf s w.pass (rqMb req) (rqFirst req) = some (partId s, kd) ∧ scatters s (rqLayer req) = false ∧ s.bad = []
      ∧ s.weak = [] ∧ badPanel s (rqAddr req) 1 (rqWidth req) = none ∧ (∀ x ∈ es, bitsOf 112 8 x = w.pass % 256 ∧ bitsOf
      120 8 x = rqMb req % 256) ∧ a + bs.length ≤ dramTop ∧ inRetained a bs.length = false) :=
  ⟨⟨placedS 3, 0, reqOf 2 0 32 0x5000, taskOf (descOf 1 3 96 0) 1, 2, .aggregate 0 (reqOf 2 0 32 0x5000), begun (placedS 3) (reqOf 2 0 32 0x5000), by decide +kernel⟩,
   ⟨engineS 3, 0, reqOf 2 0 32 0x5000, taskOf (descOf 1 3 96 0) 1, 2, .aggregate 0 (reqOf 2 0 32 0x5000), by decide +kernel⟩,
   ⟨waitS, 0, reqOf 2 0 32 0x5000, taskOf (descOf 1 3 96 0) 1, 2, .aggregate 0 (reqOf 2 0 32 0x5000), begun waitS (reqOf 2 0 32 0x5000), by decide +kernel⟩,
   ⟨engineS 3, 0, 0, taskOf (descOf 1 3 96 0) 1, 2, .aggregate 0 0, by decide +kernel⟩,
   ⟨placedS 3, 0, reqOf 2 0 32 0x5000, taskOf (descOf 1 3 96 0) 1, 2, .aggregate 0 (reqOf 2 0 32 0x5000), ⟨0,0,0,1⟩, 0, 0, 1, 4, by decide +kernel, by decide +kernel, by decide +kernel, by decide +kernel, by decide +kernel, by decide +kernel, by unfold childless; decide +kernel, by decide +kernel, by decide +kernel, by decide +kernel, by decide +kernel, by decide +kernel, by decide +kernel, by decide +kernel, by decide +kernel⟩,
   ⟨placedS 3, 0, reqOf 4 1 32 0x5000, taskOf (descOf 1 3 96 0) 1, 0, 1, by decide +kernel⟩⟩

theorem witness_ReductionCountsEveryRow :
    (∃ (groups : List (List Part)),
      ∀ g ∈ groups, ∀ p ∈ g, p.n = 1) ∧
    (∃ (mode : Nat),
      mode ≠ 2) ∧
    (∃ (kids : List Kid),
      kids.length ≤ 2 ^ 32) :=
  ⟨⟨[[{row:=[1],n:=1}],[]], by decide +kernel⟩,
   ⟨3, by decide +kernel⟩,
   ⟨[{ord:=1,c:=1,node:=5,value:=0,part:=1,stack:=7,loc:=0},{ord:=0,c:=0,node:=6,value:=0,part:=0,stack:=7,loc:=1}], by decide +kernel⟩⟩

theorem witness_OwnScatterStagesContribution :
    ∃ (s : State) (k : Fin 8) (req : Word32B) (w : WinTask) (d : Dest) (k' : Nat) (loc : Nat),
      let g := ((readTiles s (rqAddr req) (rqCount req) (rqWidth req)).getD (d.i - rqFirst req) []).map (numW (strictMode s))
      let c : Contrib :=
        { row := loc, table := rqTable req, kind := 0, sample := d.i, homePart := partId s, mb := rqMb req, layer := rqLayer req,
          marker := false, srcStack := k.val, srcPart := partId s, vals := tableCols s k.val (rqTable req) g }
      engineTask s k.val = some w ∧ requestOk s 5 req = true ∧ (let w0 : WaitAgg := { req := req, step := w.pass, begun
      := false }; allPlaced s w0 = true ∧ awayDests s w0 = [] ∧ (heldDests s k.val w0).filter (fun d => d.node !=
      emptyNode) = [d]) ∧ owner s d.node = some (partId s, k', loc) ∧ s.job.fast = false ∧ (emb s k').closed.contains
      (rqMb req, rqLayer req) = false ∧ s.bad = [] ∧ s.weak = [] ∧ badPanel s (rqAddr req) (rqCount req) (rqWidth req) =
      none ∧ deltaBytes (emb s k') + 16 + 4 * c.vals.length ≤ deltaSize s k' :=
  ⟨placedS 4, 0, reqOf 5 1 32 0x5000, taskOf (descOf 1 4 96 0) 1, ⟨0,0,0,1⟩, 0, 1, by decide +kernel⟩

theorem witness_UnitInstructionGuards :
    (∃ (s : State) (i : TileIns) (c : Instr) (op : Nat) (func : Nat),
      (c, op, func) ∈ unitCommands i ∧ (site s i.tile.val).run = none) ∧
    (∃ (s : State) (i : TileIns) (c : Instr) (op : Nat) (func : Nat) (task : _),
      (c, op, func) ∈ unitCommands i ∧ (site s i.tile.val).run = some task ∧ mayIssue s i.tile.val task i = false) ∧
    (∃ (s : State) (i : TileIns) (c : Instr) (op : Nat) (func : Nat) (task : _),
      (c, op, func) ∈ unitCommands i ∧ (site s i.tile.val).run = some task ∧ jobLive s = true ∧ mayIssue s i.tile.val
      task i = true ∧ insOp i.word ∉ knownOps) ∧
    (∃ (s : State) (i : TileIns) (c : Instr) (op : Nat) (func : Nat) (task : _) (a : _),
      (c, op, func) ∈ unitCommands i ∧ (site s i.tile.val).run = some task ∧ jobLive s = true ∧ mayIssue s i.tile.val
      task i = true ∧ insOp i.word = op ∧ (op = 0x20 → (vfuIns i.word).func = func) ∧ (a, Ecc.uncorrectable) ∈
      i.env.sram) ∧
    (∃ (s : State) (i : TileIns) (c : Instr) (op : Nat) (func : Nat) (task : _) (b : _),
      (c, op, func) ∈ unitCommands i ∧ (site s i.tile.val).run = some task ∧ jobLive s = true ∧ mayIssue s i.tile.val
      task i = true ∧ insOp i.word = op ∧ (op = 0x20 → (vfuIns i.word).func = func) ∧ (∀ x ∈ i.env.sram, x.2 ≠
      .uncorrectable) ∧ i.env.bankParity = some b) :=
  ⟨⟨base, mmaI, .mma mmaI, 0x10, 0, by decide +kernel⟩,
   ⟨unitS, {mmaI with index:=1}, .mma {mmaI with index:=1}, 0x10, 0, unitT, by decide +kernel⟩,
   ⟨unitS, insOf [(0,0xFF)], .mma (insOf [(0,0xFF)]), 0x10, 0, unitT, by decide +kernel⟩,
   ⟨unitS, {mmaI with env:={sram:=[(0x100,.uncorrectable)]}}, .mma {mmaI with env:={sram:=[(0x100,.uncorrectable)]}}, 0x10, 0, unitT, 0x100, by decide +kernel⟩,
   ⟨unitS, {mmaI with env:={bankParity:=some (1,127,127)}}, .mma {mmaI with env:={bankParity:=some (1,127,127)}}, 0x10, 0, unitT, (1,127,127), by decide +kernel⟩⟩

theorem witness_VectorFunctionsWriteTheirLanes :
    ∃ (s : State) (i : TileIns) (task : WinTask) (c : Instr) (func : Nat) (fn : Lane → FRes × Bool),
      (c, func, fn) ∈ vectorCommands i ∧ unitRuns s i 0x20 task ∧ (tileS s i.tile.val).attempt = none ∧ (vfuIns
      i.word).func = func ∧ vopOk (strictMode s) i.word = true :=
  ⟨lanesS, vopI 1, unitT, .add (vopI 1), 1, laneAdd, by simp [vectorCommands], by decide +kernel⟩

theorem witness_ProductsStandInTheirBanks :
    (∃ (s : State) (i : TileIns) (task : WinTask),
      let k := i.tile.val
      let p := mmaProd s k (dClass task.desc) (tileS s k).gtag (effWord task i)
      unitRuns s i 0x10 task ∧ mmaOk p i.word = true ∧ gradOk s (dClass task.desc) (dLayer task.desc) (tileS s
      k).gtag.isSome i.word = true ∧ pairClash s k p = false ∧ productReady s i task p) ∧
    (∃ (s : State) (i : TileIns) (task : WinTask),
      let k := i.tile.val
      let p := mvmProd (dClass task.desc) (tileS s k).gtag i.word
      unitRuns s i 0x11 task ∧ mvmOk p i.word = true ∧ operandsOk s k p = true ∧ gradOk s (dClass task.desc) (dLayer
      task.desc) (tileS s k).gtag.isSome i.word = true ∧ pairClash s k p = false) ∧
    (∃ (s : State) (i : TileIns) (task : WinTask),
      let k := i.tile.val
      let p := mmaProd s k (dClass task.desc) (tileS s k).gtag (effWord task i)
      unitRuns s i 0x10 task ∧ (mmaOk p i.word = false ∨ operandsOk s k p = false)) ∧
    (∃ (s : State) (i : TileIns) (task : WinTask),
      let k := i.tile.val
      let p := mvmProd (dClass task.desc) (tileS s k).gtag i.word
      unitRuns s i 0x11 task ∧ (mvmOk p i.word = false ∨ operandsOk s k p = false)) :=
  ⟨⟨lanesS, mmaI, unitT, by
      have h : (mmaProd lanesS mmaI.tile.val (dClass unitT.desc) (tileS lanesS mmaI.tile.val).gtag (effWord unitT mmaI)).a.panel
        = none := by decide +kernel
      exact ⟨by decide +kernel, by decide +kernel, by decide +kernel, by decide +kernel, by decide +kernel, by decide +kernel,
        fun ma mb e => nomatch h.symm.trans e⟩⟩,
   ⟨lanesS, mvmI, unitT, by decide +kernel⟩,
   ⟨unitS, insOf [(0,0x10),(16,8),(20,9)], unitT, by decide +kernel⟩,
   ⟨unitS, insOf [(0,0x11),(16,10),(20,10)], unitT, by decide +kernel⟩⟩

theorem witness_BankRowsMove :
    (∃ (s : State) (i : TileIns) (task : WinTask),
      let k := i.tile.val
      let b := bankIns i.word
      unitRuns s i 0x32 task ∧ bankOk s k b i.word = true) ∧
    (∃ (s : State) (i : TileIns) (task : WinTask),
      let k := i.tile.val
      let b := bankIns i.word
      unitRuns s i 0x31 task ∧ bankOk s k b i.word = true) ∧
    (∃ (s : State) (i : TileIns) (task : WinTask),
      let k := i.tile.val
      let b := bankIns i.word
      unitRuns s i 0x30 task ∧ bankOk s k b i.word = true ∧ (tileS s k).owed = []) :=
  ⟨⟨lanesS, bankI 0x32 0 0, unitT, by decide +kernel⟩,
   ⟨lanesS, bankI 0x31 0x100 0, unitT, by decide +kernel⟩,
   ⟨lanesS, bankI 0x30 0x400 0, unitT, by decide +kernel⟩⟩

theorem witness_LouvreCloses :
    (∃ (s : State) (k : Fin 96),
      2 ≤ power s ∧ fld s MXA_CFG_LOUVRE_EN k.val = 1 ∧ fld s MXA_STATUS_LOUVRE k.val ≠ 0) ∧
    (∃ (s : State) (k : Fin 96),
      2 ≤ power s ∧ fld s MXA_CFG_LOUVRE_EN k.val = 1 ∧ fld s MXA_STATUS_LOUVRE k.val = 0) ∧
    (∃ (s : State) (k : Fin 96),
      2 ≤ power s ∧ fld s MXA_CFG_LOUVRE_EN k.val = 0) ∧
    (∃ (s : State),
      power s < 2) :=
  ⟨⟨withFlds base [(MXA_STATUS_LOUVRE,95,0,2)], 95, by decide +kernel⟩,
   ⟨withFlds base [(MXA_STATUS_LOUVRE,95,0,0)], 95, by decide +kernel⟩,
   ⟨withFlds base [(MXA_CFG_LOUVRE_EN,95,0,0)], 95, by decide +kernel⟩,
   ⟨State.reset, by decide +kernel⟩⟩

theorem witness_ConversionsWriteTheirCopies :
    (∃ (s : State) (i : TileIns) (task : WinTask),
      let k := i.tile.val
      let v := vfuIns i.word
      let l := dLayer task.desc
      unitRuns s i 0x21 task ∧ (tileS s k).attempt = none ∧ cvtOk s l i.word = true ∧ (v.grad = false ∨ v.fout = 10)) ∧
    (∃ (s : State) (i : TileIns) (task : WinTask),
      let k := i.tile.val
      let v := vfuIns i.word
      let l := dLayer task.desc
      unitRuns s i 0x21 task ∧ (tileS s k).attempt = none ∧ cvtOk s l i.word = true ∧ v.grad = true ∧ v.fout ≠ 10 ∧
      bitOf 8 (fld s DRT_STATUS_ARMED) = false) :=
  ⟨⟨lanesS, cvtI 10 0 0, unitT, by decide +kernel⟩,
   ⟨lanesS, cvtI 3 1 0x800, unitT, by decide +kernel⟩⟩

theorem witness_OverflowReplayLowersScale :
    (∃ (s : State) (k : Fin 96) (task : WinTask) (a : Attempt),
      (tileS s k.val).attempt = some a ∧ (site s k.val).run = some task ∧ jobLive s = true ∧ insOp a.word = 0x21 ∧
      a.forced = 0) ∧
    (∃ (s : State) (k : Fin 96) (task : WinTask) (a : Attempt) (e : TileEnv) (x : Nat),
      (tileS s k.val).attempt = some a ∧ (site s k.val).run = some task ∧ jobLive s = true ∧ (x, Ecc.uncorrectable) ∈
      e.sram) ∧
    (∃ (s : State) (k : Fin 96),
      (tileS s k.val).attempt = none) :=
  ⟨⟨attemptS 3, 95, unitT, ⟨0,(cvtI 3 1 0x800).word,{},3,0⟩, by decide +kernel⟩,
   ⟨attemptS 0, 95, unitT, ⟨0,(cvtI 3 1 0x800).word,{},0,0⟩, {sram:=[(0x7FFFFF,.uncorrectable)]}, 0x7FFFFF, by decide +kernel⟩,
   ⟨base, 95, by decide +kernel⟩⟩

theorem witness_RandomWordsAndGradientTags :
    (∃ (s : State) (i : TileIns) (task : WinTask),
      unitRuns s i 0x23 task ∧ (tileS s i.tile.val).attempt = none ∧ rngOk i.word = true) ∧
    (∃ (s : State) (i : TileIns) (task : WinTask),
      let r := leNat (tload s i.tile.val (bitsOf 64 23 i.word.toNat) 16)
      unitRuns s i 0x22 task ∧ gtagOk i.word = true ∧ bitsOf 64 64 r = task.pass ∧ bitsOf 24 8 r = dLayer task.desc) ∧
    (∃ (s : State) (i : TileIns) (task : WinTask),
      let r := leNat (tload s i.tile.val (bitsOf 64 23 i.word.toNat) 16)
      unitRuns s i 0x22 task ∧ gtagOk i.word = true ∧ (bitsOf 64 64 r ≠ task.pass ∨ bitsOf 24 8 r ≠ dLayer task.desc)) :=
  ⟨⟨unitS, insOf [(0,0x23),(16,2),(64,0x100),(128,3)], unitT, by decide +kernel⟩,
   ⟨storeNat unitS (tileBase 95 + 0x100) 16 (1*2^64+3*2^24), insOf [(0,0x22),(64,0x100)], unitT, by decide +kernel⟩,
   ⟨unitS, insOf [(0,0x22),(64,0x100)], unitT, by decide +kernel⟩⟩

theorem witness_CompressorWritesPanels :
    (∃ (s : State) (i : TileIns) (task : WinTask),
      let k := i.tile.val
      let c := cmpIns i.word
      let p := cmpPanel s k task c c.fmt c.t 0
      unitRuns s i 0x40 task ∧ (tileS s k).attempt = none ∧ cmpOk s (dLayer task.desc) i.word = true ∧ (c.fromDrain =
      true → (tileS s k).rows.isSome = true) ∧ c.grad = false ∧ owedMask s k c = 0 ∧ popCount p.present ≤ c.cap) ∧
    (∃ (s : State) (i : TileIns) (task : WinTask),
      let k := i.tile.val
      let c := cmpIns i.word
      let p := cmpPanel s k task c c.fmt c.t 0
      unitRuns s i 0x40 task ∧ (tileS s k).attempt = none ∧ cmpOk s (dLayer task.desc) i.word = true ∧ (c.fromDrain =
      true → (tileS s k).rows.isSome = true) ∧ c.grad = false ∧ owedMask s k c = 0 ∧ c.cap < popCount p.present) :=
  ⟨⟨lanesS, cmpI 64, unitT, by decide +kernel⟩,
   ⟨cmpFullS, cmpI2, unitT, by decide +kernel⟩⟩

theorem witness_SplitQueuesPieces :
    (∃ (s : State) (i : TileIns) (task : WinTask),
      let k := i.tile.val
      let items := taskItems s task
      let budget := bitsOf 16 16 i.word.toNat
      unitRuns s i 0x41 task ∧ splitOk items i.index i.word = true ∧ task.items = none ∧ sumOf (items.map (stepsOf s k
      (dClass task.desc))) ≤ budget) ∧
    (∃ (s : State) (i : TileIns) (task : WinTask) (first : _) (rest : _),
      let k := i.tile.val
      let items := taskItems s task
      let budget := bitsOf 16 16 i.word.toNat
      unitRuns s i 0x41 task ∧ splitOk items i.index i.word = true ∧ task.items = none ∧ budget < sumOf (items.map
      (stepsOf s k (dClass task.desc))) ∧ ((items.foldl (cutItem s k (dClass task.desc) budget) ⟨[], [], 0⟩).close).done
      = first :: rest) :=
  ⟨⟨splitS 9, insOf [(0,0x41),(16,9)], unitT, by decide +kernel⟩,
   ⟨splitS 2, insOf [(0,0x41),(16,2)], unitT, [BitVec.ofNat 256 (wordOf [(0,0x41),(16,2)]),mmaI.word], [[mmaI.word]], by decide +kernel⟩⟩

theorem witness_StashKeepsRecords :
    (∃ (s : State) (i : TileIns) (task : WinTask) (bs : List Byte),
      let k := i.tile.val
      let x := stashIns i.word
      let n := (x.bytes + 127) / 128
      unitRuns s i 0x50 task ∧ stashOk i.word = true ∧ gatherPanels s x.bytes (x.bytes / 32 + 1) (tileBase k + x.addr)
      [] = (bs, none) ∧ runStarts (fld s TILE_STASH_BANKS k * 2048) n (usedLines s false k) ≠ [] ∧ fld s
      TILE_STASH_BASE_BANK k + fld s TILE_STASH_BANKS k ≤ 32) ∧
    (∃ (s : State) (i : TileIns) (task : WinTask) (bs : List Byte) (base : Nat) (size : Nat),
      let k := i.tile.val
      let x := stashIns i.word
      let n := (bs.length + 127) / 128
      let key := mbKey task.pass (dMb task.desc)
      unitRuns s i 0x50 task ∧ stashOk i.word = true ∧ gatherPanels s x.bytes (x.bytes / 32 + 1) (tileBase k + x.addr)
      [] = (bs, none) ∧ runStarts (fld s TILE_STASH_BANKS k * 2048) ((x.bytes + 127) / 128) (usedLines s false k) = [] ∧
      region s 2 0 = some (base, size) ∧ runStarts (size / 128) n (usedLines s true 0) ≠ [] ∧ kGetD s.stash.spilled key
      0 + bs.length ≤ stashBound s ∧ s.bad = [] ∧ s.weak = []) ∧
    (∃ (s : State) (i : TileIns) (task : WinTask) (bs : List Byte) (m : Nat) (r : Nat),
      unitRuns s i 0x50 task ∧ stashOk i.word = true ∧ (let x := stashIns i.word; gatherPanels s x.bytes (x.bytes / 32 +
      1) (tileBase i.tile.val + x.addr) [] = (bs, some (m, r)))) ∧
    (∃ (s : State) (i : TileIns) (task : WinTask) (r : StashRec),
      let a := tileBase i.tile.val + (stashIns i.word).addr
      let bs := ((recAddrs s r).flatMap (fun a => load s a 128)).take r.bytes
      let m := leNat (bs.take 32)
      unitRuns s i 0x51 task ∧ stashOk i.word = true ∧ s.stash.recs.find? (keyIs task (stashIns i.word)) = some r ∧
      (r.spilled = true → s.bad = [] ∧ s.weak = []) ∧ bs.length = r.bytes ∧ r.bytes = transportBytes m ∧ mapReason m
      (mapFmt m) = none ∧ laidEnd m a ≤ tileBase i.tile.val + spadBytes) ∧
    (∃ (s : State) (i : TileIns) (task : WinTask),
      unitRuns s i 0x51 task ∧ stashOk i.word = true ∧ s.stash.recs.find? (keyIs task (stashIns i.word)) = none) :=
  ⟨⟨stashS, stashI 0x50 32 9 6, unitT, zeros 32, by decide +kernel⟩,
   ⟨spillS, stashI 0x50 32 9 6, unitT, zeros 32, 0x20000, 0x10000, by decide +kernel⟩,
   ⟨storeNat stashS (tileBase 95 + 0x100) 32 (2^224), stashI 0x50 32 9 6, unitT, [], 2^224, 0, by decide +kernel⟩,
   ⟨stashS, stashI 0x51 0 0 5, unitT, rec1, by decide +kernel⟩,
   ⟨stashS, stashI 0x51 0 0 6, unitT, by decide +kernel⟩⟩

theorem witness_CommitIsVotedAndDecided :
    (∃ (s : State),
      commitReady s = true ∧ votes s = [] ∧ s.job.extra.parts.length ≤ 1) ∧
    (∃ (s : State),
      commitReady s = false) ∧
    (∃ (s : State),
      running s = true ∧ s.step.voted = true ∧ s.step.voteDone = true ∧ fld s PANE_COMMIT_STATUS_PHASE = 1 ∧ decided s =
      1 ∧ s.bad = [] ∧ s.weak = []) ∧
    (∃ (s : State),
      running s = true ∧ s.step.voted = true ∧ s.step.voteDone = true ∧ fld s PANE_COMMIT_STATUS_PHASE = 1 ∧ decided s =
      2) ∧
    (∃ (s : State),
      running s = true ∧ s.step.voted = true ∧ s.step.voteDone = true ∧ fld s PANE_COMMIT_STATUS_PHASE = 1 ∧ decided s =
      3) ∧
    (∃ (s : State),
      running s = true ∧ s.step.voted = true ∧ s.step.voteDone = true ∧ fld s PANE_COMMIT_STATUS_PHASE = 1 ∧ decided s =
      4 ∧ s.bad = [] ∧ s.weak = []) :=
  ⟨⟨commitS 0 0, by decide +kernel⟩,
   ⟨base, by decide +kernel⟩,
   ⟨commitS 1 0, by decide +kernel⟩,
   ⟨nfS 0, by decide +kernel⟩,
   ⟨nfS 1, by decide +kernel⟩,
   ⟨nfS 0x12, by decide +kernel⟩⟩

theorem witness_DensePhaseWritesOtherSash :
    (∃ (s : State) (i : Nat) (y : Tensor),
      let x := tensorOf (loadNat s (s.job.addr + y.off) 64) ⟨y.off, y.owners, y.hyper, []⟩
      running s = true ∧ committing s = true ∧ s.step.denseDone = false ∧ sashHeld s = false ∧ denseWork s = [(i, y)] ∧
      s.bad = [] ∧ s.weak = [] ∧ tensorOk s i x = true) ∧
    (∃ (s : State),
      running s = false ∨ committing s = false ∨ s.step.denseDone = true ∨ sashHeld s = true) ∧
    (∃ (s : State) (i : Nat) (y : Tensor),
      let x := tensorOf (loadNat s (s.job.addr + y.off) 64) ⟨y.off, y.owners, y.hyper, []⟩
      running s = true ∧ committing s = true ∧ s.step.denseDone = false ∧ sashHeld s = false ∧ denseWork s = [(i, y)] ∧
      s.bad = [] ∧ s.weak = [] ∧ tensorOk s i x = false) :=
  ⟨⟨denseS tensorDesc, 0, tensor1, by decide +kernel⟩,
   ⟨base, by decide +kernel⟩,
   ⟨denseS (tensorDesc + 2 ^ 24), 0, tensor1, by decide +kernel⟩⟩

theorem witness_EmbeddingPhaseAppliesStacks :
    (∃ (s : State),
      running s = true ∧ committing s = true ∧ (∃ k, k < 8 ∧ k ∉ s.step.embDone ∧ (emb s k).migrList = [] ∧ (emb s
      k).migrs = [])) ∧
    (∃ (s : State),
      running s = true ∧ committing s = true ∧ (∀ k, k < 8 → liveTables s k = []) ∧ (∃ k, k < 8 ∧ k ∉ s.step.embDone ∧
      (emb s k).migrList = [] ∧ (emb s k).migrs = [])) ∧
    (∃ (s : State),
      (running s = false ∨ committing s = false ∨ ∀ k, k < 8 → k ∈ s.step.embDone ∨ (emb s k).migrList ≠ [] ∨ (emb s
      k).migrs ≠ [])) ∧
    (∃ (s : State) (k : Nat) (tb : Nat) (row : Nat),
      let a := mapAddr (tdesc s k tb) row
      let e := loadNat s a 8
      faulted s = false ∧ s.bad = [] ∧ s.weak = [] ∧ tdFixed (tdesc s k tb) = false ∧ rmOk (tdesc s k tb) e = true ∧
      kGet? (emb s k).deltas (placeKey tb (rmClass e) (rmSlot e)) = none) :=
  ⟨⟨commitS 2 1, by decide +kernel⟩,
   ⟨commitS 2 1, by decide +kernel⟩,
   ⟨base, by decide +kernel⟩,
   ⟨storeNat tableS (loc0 + 0x1008) 8 (4 + 200 * 2 ^ 38), 0, 0, 1, by decide +kernel⟩⟩

theorem witness_CommitEndsStep :
    (∃ (s : State),
      running s = true ∧ s.step.open_ = true ∧ s.step.endPane < pane s ∧ fld s PANE_COMMIT_STATUS_PHASE = 2 ∧
      s.step.again = none ∧ s.jobEnd.stopMode = none ∧ enginesIdle s ∧ s.step.outcome = 2) ∧
    (∃ (s : State),
      running s = true ∧ s.step.open_ = true ∧ s.step.endPane < pane s ∧ fld s PANE_COMMIT_STATUS_PHASE = 2 ∧
      s.step.again = none ∧ s.jobEnd.stopMode = none ∧ enginesIdle s ∧ s.step.outcome = 1 ∧ s.step.denseDone = true ∧ (∀
      k, k < 8 → k ∈ s.step.embDone) ∧ tasksLeft s s.step.current (fun d => dClass d == 0) = false ∧ flaggedTensor s =
      none) ∧
    (∃ (s : State),
      let sound := s.bad = [] ∧ s.weak = [] ∧
        (∀ a, recordAt s s.step.current = some a → pastRegion s 5 0 (a + 0x0E) 0x1A = false) ∧
        ∀ e ∈ s.sched.tokens, e.2.role = 1 → e.2.count + s.sched.tokens.length < 65535
      running s = true ∧ s.step.open_ = true ∧ s.step.endPane < pane s ∧ fld s PANE_COMMIT_STATUS_PHASE = 2 ∧
      s.step.again = none ∧ s.jobEnd.stopMode = none ∧ enginesIdle s ∧ s.step.outcome = 1 ∧ s.step.denseDone = true ∧ (∀
      k, k < 8 → k ∈ s.step.embDone) ∧ tasksLeft s s.step.current (fun d => dClass d == 0) = false ∧ flaggedTensor s =
      none ∧ sound) ∧
    (∃ (s : State) (x : _),
      running s = true ∧ s.step.open_ = true ∧ s.step.endPane < pane s ∧ fld s PANE_COMMIT_STATUS_PHASE = 2 ∧
      s.step.again = none ∧ s.jobEnd.stopMode = none ∧ enginesIdle s ∧ s.step.outcome = 1 ∧ s.step.denseDone = true ∧ (∀
      k, k < 8 → k ∈ s.step.embDone) ∧ tasksLeft s s.step.current (fun d => dClass d == 0) = false ∧ flaggedTensor s =
      some x) ∧
    (∃ (s : State),
      let sound := s.bad = [] ∧ s.weak = [] ∧
        (∀ a, recordAt s s.step.current = some a → pastRegion s 5 0 (a + 0x0E) 0x1A = false) ∧
        ∀ e ∈ s.sched.tokens, e.2.role = 1 → e.2.count + s.sched.tokens.length < 65535
      running s = true ∧ s.step.open_ = true ∧ s.step.endPane < pane s ∧ fld s PANE_COMMIT_STATUS_PHASE = 2 ∧
      s.step.again = none ∧ s.jobEnd.stopMode = none ∧ enginesIdle s ∧ s.step.outcome = 2 ∧ sound) :=
  ⟨⟨commitS 2 2, by decide +kernel, by decide +kernel, by decide +kernel, by decide +kernel, by decide +kernel, by decide +kernel, fun k => ⟨rfl, rfl⟩, by decide +kernel⟩,
   ⟨endS, by decide +kernel, by decide +kernel, by decide +kernel, by decide +kernel, by decide +kernel, by decide +kernel, fun k => ⟨rfl, rfl⟩, by decide +kernel, by decide +kernel, by decide +kernel, by decide +kernel, by decide +kernel⟩,
   ⟨endS, by decide +kernel, by decide +kernel, by decide +kernel, by decide +kernel, by decide +kernel, by decide +kernel, fun k => ⟨rfl, rfl⟩, by decide +kernel, by decide +kernel, by decide +kernel, by decide +kernel, by decide +kernel, ⟨rfl, rfl, fun _ h => absurd ((congrArg Option.isSome h).trans rfl : Option.isSome _ = true) (by decide +kernel), by decide +kernel⟩⟩,
   ⟨{endS with step:={endS.step with flagged:=[0]}}, 0, by decide +kernel, by decide +kernel, by decide +kernel, by decide +kernel, by decide +kernel, by decide +kernel, fun k => ⟨rfl, rfl⟩, by decide +kernel, by decide +kernel, by decide +kernel, by decide +kernel, by decide +kernel⟩,
   ⟨commitS 2 2, by decide +kernel, by decide +kernel, by decide +kernel, by decide +kernel, by decide +kernel, by decide +kernel, fun k => ⟨rfl, rfl⟩, by decide +kernel, ⟨rfl, rfl, fun _ h => absurd ((congrArg Option.isSome h).trans rfl : Option.isSome _ = true) (by decide +kernel), by decide +kernel⟩⟩⟩

theorem witness_TablesFlipAndRelease :
    (∃ (s : State),
      (running s = true ∨ jobState s = 3) ∧ fld s EMB_FLIP_PENDING = 1 ∧ s.step.open_ = false ∧ fld s EMB_FLIP_STEP =
      nextStep s.step.committedStep ∧ enginesIdle s) ∧
    (∃ (s : State),
      fld s EMB_FLIP_PENDING = 0 ∨ s.step.open_ = true ∨ fld s EMB_FLIP_STEP ≠ nextStep s.step.committedStep) ∧
    (∃ (s : State) (k : Nat),
      k < 8 ∧ (emb s k).oldLive ≠ [] ∧ (emb s k).flipPane < pane s) ∧
    (∃ (s : State),
      ∀ k, k < 8 → (emb s k).oldLive = [] ∨ pane s ≤ (emb s k).flipPane) :=
  ⟨⟨flipS, by decide +kernel, by decide +kernel, by decide +kernel, by decide +kernel, fun k => ⟨rfl, rfl⟩⟩,
   ⟨base, by decide +kernel⟩,
   ⟨setEmb base 7 {oldLive:=[(3,9)],flipPane:=99}, 7, by decide +kernel⟩,
   ⟨base, by decide +kernel⟩⟩

theorem witness_PortsComeUpAndGoDown :
    (∃ (s : State) (p : Fin 10),
      fld s SBN_PORT_TRAINING 0 p.val = 1 ∧ fld s SBN_CFG_EN = 1) ∧
    (∃ (s : State) (p : Fin 10) (c : Instr),
      c ∈ [Instr.linkDownNotice p, .fecLockLoss p, .noGoodFlitTimeout p] ∧ fld s SBN_PORT_UP 0 p.val = 1) ∧
    (∃ (s : State) (p : Fin 10) (c : Instr),
      c ∈ [Instr.linkDownNotice p, .fecLockLoss p, .noGoodFlitTimeout p] ∧ fld s SBN_PORT_UP 0 p.val = 0) :=
  ⟨⟨withFlds netS [(SBN_PORT_TRAINING,0,8,1)], 8, by decide +kernel⟩,
   ⟨linkS 0 0, 9, .fecLockLoss 9, by decide +kernel⟩,
   ⟨netS, 8, .noGoodFlitTimeout 8, by decide +kernel⟩⟩

theorem witness_FlitsArriveAndAreResent :
    (∃ (s : State) (p : Fin 10) (flit : List Byte),
      let hdr := leAt flit 0 5
      fld s SBN_PORT_UP 0 p.val = 1 ∧ fld s SBN_ID_VALID = 1 ∧ flitGood flit = true ∧ bitsOf 0 2 hdr = 0 ∧ bitOf 5 hdr =
      true ∧ bitOf 6 hdr = true ∧ (port s p.val).outq = []) ∧
    (∃ (s : State) (p : Fin 10) (c : Instr) (l : List (Nat × Nat × List Byte)),
      ((c = .linkRetryTimeout p ∧ l = (port s p.val).replay) ∨ ∃ lseq, c = .retry p lseq ∧ l = replayFrom (port s
      p.val).replay lseq) ∧ fld s SBN_PORT_UP 0 p.val = 1 ∧ l ≠ [] ∧ (port s p.val).resends + 1 < fld s
      SBN_LINK_RETRY_BUDGET) ∧
    (∃ (s : State) (p : Fin 10) (c : Instr) (l : List (Nat × Nat × List Byte)),
      ((c = .linkRetryTimeout p ∧ l = (port s p.val).replay) ∨ ∃ lseq, c = .retry p lseq ∧ l = replayFrom (port s
      p.val).replay lseq) ∧ fld s SBN_PORT_UP 0 p.val = 1 ∧ l ≠ [] ∧ fld s SBN_LINK_RETRY_BUDGET ≤ (port s
      p.val).resends + 1) ∧
    (∃ (s : State) (p : Fin 10) (c : Instr) (l : List (Nat × Nat × List Byte)),
      ((c = .linkRetryTimeout p ∧ l = (port s p.val).replay) ∨ ∃ lseq, c = .retry p lseq ∧ l = replayFrom (port s
      p.val).replay lseq) ∧ fld s SBN_PORT_UP 0 p.val = 1 ∧ l = []) ∧
    (∃ (s : State) (p : Fin 10) (flit : List Byte) (bad : Bool),
      fld s SBN_PORT_UP 0 p.val = 1 ∧ (bad = true ∨ flitGood flit = false)) ∧
    (∃ (s : State) (p : Fin 10),
      fld s SBN_PORT_UP 0 p.val = 0) :=
  ⟨⟨netS, 9, flit1, by decide +kernel, by decide +kernel, flitGood_flitOf _ _ (by decide +kernel), by decide +kernel, by decide +kernel, by decide +kernel, by decide +kernel⟩,
   ⟨linkS 0 0, 9, .linkRetryTimeout 9, [(7,0,[1,2])], Or.inl (by decide +kernel), by decide +kernel, by decide +kernel, by decide +kernel⟩,
   ⟨linkS 31 0, 9, .linkRetryTimeout 9, [(7,0,[1,2])], Or.inl (by decide +kernel), by decide +kernel, by decide +kernel, by decide +kernel⟩,
   ⟨netS, 9, .linkRetryTimeout 9, [], Or.inl (by decide +kernel), by decide +kernel, by decide +kernel⟩,
   ⟨netS, 9, [], false, by decide +kernel⟩,
   ⟨netS, 8, by decide +kernel⟩⟩

theorem witness_TransportMovesMessages_1 :
    (∃ (s : State) (m : SbnMsg),
      fld s SBN_ID_VALID = 1 ∧ m.dst.val ≠ partId s ∧ (∀ e ∈ s.sbn.transit, e.2 ≠ m) ∧ 3 < m.hop) ∧
    (∃ (s : State) (m : SbnMsg),
      fld s SBN_ID_VALID = 1 ∧ m.dst.val ≠ partId s ∧ (∀ e ∈ s.sbn.transit, e.2 ≠ m) ∧ m.hop ≤ 3 ∧ (fld s
      SBN_ROUTE_VALID 0 m.dst.val = 0 ∨ portCount (fld s SBN_ROUTE_USABLE 0 m.dst.val) = 0)) ∧
    (∃ (s : State) (m : SbnMsg),
      let set := fld s SBN_ROUTE_USABLE 0 m.dst.val
      let p := portOfRank set ((6 * m.src.val + chanOf m) % portCount set)
      fld s SBN_ID_VALID = 1 ∧ m.dst.val ≠ partId s ∧ (∀ e ∈ s.sbn.transit, e.2 ≠ m) ∧ m.hop ≤ 3 ∧ chanOf m ≤ 5 ∧ fld s
      SBN_ROUTE_VALID 0 m.dst.val = 1 ∧ portCount set ≠ 0 ∧ fld s SBN_PORT_UP 0 p = 1 ∧ (port s p).outq = [] ∧ (port s
      p).replay.length < 512 ∧ kGetD (port s p).used (chanOf m * 4 + m.hop) 0 < creditLimit (chanOf m) m.hop ∧ flitCount
      m = 1 ∧ bitOf 5 (fld s DRT_STATUS_ARMED) = false) ∧
    (∃ (s : State) (m : SbnMsg) (rest : List SbnMsg),
      fld s SBN_ID_VALID = 1 ∧ s.sbn.reroute = [] ∧ s.sbn.txq = m :: rest ∧ mayStart s m = true ∧ m.vc ≠ 5) ∧
    (∃ (s : State) (m : SbnMsg) (rest : List SbnMsg),
      s.sbn.reroute = [] ∧ s.sbn.txq = m :: rest ∧ rest.all (fun x => x.vc == m.vc && x.dst == m.dst) = true ∧ m.vc ≠ 5
      ∧ hasSpace s m = false) ∧
    (∃ (s : State) (x : Transfer),
      jobLive s = true ∧ x.mcast = true ∧ (x.op = 0x01 ∨ x.op = 0x0B)) ∧
    (∃ (s : State) (x : Transfer) (p : Nat) (l : List Nat),
      jobLive s = true ∧ x.mcast = false ∧ x.op = 0x02 ∧ partsIn x.dsts = p :: l ∧ shuttered s p = false) ∧
    (∃ (s : State) (src : Fin 16) (vc : Fin 6),
      (rxConn s src.val vc.val).since ≠ 0 ∧ shuttered s src.val = false) ∧
    (∃ (s : State) (src : Fin 16) (vc : Fin 6),
      (rxConn s src.val vc.val).since = 0) ∧
    (∃ (s : State) (dst : Fin 16) (vc : Fin 6),
      jobLive s = true ∧ (txConn s dst.val vc.val).unacked ≠ [] ∧ (txConn s dst.val vc.val).expiries + 1 < fld s
      SBN_XPORT_BUDGET) :=
  ⟨⟨netS, {msgOf 0x0B 1 0 0 [] with dst:=5,src:=6,hop:=4}, by decide +kernel⟩,
   ⟨netS, {msgOf 0x0B 1 0 0 [] with dst:=4,src:=6,hop:=3}, by decide +kernel⟩,
   ⟨netS, {msgOf 0x0B 1 0 0 [] with dst:=5,src:=6,hop:=3}, by decide +kernel⟩,
   ⟨txS, {msgOf 0x0B 1 0 0 [] with src:=3,dst:=5}, [], by decide +kernel⟩,
   ⟨fullRxS, readM, [], by decide +kernel⟩,
   ⟨netS, {op:=1,mcast:=true,dsts:=2^4+2^5,addr:=0x4000,data:=[1],done:=9}, by decide +kernel⟩,
   ⟨netS, {op:=2,mcast:=false,dsts:=2^5,addr:=0x4000,len:=16,back:=0x8000}, 5, [], by decide +kernel⟩,
   ⟨linkS 0 0, 5, 1, by decide +kernel⟩,
   ⟨netS, 5, 1, by decide +kernel⟩,
   ⟨linkS 0 0, 5, 1, by decide +kernel⟩⟩

theorem witness_TransportMovesMessages_2 :
    ∃ (s : State) (dst : Fin 16) (vc : Fin 6),
      jobLive s = true ∧ (txConn s dst.val vc.val).unacked ≠ [] ∧ fld s SBN_XPORT_BUDGET ≤ (txConn s dst.val
      vc.val).expiries + 1 :=
  ⟨linkS 0 7, 5, 1, by decide +kernel⟩

theorem witness_MessagesHaveTheirEffect_1 :
    (∃ (s : State) (m : SbnMsg) (c : Instr),
      (c, m.op) ∈ messageCommands m ∧ messageInTurn s m ∧ (m.op = 0x09 → m.src.val ≠ partId s)) ∧
    (∃ (s : State) (m : SbnMsg),
      m.op = 0x09 ∧ m.src.val = partId s ∧ jobLive s = true) ∧
    (∃ (s : State) (m : SbnMsg),
      m.op = 0x01 ∧ messageInTurn s m ∧ writeReach m.addr m.data.length = true ∧ s.bad = [] ∧ s.weak = []) ∧
    (∃ (s : State) (m : SbnMsg),
      m.op = 0x01 ∧ messageInTurn s m ∧ writeReach m.addr m.data.length = false) ∧
    (∃ (s : State) (m : SbnMsg),
      m.op = 0x02 ∧ messageInTurn s m ∧ readReach m.addr m.arg = true ∧ 1 ≤ m.arg ∧ m.arg ≤ 7904 ∧ s.bad = [] ∧ s.weak =
      [] ∧ m.found = {}) ∧
    (∃ (s : State) (m : SbnMsg) (r : ReadS),
      m.op = 0x03 ∧ messageInTurn s m ∧ s.sbn.reads.find? (fun r => r.part == m.src.val && r.tag == m.tag) = some r ∧
      r.back + r.len ≤ tileBase 96 ∧ (r.back < dramTop → r.back + r.len ≤ dramTop) ∧ s.bad = [] ∧ s.weak = []) ∧
    (∃ (s : State) (m : SbnMsg) (c : Instr),
      (c, m.op) ∈ [(Instr.readData m, 0x03), (.token m, 0x0B)] ∧ messageInTurn s m ∧ (c = .readData m →
      s.sbn.reads.find? (fun r => r.part == m.src.val && r.tag == m.tag) = none)) ∧
    (∃ (s : State) (m : SbnMsg),
      m.op = 0x04 ∧ messageInTurn s m ∧ takenOf s (leAt m.data 0 8) = none) ∧
    (∃ (s : State) (m : SbnMsg) (c : Instr),
      (c, m.op) ∈ messageCommands m ∧ (m.op = 0x09 → m.src.val ≠ partId s) ∧ m.dst.val = partId s ∧ (∀ e ∈
      s.sbn.arrived, { e.2 with found := m.found } ≠ m) ∧ sbnCheck m ≠ m.ecrc) ∧
    (∃ (s : State) (m : SbnMsg) (c : Instr),
      (c, m.op) ∈ messageCommands m ∧ (m.op = 0x09 → m.src.val ≠ partId s) ∧ m.dst.val = partId s ∧ (∀ e ∈
      s.sbn.arrived, { e.2 with found := m.found } ≠ m) ∧ sbnCheck m = m.ecrc ∧ (jobLoaded s = false ∨ m.job ≠ s.job.id)) :=
  ⟨⟨netS, msgOf 0x0B 1 0 0 [], .token (msgOf 0x0B 1 0 0 []), by decide +kernel⟩,
   ⟨withFlds netS [(SBN_ID_PART,0,0,5)], msgOf 9 1 0 0 [], by decide +kernel⟩,
   ⟨netS, msgOf 1 1 0x4000 0 [1,2], by decide +kernel⟩,
   ⟨netS, msgOf 1 1 (2^39) 0 [1,2], by decide +kernel⟩,
   ⟨netS, msgOf 2 0 0x4000 7904 [], by decide +kernel⟩,
   ⟨{netS with sbn:={netS.sbn with reads:=[⟨5,0,0x4000,1⟩]}}, msgOf 3 1 0 0 [1], ⟨5,0,0x4000,1⟩, by decide +kernel⟩,
   ⟨netS, msgOf 3 1 0 0 [1], .readData (msgOf 3 1 0 0 [1]), by decide +kernel⟩,
   ⟨netS, msgOf 4 0 0 0 (leBytes 32 1), by decide +kernel⟩,
   ⟨netS, {msgOf 0x0B 1 0 0 [] with ecrc:=1}, .token {msgOf 0x0B 1 0 0 [] with ecrc:=1}, by decide +kernel⟩,
   ⟨withFlds netS [(RST_STATUS_JOB_STATE,0,0,0)], msgOf 0x0B 1 0 0 [], .token (msgOf 0x0B 1 0 0 []), by decide +kernel⟩⟩

theorem witness_MessagesHaveTheirEffect_2 :
    (∃ (s : State) (m : SbnMsg) (c : Instr),
      (c, m.op) ∈ messageCommands m ∧ (m.op = 0x09 → m.src.val ≠ partId s) ∧ m.dst.val = partId s ∧ sbnCheck m = m.ecrc
      ∧ jobLoaded s = true ∧ m.job = s.job.id ∧ chanOf m = 4 ∧ noticeOp m.op = false ∧ (∀ e ∈ s.sbn.arrived, { e.2 with
      found := m.found } ≠ m)) ∧
    (∃ (s : State) (m : SbnMsg),
      m.op = 0x30 ∧ messagePasses s m) :=
  ⟨⟨netS, msgOf 0x0B 4 0 0 [], .token (msgOf 0x0B 4 0 0 []), by decide +kernel⟩,
   ⟨linkS 0 0, msgOf 0x30 5 0 1 [], by decide +kernel⟩⟩

theorem witness_CollectivesStartInOrder :
    (∃ (s : State) (i : TileIns) (task : WinTask) (j : Nat),
      let id := bitsOf 8 8 i.word.toNat
      unitRuns s i 0x60 task ∧ cstartOk s i.word = true ∧ (∀ c ∈ s.sbn.colls, c.active = true) ∧ s.sbn.pool = [] ∧
      s.sbn.colls.length < 32 ∧ (∀ c ∈ s.sbn.colls, c.id ≠ id) ∧ collPlace s id = some (j + 1)) ∧
    (∃ (s : State) (i : TileIns) (task : WinTask),
      unitRuns s i 0x60 task ∧ cstartOk s i.word = true ∧ (∀ c ∈ s.sbn.colls, c.active = true) ∧ s.sbn.pool = [] ∧ 32 ≤
      s.sbn.colls.length) ∧
    (∃ (s : State) (i : TileIns) (task : WinTask),
      unitRuns s i 0x60 task ∧ cstartOk s i.word = false) ∧
    (∃ (s : State) (id : Fin 256) (c : CollS) (p : Nat),
      jobLive s = true ∧ c ∈ s.sbn.colls ∧ c.id = id.val ∧ c.armed = some p ∧ p + c.length = pane s) ∧
    (∃ (s : State) (id : Fin 256),
      ∀ c ∈ s.sbn.colls, c.id = id.val → ∀ p, c.armed = some p → p + c.length ≠ pane s) :=
  ⟨⟨collS 31, insOf [(0,0x60),(8,5)], unitT, 0, by decide +kernel⟩,
   ⟨collS 32, insOf [(0,0x60),(8,5)], unitT, by decide +kernel⟩,
   ⟨collS 0, insOf [(0,0x60),(8,6)], unitT, by decide +kernel⟩,
   ⟨collS 1, 100, {id:=100,active:=true,armed:=some 90,length:=10}, 90, by decide +kernel⟩,
   ⟨withFlds (collS 1) [(PANE_COUNT_COUNT,0,0,99)], 100, by decide +kernel⟩⟩

theorem witness_EthernetPortsCarryFrames_1 :
    (∃ (s : State) (p : Fin 2),
      fld s ETH_PORT_UP 0 p.val = 1) ∧
    (∃ (s : State) (p : Fin 2),
      fld s ETH_PORT_UP 0 p.val = 0) ∧
    (∃ (s : State) (p : Fin 2),
      fld s ETH_PORT_TRAINING 0 p.val = 1 ∧ fld s (ethEn p.val) = 1) ∧
    (∃ (s : State) (p : Fin 2),
      fld s ETH_PORT_TRAINING 0 p.val = 0 ∨ fld s (ethEn p.val) = 0) ∧
    (∃ (s : State) (p : Fin 2) (n : Nat) (f : Frame),
      fld s ETH_PORT_UP 0 p.val = 1 ∧ s.eth.paused = [] ∧ 9216 < n ∧ f.whole = true) ∧
    (∃ (s : State) (p : Fin 2) (n : Nat) (f : Frame),
      fld s ETH_PORT_UP 0 p.val = 1 ∧ s.eth.paused = [] ∧ n ≤ 9216 ∧ f = .other) ∧
    (∃ (s : State) (p : Fin 2) (n : Nat) (f : Frame) (a : _),
      fld s ETH_PORT_UP 0 p.val = 1 ∧ s.eth.paused = [] ∧ n ≤ 9216 ∧ (f = .arp a ∨ f = .echo a false) ∧ ownV4 s p.val a
      = true) ∧
    (∃ (s : State) (p : Fin 2) (n : Nat) (f : Frame) (a : _),
      fld s ETH_PORT_UP 0 p.val = 1 ∧ s.eth.paused = [] ∧ n ≤ 9216 ∧ (f = .neighbour a ∨ f = .echo a true) ∧ ownV6 s
      p.val a = true) ∧
    (∃ (s : State) (p : Fin 2) (n : Nat) (f : Frame) (a : _),
      fld s ETH_PORT_UP 0 p.val = 1 ∧ s.eth.paused = [] ∧ n ≤ 9216 ∧ (((f = .arp a ∨ f = .echo a false) ∧ ownV4 s p.val
      a = false) ∨ ((f = .neighbour a ∨ f = .echo a true) ∧ ownV6 s p.val a = false))) ∧
    (∃ (s : State) (p : Fin 2) (f : Frame),
      fld s ETH_PORT_UP 0 p.val = 1 ∧ s.eth.paused = [] ∧ f = .badFcs) :=
  ⟨⟨netS, 1, by decide +kernel⟩,
   ⟨base, 1, by decide +kernel⟩,
   ⟨withFlds netS [(ETH_PORT_UP,0,1,0),(ETH_PORT_TRAINING,0,1,1)], 1, by decide +kernel⟩,
   ⟨base, 1, by decide +kernel⟩,
   ⟨netS, 1, 9217, .other, by decide +kernel⟩,
   ⟨netS, 1, 9216, .other, by decide +kernel⟩,
   ⟨netS, 1, 9216, .arp 0x0A000001, 0x0A000001, by decide +kernel⟩,
   ⟨netS, 1, 9216, .echo (linkLocal netS 1) true, linkLocal netS 1, by decide +kernel⟩,
   ⟨netS, 1, 9216, .arp 5, 5, by decide +kernel⟩,
   ⟨netS, 1, .badFcs, by decide +kernel⟩⟩

theorem witness_EthernetPortsCarryFrames_2 :
    (∃ (s : State) (p : Fin 2) (f : Frame) (c : _) (b : _),
      fld s ETH_PORT_UP 0 p.val = 1 ∧ s.eth.paused = [] ∧ f = .codewords c b) ∧
    (∃ (s : State) (p : Fin 2) (n : Nat) (f : Frame) (q : _) (op : _),
      fld s ETH_PORT_UP 0 p.val = 1 ∧ s.eth.paused = [] ∧ n ≤ 9216 ∧ f = .roce (0x100 + q) op true false ∧ q < 256 ∧
      qpUp s q = true ∧ fld s ETH_QP_PORT 0 q = p.val ∧ btHas op = true ∧ (8 ≤ q ∨ btRdma op = false)) :=
  ⟨⟨netS, 1, .codewords 1024 3, 1024, 3, by decide +kernel⟩,
   ⟨netS, 1, 9216, .roce 0x1FF 0x0A true false, 255, 0x0A, by decide +kernel⟩⟩

theorem witness_PairsConnectPauseAndSlow_1 :
    (∃ (s : State) (p : Fin 2) (e : Fin 8),
      fld s ETH_PORT_UP 0 p.val = 1 ∧ e.val / 4 = p.val ∧ qpUp s e.val = false) ∧
    (∃ (s : State) (p : Fin 2) (e : Fin 8),
      fld s ETH_PORT_UP 0 p.val = 0 ∨ e.val / 4 ≠ p.val ∨ qpUp s e.val = true) ∧
    (∃ (s : State) (e : Fin 8),
      fld s ETH_QP_STATE 0 e.val = 2) ∧
    (∃ (s : State) (e : Fin 8),
      fld s ETH_QP_STATE 0 e.val ≠ 2) ∧
    (∃ (s : State) (e : Fin 8),
      fld s ETH_QP_STATE 0 e.val ≠ 0) ∧
    (∃ (s : State) (e : Fin 8),
      fld s ETH_QP_STATE 0 e.val = 0) ∧
    (∃ (s : State) (p : Fin 2) (prio : Fin 8),
      fld s ETH_PORT_UP 0 p.val = 1 ∧ prio.val = fld s ETH_CFG_PRIO) ∧
    (∃ (s : State) (prio : Fin 8),
      prio.val ≠ fld s ETH_CFG_PRIO ∧ s.eth.paused = []) ∧
    (∃ (s : State) (p : Fin 2) (us : Nat) (since : Nat) (ends : Nat),
      s.eth.paused = [(p.val, since, ends)] ∧ us < ends ∧ since + fld s ETH_PFC_STORM * 1000 ≤ us ∧ p.val ∉ s.eth.storm) ∧
    (∃ (s : State) (p : Fin 2) (us : Nat) (since : Nat) (ends : Nat),
      s.eth.paused = [(p.val, since, ends)] ∧ us < ends ∧ (us < since + fld s ETH_PFC_STORM * 1000 ∨ p.val ∈
      s.eth.storm)) :=
  ⟨⟨netS, 1, 7, by decide +kernel⟩,
   ⟨netS, 1, 4, by decide +kernel⟩,
   ⟨withFlds netS [(ETH_QP_STATE,0,7,2)], 7, by decide +kernel⟩,
   ⟨netS, 4, by decide +kernel⟩,
   ⟨netS, 4, by decide +kernel⟩,
   ⟨netS, 7, by decide +kernel⟩,
   ⟨netS, 1, 3, by decide +kernel⟩,
   ⟨netS, 4, by decide +kernel⟩,
   ⟨pausedS [], 1, 100100, 100, 200000, by decide +kernel⟩,
   ⟨pausedS [1], 1, 100100, 100, 200000, by decide +kernel⟩⟩

theorem witness_PairsConnectPauseAndSlow_2 :
    (∃ (s : State) (q : Nat),
      8 ≤ q ∧ q < 256 ∧ qpUp s q = true ∧ fld s ETH_CC_EN = 1) ∧
    (∃ (s : State) (q : Nat),
      8 ≤ q ∧ q < 256 ∧ qpUp s q = true) :=
  ⟨⟨netS, 255, by decide +kernel⟩,
   ⟨netS, 255, by decide +kernel⟩⟩

theorem witness_RdmaGoesThroughWindows :
    (∃ (s : State) (r : Rdma),
      let e := fld s ETH_QP_RECV_PSN 0 r.qp
      8 ≤ r.qp ∧ r.qp < 256 ∧ qpUp s r.qp = true ∧ r.psn = e ∧ rdmaRefused s true r.rkey r.addr r.data.length = none ∧
      s.bad = [] ∧ s.weak = []) ∧
    (∃ (s : State) (r : Rdma) (why : _),
      let e := fld s ETH_QP_RECV_PSN 0 r.qp
      8 ≤ r.qp ∧ r.qp < 256 ∧ qpUp s r.qp = true ∧ r.psn = e ∧ rdmaRefused s true r.rkey r.addr r.data.length = some why) ∧
    (∃ (s : State) (r : Rdma),
      let e := fld s ETH_QP_RECV_PSN 0 r.qp
      8 ≤ r.qp ∧ r.qp < 256 ∧ qpUp s r.qp = true ∧ r.psn ≠ e) ∧
    (∃ (s : State) (r : Rdma),
      let e := fld s ETH_QP_RECV_PSN 0 r.qp
      8 ≤ r.qp ∧ r.qp < 256 ∧ qpUp s r.qp = true ∧ r.psn = e ∧ rdmaRefused s false r.rkey r.addr r.len = none ∧ s.bad =
      [] ∧ s.weak = [] ∧ r.found = {}) ∧
    (∃ (s : State) (r : Rdma) (why : _),
      let e := fld s ETH_QP_RECV_PSN 0 r.qp
      8 ≤ r.qp ∧ r.qp < 256 ∧ qpUp s r.qp = true ∧ r.psn = e ∧ rdmaRefused s false r.rkey r.addr r.len = some why) ∧
    (∃ (s : State) (q : Nat) (psn : Nat) (addr : Nat) (data : List Byte),
      q < 256 ∧ qpUp s q = true ∧ (psn, addr, data.length) ∈ (qpS s q).reads ∧ rdmaReach addr data.length = true ∧ s.bad
      = [] ∧ s.weak = []) :=
  ⟨⟨netS, {qp:=255,psn:=0,packets:=1,rkey:=0x3F01,addr:=0x10FFE,len:=2,data:=[1,2]}, by decide +kernel⟩,
   ⟨netS, {qp:=255,psn:=0,packets:=1,rkey:=0x3F01,addr:=0x10FFF,len:=2,data:=[1,2]}, 0, by decide +kernel⟩,
   ⟨netS, {qp:=255,psn:=1,packets:=1,rkey:=0x3F01,addr:=0x10FFF,len:=2,data:=[1,2]}, by decide +kernel⟩,
   ⟨netS, {qp:=255,psn:=0,packets:=1,rkey:=0x3F01,addr:=0x10000,len:=4096}, by decide +kernel⟩,
   ⟨netS, {qp:=255,psn:=0,packets:=1,rkey:=0x3F01,addr:=0x10000,len:=4097}, 0, by decide +kernel⟩,
   ⟨setQp netS 255 {reads:=[(5,0x20000,2)]}, 255, 5, 0x20000, [1,2], by decide +kernel⟩⟩

theorem witness_QueuePairsRetry :
    (∃ (s : State) (q : Nat),
      q < 256 ∧ qpUp s q = true) ∧
    (∃ (s : State) (q : Nat) (psn : Nat),
      let l := (qpS s q).unacked.filter (fun e => !ackedBy ((psn + 2 ^ 24 - 1) % 2 ^ 24) e)
      q < 256 ∧ qpUp s q = true ∧ (qpS s q).retries < 7 ∧ kGet? s.eth.paused (fld s ETH_QP_PORT 0 q) = none ∧ l ≠ []) ∧
    (∃ (s : State) (q : Nat),
      q < 256 ∧ qpUp s q = true ∧ (qpS s q).unacked ≠ [] ∧ kGet? s.eth.paused (fld s ETH_QP_PORT 0 q) = none ∧ (qpS s
      q).retries < 7) ∧
    (∃ (s : State) (q : Nat),
      q < 256 ∧ qpUp s q = true ∧ (qpS s q).unacked ≠ [] ∧ kGet? s.eth.paused (fld s ETH_QP_PORT 0 q) = none ∧ 7 ≤ (qpS
      s q).retries ∧ 8 ≤ q ∧ jobLive s = true) ∧
    (∃ (s : State) (q : Nat),
      q < 256 ∧ qpUp s q = true ∧ (qpS s q).unacked ≠ [] ∧ kGet? s.eth.paused (fld s ETH_QP_PORT 0 q) = none ∧ 7 ≤ (qpS
      s q).retries ∧ q < 8) ∧
    (∃ (s : State) (q : Nat),
      q < 256 ∧ qpUp s q = true ∧ (qpS s q).rnrWait = true ∧ kGet? s.eth.paused (fld s ETH_QP_PORT 0 q) = none ∧ (qpS s
      q).rnr < 7) ∧
    (∃ (s : State) (q : Nat),
      q < 256 ∧ qpUp s q = true ∧ (qpS s q).rnrWait = true ∧ kGet? s.eth.paused (fld s ETH_QP_PORT 0 q) = none ∧ 7 ≤
      (qpS s q).rnr ∧ q < 8) ∧
    (∃ (s : State) (q : Nat),
      256 ≤ q ∨ qpUp s q = false ∨ (qpS s q).unacked = []) :=
  ⟨⟨sentS 255 3 0 false, 255, by decide +kernel⟩,
   ⟨sentS 255 3 0 false, 255, 5, by decide +kernel⟩,
   ⟨sentS 255 6 0 false, 255, by decide +kernel⟩,
   ⟨sentS 255 7 0 false, 255, by decide +kernel⟩,
   ⟨sentS 4 7 0 false, 4, by decide +kernel⟩,
   ⟨sentS 255 0 6 true, 255, by decide +kernel⟩,
   ⟨sentS 4 0 7 true, 4, by decide +kernel⟩,
   ⟨netS, 256, by decide +kernel⟩⟩

theorem witness_BoardStageData :
    (∃ (s : State) (q : Nat) (psn : Nat),
      8 ≤ q ∧ q < 256 ∧ qpUp s q = true ∧ psn = fld s ETH_QP_RECV_PSN 0 q ∧ jobLive s = false) ∧
    (∃ (s : State) (q : Nat) (psn : Nat) (imm : Nat),
      let id := imm % 256
      8 ≤ q ∧ q < 256 ∧ qpUp s q = true ∧ psn = fld s ETH_QP_RECV_PSN 0 q ∧ jobLive s = true ∧ imm = collArg s id ∧
      (kGet? s.job.colls id).isSome = true ∧ collOf s id = none) ∧
    (∃ (s : State) (q : Nat) (psn : Nat) (imm : Nat),
      let id := imm % 256
      8 ≤ q ∧ q < 256 ∧ qpUp s q = true ∧ psn = fld s ETH_QP_RECV_PSN 0 q ∧ jobLive s = true ∧ imm ≠ collArg s id) ∧
    (∃ (s : State) (q : Nat) (psn : Nat) (imm : Nat) (data : List Byte) (c : _),
      let id := imm % 256
      8 ≤ q ∧ q < 256 ∧ qpUp s q = true ∧ psn = fld s ETH_QP_RECV_PSN 0 q ∧ jobLive s = true ∧ imm = collArg s id ∧
      (kGet? s.job.colls id).isSome = true ∧ collOf s id = some c ∧ 4 * c.boardIn.length + data.length ≤ 2097152) :=
  ⟨⟨withFlds netS [(RST_STATUS_JOB_STATE,0,0,0)], 255, 0, by decide +kernel⟩,
   ⟨collS 0, 255, 0, collArg (collS 0) 5, by decide +kernel⟩,
   ⟨collS 0, 255, 0, 5, by decide +kernel⟩,
   ⟨boardS, 255, 0, collArg (collS 0) 5, [1,2,3,4], {id:=5,active:=true}, by decide +kernel⟩⟩

theorem witness_RequestsAreCheckedFirst :
    (∃ (c : Instr) (r : Req) (op : Nat) (ext : Bool) (s : State) (d : _),
      requestForm c = some (r, op, ext) ∧ taken s r ∧ waitsForBank s c = false ∧ dupOf s r = some d) ∧
    (∃ (c : Instr) (r : Req) (op : Nat) (ext : Bool) (s : State) (st : _),
      requestForm c = some (r, op, ext) ∧ taken s r ∧ waitsForBank s c = false ∧ dupOf s r = none ∧ requestCheck s r op
      ext = some st) :=
  ⟨⟨.getState hostR, hostR, 0x0103, false, {netS with mgmt:={netS.mgmt with dups:=[⟨.host,0,1,0⟩]}}, ⟨.host,0,1,0⟩, by decide +kernel⟩,
   ⟨.jobStart hostR 1, hostR, 0x0202, false, atJob 0, 0x30, by decide +kernel⟩⟩

theorem witness_StatusIsRead_1 :
    (∃ (s : State) (r : Req),
      serves s r 0x0204 ∧ jobLoaded s = true) ∧
    (∃ (s : State) (r : Req),
      serves s r 0x0204 ∧ jobLoaded s = false) ∧
    (∃ (s : State) (r : Req) (set : _),
      set < 256 ∧ serves s r 0x0501 (decide (128 ≤ set))) ∧
    (∃ (s : State) (r : Req) (table : _),
      table < 64 ∧ serves s r 0x0308) ∧
    (∃ (s : State) (r : Req),
      serves s r 0x0901) ∧
    (∃ (s : State) (r : Req) (index : _) (offset : _),
      index ≤ 2 ∧ serves s r 0x0702 ∧ (offset = 0 ∨ offset < (certBytes s index).length)) ∧
    (∃ (s : State) (r : Req) (offset : _),
      offset < 2 ^ 30 ∧ s.bad = [] ∧ s.weak = [] ∧ serves s r 0x0908) ∧
    (∃ (s : State) (r : Req) (a : _) (n : _),
      0 < n ∧ n ≤ 4096 ∧ a < 2 ^ 48 ∧ serves s r 0x0303 ∧ waitsForBank s (.memRead r ⟨a, {}⟩ n) = false ∧ memReadRefused
      s r.cls a n = none ∧ s.bad = [] ∧ s.weak = []) ∧
    (∃ (s : State) (r : Req) (a : _) (n : _) (st : _),
      0 < n ∧ n ≤ 4096 ∧ a < 2 ^ 48 ∧ serves s r 0x0303 ∧ waitsForBank s (.memRead r ⟨a, {}⟩ n) = false ∧ memReadRefused
      s r.cls a n = some st) ∧
    (∃ (s : State) (r : Req) (a : _) (n : _),
      0 < n ∧ n ≤ 4096 ∧ a < dramTop ∧ serves s r 0x0303 ∧ memReadRefused s r.cls a n = none ∧ jobLive s = false ∧
      (firstBad s (granules a n)).isSome = true ∧ s.weak = []) :=
  ⟨⟨netS, hostR, by decide +kernel⟩,
   ⟨atJob 0, {hostR with job:=0}, by decide +kernel⟩,
   ⟨netS, hostR, 0, by decide +kernel⟩,
   ⟨netS, hostR, 63, by decide +kernel⟩,
   ⟨netS, hostR, by decide +kernel⟩,
   ⟨netS, hostR, 2, 0, by decide +kernel⟩,
   ⟨netS, hostR, 2^30-1, by decide +kernel⟩,
   ⟨netS, hostR, 0x10000, 16, by decide +kernel⟩,
   ⟨netS, hostR, 2^39-16, 4096, 0x61, by decide +kernel⟩,
   ⟨{atJob 0 with bad:=[256]}, {hostR with job:=0}, 0x4000, 64, by decide +kernel⟩⟩

theorem witness_StatusIsRead_2 :
    (∃ (s : State) (r : Req) (addrs : List Nat),
      addrs.length ≤ 255 ∧ (∀ a ∈ addrs, a % 8 = 0 ∧ a < 2 ^ 48 ∧ (readEntry s a).isSome = true) ∧ serves s r 0x0301 ∧
      waitsForBank s (.regRead r (addrs.map (fun a => ⟨a, {}⟩))) = false ∧ (r.cls = .debug → ∀ a ∈ addrs, tileWindow a =
      none)) ∧
    (serves netS hostR 0x0103) :=
  ⟨⟨netS, hostR, [PANE_COUNT.at 0 0,tileBase 95 + 0x81FFF8], by decide +kernel⟩,
   by decide +kernel⟩

theorem witness_RegistersAreWritten :
    (∃ (s : State) (c : Cls) (a : Nat) (w : BitVec 64),
      plainWord s c a w.toNat) ∧
    (∃ (s : State) (r : Req) (a : BitVec 64) (w : BitVec 64),
      plainWord s r.cls a.toNat w.toNat ∧ a.toNat < 2 ^ 48 ∧ serves s r 0x0302 ∧ (r.cls = .host → ETH_QP.at 0 r.qp ∉
      wordRegs s a.toNat)) ∧
    (∃ (s : State) (c : Cls) (v : BitVec 32),
      2 ≤ power s ∧ classRefuses s c .pane false = none ∧ (jobLoaded s = false ∨ v.toNat % 4 = fld s PANE_CFG_LEN)) ∧
    (∃ (s : State) (v : BitVec 32),
      jobLoaded s = true ∧ v.toNat % 4 ≠ fld s PANE_CFG_LEN) ∧
    (∃ (s : State) (c : Cls),
      2 ≤ power s ∧ classRefuses s c .sbn false = none ∧ jobLoaded s = false) ∧
    (∃ (s : State) (c : Cls) (v : BitVec 32) (n : Fin 16) (w : BitVec 64) (i : Instr),
      jobLoaded s = true ∧ i ∈ [Instr.sbnIdWrite c v, .sbnRouteWrite c n w]) ∧
    (∃ (s : State) (c : Cls) (a : Nat) (k : Nat) (o : Nat),
      tileMemory s a = some (k, o) ∧ o < 0x820000 ∧ a % 8 = 0 ∧ classRefuses s c .tile false = none ∧ bankBusy s a 8 =
      false) ∧
    (∃ (s : State) (c : Cls) (a : Nat) (k : Nat) (o : Nat),
      tileMemory s a = some (k, o) ∧ o < 0x820000 ∧ a % 8 = 0 ∧ classRefuses s c .tile false = none ∧ bankBusy s a 8 =
      true) :=
  ⟨⟨netS, .host, PANE_HORIZON.at 0 0, 5, by decide +kernel⟩,
   ⟨netS, hostR, BitVec.ofNat 64 (PANE_HORIZON.at 0 0), 5, by decide +kernel⟩,
   ⟨netS, .host, 0x101, by decide +kernel⟩,
   ⟨netS, 2, by decide +kernel⟩,
   ⟨atJob 0, .host, by decide +kernel⟩,
   ⟨netS, .host, 5, 15, 5, .sbnIdWrite .host 5, by decide +kernel⟩,
   ⟨netS, .host, tileBase 95 + 0x81FFF8, 95, 0x81FFF8, by decide +kernel⟩,
   ⟨runAt netS 95 unitT, .host, tileBase 95 + 0x81FFF8, 95, 0x81FFF8, by decide +kernel⟩⟩

theorem witness_JobsLoadStartAndStop_1 :
    (∃ (s : State) (r : Req) (a : Nat) (n : Nat) (d : BitVec 256) (x : JobExtra),
      serves s r 0x0201 ∧ 2 ≤ power s ∧ power s < 5 ∧ jobState s = 0 ∧ (wicketAddr a n = true ∨ (fld s
      RST_STATUS_SERVICE = 2 ∧ a + n ≤ retainedBase ∧ firstBad s (granules a n) = none ∧ s.weak = [])) ∧ shaNat (load s
      a n) = d.toNat ∧ 4 ≤ n ∧ imgHead s a 0 4 = 0x49564E52 ∧ imageFail (inService s r) (wicketAddr a n) a n x = none) ∧
    (∃ (s : State) (r : Req) (a : Nat) (n : Nat) (d : BitVec 256),
      serves s r 0x0201 ∧ 2 ≤ power s ∧ power s < 5 ∧ jobState s = 0 ∧ (wicketAddr a n = true ∨ (fld s
      RST_STATUS_SERVICE = 2 ∧ a + n ≤ retainedBase ∧ firstBad s (granules a n) = none ∧ s.weak = [])) ∧ shaNat (load s
      a n) ≠ d.toNat) ∧
    (∃ (s : State) (r : Req),
      serves s r 0x0201 ∧ 2 ≤ power s ∧ power s < 5 ∧ jobLoaded s = true) ∧
    (∃ (s : State) (r : Req),
      serves s r 0x0202 ∧ jobState s = 1) ∧
    (∃ (s : State) (r : Req),
      serves s r 0x0202 ∧ jobState s ≠ 1) ∧
    (∃ (s : State) (s0 : Nat) (p : Nat),
      s.job.startPending = some (s0, p) ∧ jobState s = 2 ∧ p < pane s) ∧
    (∃ (s : State) (s0 : Nat) (p : Nat),
      s.job.startPending = some (s0, p) ∧ jobState s = 2 ∧ pane s ≤ p) ∧
    (∃ (s : State) (r : Req),
      serves s r 0x0203 ∧ 1 ≤ jobState s ∧ jobState s ≤ 3) ∧
    (∃ (s : State) (r : Req),
      serves s r 0x0203 ∧ s.step.open_ = false ∧ jobState s = 2 ∧ s.job.wicket = false) ∧
    (∃ (s : State),
      jobState s = 2 ∧ s.job.wicket = true ∧ s.job.startPending = none ∧ fld s RST_STATUS_WICKET_DONE = 0 ∧ tasksLeft s
      0 (fun _ => true) = false) :=
  ⟨⟨wicketS, {hostR with job:=0}, tileBase 0, 64, BitVec.ofNat 256 (shaNat (load wicketS (tileBase 0) 64)), {}, by decide +kernel⟩,
   ⟨wicketS, {hostR with job:=0}, tileBase 0, 64, 5, by decide +kernel⟩,
   ⟨netS, hostR, by decide +kernel⟩,
   ⟨atJob 1, hostR, by decide +kernel⟩,
   ⟨netS, hostR, by decide +kernel⟩,
   ⟨startS 99, 1, 99, by decide +kernel⟩,
   ⟨startS 100, 1, 100, by decide +kernel⟩,
   ⟨atJob 3, hostR, by decide +kernel⟩,
   ⟨netS, hostR, by decide +kernel⟩,
   ⟨wickS, by decide +kernel⟩⟩

theorem witness_JobsLoadStartAndStop_2 :
    (∃ (s : State),
      jobState s = 2 ∧ s.job.wicket = true ∧ s.job.startPending = none ∧ fld s RST_STATUS_WICKET_DONE = 0 ∧ tasksLeft s
      0 (fun _ => true) = true) ∧
    (∃ (s : State) (r : Req) (mode : Nat),
      serves s r 0x0203 ∧ (mode = 0 ∨ (mode = 2 ∧ s.step.open_ = true)) ∧ jobState s = 2 ∧ s.job.wicket = false) :=
  ⟨⟨{wickS with job:={wickS.job with tables:=[(3,[0x3000])]}}, by decide +kernel⟩,
   ⟨netS, hostR, 0, by decide +kernel⟩⟩

theorem witness_WindowsAndPairsAreMade_1 :
    (∃ (s : State) (r : Req) (base : Nat) (len : Nat) (perms : Nat) (w : _),
      serves s r 0x0304 ∧ 0 < len ∧ len < 2 ^ 40 ∧ perms < 4 ∧ base < 2 ^ 48 ∧ windowReach s base len = true ∧
      (List.range 64).find? (fun w => fld s ETH_WIN_LENGTH 0 w == 0) = some w) ∧
    (∃ (s : State) (r : Req) (base : Nat) (len : Nat) (perms : Nat),
      serves s r 0x0304 ∧ 0 < len ∧ len < 2 ^ 40 ∧ perms < 4 ∧ base < 2 ^ 48 ∧ windowReach s base len = true ∧ (∀ w, w <
      64 → fld s ETH_WIN_LENGTH 0 w ≠ 0)) ∧
    (∃ (s : State) (r : Req) (base : Nat) (len : Nat) (perms : Nat),
      serves s r 0x0304 ∧ 0 < len ∧ len < 2 ^ 40 ∧ perms < 4 ∧ base < 2 ^ 48 ∧ windowReach s base len = false) ∧
    (∃ (s : State) (r : Req) (rkey : Nat) (w : _),
      serves s r 0x0305 ∧ windowIx s rkey = some w) ∧
    (∃ (s : State) (r : Req) (rkey : Nat),
      serves s r 0x0305 ∧ windowIx s rkey = none) ∧
    (∃ (s : State) (r : Req) (port : Nat) (q : Nat),
      serves s r 0x0A01 ∧ port < 2 ∧ 8 ≤ q ∧ q < 256 ∧ fld s ETH_QP_STATE 0 q = 0 ∧ (∀ p, 8 ≤ p → p < q → fld s
      ETH_QP_STATE 0 p ≠ 0)) ∧
    (∃ (s : State) (r : Req) (q : Nat) (qpn : Nat) (sp : Nat) (rp : Nat) (tmo : Nat),
      serves s r 0x0A02 ∧ 8 ≤ q ∧ q < 256 ∧ qpn < 2 ^ 24 ∧ sp < 2 ^ 24 ∧ rp < 2 ^ 24 ∧ 6 ≤ tmo ∧ tmo ≤ 21 ∧ fld s
      ETH_QP_STATE 0 q = 1) ∧
    (∃ (s : State) (r : Req) (q : Nat) (qpn : Nat) (sp : Nat) (rp : Nat) (tmo : Nat),
      serves s r 0x0A02 ∧ 8 ≤ q ∧ q < 256 ∧ qpn < 2 ^ 24 ∧ sp < 2 ^ 24 ∧ rp < 2 ^ 24 ∧ 6 ≤ tmo ∧ tmo ≤ 21 ∧ fld s
      ETH_QP_STATE 0 q ≠ 1) ∧
    (∃ (s : State) (r : Req) (q : Nat),
      serves s r 0x0A03 ∧ 8 ≤ q ∧ q < 256 ∧ fld s ETH_QP_STATE 0 q ≠ 0) ∧
    (∃ (s : State) (r : Req) (q : Nat),
      serves s r 0x0A03 ∧ 8 ≤ q ∧ q < 256 ∧ fld s ETH_QP_STATE 0 q = 0) :=
  ⟨⟨netS, hostR, 2^39-2^31-4096, 4096, 3, 0, by decide +kernel⟩,
   ⟨netW ((List.range 64).map (fun w => (ETH_WIN_LENGTH,0,w,1))), hostR, 0, 1, 3, by decide +kernel⟩,
   ⟨netS, hostR, 2^39, 1, 3, by decide +kernel⟩,
   ⟨netS, hostR, 0x3F01, 63, by decide +kernel⟩,
   ⟨netS, hostR, 0x3F02, by decide +kernel⟩,
   ⟨netS, hostR, 1, 8, by decide +kernel, by decide +kernel, by decide +kernel, by decide +kernel, by decide +kernel, fun p h1 h2 => absurd h2 (Nat.not_lt.mpr h1)⟩,
   ⟨netW [(ETH_QP_STATE,0,255,1)], hostR, 255, 2^24-1, 0, 1, 21, by decide +kernel⟩,
   ⟨netS, hostR, 255, 2^24-1, 0, 1, 6, by decide +kernel⟩,
   ⟨netS, hostR, 255, by decide +kernel⟩,
   ⟨netS, hostR, 8, by decide +kernel⟩⟩

theorem witness_WindowsAndPairsAreMade_2 :
    (∃ (s : State) (r : Req),
      serves s r 0x0A04) ∧
    (∃ (s : State) (r : Req),
      serves s r 0x0A05 ∧ jobLoaded s = false) ∧
    (∃ (s : State) (r : Req),
      serves s r 0x0A05 ∧ jobLoaded s = true) :=
  ⟨⟨netS, hostR, by decide +kernel⟩,
   ⟨atJob 0, {hostR with job:=0}, by decide +kernel⟩,
   ⟨netS, hostR, by decide +kernel⟩⟩

theorem witness_TablesAreStagedAndSet :
    (∃ (s : State) (r : Req) (k : Nat) (x : Nat) (d : BitVec 512),
      serves s r 0x0306 ∧ k < 8 ∧ x < 64 ∧ flipNames s x = true ∧ descReserved.all (fun f => bitsOf f.1 f.2 d.toNat ==
      0) = true) ∧
    (∃ (s : State) (r : Req),
      serves s r 0x0307 ∧ fld s EMB_FLIP_PENDING = 1) ∧
    (∃ (s : State) (r : Req) (tables : BitVec 64) (step : BitVec 64),
      serves s r 0x0307 ∧ fld s EMB_FLIP_PENDING ≠ 1 ∧ (started s = true → stepAfter step.toNat s.step.takenStep = true)
      ∧ (∀ x, x < 64 → bitOf x tables.toNat = true → (∃ k, k < 8 ∧ staged s k x = true) ∧ ∀ k, k < 8 → tdValid (tdesc s
      k x) = true → staged s k x = true)) ∧
    (∃ (s : State) (r : Req) (x : Nat),
      x < 64 ∧ liveSomewhere s x = true ∧ serves s r 0x0309) ∧
    (∃ (s : State) (r : Req) (x : Nat) (up16 : Nat) (dn16 : Nat) (up8 : Nat) (dn8 : Nat),
      x < 64 ∧ liveSomewhere s x = true ∧ up16 < 256 ∧ dn16 < 256 ∧ up8 < 256 ∧ dn8 < 256 ∧ serves s r 0x030A) ∧
    (∃ (s : State) (r : Req) (x : Nat),
      x < 64 ∧ liveSomewhere s x = false ∧ serves s r 0x0309) ∧
    (∃ (s : State) (r : Req) (k : Nat) (x : Nat) (d : BitVec 512),
      let reserved := descReserved.any (fun f => bitsOf f.1 f.2 d.toNat != 0)
      serves s r 0x0306 ∧ k < 8 ∧ x < 64 ∧ flipNames s x = false ∧ reserved = true) ∧
    (∃ (s : State) (r : Req) (k : Nat) (x : Nat) (d : BitVec 512),
      let reserved := descReserved.any (fun f => bitsOf f.1 f.2 d.toNat != 0)
      let good := tdValid d.toNat = true ∧ bitsOf 0 6 d.toNat = x ∧ descOk s k d.toNat = true ∧
        (tdValid (tdesc s k x) = true → tdVersion d.toNat ≠ tdVersion (tdesc s k x))
      serves s r 0x0306 ∧ k < 8 ∧ x < 64 ∧ flipNames s x = false ∧ reserved = false ∧ good) ∧
    (∃ (s : State) (r : Req) (k : Nat) (x : Nat) (d : BitVec 512),
      let reserved := descReserved.any (fun f => bitsOf f.1 f.2 d.toNat != 0)
      let good := tdValid d.toNat = true ∧ bitsOf 0 6 d.toNat = x ∧ descOk s k d.toNat = true ∧
        (tdValid (tdesc s k x) = true → tdVersion d.toNat ≠ tdVersion (tdesc s k x))
      serves s r 0x0306 ∧ k < 8 ∧ x < 64 ∧ flipNames s x = false ∧ reserved = false ∧ ¬good) :=
  ⟨⟨netW [(EMB_FLIP_PENDING,0,0,1),(EMB_FLIP_TABLES,0,0,2^63)], hostR, 7, 63, 0, by decide +kernel⟩,
   ⟨netW [(EMB_FLIP_PENDING,0,0,1)], hostR, by decide +kernel⟩,
   ⟨setReg netS EMB_SDESC table0 0 0, hostR, 1, 5, by decide +kernel⟩,
   ⟨setReg netS EMB_TDESC table0 0 0, hostR, 0, by decide +kernel⟩,
   ⟨setReg netS EMB_TDESC table0 0 0, hostR, 0, 5, 6, 255, 255, by decide +kernel⟩,
   ⟨netS, hostR, 63, by decide +kernel⟩,
   ⟨netS, hostR, 0, 0, BitVec.ofNat 512 (table0 + 2 ^ 6), by decide +kernel⟩,
   ⟨netS, hostR, 0, 0, BitVec.ofNat 512 table0, by decide +kernel⟩,
   ⟨netS, hostR, 0, 1, BitVec.ofNat 512 table0, by decide +kernel⟩⟩

theorem witness_HaltedStepsGoOn :
    (∃ (s : State) (r : Req),
      serves s r 0x0402 ∧ jobState s = 3 ∧ s.step.replay = none ∧ (s.step.halt = 1 ∨ s.step.halt = 2)) ∧
    (∃ (s : State) (r : Req) (o : _),
      serves s r 0x0402 ∧ jobState s = 3 ∧ s.step.replay = none ∧ o < 2 ∧ s.step.halt = 2) ∧
    (∃ (s : State) (r : Req),
      serves s r 0x0402 ∧ jobState s = 3 ∧ s.step.replay = none ∧ s.step.halt = 1) ∧
    (∃ (s : State) (r : Req),
      serves s r 0x0402 ∧ jobState s = 3 ∧ s.step.replay = none ∧ s.step.halt = 1 ∧ s.bad = [] ∧ s.weak = []) ∧
    (∃ (s : State) (r : Req) (o : Nat),
      serves s r 0x0402 ∧ o ≤ 2 ∧ jobState s ≠ 3) ∧
    (∃ (s : State) (r : Req) (n : BitVec 64),
      serves s r 0x0403 ∧ jobState s = 3 ∧ s.step.replay = none ∧ s.step.committedStep = n.toNat ∧ fld s
      PANE_COMMIT_STATUS_UNDO_VALID = 1 ∧ s.bad = [] ∧ s.weak = []) ∧
    (∃ (s : State) (r : Req) (n : BitVec 64),
      serves s r 0x0403 ∧ jobState s = 3 ∧ s.step.replay = none ∧ (s.step.committedStep ≠ n.toNat ∨ fld s
      PANE_COMMIT_STATUS_UNDO_VALID = 0)) ∧
    (∃ (s : State) (r : Req) (n : BitVec 64) (mode : Nat),
      serves s r 0x0404 ∧ mode ≤ 1 ∧ jobState s = 3 ∧ s.step.replay = none ∧ s.bad = [] ∧ s.weak = [] ∧ ((s.step.halt =
      1 ∧ s.step.current = n.toNat) ∨ (s.step.halt = 3 ∧ s.step.undone = some n.toNat))) ∧
    (∃ (s : State) (r : Req) (mode : Nat),
      serves s r 0x0404 ∧ mode ≤ 1 ∧ jobState s = 3 ∧ s.step.replay = none ∧ (s.step.halt = 0 ∨ s.step.halt = 2)) :=
  ⟨⟨haltS 1, hostR, by decide +kernel⟩,
   ⟨haltS 2, hostR, 1, by decide +kernel⟩,
   ⟨haltS 1, hostR, by decide +kernel⟩,
   ⟨haltS 1, hostR, by decide +kernel⟩,
   ⟨netS, hostR, 2, by decide +kernel⟩,
   ⟨haltS 2, hostR, 1, by decide +kernel⟩,
   ⟨haltS 2, hostR, 2, by decide +kernel⟩,
   ⟨haltS 1, hostR, 1, 1, by decide +kernel⟩,
   ⟨haltS 2, hostR, 1, by decide +kernel⟩⟩

theorem witness_ContextsSaveAndRestore :
    (∃ (s : State) (r : Req),
      serves s r 0x0906 ∧ s.rst.saving = 0 ∧ s.bad = [] ∧ s.weak = [] ∧ (jobState s = 3 ∨ (jobState s = 2 ∧
      s.job.startPending = none ∧ s.job.wicket = false ∧ alone s = true))) ∧
    (∃ (s : State) (r : Req),
      serves s r 0x0906 ∧ jobState s ≠ 2 ∧ jobState s ≠ 3) ∧
    (∃ (s : State),
      Memory.wf s.mem = true ∧ s.rst.saving ≠ 0 ∧ quiet s = true) ∧
    (∃ (s : State),
      s.rst.saving = 0 ∨ quiet s = false) ∧
    (∃ (s : State) (r : Req),
      serves s r 0x0907 ∧ jobState s = 1 ∧ s.bad = [] ∧ s.weak = [] ∧ ctxMatches s = false) ∧
    (∃ (s : State) (p : Nat) (c : CtxS),
      Memory.wf s.mem = true ∧ s.rst.restoring = some p ∧ jobState s = 1 ∧ p < pane s ∧ (ctxField s 0xE0 32, c) ∈
      s.rst.contexts ∧ (∀ e ∈ s.rst.contexts, e.1 = ctxField s 0xE0 32 → e.2 = c)) ∧
    (∃ (s : State) (p : Nat),
      Memory.wf s.mem = true ∧ s.rst.restoring = some p ∧ jobState s = 1 ∧ pane s ≤ p) ∧
    (∃ (s : State) (r : Req) (o : Nat) (data : List Byte),
      serves s r 0x0909 ∧ data.length ≤ 4084 ∧ o + data.length ≤ 2 ^ 30 ∧ s.bad = [] ∧ s.weak = []) :=
  ⟨⟨atJob 3, hostR, by decide +kernel⟩,
   ⟨atJob 1, hostR, by decide +kernel⟩,
   ⟨{netS with rst:={netS.rst with saving:=1}}, by decide +kernel⟩,
   ⟨netS, by decide +kernel⟩,
   ⟨atJob 1, hostR, by decide +kernel⟩,
   ⟨restoreS 99, 99, ctx1, by decide +kernel⟩,
   ⟨restoreS 100, 100, by decide +kernel⟩,
   ⟨atJob 1, hostR, 2^30-2, [1,2], by decide +kernel⟩⟩

theorem witness_TrustIsEstablished_1 :
    (∃ (s : State) (r : Req),
      serves s r 0x0701) ∧
    (∃ (s : State) (r : Req) (nonce : BitVec 256) (rep : _) (o : _),
      serves s r 0x0701 ∧ s.sec.reports = [(clsNo r.cls, rep)] ∧ slice rep 0x10 32 = leBytes 32 nonce.toNat ∧ o < 17344) ∧
    (∃ (s : State) (r : Req),
      serves s r 0x0703 ∧ deadbolt s ≠ 0) ∧
    (∃ (s : State) (r : Req),
      serves s r 0x0703 ∧ deadbolt s = 0) ∧
    (∃ (s : State) (r : Req) (o : Nat) (bs : List Byte) (a : _),
      serves s r 0x0704 ∧ joinFragment s.sec.token r.cls r.qp o bs = some a ∧ a.bytes.length < 7984) ∧
    (∃ (s : State) (r : Req) (o : Nat) (bs : List Byte),
      serves s r 0x0704 ∧ joinFragment s.sec.token r.cls r.qp o bs = none) ∧
    (∃ (s : State) (r : Req),
      serves s r 0x0705 ∧ deadbolt s = 2) ∧
    (∃ (s : State) (r : Req),
      serves s r 0x0705 ∧ deadbolt s = 1) ∧
    (∃ (s : State) (r : Req) (o : Nat) (bs : List Byte) (a : _),
      serves s r 0x0706 ∧ jobState s = 0 ∧ joinFragment s.sec.auth r.cls r.qp o bs = some a ∧ a.bytes.length < 7984) ∧
    (∃ (s : State) (r : Req),
      serves s r 0x0706 ∧ jobState s ≠ 0) :=
  ⟨⟨netS, hostR, by decide +kernel⟩,
   ⟨{netS with sec:={netS.sec with reports:=[(0,List.replicate 64 0)]}}, hostR, 0, List.replicate 64 0, 17343, by decide +kernel⟩,
   ⟨boltS 1, debugR, by decide +kernel⟩,
   ⟨boltS 0, debugR, by decide +kernel⟩,
   ⟨boltS 1, debugR, 0, [5], ⟨.debug,0xFF,[5]⟩, by decide +kernel⟩,
   ⟨boltS 1, debugR, 1, [5], by decide +kernel⟩,
   ⟨boltS 2, platR, by decide +kernel⟩,
   ⟨boltS 1, platR, by decide +kernel⟩,
   ⟨atJob 0, hostR, 0, [5], ⟨.host,0,[5]⟩, by decide +kernel⟩,
   ⟨netS, hostR, by decide +kernel⟩⟩

theorem witness_TrustIsEstablished_2 :
    (∃ (s : State) (r : Req) (v : BitVec 32),
      serves s r 0x070A ∧ v.toNat < 8) ∧
    (∃ (s : State) (r : Req) (v : BitVec 32),
      serves s r 0x070A ∧ 8 ≤ v.toNat) :=
  ⟨⟨netS, platR, 7, by decide +kernel⟩,
   ⟨netS, platR, 8, by decide +kernel⟩⟩

theorem witness_UpdatesTracesAndDraughts_1 :
    (∃ (s : State) (r : Req) (n : Nat),
      serves s r 0x0707 ∧ n ≤ 2 ^ 24 ∧ (∀ f, s.sec.fw = some f → f.cls = r.cls)) ∧
    (∃ (s : State) (r : Req) (n : Nat),
      serves s r 0x0707 ∧ n ≤ 2 ^ 24 ∧ (∃ f, s.sec.fw = some f ∧ f.cls ≠ r.cls)) ∧
    (∃ (s : State) (r : Req) (f : FwSession) (o : Nat) (bs : List Byte),
      s.sec.fw = some f ∧ f.cls = r.cls ∧ serves s r 0x0708 ∧ bs.length ≤ 4088 ∧ o = f.bytes.length ∧ o + bs.length ≤
      f.size) ∧
    (∃ (s : State) (r : Req) (f : FwSession) (o : Nat),
      s.sec.fw = some f ∧ f.cls = r.cls ∧ serves s r 0x0708 ∧ o ≠ f.bytes.length) ∧
    (∃ (s : State) (r : Req) (f : FwSession),
      s.sec.fw = some f ∧ f.cls = r.cls ∧ serves s r 0x0709 ∧ imageOk s f = false) ∧
    (∃ (s : State) (f : _),
      s.sec.fw = some f ∧ s.sec.fwDone = true) ∧
    (∃ (s : State),
      s.sec.fw = none ∨ s.sec.fwDone = false) ∧
    (∃ (s : State) (r : Req),
      serves s r 0x0801) ∧
    (∃ (s : State) (r : Req),
      serves s r 0x0802) ∧
    (∃ (s : State) (r : Req) (o : Nat),
      serves s r 0x0803 ∧ o < 2 ^ 26 ∧ s.sec.traceHeld = true) :=
  ⟨⟨atJob 0, {platR with job:=0}, 2^24, by decide +kernel⟩,
   ⟨fwJ false, hostR, 2^24, by decide +kernel⟩,
   ⟨fwJ false, platR, ⟨.platform,4,0,[1,2]⟩, 2, [3,4], by decide +kernel⟩,
   ⟨fwJ false, platR, ⟨.platform,4,0,[1,2]⟩, 3, by decide +kernel⟩,
   ⟨fwJ false, platR, ⟨.platform,4,0,[1,2]⟩, by decide +kernel⟩,
   ⟨fwJ true, ⟨.platform,4,0,[1,2]⟩, by decide +kernel⟩,
   ⟨fwJ false, by decide +kernel⟩,
   ⟨openS, debugR, by decide +kernel⟩,
   ⟨openS, debugR, by decide +kernel⟩,
   ⟨{openS with sec:={openS.sec with traceHeld:=true}}, debugR, 0, by decide +kernel⟩⟩

theorem witness_UpdatesTracesAndDraughts_2 :
    (∃ (s : State) (r : Req) (o : Nat),
      serves s r 0x0803 ∧ o < 2 ^ 26 ∧ s.sec.traceHeld = false) ∧
    (∃ (s : State) (r : Req) (a : BitVec 64),
      let ps := (wordPieces a.toNat).filter (fun p => p.reg.block == .drt)
      serves s r 0x0804 ∧ a.toNat < 2 ^ 48 ∧ a.toNat % 8 = 0 ∧ ps ≠ [] ∧ (ps.map (fun p => p.reg.at p.k p.n)).Nodup) ∧
    (∃ (s : State) (r : Req) (a : BitVec 64),
      let ps := (wordPieces a.toNat).filter (fun p => p.reg.block == .drt)
      serves s r 0x0804 ∧ a.toNat < 2 ^ 48 ∧ a.toNat % 8 = 0 ∧ ps = []) ∧
    (∃ (s : State) (p : _),
      s.sec.drtPane = some p ∧ p < pane s) ∧
    (∃ (s : State) (p : _),
      s.sec.drtPane = some p ∧ pane s ≤ p) ∧
    (∃ (s : State),
      s.sec.drtPane = none) ∧
    (∃ (s : State) (r : Req),
      serves s r 0x0805) ∧
    (∃ (ms : Nat),
      10000 ≤ ms) ∧
    (∃ (ms : Nat),
      ms < 10000) :=
  ⟨⟨openS, debugR, 2^26-1, by decide +kernel⟩,
   ⟨openS, debugR, BitVec.ofNat 64 (DRT_STRETCH.at 0 0), by decide +kernel⟩,
   ⟨openS, debugR, 0, by decide +kernel⟩,
   ⟨{openS with sec:={openS.sec with drtPane:=some 99}}, 99, by decide +kernel⟩,
   ⟨{openS with sec:={openS.sec with drtPane:=some 100}}, 100, by decide +kernel⟩,
   ⟨openS, by decide +kernel⟩,
   ⟨openS, debugR, by decide +kernel⟩,
   ⟨10000, by decide +kernel⟩,
   ⟨9999, by decide +kernel⟩⟩

theorem witness_EventsAndLogs_1 :
    (∃ (s : State) (a : Arrival),
      clsReaches s a.cls a.qp = true ∧ fld s MBX_STATUS_FAILED = 0 ∧ fld s MBX_STATUS_IN_RESET = 0 ∧ fld s
      MBX_STATUS_READY = 1 ∧ s.rst.serviceRom = false ∧ queueLen s a.cls < queueDepth a.cls ∧ badArrival a = none ∧ (∀ b
      ∈ s.mgmt.queue, badArrival b = none)) ∧
    (∃ (s : State) (a : Arrival),
      clsReaches s a.cls a.qp = true ∧ fld s MBX_STATUS_FAILED = 0 ∧ fld s MBX_STATUS_IN_RESET = 0 ∧ fld s
      MBX_STATUS_READY = 1 ∧ s.rst.serviceRom = false ∧ queueDepth a.cls ≤ queueLen s a.cls) ∧
    (∃ (s : State) (a : Arrival) (st : _),
      clsReaches s a.cls a.qp = true ∧ fld s MBX_STATUS_FAILED = 0 ∧ fld s MBX_STATUS_IN_RESET = 0 ∧ fld s
      MBX_STATUS_READY = 1 ∧ s.rst.serviceRom = false ∧ s.mgmt.queue = [] ∧ badArrival a = some st) ∧
    (∃ (s : State) (a : Arrival),
      clsReaches s a.cls a.qp = true ∧ fld s MBX_STATUS_FAILED = 1) ∧
    (∃ (s : State) (e : EvRec) (l : List EvRec),
      fld s MBX_STATUS_READY = 1 ∧ s.rst.serviceRom = false ∧ s.mgmt.fifo = e :: l ∧ l.length ≤ 256 ∧ e.kind ≠ 0) ∧
    (∃ (s : State) (e : EvRec) (l : List EvRec) (ms : Nat),
      fld s MBX_STATUS_READY = 1 ∧ s.rst.serviceRom = false ∧ s.mgmt.fifo = e :: l ∧ l.length ≤ 256 ∧ e.kind = 0 ∧
      mayReport s ms e = true) ∧
    (∃ (s : State),
      s.mgmt.fifo = []) ∧
    (∃ (s : State) (r : Req) (q : Nat),
      serves s r 0x0503 ∧ q < 8) ∧
    (∃ (s : State) (r : Req) (q : Nat),
      serves s r 0x0503 ∧ q = 0xFF) ∧
    (∃ (s : State) (r : Req) (q : Nat),
      serves s r 0x0503 ∧ 8 ≤ q ∧ q ≠ 0xFF) :=
  ⟨⟨netS, arr1, by decide +kernel⟩,
   ⟨fullQ, arr1, by decide +kernel⟩,
   ⟨netS, {arr1 with length:=4097,received:=4097}, 0x22, by decide +kernel⟩,
   ⟨netW [(MBX_STATUS_FAILED,0,0,1)], arr1, by decide +kernel⟩,
   ⟨fifoS 1, ev1 1, [{ev1 1 with count:=4}], by decide +kernel⟩,
   ⟨fifoS 0, ev1 0, [{ev1 0 with count:=4}], 5, by decide +kernel⟩,
   ⟨netS, by decide +kernel⟩,
   ⟨netS, hostR, 7, by decide +kernel⟩,
   ⟨netS, hostR, 255, by decide +kernel⟩,
   ⟨netS, hostR, 8, by decide +kernel⟩⟩

theorem witness_EventsAndLogs_2 :
    (∃ (s : State) (r : Req) (ms : Nat),
      serves s r 0x0502 ∧ (ms = 0 ∨ 10 ≤ ms) ∧ ms < 65536) ∧
    (∃ (s : State) (r : Req) (ms : Nat),
      serves s r 0x0502 ∧ 0 < ms ∧ ms < 10) ∧
    (∃ (s : State),
      fld s MBX_STATUS_READY = 1 ∧ s.rst.serviceRom = false) ∧
    (∃ (s : State) (r : Req),
      serves s r 0x0902) ∧
    (∃ (s : State) (r : Req),
      serves s r 0x0903 ∧ s.mgmt.dump = none) ∧
    (∃ (s : State) (r : Req) (o : Nat) (d : _),
      serves s r 0x0903 ∧ s.mgmt.dump = some d ∧ o < 0x80000) :=
  ⟨⟨netS, hostR, 10, by decide +kernel⟩,
   ⟨netS, hostR, 9, by decide +kernel⟩,
   ⟨{netS with mgmt:={netS.mgmt with period:=[(0,10),(1,10)]}}, by decide +kernel⟩,
   ⟨netS, platR, by decide +kernel⟩,
   ⟨netS, platR, by decide +kernel⟩,
   ⟨dumpS, platR, 0x80000-4096, dump1, by decide +kernel⟩⟩

theorem witness_PowerManagerActs_1 :
    (∃ (s : State) (r : Req) (cap : Nat),
      serves s r 0x0602 ∧ 100 ≤ cap ∧ cap ≤ 2000) ∧
    (∃ (s : State) (r : Req) (cap : Nat),
      serves s r 0x0602 ∧ (cap < 100 ∨ 2000 < cap)) ∧
    (∃ (s : State) (r : Req) (mode : Nat) (v : Nat),
      serves s r 0x0603 ∧ mode ≤ 2 ∧ v < 2 ^ 32 ∧ (mode ≠ 2 ∨ v ≠ 0)) ∧
    (∃ (s : State) (r : Req) (mode : Nat) (v : Nat),
      serves s r 0x0603 ∧ mode ≤ 2 ∧ v < 2 ^ 32 ∧ mode = 2 ∧ v = 0) ∧
    (∃ (s : State) (r : Req),
      serves s r 0x0601 ∧ 2 ≤ power s ∧ jobState s = 0 ∧ (r.cls = .debug ∨ fld s SEC_STATE_SESSION = 0 ∨ fld s
      SEC_POLICY_SESSION_HOLDS = 0)) ∧
    (∃ (s : State) (r : Req),
      serves s r 0x0601 ∧ 2 ≤ power s ∧ jobState s ≠ 0) ∧
    (∃ (s : State) (r : Req),
      serves s r 0x0601 ∧ power s = 1) ∧
    (∃ (s : State) (r : Req),
      serves s r 0x0601 ∧ 2 ≤ power s) ∧
    (∃ (s : State) (r : Req),
      serves s r 0x0601 ∧ power s = 1 ∧ s.rst.held = none) ∧
    (∃ (s : State),
      power s ≠ 0) :=
  ⟨⟨netS, hostR, 100, by decide +kernel⟩,
   ⟨netS, platR, 2001, by decide +kernel⟩,
   ⟨netS, hostR, 2, 1, by decide +kernel⟩,
   ⟨netS, hostR, 2, 0, by decide +kernel⟩,
   ⟨atJob 0, platR, by decide +kernel⟩,
   ⟨netS, platR, by decide +kernel⟩,
   ⟨standbyS, platR, by decide +kernel⟩,
   ⟨netS, platR, by decide +kernel⟩,
   ⟨standbyS, platR, by decide +kernel⟩,
   ⟨netS, by decide +kernel⟩⟩

theorem witness_PowerManagerActs_2 :
    (∃ (s : State) (k : Nat) (c : Nat),
      let h := hottest (kSet s.power.sensors k c)
      power s ≠ 0 ∧ k ≤ 116 ∧ h.1 < fld s PWR_TLIM_T_TRIP) ∧
    (∃ (s : State) (k : Nat) (c : Nat),
      let h := hottest (kSet s.power.sensors k c)
      power s ≠ 0 ∧ k ≤ 116 ∧ fld s PWR_TLIM_T_TRIP ≤ h.1 ∧ fld s PANE_STATUS_TRIP = 0) ∧
    (∃ (s : State) (ms : Nat) (since : Nat),
      power s = 5 ∧ jobState s = 0 ∧ s.power.coolMs = some since ∧ since + 1000 ≤ ms) ∧
    (∃ (s : State) (ms : Nat) (since : Nat),
      power s = 5 ∧ jobState s = 0 ∧ s.power.coolMs = some since ∧ ms < since + 1000) ∧
    (∃ (s : State),
      power s ≠ 5 ∧ (power s ≠ 1 ∨ fld s PANE_STATUS_TRIP = 0)) ∧
    (∃ (s : State) (ms : Nat) (since : Nat),
      power s = 1 ∧ fld s PANE_STATUS_TRIP = 1 ∧ s.power.coolMs = some since ∧ since + 1000 ≤ ms) ∧
    (∃ (s : State) (v : Nat) (us : Nat),
      power s ≠ 0 ∧ v < 65536 ∧ 100 ≤ us ∧ (v < 4400 ∨ 5950 < v)) ∧
    (∃ (s : State) (v : Nat) (us : Nat),
      power s ≠ 0 ∧ v < 65536 ∧ (us < 100 ∨ (4400 ≤ v ∧ v ≤ 5950))) ∧
    (∃ (s : State) (st : BitVec 3),
      power s ≠ 0 ∧ st ≠ 0) ∧
    (∃ (v : Nat) (us : Nat),
      (v < 4000 ∧ 20 ≤ us) ∨ (6200 < v ∧ 1 ≤ us)) :=
  ⟨⟨netS, 95, 80, by decide +kernel⟩,
   ⟨netS, 95, 255, by decide +kernel⟩,
   ⟨coolS, 1500, 500, by decide +kernel⟩,
   ⟨coolS, 1499, 500, by decide +kernel⟩,
   ⟨netS, by decide +kernel⟩,
   ⟨trippedS, 1500, 500, by decide +kernel⟩,
   ⟨netS, 4399, 100, by decide +kernel⟩,
   ⟨netS, 5950, 100, by decide +kernel⟩,
   ⟨netS, 7, by decide +kernel⟩,
   ⟨3999, 20, by decide +kernel⟩⟩

theorem witness_PowerManagerActs_3 :
    ∃ (v : Nat) (us : Nat),
      ¬((v < 4000 ∧ 20 ≤ us) ∨ (6200 < v ∧ 1 ≤ us)) :=
  ⟨4000, 20, by decide +kernel⟩

theorem witness_ResetsAndRecovery_1 :
    (∃ (s : State) (r : Req) (d : Nat) (k : Nat) (n : Nat),
      serves s r 0x0904 ∧ domainInstances d = some n ∧ n ≤ k) ∧
    (∃ (s : State) (r : Req) (d : Nat) (k : Nat) (n : Nat),
      serves s r 0x0904 ∧ domainInstances d = some n ∧ k < n ∧ d ≤ 2 ∧ jobLive s = true) ∧
    (∃ (s : State) (r : Req) (d : Nat) (k : Nat) (n : Nat),
      serves s r 0x0904 ∧ domainInstances d = some n ∧ k < n ∧ ((d ≤ 2 ∧ jobLive s = false) ∨ d = 3)) ∧
    (∃ (s : State) (r : Req) (d : Nat) (k : Nat) (n : Nat),
      serves s r 0x0904 ∧ domainInstances d = some n ∧ k < n ∧ d = 5) ∧
    (∃ (s : State) (r : Req) (d : Nat) (k : Nat) (n : Nat),
      serves s r 0x0904 ∧ domainInstances d = some n ∧ k < n ∧ d = 6 ∧ r.cls ≠ .platform) ∧
    (∃ (s : State) (r : Req) (d : Nat) (k : Nat) (n : Nat),
      serves s r 0x0904 ∧ domainInstances d = some n ∧ k < n ∧ d = 6 ∧ r.cls = .platform) ∧
    (∃ (s : State) (dom : Domain) (k : Nat),
      s.rst.domains.contains (domainCode dom, k) = true ∧ domainCode dom ≤ 4 ∧ (3 ≤ domainCode dom ∨ jobState s = 0 ∨
      jobState s = 5)) ∧
    (∃ (s : State) (dom : Domain) (k : Nat),
      (s.rst.domains.contains (domainCode dom, k) = false ∨ 5 ≤ domainCode dom ∨ (domainCode dom ≤ 2 ∧ 1 ≤ jobState s ∧
      jobState s ≤ 4))) ∧
    (∃ (s : State) (r : Req),
      serves s r 0x0905) ∧
    (∃ (s : State),
      fld s MBX_STATUS_READY = 1 ∧ power s ≠ 0 ∧ s.mgmt.replayReq = none) :=
  ⟨⟨netS, platR, 3, 10, 10, by decide +kernel⟩,
   ⟨netS, platR, 2, 7, 8, by decide +kernel⟩,
   ⟨netS, platR, 3, 9, 10, by decide +kernel⟩,
   ⟨netS, platR, 5, 0, 1, by decide +kernel⟩,
   ⟨netS, hostR, 6, 0, 1, by decide +kernel⟩,
   ⟨netS, platR, 6, 0, 1, by decide +kernel⟩,
   ⟨owedS 0 0 95, .tile, 95, by decide +kernel⟩,
   ⟨owedS 2 0 95, .tile, 95, by decide +kernel⟩,
   ⟨netS, platR, by decide +kernel⟩,
   ⟨netS, by decide +kernel⟩⟩

theorem witness_ResetsAndRecovery_2 :
    (∃ (s : State),
      fld s MBX_STATUS_READY = 0) ∧
    (∃ (s : State) (ok : Bool),
      fld s MBX_STATUS_IN_RESET = 1 ∧ fld s MBX_STATUS_FAILED = 0 ∧ (s.rst.firmwareCopy = false ∨ ok = true)) ∧
    (∃ (s : State),
      fld s MBX_STATUS_IN_RESET = 0 ∨ fld s MBX_STATUS_FAILED = 1) ∧
    (∃ (s : State) (code : Nat),
      s.mgmt.reportDue = some code ∧ fld s MBX_STATUS_READY = 1 ∧ (groupOf s).filter (fun p => p != partId s) = []) ∧
    (∃ (s : State),
      s.mgmt.reportDue = none) ∧
    (∃ (s : State),
      fld s MBX_STATUS_READY = 1 ∧ s.power.scrubHold = false ∧ s.mgmt.reportDue = none ∧ s.mgmt.replayReq = none ∧
      (jobState s = 4 ∨ (jobState s = 5 ∧ s.rst.scrubbed = false))) ∧
    (∃ (s : State),
      fld s MBX_STATUS_READY = 1 ∧ s.power.scrubHold = false ∧ s.mgmt.reportDue = none ∧ s.mgmt.replayReq = none ∧
      jobState s ≤ 3) ∧
    (∃ (s : State),
      jobState s = 5 ∧ s.rst.scrubbed = true ∧ s.power.scrubHold = false) ∧
    (∃ (s : State),
      jobState s ≠ 5 ∨ s.rst.scrubbed = false ∨ s.power.scrubHold = true) ∧
    (∃ (s : State) (i : Fin 104),
      jobLive s = true ∧ ((site s i.val).run.isSome = true ∨ (site s i.val).pieces ≠ []) ∧ fld s RST_HANG_SITE_PANES ≤
      (site s i.val).runMullions) :=
  ⟨⟨State.reset, by decide +kernel⟩,
   ⟨netW [(MBX_STATUS_READY,0,0,0),(MBX_STATUS_IN_RESET,0,0,1)], true, by decide +kernel⟩,
   ⟨netS, by decide +kernel⟩,
   ⟨reportS, 0x1081, by decide +kernel⟩,
   ⟨netS, by decide +kernel⟩,
   ⟨atJob 4, by decide +kernel⟩,
   ⟨netS, by decide +kernel⟩,
   ⟨{atJob 5 with rst:={(atJob 5).rst with scrubbed:=true}}, by decide +kernel⟩,
   ⟨netS, by decide +kernel⟩,
   ⟨hangS, 103, by decide +kernel⟩⟩

theorem witness_ResetsAndRecovery_3 :
    (∃ (s : State) (i : Fin 104),
      jobLive s = false ∨ (site s i.val).runMullions < fld s RST_HANG_SITE_PANES) ∧
    (∃ (s : State),
      jobState s = 2 ∧ s.step.open_ = true ∧ s.commit.retiredIn = false ∧ 2 ^ fld s RST_HANG_RETIRE_EXP ≤
      s.commit.retirePanes) ∧
    (∃ (s : State),
      jobState s = 2 ∧ s.step.open_ = true ∧ 2 ^ fld s RST_HANG_STEP_EXP ≤ s.commit.stepPanes) ∧
    (∃ (s : State),
      jobState s = 2 ∧ s.step.committedStep = s.step.latchedStep ∧ fld s RST_HANG_IDX_EXP ≠ 0 ∧ 2 ^ fld s
      RST_HANG_IDX_EXP ≤ s.commit.idxPanes) ∧
    (∃ (s : State),
      jobState s = 2 ∧ s.commit.retirePanes < 2 ^ fld s RST_HANG_RETIRE_EXP) ∧
    (∃ (s : State),
      jobState s = 2 ∧ s.commit.stepPanes < 2 ^ fld s RST_HANG_STEP_EXP) ∧
    (∃ (s : State),
      jobState s = 2 ∧ (fld s RST_HANG_IDX_EXP = 0 ∨ s.commit.idxPanes < 2 ^ fld s RST_HANG_IDX_EXP)) ∧
    (∃ (s : State) (f : BootFindings),
      (power s = 0 ∨ s.rst.bootDone = false) ∧ s.rst.domains.contains (6, 0) = false ∧ bootsThrough s f ∧ f.strapHold =
      false) ∧
    (∃ (s : State) (f : BootFindings),
      (power s = 0 ∨ s.rst.bootDone = false) ∧ s.rst.domains.contains (6, 0) = false ∧ bootsThrough s f ∧ f.strapHold =
      true) ∧
    (∃ (s : State) (f : BootFindings),
      (power s = 0 ∨ s.rst.bootDone = false) ∧ s.rst.domains.contains (6, 0) = false ∧ f.stage1Ok = false) :=
  ⟨⟨netS, 103, by decide +kernel⟩,
   ⟨longS, by decide +kernel⟩,
   ⟨longS, by decide +kernel⟩,
   ⟨waitIdxS, by decide +kernel⟩,
   ⟨netS, by decide +kernel⟩,
   ⟨netS, by decide +kernel⟩,
   ⟨netS, by decide +kernel⟩,
   ⟨State.reset, {}, by decide +kernel⟩,
   ⟨State.reset, {strapHold:=true}, by decide +kernel⟩,
   ⟨State.reset, {stage1Ok:=false}, by decide +kernel⟩⟩

theorem witness_ResetsAndRecovery_4 :
    (∃ (s : State),
      power s ≠ 0 ∧ s.rst.bootDone = true ∧ s.rst.domains.contains (6, 0) = false) ∧
    (∃ (s : State) (f : BootFindings) (ns : Nat),
      power s ≠ 0 ∧ 10000 ≤ ns ∧ bootsThrough s f ∧ f.strapHold = false) ∧
    (∃ (s : State) (ns : Nat),
      power s = 0 ∨ ns < 2000) ∧
    (∃ (s : State),
      fullReady s = true ∧ jobLoaded s = false) ∧
    (∃ (s : State),
      fullReady s = true ∧ jobLoaded s = true) ∧
    (∃ (s : State),
      fullReady s = false) :=
  ⟨⟨{netS with rst:={netS.rst with bootDone:=true}}, by decide +kernel⟩,
   ⟨netS, {}, 10000, by decide +kernel⟩,
   ⟨netS, 1999, by decide +kernel⟩,
   ⟨readyS 0, by decide +kernel⟩,
   ⟨readyS 2, by decide +kernel⟩,
   ⟨netS, by decide +kernel⟩⟩

theorem witness_TestPortAnswers :
    (∃ (s : State),
      power s ≠ 0) ∧
    (∃ (s : State),
      power s = 1 ∧ deadbolt s = 0) ∧
    (∃ (s : State),
      2 ≤ power s ∨ (power s = 1 ∧ deadbolt s ≠ 0)) ∧
    (∃ (s : State) (sa : BitVec 7),
      power s ≠ 0 ∧ sa.toNat = s.tap.i3cStatic) ∧
    (∃ (s : State) (sa : BitVec 7),
      power s ≠ 0 ∧ sa.toNat ≠ s.tap.i3cStatic) ∧
    (power State.reset = 1 ∧ 2 ≤ power netS ∧ power (netW [(PWR_STATE_STATE, 0, 0, 0)]) = 0) :=
  ⟨⟨netS, by decide +kernel⟩,
   ⟨withFlds State.reset [(SEC_STATE_DEADBOLT,0,0,0)], by decide +kernel⟩,
   ⟨netS, by decide +kernel⟩,
   ⟨netS, 0x58, by decide +kernel⟩,
   ⟨netS, 0x59, by decide +kernel⟩,
   by decide +kernel⟩

theorem witness_ContextsSaveAndRestore_matched :
    (∃ (s : State) (r : Req), serves s r 0x0907 ∧ jobState s = 1 ∧ ctxMatches s = true ∧
      ctxField s 0x30 8 ≠ fld s TILE_GEOM_FINGERPRINT) ∧
    (∃ (s : State) (r : Req), serves s r 0x0907 ∧ jobState s = 1 ∧ ctxMatches s = true ∧
      ctxField s 0x30 8 = fld s TILE_GEOM_FINGERPRINT) := by
  have c1 := ctxS_matches 1 (by decide +kernel)
  have c0 := ctxS_matches 0 (by decide +kernel)
  have g1 : ctxField (ctxS 1) 0x30 8 = 1 := (ctxS_field 1 _ _ (by decide)).trans (by decide +kernel)
  have g0 : ctxField (ctxS 0) 0x30 8 = 0 := (ctxS_field 0 _ _ (by decide)).trans (by decide +kernel)
  have sv : ∀ g, serves (ctxS g) hostR 0x0907 ∧ jobState (ctxS g) = 1 ∧ fld (ctxS g) TILE_GEOM_FINGERPRINT = 0 := by
    have key : ∀ s bs bs', serves s hostR 0x0907 ∧ jobState s = 1 ∧ fld s TILE_GEOM_FINGERPRINT = 0 →
        serves (store (store s retainedBase bs) (retainedBase + 0xE0) bs') hostR 0x0907 ∧
        jobState (store (store s retainedBase bs) (retainedBase + 0xE0) bs') = 1 ∧
        fld (store (store s retainedBase bs) (retainedBase + 0xE0) bs') TILE_GEOM_FINGERPRINT = 0 := fun _ _ _ h => h
    intro g
    exact key _ _ _ (by decide +kernel : serves (atJob 1) hostR 0x0907 ∧ jobState (atJob 1) = 1 ∧ fld (atJob 1) TILE_GEOM_FINGERPRINT = 0)
  exact ⟨⟨ctxS 1, hostR, (sv 1).1, (sv 1).2.1, c1, by rw [g1, (sv 1).2.2]; decide⟩,
    ⟨ctxS 0, hostR, (sv 0).1, (sv 0).2.1, c0, by rw [g0, (sv 0).2.2]⟩⟩

/-- An assembly all but its last byte takes it. -/
theorem join_last (cls : Cls) (qp : Nat) (head : List Byte) (h : head.length = 128) :
    joinFragment (some ⟨cls, qp, allButLast head⟩) cls qp 7983 [0] = some ⟨cls, qp, allButLast head ++ [0]⟩ ∧
      (allButLast head ++ [0]).length = 7984 := by
  have e : (allButLast head).length = 7983 := by simp [allButLast, h, -List.reduceReplicate]
  constructor
  · simp [joinFragment, e, signedLen]
  · simp [e]

/-- With a signature that verifies, the last fragment of a token and of an authorisation, and a staged image, are good: what the
part's keys accept is not the model's to know. -/
theorem witness_TrustIsEstablished_token
    (h : Config.slhDsaVerify (tokenS 2 tokenHead).sec.vendorKey ((allButLast tokenHead ++ [0]).take 128)
      ((allButLast tokenHead ++ [0]).drop 128) = true) :
    ∃ (s : State) (r : Req) (o : Nat) (bs : List Byte) (a : Assembly), serves s r 0x0704 ∧
      joinFragment s.sec.token r.cls r.qp o bs = some a ∧ a.bytes.length = 7984 ∧ tokenGood s a.bytes = true := by
  have j := join_last .debug 0xFF tokenHead (by decide +kernel)
  refine ⟨tokenS 2 tokenHead, debugR, 7983, [0], _, by decide +kernel, j.1, j.2, ?_⟩
  unfold tokenGood
  rw [Bool.and_eq_true]
  refine ⟨by decide +kernel, ?_⟩
  rw [show signerKey (tokenS 2 tokenHead) (leAt (allButLast tokenHead ++ [0]) 6 1) = some (tokenS 2 tokenHead).sec.vendorKey
    by decide +kernel]
  exact h

theorem witness_TrustIsEstablished_authorisation
    (h : Config.slhDsaVerify (tokenS 0 authHead).sec.vendorKey ((allButLast authHead ++ [0]).take 128)
      ((allButLast authHead ++ [0]).drop 128) = true) :
    ∃ (s : State) (r : Req) (o : Nat) (bs : List Byte) (a : Assembly), serves s r 0x0706 ∧ jobState s = 0 ∧
      joinFragment s.sec.auth r.cls r.qp o bs = some a ∧ a.bytes.length = 7984 ∧ authOk s a.bytes = true ∧
      leAt a.bytes 4 1 = 0 ∧ fld s SEC_OWNER_VALID 0 (leAt a.bytes 5 1) = 0 := by
  have j := join_last .host 0 authHead (by decide +kernel)
  have v : leAt (allButLast authHead ++ [0]) 4 1 = 0 ∧
      fld (tokenS 0 authHead) SEC_OWNER_VALID 0 (leAt (allButLast authHead ++ [0]) 5 1) = 0 := by decide +kernel
  refine ⟨tokenS 0 authHead, hostR, 7983, [0], ⟨.host, 0, allButLast authHead ++ [0]⟩, by decide +kernel, by decide +kernel, j.1, j.2,
    ?_, v.1, v.2⟩
  unfold authOk
  rw [Bool.and_eq_true]
  exact ⟨by decide +kernel, h⟩

theorem witness_TrustIsEstablished_rejects :
    (∃ (s : State) (r : Req) (o : Nat) (bs : List Byte) (a : Assembly), serves s r 0x0704 ∧
      joinFragment s.sec.token r.cls r.qp o bs = some a ∧ a.bytes.length = 7984 ∧ tokenGood s a.bytes = false) ∧
    (∃ (s : State) (r : Req) (o : Nat) (bs : List Byte) (a : Assembly), serves s r 0x0706 ∧ jobState s = 0 ∧
      joinFragment s.sec.auth r.cls r.qp o bs = some a ∧ a.bytes.length = 7984 ∧ authOk s a.bytes = false) := by
  have j := join_last .debug 0xFF (List.replicate 128 0) (by decide +kernel)
  have k := join_last .host 0 (List.replicate 128 0) (by decide +kernel)
  exact ⟨⟨tokenS 2 (List.replicate 128 0), debugR, 7983, [0], _, by decide +kernel, j.1, j.2, by decide +kernel⟩,
    ⟨tokenS 0 (List.replicate 128 0), hostR, 7983, [0], _, by decide +kernel, by decide +kernel, k.1, k.2, by decide +kernel⟩⟩

theorem witness_UpdatesTracesAndDraughts_image
    (h : Config.slhDsaVerify netS.sec.vendorKey (imageBytes.take 128) (imageBytes.drop 128) = true) :
    ∃ (s : State) (r : Req) (f : FwSession), s.sec.fw = some f ∧ f.cls = r.cls ∧ serves s r 0x0709 ∧ imageOk s f = true := by
  have len : imageBytes.length = 7984 := by simp [imageBytes, -List.reduceReplicate]
  have dig : shaNat imageBytes = imageF.digest.toNat := by
    have := shaNat_lt imageBytes
    simp only [imageF, BitVec.toNat_ofNat]
    omega
  refine ⟨{ netS with sec := { netS.sec with fw := some imageF } }, platR, imageF, rfl, rfl, by decide +kernel, ?_⟩
  unfold imageOk
  simp only [show imageF.bytes = imageBytes from rfl, len, show imageF.size = 7984 from rfl, dig]
  simp only [Bool.and_eq_true]
  exact ⟨⟨⟨⟨⟨⟨⟨⟨⟨⟨by decide, by decide⟩, beq_self_eq_true _⟩, by decide +kernel⟩, by decide +kernel⟩, by decide +kernel⟩, by decide +kernel⟩,
    by decide +kernel⟩, by decide +kernel⟩, h⟩, by decide +kernel⟩

end Sys2Proof.Tests
end

section
/-! SUPPORT. The state right after power is applied (R11, R387, R394). -/

namespace Sys2Proof.Proofs
open Sys2Proof Sys2Proof.Machine

/-- Right after power is applied a register reads the reset value of its table (R11). -/
theorem readReg_reset (r : Reg) (k n : Nat) : readReg State.reset r k n = BitVec.ofNat 512 (r.resetVal n) := rfl

theorem regNat_reset (r : Reg) (k n : Nat) : regNat State.reset r k n = (BitVec.ofNat 512 (r.resetVal n)).toNat := by
  rw [regNat, readReg_reset]

theorem fld_reset (f : Field) (k n : Nat) :
    fld State.reset f k n = getBits f.lo f.bits (BitVec.ofNat 512 (f.reg.resetVal n)) := by
  rw [fld, readReg_reset]

/-- The part after reset: its job state is `NONE` (R387) and its power state Standby (R394). -/
theorem jobState_reset : jobState State.reset = 0 := (fld_reset RST_STATUS_JOB_STATE 0 0).trans (by decide +kernel)

theorem power_reset : power State.reset = 1 := (fld_reset PWR_STATE_STATE 0 0).trans (by decide +kernel)

/-- With nothing raised, queued or held, the mirrored registers at their reset values say what they mirror. -/
theorem settled_reset : settled State.reset := by
  refine ⟨rfl, Nat.zero_le _, ?_, ?_, ?_, ?_, ?_⟩
  · rw [fld_reset, jobLoaded, jobState_reset]
    decide +kernel
  all_goals exact (fld_reset _ 0 0).trans (by decide +kernel)

theorem legalStates_reset : legalStates State.reset := by
  rw [legalStates, jobState_reset, power_reset]
  decide

/-- Settles O3: every register reads its table's reset value, and every store is empty. -/
theorem resetSettled : Obligations.ResetSettled := by
  unfold Obligations.ResetSettled
  refine ⟨settled_reset, legalStates_reset, jobState_reset, power_reset, ?pane, rfl, fun _ => rfl, ?paneCfg, ?ilv, ?sbnId,
    ?rstStatus, ?secState⟩
  case pane => exact (fld_reset PANE_COUNT_COUNT 0 0).trans (by decide +kernel)
  all_goals exact (regNat_reset _ 0 0).trans (by decide +kernel)

end Sys2Proof.Proofs
end

section
/-! SUPPORT. How the frames of the statements compose, and that the closing of a command keeps them. -/

namespace Sys2Proof.Proofs
open Sys2Proof Sys2Proof.Machine

/-- The members of a list of two. -/
theorem eq_or_eq_of_mem {α : Type} {a b c : α} (h : a ∈ [b, c]) : a = b ∨ a = c := by
  simpa only [List.mem_cons, List.not_mem_nil, or_false] using h

/-! Registers. -/

/-- Every register reads as before but those at the addresses of `ex`. -/
def RegsBut (ex : List Nat) (s t : State) : Prop :=
  ∀ (r : Reg) (k n : Nat), r.at k n ∉ ex → readReg t r k n = readReg s r k n

theorem regsBut_of_regs_eq {s t : State} (ex : List Nat) (h : t.regs = s.regs) : RegsBut ex s t := by
  intro r k n _
  rw [readReg, h, readReg]

theorem RegsBut.trans {ex : List Nat} {s t u : State} (h : RegsBut ex s t) (h' : RegsBut ex t u) : RegsBut ex s u :=
  fun r k n hx => (h' r k n hx).trans (h r k n hx)

theorem RegsBut.mono {ex ex' : List Nat} {s t : State} (h : RegsBut ex s t) (hx : ∀ a ∈ ex, a ∈ ex') : RegsBut ex' s t :=
  fun r k n hn => h r k n (fun ha => hn (hx _ ha))

theorem regsBut_writeReg {ex : List Nat} (s : State) (r : Reg) (k n : Nat) (v : RegVal) (h : r.at k n ∈ ex) :
    RegsBut ex s (writeReg s r k n v) :=
  fun r' k' n' hx => readReg_writeReg_ne s r r' k n k' n' v (fun e => hx (e ▸ h))

theorem regsBut_setFld {ex : List Nat} (s : State) (f : Field) (x k n : Nat) (h : f.reg.at k n ∈ ex) :
    RegsBut ex s (setFld s f x k n) :=
  regsBut_writeReg s f.reg k n _ h

theorem regsBut_bump {ex : List Nat} (s : State) (f : Field) (d k n : Nat) (h : f.reg.at k n ∈ ex) :
    RegsBut ex s (bump s f d k n) :=
  regsBut_setFld s f _ k n h

theorem fld_congr {s t : State} (f : Field) (k n : Nat) (h : readReg t f.reg k n = readReg s f.reg k n) :
    fld t f k n = fld s f k n := by
  rw [fld, h, fld]

/-- A counter that was raised. -/
theorem fld_bump_same (s : State) (f : Field) (d k n : Nat) (hw : f.lo + f.bits ≤ 512) :
    fld (bump s f d k n) f k n = satAdd f.bits (fld s f k n) d := by
  rw [bump, fld_setFld_same s f _ k n hw]
  refine Nat.mod_eq_of_lt ?_
  have := Nat.two_pow_pos f.bits
  unfold satAdd
  omega

/-! Every closing register lies in the blocks of the device map above the tiles' windows (R8, R151). -/

theorem closing_of_lt (a : Nat) (h : a < 0x020000000000) : closing a = false := by
  have ne : ∀ b, 0x020000000000 ≤ b → (a == b) = false := fun b hb => by
    simp only [beq_eq_false_iff_ne]
    omega
  unfold closing mirrored
  simp only [List.any_cons, List.any_nil, Bool.or_false, Bool.or_eq_false_iff]
  refine ⟨⟨⟨⟨⟨⟨⟨?_, ?_⟩, ?_⟩, ?_⟩, ?_⟩, ?_⟩, ?_⟩, ?_, ?_, ?_, ?_, ?_, ?_, ?_, ?_, ?_, ?_, ?_⟩ <;>
    exact ne _ (by decide)

/-! The state of the units. -/

/-- What the frames of the statements speak of beside the registers. -/
structure UnitsKept (s t : State) : Prop where
  mem : t.mem = s.mem
  tiles : t.tiles = s.tiles
  stash : t.stash = s.stash
  graphs : t.graphs = s.graphs
  embs : t.embs = s.embs
  brys : t.brys = s.brys
  sbn : t.sbn = s.sbn
  eth : t.eth = s.eth
  step : t.step = s.step
  power : t.power = s.power

theorem UnitsKept.sameUnits {s t : State} (h : UnitsKept s t) : sameUnits s t :=
  ⟨fun a => by rw [h.mem], ⟨h.tiles, h.stash⟩, ⟨h.graphs, h.embs, h.brys⟩, ⟨h.sbn, h.eth⟩, h.step, h.power⟩

theorem unitsKept_finish (s u : State) : UnitsKept u (finish s u) := by
  have k := finish_kept s u
  exact ⟨k.mem, k.tiles, k.stash, k.graphs, k.embs, k.brys, k.sbn, k.eth, k.step, k.power⟩

theorem UnitsKept.trans {s t u : State} (h : UnitsKept s t) (h' : UnitsKept t u) : UnitsKept s u :=
  ⟨h'.mem.trans h.mem, h'.tiles.trans h.tiles, h'.stash.trans h.stash, h'.graphs.trans h.graphs, h'.embs.trans h.embs,
   h'.brys.trans h.brys, h'.sbn.trans h.sbn, h'.eth.trans h.eth, h'.step.trans h.step, h'.power.trans h.power⟩

theorem sameMem_finish {s u : State} (s₀ : State) (h : sameMem s u) : sameMem s (finish s₀ u) :=
  fun a => by rw [finish_mem, h a]

theorem sameMemBut_finish {s u : State} {lo n : Nat} (s₀ : State) (h : sameMemBut lo n s u) :
    sameMemBut lo n s (finish s₀ u) :=
  fun a ha => by rw [finish_mem, h a ha]

theorem load_finish (s₀ u : State) (a n : Nat) : load (finish s₀ u) a n = load u a n := by
  rw [load, finish_mem, load]

theorem RegsBut.sameRegs_finish {ex : List Nat} {s u : State} (s₀ : State) (h : RegsBut ex s u) :
    sameRegs ex s (finish s₀ u) :=
  fun r k n hx hc => (finish_readReg_any s₀ u r k n hc).trans (h r k n hx)

/-- A cycle in which nothing was raised has no fault. -/
theorem lowestFault_nil {t : State} (h : t.raised = []) : lowestFault t.raised = none := by
  rw [h]; rfl

end Sys2Proof.Proofs
end

section
/-! SUPPORT. Register writes (R9, R385): which registers a word names, what `written` makes of it, and what an accepted and a refused
entry do. -/

namespace Sys2Proof.Proofs
open Sys2Proof Sys2Proof.Machine

/-! Where the pieces of a word lie. -/

theorem locate_bounds {r : Reg} {a k n o : Nat} (h : r.locate a = some (k, n, o)) : k < r.insts ∧ n < r.count := by
  unfold Reg.locate at h
  split at h
  · cases h
  · extract_lets d k' d' n' o' at h
    split at h
    · next hb =>
      simp only [Option.some.injEq, Prod.mk.injEq] at h
      obtain ⟨hk, hn, _⟩ := h
      exact ⟨hk ▸ hb.1, hn ▸ hb.2.1⟩
    · cases h

theorem mem_pieces {r : Reg} {a : Nat} {p : Piece} (h : p ∈ r.pieces a) : p.reg = r ∧ p.k < r.insts ∧ p.n < r.count := by
  unfold Reg.pieces at h
  split at h
  · next k n o e =>
    have b := locate_bounds e
    dsimp only at h
    split at h
    · split at h
      · next k' n' e' =>
        have b' := locate_bounds e'
        rcases eq_or_eq_of_mem h with rfl | rfl
        · exact ⟨rfl, b⟩
        · exact ⟨rfl, b'⟩
      · obtain rfl := List.mem_singleton.mp h
        exact ⟨rfl, b⟩
    · obtain rfl := List.mem_singleton.mp h
      exact ⟨rfl, b⟩
  · split at h
    · next k n e =>
      obtain rfl := List.mem_singleton.mp h
      exact ⟨rfl, locate_bounds e⟩
    · cases h

theorem mem_wordPieces {a : Nat} {p : Piece} (h : p ∈ wordPieces a) : p.reg ∈ allRegs ∧ p.k < p.reg.insts ∧ p.n < p.reg.count := by
  obtain ⟨r, hr, hp⟩ := List.mem_flatMap.mp h
  obtain ⟨rfl, hb⟩ := mem_pieces hp
  exact ⟨hr, hb⟩

/-- The last address of a register's instances and elements. -/
def lastAddr (r : Reg) : Nat := r.base + (r.insts - 1) * r.instStride + (r.count - 1) * r.stride

theorem at_le_lastAddr {r : Reg} {k n : Nat} (hk : k < r.insts) (hn : n < r.count) : r.at k n ≤ lastAddr r := by
  have h1 := Nat.mul_le_mul_right r.instStride (show k ≤ r.insts - 1 by omega)
  have h2 := Nat.mul_le_mul_right r.stride (show n ≤ r.count - 1 by omega)
  unfold Reg.at lastAddr
  omega

/-- No register but `SEC_STATE` reaches its address. -/
theorem secState_apart : ∀ r ∈ allRegs, r = SEC_STATE ∨ lastAddr r < SEC_STATE.base ∨ SEC_STATE.base < r.base := by
  decide +kernel

theorem SEC_STATE_at (k n : Nat) : SEC_STATE.at k n = SEC_STATE.base := by
  simp [Reg.at, SEC_STATE]

theorem SEC_STATE_resetVal (n : Nat) : SEC_STATE.resetVal n = 1 := rfl

theorem reg_eq_secState {a : Nat} {p : Piece} (h : p ∈ wordPieces a) (ha : p.reg.at p.k p.n = SEC_STATE.base) :
    p.reg = SEC_STATE := by
  obtain ⟨hr, hk, hn⟩ := mem_wordPieces h
  have hl := at_le_lastAddr hk hn
  have hb : p.reg.base ≤ p.reg.at p.k p.n := by unfold Reg.at; omega
  rcases secState_apart p.reg hr with e | e | e
  · exact e
  · omega
  · omega

/-! What a register stores. -/

/-- The registers whose tables replace some of the values written to them. -/
def cappedBases : List Nat :=
  lowest.map (fun e => e.1.reg.base) ++ highest.map (fun e => e.1.reg.base) ++
    [PANE_GFC_CFG.base, PANE_GFC_THR.base, PANE_COMMIT_CFG.base, PANE_COMMIT_LAMBDA.base, SBN_XPORT.base, ETH_PFC.base,
     RST_HANG.base]

theorem foldl_lowest_apart (r : Reg) (v : RegVal) (l : List (Field × Nat)) (h : ∀ e ∈ l, e.1.reg.base ≠ r.base) :
    l.foldl (fun v e => if e.1.reg.base = r.base ∧ e.1.get v < e.2 then e.1.put v e.2 else v) v = v := by
  induction l with
  | nil => rfl
  | cons e l ih =>
    rw [List.foldl_cons, if_neg (fun c => h e List.mem_cons_self c.1)]
    exact ih (fun e' he => h e' (List.mem_cons_of_mem _ he))

theorem foldl_highest_apart (r : Reg) (v : RegVal) (l : List (Field × Nat)) (h : ∀ e ∈ l, e.1.reg.base ≠ r.base) :
    l.foldl (fun v e => if e.1.reg.base = r.base ∧ e.2 < e.1.get v then e.1.put v e.2 else v) v = v := by
  induction l with
  | nil => rfl
  | cons e l ih =>
    rw [List.foldl_cons, if_neg (fun c => h e List.mem_cons_self c.1)]
    exact ih (fun e' he => h e' (List.mem_cons_of_mem _ he))

/-- Every other register stores what it is given. -/
theorem stored_of_not_capped (r : Reg) (old v : RegVal) (h : r.base ∉ cappedBases) : stored r old v = v := by
  simp only [cappedBases, List.mem_append, List.mem_map, List.mem_cons, List.not_mem_nil, or_false, not_or, not_exists,
    not_and] at h
  obtain ⟨⟨hlow, hhigh⟩, h1, h2, h3, h4, h5, h6, h7⟩ := h
  simp only [stored, foldl_lowest_apart r v lowest hlow, foldl_highest_apart r v highest hhigh, if_neg h1, if_neg h2, if_neg h3,
    if_neg h4, if_neg h5, if_neg h6, if_neg h7]

/-- Bits that are RW take what is written (R9). -/
theorem getLsbD_written {s : State} {p : Piece} {w i : Nat} (hc : p.reg.base ∉ cappedBases) (hi : i < 512) (hlo : p.lo ≤ i)
    (hb : i - p.lo < p.bits) (hrw : p.reg.rw.testBit i = true) (hw : p.reg.w1c.testBit i = false) :
    (written s p w).getLsbD i = w.testBit (p.at_ + (i - p.lo)) := by
  unfold written
  simp only [stored_of_not_capped _ _ _ hc, BitVec.getLsbD_and, BitVec.getLsbD_or, BitVec.getLsbD_not, BitVec.getLsbD_ofNat,
    getLsbD_fieldMask, Nat.testBit_or, hrw, hw, Nat.testBit_shiftLeft, bitsOf, Nat.testBit_mod_two_pow, Nat.testBit_shiftRight]
  simp [hi, hlo, hb]

/-- A field of RW bits that lies in the word takes its bits of the word. -/
theorem getBits_written {s : State} {p : Piece} {w lo n : Nat} (hc : p.reg.base ∉ cappedBases) (hw : p.reg.w1c = 0)
    (hlo : p.lo ≤ lo) (hhi : lo + n ≤ p.lo + p.bits) (h512 : lo + n ≤ 512)
    (hrw : ∀ j < n, p.reg.rw.testBit (lo + j) = true) :
    getBits lo n (written s p w) = bitsOf (p.at_ + (lo - p.lo)) n w := by
  apply Nat.eq_of_testBit_eq
  intro j
  rw [testBit_getBits, bitsOf, Nat.testBit_mod_two_pow, Nat.testBit_shiftRight]
  by_cases hj : j < n
  · rw [getLsbD_written hc (by omega) (by omega) (by omega) (hrw j hj) (by simp [hw])]
    congr 2
    omega
  · simp [hj]

/-- `SEC_STATE` has no bit that a write changes. -/
theorem written_secState {s : State} {p : Piece} (w : Nat) (h : p.reg = SEC_STATE) :
    written s p w = readReg s p.reg p.k p.n := by
  have hc : p.reg.base ∉ cappedBases := by rw [h]; decide +kernel
  have hrw : p.reg.rw = 0 ∧ p.reg.rwl = 0 ∧ p.reg.w1c = 0 := by rw [h]; exact ⟨rfl, rfl, rfl⟩
  obtain ⟨h1, h2, h3⟩ := hrw
  have hones : ∀ v x m : RegVal, ((v &&& ~~~(0#512 &&& m)) ||| (x &&& (0#512 &&& m))) &&& ~~~(x &&& (0#512 &&& m)) = v := by
    intro v x m
    rw [BitVec.zero_and, BitVec.and_zero, BitVec.or_zero, BitVec.not_zero, BitVec.and_allOnes, BitVec.and_allOnes]
  simp only [written, stored_of_not_capped _ _ _ hc, h1, h2, h3, ite_self, Nat.or_self, hones]

/-- What a write makes of a register depends on its value and on whether RWL fields may be written. -/
theorem written_congr {s t : State} {p : Piece} (w : Nat) (hr : readReg t p.reg p.k p.n = readReg s p.reg p.k p.n)
    (hl : rwlOpen t = rwlOpen s) : written t p w = written s p w := by
  unfold written
  rw [hr, hl]

/-! States that agree on everything a write is judged by. -/

/-- What decides how a register word is taken: power, deadbolt and scope, the tasks that run, and the registers themselves. A
session of the debug class, which `SEC_STATE` shows, does not. -/
structure JudgedAlike (s t : State) : Prop where
  readReg : ∀ (r : Reg) (k n : Nat), r.at k n ≠ SEC_STATE.base → readReg t r k n = readReg s r k n
  deadbolt : deadbolt t = deadbolt s
  scope : fld t SEC_STATE_SCOPE = fld s SEC_STATE_SCOPE
  sched : t.sched = s.sched

theorem judgedAlike_fresh (s : State) : JudgedAlike s (fresh s) := ⟨fun _ _ _ _ => rfl, rfl, rfl, rfl⟩

theorem JudgedAlike.fld {s t : State} (h : JudgedAlike s t) (f : Field) (k n : Nat) (hne : f.reg.at k n ≠ SEC_STATE.base) :
    fld t f k n = fld s f k n :=
  fld_congr f k n (h.readReg f.reg k n hne)

/-- A debug-class message that attaches a session changes none of this. -/
theorem judgedAlike_inService (s : State) (r : Req) : JudgedAlike s (inService s r) := by
  unfold inService touchSession
  split
  · refine ⟨fun r' k n hne => ?_, ?_, ?_, rfl⟩
    · exact readReg_writeReg_ne _ SEC_STATE r' 0 0 k n _ hne
    · exact fld_setFld_disjoint _ SEC_STATE_SESSION SEC_STATE_DEADBOLT 1 0 0 rfl (by decide)
    · exact fld_setFld_disjoint _ SEC_STATE_SESSION SEC_STATE_SCOPE 1 0 0 rfl (by decide)
  · exact judgedAlike_fresh s

section
variable {s t : State} (h : JudgedAlike s t)
include h

theorem JudgedAlike.power : power t = power s := h.fld PWR_STATE_STATE 0 0 (by decide)

theorem JudgedAlike.jobState : jobState t = jobState s := h.fld RST_STATUS_JOB_STATE 0 0 (by decide)

theorem JudgedAlike.jobLoaded : jobLoaded t = jobLoaded s := by
  rw [Machine.jobLoaded, h.jobState, Machine.jobLoaded]

theorem JudgedAlike.blockPowered (b : Block) (k : Nat) : blockPowered t b k = blockPowered s b k := by
  unfold Machine.blockPowered
  rw [h.power]

theorem JudgedAlike.tileMemory (a : Nat) : tileMemory t a = tileMemory s a := by
  simp only [Machine.tileMemory, h.blockPowered]

theorem JudgedAlike.bankBusy (a n : Nat) : bankBusy t a n = bankBusy s a n := by
  simp only [Machine.bankBusy, site, h.sched]

theorem JudgedAlike.rwlOpen : rwlOpen t = rwlOpen s := by
  rw [Machine.rwlOpen, h.deadbolt, Machine.rwlOpen]

theorem JudgedAlike.classRefuses (c : Cls) (b : Block) (addr : Bool) : classRefuses t c b addr = classRefuses s c b addr := by
  have hd : debugWrites t = debugWrites s := by rw [debugWrites, h.deadbolt, h.scope, debugWrites]
  cases c with
  | host => rfl
  | platform => rfl
  | debug => rw [Machine.classRefuses, hd, Machine.classRefuses]

theorem JudgedAlike.written {p : Piece} (w : Nat) (hne : p.reg.at p.k p.n ≠ SEC_STATE.base) : written t p w = written s p w := by
  exact written_congr w (h.readReg p.reg p.k p.n hne) h.rwlOpen

theorem JudgedAlike.jobRefuses {a : Nat} {p : Piece} (w : Nat) (hp : p ∈ wordPieces a) : jobRefuses t p w = jobRefuses s p w := by
  rw [Machine.jobRefuses, Machine.jobRefuses, h.jobLoaded, h.fld PANE_CFG_LEN 0 0 (by decide)]
  by_cases ha : p.reg.at p.k p.n = SEC_STATE.base
  · have hb : (p.reg.base == PANE_CFG.base) = false := by
      rw [reg_eq_secState hp ha]
      decide
    rw [hb, Bool.false_and, Bool.false_and]
  · rw [h.written w ha]

end

/-! The entry of a word of registers. -/

/-- The registers of the word at `a` whose blocks are powered. -/
def poweredPieces (s : State) (a : Nat) : List Piece := (wordPieces a).filter (fun p => blockPowered s p.reg.block p.k)

theorem JudgedAlike.poweredPieces {s t : State} (h : JudgedAlike s t) (a : Nat) : poweredPieces t a = poweredPieces s a := by
  simp only [Proofs.poweredPieces, h.blockPowered]

theorem mem_wordPieces_of_powered {s : State} {a : Nat} {p : Piece} (h : p ∈ poweredPieces s a) : p ∈ wordPieces a :=
  (List.mem_filter.mp h).1

/-- No register of the word is one that the class, or the loaded job, refuses. -/
def wordAccepted (s : State) (c : Cls) (a w : Nat) : Prop :=
  tileMemory s a = none ∧ poweredPieces s a ≠ [] ∧ ∀ p ∈ poweredPieces s a,
    classRefuses s c p.reg.block (p.reg.base == ETH_ADDR.base) = none ∧ jobRefuses s p w = false

theorem wordAccepted_of_plainWord {s : State} {c : Cls} {a w : Nat} (h : plainWord s c a w) : wordAccepted s c a w := by
  obtain ⟨ht, _, _, hne, _, hp⟩ := h
  exact ⟨ht, hne, fun p hm => ⟨(hp p hm).1, (hp p hm).2.1⟩⟩

theorem JudgedAlike.wordAccepted {s t : State} (h : JudgedAlike s t) {c : Cls} {a w : Nat} (ha : wordAccepted s c a w) :
    wordAccepted t c a w := by
  obtain ⟨ht, hne, hp⟩ := ha
  refine ⟨by rw [h.tileMemory, ht], by rwa [h.poweredPieces], fun p hm => ?_⟩
  rw [h.poweredPieces] at hm
  rw [h.classRefuses, h.jobRefuses w (mem_wordPieces_of_powered hm)]
  exact hp p hm

/-- An accepted word is stored register by register. -/
theorem writeEntry_accepted {s : State} {c : Cls} {a w : Nat} (h : wordAccepted s c a w) :
    writeEntry c a w s = ((poweredPieces s a).foldl (fun s p => storePiece s p w) s, none) := by
  obtain ⟨ht, hne, hp⟩ := h
  have hc : (poweredPieces s a).filterMap (fun p => classRefuses s c p.reg.block (p.reg.base == ETH_ADDR.base)) = [] := by
    rw [List.filterMap_eq_nil_iff]
    exact fun p hm => (hp p hm).1
  have hj : (poweredPieces s a).any (fun p => jobRefuses s p w) = false := by
    rw [List.any_eq_false]
    exact fun p hm => by rw [(hp p hm).2]; decide
  unfold poweredPieces at hc hj hne ⊢
  unfold writeEntry
  simp only [ht, hc, hj, if_neg hne, Bool.false_eq_true, if_false]

/-- A word of registers that the loaded job refuses is not stored, whoever writes it. -/
theorem writeEntry_refused {s : State} {c : Cls} {a w : Nat} (ht : tileMemory s a = none)
    (hj : ∀ p ∈ wordPieces a, jobRefuses s p w = true) : ∃ st, writeEntry c a w s = (s, some st) := by
  unfold writeEntry
  simp only [ht]
  split
  · exact ⟨_, rfl⟩
  · split
    · exact ⟨_, rfl⟩
    · next hne =>
      rw [if_pos]
      · exact ⟨_, rfl⟩
      · obtain ⟨p, hp⟩ := List.exists_mem_of_ne_nil _ hne
        exact List.any_eq_true.mpr ⟨p, hp, hj p (List.mem_filter.mp hp).1⟩

/-! Registers that a write only stores into. -/

/-- Such a register takes what R9 makes of the word. -/
theorem storePiece_plain {s : State} {p : Piece} (w : Nat) (h : ∀ r ∈ actingRegs, p.reg.base ≠ r.base) :
    storePiece s p w = writeReg s p.reg p.k p.n (written s p w) := by
  simp only [actingRegs, List.forall_mem_cons] at h
  obtain ⟨h1, h2, h3, h4, h5, h6, h7, h8, h9, h10, h11, _⟩ := h
  unfold storePiece
  simp only [if_neg h1, if_neg h2, if_neg h3, if_neg h4, if_neg h7, if_neg h8, if_neg h9, if_neg h10, if_neg h11,
    if_neg (not_or.mpr ⟨h5, h6⟩)]

/-- A plain write alters nothing that another write is judged by but the register itself. -/
theorem written_writeReg_apart {s : State} {a : Nat} {p q : Piece} (w : Nat) (hp : p ∈ wordPieces a)
    (hne : q.reg.at q.k q.n ≠ p.reg.at p.k p.n) :
    written (writeReg s p.reg p.k p.n (written s p w)) q w = written s q w := by
  have hsec : readReg (writeReg s p.reg p.k p.n (written s p w)) SEC_STATE 0 0 = readReg s SEC_STATE 0 0 := by
    by_cases ha : p.reg.at p.k p.n = SEC_STATE.base
    · have hr := reg_eq_secState hp ha
      have hz : ∀ u : State, readReg u SEC_STATE p.k p.n = readReg u SEC_STATE 0 0 := fun u => by
        rw [readReg, readReg, SEC_STATE_at, SEC_STATE_at, SEC_STATE_resetVal, SEC_STATE_resetVal]
      rw [written_secState w hr, hr, ← hz, readReg_writeReg_same, hz]
    · exact readReg_writeReg_ne _ _ _ _ _ _ _ _ (Ne.symm ha)
  have hd : rwlOpen (writeReg s p.reg p.k p.n (written s p w)) = rwlOpen s := by
    simp only [rwlOpen, deadbolt, fld_congr SEC_STATE_DEADBOLT 0 0 hsec]
  exact written_congr w (readReg_writeReg_ne _ _ _ _ _ _ _ _ hne) hd

/-- What the stores of a word's registers leave: each register holds what R9 makes of the word, and only they have changed. -/
structure Stores (s t : State) (ps : List Piece) (w : Nat) : Prop where
  only : t = { s with regs := t.regs }
  holds : ∀ p ∈ ps, readReg t p.reg p.k p.n = written s p w
  apart : ∀ (r : Reg) (k n : Nat), r.at k n ∉ ps.map (fun p => p.reg.at p.k p.n) → readReg t r k n = readReg s r k n

theorem stores_foldl {a : Nat} (w : Nat) (ps : List Piece) (s : State) (hw : ∀ p ∈ ps, p ∈ wordPieces a)
    (hplain : ∀ p ∈ ps, ∀ r ∈ actingRegs, p.reg.base ≠ r.base) (hnd : (ps.map (fun p => p.reg.at p.k p.n)).Nodup) :
    Stores s (ps.foldl (fun s p => storePiece s p w) s) ps w := by
  induction ps generalizing s with
  | nil => exact ⟨rfl, fun p hp => absurd hp List.not_mem_nil, fun _ _ _ _ => rfl⟩
  | cons p ps ih =>
    rw [List.map_cons, List.nodup_cons] at hnd
    obtain ⟨hnew, hnd⟩ := hnd
    have hp := hw p List.mem_cons_self
    rw [List.foldl_cons, storePiece_plain w (hplain p List.mem_cons_self)]
    have st := ih (writeReg s p.reg p.k p.n (written s p w)) (fun q hq => hw q (List.mem_cons_of_mem _ hq))
      (fun q hq => hplain q (List.mem_cons_of_mem _ hq)) hnd
    refine ⟨st.only, fun q hq => ?_, fun r k n hr => ?_⟩
    · rcases List.mem_cons.mp hq with rfl | hq
      · rw [st.apart q.reg q.k q.n hnew, readReg_writeReg_same]
      · have hne : q.reg.at q.k q.n ≠ p.reg.at p.k p.n := fun e => hnew (e ▸ List.mem_map_of_mem hq)
        rw [st.holds q hq, written_writeReg_apart w hp hne]
    · rw [List.map_cons, List.mem_cons, not_or] at hr
      rw [st.apart r k n hr.2, readReg_writeReg_ne _ _ _ _ _ _ _ _ hr.1]

/-- A plain word written, in any state that is judged as the one in which it is plain. -/
theorem writeEntry_plainWord {s t : State} {c : Cls} {a w : Nat} (h : plainWord s c a w) (hj : JudgedAlike s t) :
    ∃ u, writeEntry c a w t = (u, none) ∧ Stores t u (poweredPieces s a) w := by
  have hacc := hj.wordAccepted (wordAccepted_of_plainWord h)
  obtain ⟨_, _, _, _, hnd, hp⟩ := h
  rw [writeEntry_accepted hacc, hj.poweredPieces]
  exact ⟨_, rfl, stores_foldl w _ t (fun p hm => mem_wordPieces_of_powered hm) (fun p hm => (hp p hm).2.2.1) hnd⟩

end Sys2Proof.Proofs
end

section
/-! SUPPORT. A request that comes into service and is performed (R379, R381 to R383): what serving it leaves beside its own effect. -/

namespace Sys2Proof.Proofs
open Sys2Proof Sys2Proof.Machine

/-! Coming into service. -/

/-- The only message that waits is served now. -/
theorem servedNow_alone {s : State} (a : Arrival) (h : s.mgmt.replayReq = none) : servedNow s [a] a = true := by
  cases hc : a.cls with
  | host => simp [servedNow, hc, h, headsOf]
  | platform => by_cases h6 : a.opcode / 256 = 6 <;> simp [servedNow, hc, keptNext, h6]
  | debug => simp [servedNow, hc, keptNext]

theorem inService_mgmt (s : State) (r : Req) : (inService s r).mgmt = s.mgmt := by
  unfold inService touchSession
  split <;> rfl

theorem inService_job (s : State) (r : Req) : (inService s r).job = s.job := by
  unfold inService touchSession
  split <;> rfl

theorem unitsKept_inService (s : State) (r : Req) : UnitsKept s (inService s r) := by
  unfold inService touchSession
  split <;> exact ⟨rfl, rfl, rfl, rfl, rfl, rfl, rfl, rfl, rfl, rfl⟩

theorem regsBut_inService (s : State) (r : Req) : RegsBut (serviceRegs r) s (inService s r) := by
  unfold inService touchSession
  split
  · next hc =>
    have hm : SEC_STATE.at 0 0 ∈ serviceRegs r := by simp [serviceRegs, hc]
    exact regsBut_setFld _ SEC_STATE_SESSION 1 0 0 hm
  · exact regsBut_of_regs_eq _ rfl

/-- A session that the request itself attaches changes nothing that the checks of a request look at. -/
theorem requestCheck_inService (s : State) (r q : Req) (op : Nat) (ext : Bool) :
    requestCheck (inService s r) q op ext = requestCheck s q op ext := by
  have j := judgedAlike_inService s r
  have hs : ∀ b, inScope (inService s r) b = inScope s b := fun b => by
    unfold inScope
    rw [j.deadbolt, j.scope]
  have hm : matrixRefuses (inService s r) op ext = matrixRefuses s op ext := by
    simp only [matrixRefuses, j.power, j.deadbolt, hs]
  simp only [requestCheck, j.jobLoaded, inService_job, hm, j.fld SEC_POLICY_DEBUG_MIN 0 0 (by decide),
    j.fld RST_STATUS_SERVICE 0 0 (by decide)]

/-- A completed request that changes state is kept among the records. -/
def recordDone (op : Nat) (r : Req) (s : State) : State := if recorded op s then keepDup s r 0 else s

theorem recordDone_eq (op : Nat) (r : Req) (s : State) : ∃ m, recordDone op r s = { s with mgmt := m } ∧ m.queue = s.mgmt.queue := by
  unfold recordDone
  split
  · exact ⟨_, rfl, rfl⟩
  · exact ⟨_, rfl, rfl⟩

/-! Replies. -/

/-- The registers that a reply writes: the PSN of a host-class one (R363). -/
def replyRegs (r : Req) : List Nat := if r.cls = .host then [ETH_QP.at 0 r.qp] else []

theorem replyRegs_subset (r : Req) : ∀ a ∈ replyRegs r, a ∈ serviceRegs r := by
  intro a ha
  unfold replyRegs at ha
  split at ha
  · next hc => simpa [serviceRegs, hc] using ha
  · cases ha

theorem ethOut_eq (s : State) (port : Nat) (e : Emit) : ∃ x o, ethOut s port e = { s with eth := x, out := o } := by
  unfold ethOut
  split <;> exact ⟨_, _, rfl⟩

/-- A message on a queue pair changes that pair, what the part sends, and no other register. -/
theorem qpSend_eq (s : State) (q n : Nat) (e : Nat → Emit) :
    ∃ g x o, qpSend s q n e = { s with regs := g, eth := x, out := o } ∧ RegsBut [ETH_QP.at 0 q] s (qpSend s q n e) := by
  unfold qpSend
  split
  · extract_lets psn k s₁ x
    obtain ⟨y, o, h⟩ := ethOut_eq (setQp s₁ q { x with unacked := x.unacked ++ [(psn, k, e psn)] }) (fld s₁ ETH_QP_PORT 0 q) (e psn)
    rw [h]
    exact ⟨_, _, _, rfl, regsBut_setFld s ETH_QP_SEND_PSN _ 0 q (List.mem_singleton.mpr rfl)⟩
  · exact ⟨_, _, _, rfl, regsBut_of_regs_eq _ rfl⟩

/-- A connected queue pair whose port is not paused sends at once. -/
theorem mem_out_qpSend {s : State} {q n : Nat} (e : Nat → Emit) (hc : fld s ETH_QP_STATE 0 q = 3)
    (hp : kGet? s.eth.paused (fld s ETH_QP_PORT 0 q) = none) : e (fld s ETH_QP_SEND_PSN 0 q) ∈ (qpSend s q n e).out := by
  have hport : ∀ x, fld (setFld s ETH_QP_SEND_PSN x 0 q) ETH_QP_PORT 0 q = fld s ETH_QP_PORT 0 q := fun x =>
    fld_setFld_disjoint s ETH_QP_SEND_PSN ETH_QP_PORT x 0 q rfl (by decide)
  unfold qpSend ethOut
  simp [hc, hport, setQp, hp, sendPacket, emit]

theorem replyTo_eq (s : State) (r : Req) (op st : Nat) (dup : Bool) (payload : List Byte) :
    ∃ g x o, replyTo s r op st dup payload = { s with regs := g, eth := x, out := o } ∧
      RegsBut (replyRegs r) s (replyTo s r op st dup payload) := by
  unfold replyTo sendReply sendMsg replyRegs
  cases hc : r.cls with
  | host => exact qpSend_eq s r.qp _ _
  | platform => exact ⟨_, _, _, rfl, regsBut_of_regs_eq _ rfl⟩
  | debug => exact ⟨_, _, _, rfl, regsBut_of_regs_eq _ rfl⟩

/-- The reply is sent where the state served has the sender's queue pair and the pauses as they were. -/
theorem repliedTo_replyTo {s u : State} (r : Req) (op st : Nat) (dup : Bool) (payload : List Byte)
    (hq : r.cls = .host → readReg u ETH_QP 0 r.qp = readReg s ETH_QP 0 r.qp) (hp : u.eth.paused = s.eth.paused) :
    repliedTo s (replyTo u r op st dup payload) r op st dup payload := by
  intro h
  unfold replyTo sendReply sendMsg
  cases hc : r.cls with
  | host =>
    obtain ⟨h3, hn⟩ := h.resolve_left (fun hn => hn hc)
    have e := hq hc
    refine ⟨_, _, mem_out_qpSend (fun _ => Emit.reply .host r.qp op r.seq st dup 0 _ _ payload) ?_ ?_⟩
    · rw [fld_congr ETH_QP_STATE 0 r.qp e, h3]
    · rw [hp, fld_congr ETH_QP_PORT 0 r.qp e, hn]
  | platform => exact ⟨_, _, List.mem_append_right _ (List.mem_singleton.mpr rfl)⟩
  | debug => exact ⟨_, _, List.mem_append_right _ (List.mem_singleton.mpr rfl)⟩

/-! Serving. -/

/-- A request that is served and succeeds: recorded where it changes state, and answered. -/
theorem serveReqst_done {s u : State} {r : Req} {op : Nat} {ext : Bool} {f : State → Answer} {payload : List Byte}
    (h : serves s r op ext) (hf : f (inService s r) = done u payload) (hu : u.mgmt.queue = []) :
    serveReqst op r ext f (fresh s) = replyTo (recordDone op r u) r op 0 false payload := by
  obtain ⟨⟨hready, hreach, hrom, hq, hreplay, _⟩, hdup, hcheck⟩ := h
  have hready' : fld (fresh s) MBX_STATUS_READY = 1 := hready
  have hreach' : clsReaches (fresh s) r.cls r.qp = true := hreach
  have hdup' : dupOf (inService s r) r = none := by
    rw [dupOf, inService_mgmt]
    exact hdup
  have hcheck' : requestCheck (inService s r) r op ext = none := by rw [requestCheck_inService, hcheck]
  have hlast : flushBad (replyTo (recordDone op r u) r op 0 false payload).mgmt.queue.length
      (replyTo (recordDone op r u) r op 0 false payload) = replyTo (recordDone op r u) r op 0 false payload := by
    obtain ⟨g, x, o, e, _⟩ := replyTo_eq (recordDone op r u) r op 0 false payload
    obtain ⟨m, em, hm⟩ := recordDone_eq op r u
    have hlen : (replyTo (recordDone op r u) r op 0 false payload).mgmt.queue.length = 0 := by
      rw [e, em]
      simp [hm, hu]
    rw [hlen]
    rfl
  have hqueue : (fresh s).mgmt.queue = [] := hq
  have hrom' : (fresh s).rst.serviceRom = false := hrom
  have hnew : ∀ a, servedNow (fresh s) [a] a = true := fun a => servedNow_alone a hreplay
  have hsession : touchSession (fresh s) r.cls = inService s r := rfl
  simp only [serveReqst, hready', hreach', hrom', hqueue, hnew, ne_eq, not_true_eq_false, Bool.true_eq_false, or_self, if_false,
    Bool.false_eq_true, false_and, List.any_nil, List.nil_append, List.find?_nil, Option.getD_none, Bool.not_true,
    removeFirst, Bool.false_and, hsession, hdup', hcheck', hf, done]
  exact hlast

/-- A host-class request in service comes from a mailbox queue pair, whose register no closing writes. -/
theorem closing_serviceRegs {s : State} {r : Req} (h : taken s r) : ∀ a ∈ serviceRegs r, closing a = false := by
  obtain ⟨_, hreach, _⟩ := h
  intro a ha
  unfold serviceRegs at ha
  cases hc : r.cls with
  | host =>
    rw [hc] at ha
    simp only [clsReaches, hc, Bool.and_eq_true, decide_eq_true_eq] at hreach
    have all : ∀ q < 8, closing (ETH_QP.at 0 q) = false := by decide
    obtain rfl := List.mem_singleton.mp ha
    exact all r.qp hreach.1.2
  | platform =>
    rw [hc] at ha
    cases ha
  | debug =>
    rw [hc] at ha
    obtain rfl := List.mem_singleton.mp ha
    decide

/-- A job state or power state is as before where no register written is one of the closing. -/
theorem states_of_regsBut {ex : List Nat} {s t : State} (h : RegsBut ex s t) (hx : ∀ a ∈ ex, closing a = false) :
    jobState t = jobState s ∧ power t = power s := by
  have apart : ∀ a, closing a = true → a ∉ ex := fun a ha hm => by
    rw [hx a hm] at ha
    cases ha
  exact ⟨fld_congr _ 0 0 (h _ 0 0 (apart _ (by decide))), fld_congr _ 0 0 (h _ 0 0 (apart _ (by decide)))⟩

/-- What `requestFrame` speaks of beside the registers. -/
structure RequestKept (s t : State) : Prop where
  mem : t.mem = s.mem
  tiles : t.tiles = s.tiles
  stash : t.stash = s.stash
  graphs : t.graphs = s.graphs
  embs : t.embs = s.embs
  brys : t.brys = s.brys
  sbn : t.sbn = s.sbn
  step : t.step = s.step
  power : t.power = s.power
  job : t.job = s.job

theorem requestFrame_finish {s v : State} {r : Req} {ex : List Nat} (k : RequestKept s v) (hraised : v.raised = [])
    (hregs : RegsBut (serviceRegs r ++ ex) s v) (hx : ∀ a ∈ serviceRegs r ++ ex, closing a = false) :
    requestFrame r ex s (finish s v) := by
  have quiet := lowestFault_nil hraised
  have q := finish_quiet s v quiet
  obtain ⟨hjob, hpow⟩ := states_of_regsBut hregs hx
  have hpow' : power (finish s v) = power v := finish_fld s v PWR_STATE_STATE 0 0 quiet (by decide)
  exact ⟨sameMem_finish s (fun a => by rw [k.mem]), ⟨q.tiles.trans k.tiles, q.stash.trans k.stash⟩,
    ⟨q.graphs.trans k.graphs, q.embs.trans k.embs, q.brys.trans k.brys⟩, q.sbn.trans k.sbn, q.step.trans k.step,
    q.power.trans k.power, q.job.trans k.job, (jobState_finish_quiet s v quiet).trans hjob, hpow'.trans hpow,
    hregs.sameRegs_finish s⟩

/-- A state that differs from the one served in its registers alone, recorded and replied to. -/
theorem requestKept_replyTo {s u : State} {r : Req} {op st : Nat} {dup : Bool} {payload : List Byte}
    (hu : u = { inService s r with regs := u.regs }) :
    RequestKept s (replyTo (recordDone op r u) r op st dup payload) ∧
      (replyTo (recordDone op r u) r op st dup payload).raised = [] := by
  obtain ⟨m, em, _⟩ := recordDone_eq op r u
  obtain ⟨g, x, o, e, _⟩ := replyTo_eq (recordDone op r u) r op st dup payload
  rw [e, em, hu]
  unfold inService touchSession
  split <;> exact ⟨⟨rfl, rfl, rfl, rfl, rfl, rfl, rfl, rfl, rfl, rfl⟩, rfl⟩

/-- A request whose effect is on registers alone is served with its payload. `also` may speak of any register but that of the
reply. -/
theorem servedWith_of_registers {c : Instr} {s u : State} {r : Req} {op : Nat} {ext : Bool} {f : State → Answer}
    {payload : List Byte} {ex : List Nat} {also : State → Prop} (hc : exec c s = .next (finish s (serveReqst op r ext f (fresh s))))
    (h : serves s r op ext) (hf : f (inService s r) = done u payload) (hu : u = { inService s r with regs := u.regs })
    (hregs : RegsBut ex (inService s r) u) (hx : ∀ a ∈ ex, closing a = false) (hqp : r.cls = .host → ETH_QP.at 0 r.qp ∉ ex)
    (halso : ∀ t, (∀ (q : Reg) (k n : Nat), q.at k n ∉ replyRegs r → closing (q.at k n) = false → readReg t q k n = readReg u q k n) →
      also t) :
    servedWith c s r op 0 payload ex also := by
  have hq : u.mgmt.queue = [] := by
    obtain ⟨_, _, _, hq, _⟩ := h.1
    rw [hu]
    simpa [inService_mgmt] using hq
  rw [serveReqst_done h hf hq] at hc
  obtain ⟨m, em, _⟩ := recordDone_eq op r u
  obtain ⟨_, _, _, _, hr⟩ := replyTo_eq (recordDone op r u) r op 0 false payload
  have hrec : RegsBut ex u (recordDone op r u) := regsBut_of_regs_eq _ (by rw [em])
  have hin : ∀ {t t' : State}, RegsBut ex t t' → RegsBut (serviceRegs r ++ ex) t t' := fun hb =>
    hb.mono (fun _ => List.mem_append_right _)
  have hv : RegsBut (serviceRegs r ++ ex) s (replyTo (recordDone op r u) r op 0 false payload) :=
    ((regsBut_inService s r).mono (fun _ => List.mem_append_left _)).trans ((hin hregs).trans ((hin hrec).trans
      (hr.mono (fun a ha => List.mem_append_left _ (replyRegs_subset r a ha)))))
  have hclosed : ∀ a ∈ serviceRegs r ++ ex, closing a = false := fun a ha =>
    (List.mem_append.mp ha).elim (closing_serviceRegs h.1 a) (hx a)
  obtain ⟨hkept, hraised⟩ := requestKept_replyTo (s := s) (u := u) (r := r) (op := op) (st := 0) (dup := false)
    (payload := payload) hu
  have heth : (recordDone op r u).eth.paused = s.eth.paused := by
    rw [em, hu]
    exact congrArg EthS.paused (unitsKept_inService s r).eth
  have hqreg : r.cls = .host → readReg (recordDone op r u) ETH_QP 0 r.qp = readReg s ETH_QP 0 r.qp := by
    intro hh
    have hfirst : readReg (inService s r) ETH_QP 0 r.qp = readReg s ETH_QP 0 r.qp := by
      simp [inService, touchSession, hh, fresh, readReg]
    exact ((hregs.trans hrec) ETH_QP 0 r.qp (hqp hh)).trans hfirst
  have hreply := repliedTo_replyTo (s := s) r op 0 false payload hqreg heth
  refine ⟨_, hc, fun hcond => ?_, requestFrame_finish hkept hraised hv hclosed, halso _ fun q k n hq hcl => ?_⟩
  · rw [finish_out]
    exact hreply hcond
  · rw [finish_readReg_any s _ q k n hcl, hr q k n hq, em]
    rfl

end Sys2Proof.Proofs
end

section
/-! SUPPORT. What the commands that write registers do (R9, R27, R323, R345, R385), and a word of a tile's memory (R151, R153, R157,
R219). -/

namespace Sys2Proof.Proofs
open Sys2Proof Sys2Proof.Machine

theorem next_of_effect {c : Instr} {s u : State} {f : State → State} (hc : exec c s = runCmd f s) (hu : f (fresh s) = u) :
    exec c s = .next (finish s u) := by
  rw [hc, ← hu]
  rfl

theorem unitsKept_of_regs {s u : State} (h : u = { fresh s with regs := u.regs }) : UnitsKept s u := by
  rw [h]
  exact ⟨rfl, rfl, rfl, rfl, rfl, rfl, rfl, rfl, rfl, rfl⟩

/-! Words of registers. -/

theorem registerWrite_plainWord {s : State} {c : Cls} {a : Nat} {w : BitVec 64} (h : plainWord s c a w.toNat) :
    ∃ t, exec (.registerWrite c a w) s = .next t ∧ wordStored s t a w.toNat ∧ sameUnits s t ∧ sameRegs (wordRegs s a) s t := by
  have j := judgedAlike_fresh s
  obtain ⟨u, hu, st⟩ := writeEntry_plainWord h j
  obtain ⟨_, hbusy, halign, _, _, hp⟩ := h
  have hf : registerWrite c a w (fresh s) = u := by
    unfold registerWrite writeOne
    rw [if_neg (not_not_intro halign), j.bankBusy, hbusy, hu]
    rfl
  refine ⟨_, next_of_effect (exec_registerWrite c a w s) hf, fun p hm => ?_, ?_, ?_⟩
  · rw [finish_readReg_any s u _ _ _ (hp p hm).2.2.2, st.holds p hm]
    exact written_congr _ rfl rfl
  · exact ((unitsKept_of_regs st.only).trans (unitsKept_finish s u)).sameUnits
  · exact RegsBut.sameRegs_finish s (fun r k n hr => st.apart r k n hr)

theorem regWrite_plainWord {s : State} {r : Req} {a w : BitVec 64} (h : plainWord s r.cls a.toNat w.toNat) (ha : a.toNat < 2 ^ 48)
    (hs : serves s r 0x0302) (hqp : r.cls = .host → ETH_QP.at 0 r.qp ∉ wordRegs s a.toNat) :
    servedWith (.regWrite r [(a, w)]) s r 0x0302 0 (leBytes 2 0xFFFF) (wordRegs s a.toNat)
      (fun t => wordStored (inService s r) t a.toNat w.toNat) := by
  have j := judgedAlike_inService s r
  obtain ⟨u, hu, st⟩ := writeEntry_plainWord h j
  obtain ⟨_, hbusy, halign, _, _, hp⟩ := h
  have hf : (if entriesOk [(a, w)] then entriesAnswer (writeEntries r.cls 0 (entryNats [(a, w)]) (inService s r))
      else refuse (inService s r) 0x23) = done u (leBytes 2 0xFFFF) := by
    have hok : entriesOk [(a, w)] = true := by
      simp only [entriesOk, List.length_cons, List.length_nil, List.all_cons, List.all_nil, ha, halign]
      rfl
    simp only [hok, if_true, entryNats, List.map_cons, List.map_nil, writeEntries, hu, entriesAnswer]
  have hrun : exec (.regWrite r [(a, w)]) s = .next (finish s (serveReqst 0x0302 r false (fun s =>
      if entriesOk [(a, w)] then entriesAnswer (writeEntries r.cls 0 (entryNats [(a, w)]) s) else refuse s 0x23) (fresh s))) := by
    refine next_of_effect (exec_regWrite r [(a, w)] s) ?_
    unfold regWrite
    rw [if_neg]
    rw [List.any_cons, List.any_nil, Bool.or_false, (judgedAlike_fresh s).bankBusy, hbusy]
    decide
  have hclosing : ∀ b ∈ wordRegs s a.toNat, closing b = false := by
    intro b hb
    obtain ⟨p, hm, rfl⟩ := List.mem_map.mp hb
    exact (hp p hm).2.2.2
  refine servedWith_of_registers hrun hs hf st.only (fun q k n hq => st.apart q k n hq) hclosing hqp fun t ht p hm => ?_
  have hm' : p ∈ poweredPieces s a.toNat := by
    rw [← j.poweredPieces]
    exact hm
  have hnot : p.reg.at p.k p.n ∉ replyRegs r := by
    unfold replyRegs
    split
    · next hh => exact fun he => hqp hh (List.mem_singleton.mp he ▸ List.mem_map_of_mem hm')
    · exact List.not_mem_nil
  rw [ht _ _ _ hnot (hp p hm').2.2.2]
  exact st.holds p hm'

/-! A register that is alone in its word. -/

/-- Registers outside the tiles' windows are no tile's memory. -/
theorem tileMemory_of_le (s : State) {a : Nat} (h : tileBase 96 ≤ a) : tileMemory s a = none := by
  have hw : tileWindow a = none := if_neg (by omega)
  rw [tileMemory, hw]

theorem blockPowered_beside_tiles {s : State} {b : Block} (k : Nat) (hb : b = .pane ∨ b = .sbn) (hp : 2 ≤ power s) :
    blockPowered s b k = true := by
  have h0 : power s ≠ 0 := by omega
  have h1 : power s ≠ 1 := by omega
  rcases hb with rfl | rfl <;> simp [blockPowered, h0, h1]

theorem writeOne_sole {s : State} {c : Cls} {a w : Nat} {p : Piece} (ht : tileMemory s a = none) (hw : wordPieces a = [p])
    (hp : blockPowered s p.reg.block p.k = true) (hc : classRefuses s c p.reg.block (p.reg.base == ETH_ADDR.base) = none)
    (hj : jobRefuses s p w = false) : writeOne c a w s = storePiece s p w := by
  have hps : poweredPieces s a = [p] := by simp [poweredPieces, hw, hp]
  have hacc : wordAccepted s c a w := ⟨ht, by simp [hps], fun q hq => by
    obtain rfl := List.mem_singleton.mp (hps ▸ hq)
    exact ⟨hc, hj⟩⟩
  rw [writeOne, writeEntry_accepted hacc, hps]
  rfl

/-- A write that the loaded job refuses leaves everything as it was. -/
theorem writeOne_refused {s : State} {c : Cls} {i : Instr} {a w : Nat} (hi : exec i s = runCmd (writeOne c a w) s)
    (ht : tileBase 96 ≤ a) (hj : ∀ p ∈ wordPieces a, jobRefuses s p w = true) :
    ∃ t, exec i s = .next t ∧ sameUnits s t ∧ sameRegs [] s t := by
  have hj' : ∀ p ∈ wordPieces a, jobRefuses (fresh s) p w = true := fun p hp => by
    rw [(judgedAlike_fresh s).jobRefuses w hp]
    exact hj p hp
  obtain ⟨st, he⟩ := writeEntry_refused (c := c) (tileMemory_of_le (fresh s) ht) hj'
  have hu : ∃ l, writeOne c a w (fresh s) = { fresh s with raised := l } := by
    unfold writeOne
    rw [he]
    split
    · next h =>
      cases h
      exact ⟨_, rfl⟩
    · next h =>
      cases h
      exact ⟨_, rfl⟩
  obtain ⟨l, hu⟩ := hu
  refine ⟨_, next_of_effect hi hu, ?_, RegsBut.sameRegs_finish s (regsBut_of_regs_eq _ rfl)⟩
  have k : UnitsKept s { fresh s with raised := l } := ⟨rfl, rfl, rfl, rfl, rfl, rfl, rfl, rfl, rfl, rfl⟩
  exact (k.trans (unitsKept_finish s _)).sameUnits

/-- The one piece of each of the words that have a command of their own. -/
def paneCfgPiece : Piece := ⟨PANE_CFG, 0, 0, 0, 0, 32⟩
def sbnIdPiece : Piece := ⟨SBN_ID, 0, 0, 0, 0, 32⟩
def sbnRoutePiece (n : Nat) : Piece := ⟨SBN_ROUTE, 0, n, 0, 0, 64⟩

theorem wordPieces_paneCfg : wordPieces PANE_CFG.base = [paneCfgPiece] := by decide +kernel

theorem wordPieces_sbnId : wordPieces SBN_ID.base = [sbnIdPiece] := by decide +kernel

theorem wordPieces_sbnRoute : ∀ n : Fin 16, wordPieces (SBN_ROUTE.at 0 n.val) = [sbnRoutePiece n.val] := by decide +kernel

theorem not_capped_own_commands : PANE_CFG.base ∉ cappedBases ∧ SBN_ID.base ∉ cappedBases ∧ SBN_ROUTE.base ∉ cappedBases := by
  decide +kernel

/-- The job lock of `PANE_CFG` is on its length alone (R27). -/
theorem jobRefuses_paneCfg (s : State) (w : Nat) :
    jobRefuses s paneCfgPiece w = (jobLoaded s && decide (w % 4 ≠ fld s PANE_CFG_LEN)) := by
  have hlen : PANE_CFG_LEN.get (written s paneCfgPiece w) = w % 4 :=
    getBits_written not_capped_own_commands.1 rfl (by decide) (by decide) (by decide) (by decide)
  unfold jobRefuses
  rw [hlen]
  rfl

theorem jobRefuses_sbn (s : State) (w n : Nat) :
    jobRefuses s sbnIdPiece w = jobLoaded s ∧ jobRefuses s (sbnRoutePiece n) w = jobLoaded s := by
  unfold jobRefuses
  constructor <;> exact Bool.and_true _

theorem paneCfgWrite_stores {s : State} {c : Cls} {v : BitVec 32} (hp : 2 ≤ power s) (hc : classRefuses s c .pane false = none)
    (hj : jobLoaded s = false ∨ v.toNat % 4 = fld s PANE_CFG_LEN) :
    ∃ t, exec (.paneCfgWrite c v) s = .next t ∧ fld t PANE_CFG_LEN = v.toNat % 4 ∧ fld t PANE_CFG_SCHED_EN = bitsOf 8 1 v.toNat ∧
      sameUnits s t ∧ sameRegs [PANE_CFG.at 0 0] s t := by
  have hjob : jobRefuses (fresh s) paneCfgPiece v.toNat = false := by
    rw [(judgedAlike_fresh s).jobRefuses _ (by rw [wordPieces_paneCfg]; exact List.mem_singleton.mpr rfl), jobRefuses_paneCfg]
    rcases hj with h | h <;> simp [h]
  have hu := writeOne_sole (c := c) (tileMemory_of_le (fresh s) (by decide)) wordPieces_paneCfg
    (blockPowered_beside_tiles 0 (.inl rfl) hp) hc hjob
  rw [storePiece_plain _ (by decide)] at hu
  have hread : ∀ (lo n : Nat), getBits lo n (readReg (finish s (writeReg (fresh s) PANE_CFG 0 0 (written (fresh s) paneCfgPiece v.toNat)))
      PANE_CFG 0 0) = getBits lo n (written (fresh s) paneCfgPiece v.toNat) := fun lo n => by
    rw [finish_readReg_any _ _ _ _ _ (by decide), readReg_writeReg_same]
  refine ⟨_, next_of_effect (exec_paneCfgWrite c v s) hu, (hread 0 2).trans ?_, (hread 8 1).trans ?_, ?_, ?_⟩
  · exact getBits_written not_capped_own_commands.1 rfl (by decide) (by decide) (by decide) (by decide)
  · exact getBits_written not_capped_own_commands.1 rfl (by decide) (by decide) (by decide) (by decide)
  · exact ((unitsKept_of_regs rfl).trans (unitsKept_finish s _)).sameUnits
  · exact RegsBut.sameRegs_finish s (regsBut_writeReg (fresh s) _ _ _ _ (List.mem_singleton.mpr rfl))

theorem sbnIdWrite_stores {s : State} {c : Cls} {v : BitVec 32} (hp : 2 ≤ power s) (hc : classRefuses s c .sbn false = none)
    (hj : jobLoaded s = false) :
    ∃ t, exec (.sbnIdWrite c v) s = .next t ∧ fld t SBN_ID_PART = v.toNat % 16 ∧ fld t SBN_ID_VALID = bitsOf 8 1 v.toNat ∧
      sameUnits s t ∧ sameRegs [SBN_ID.at 0 0] s t := by
  have hjob : jobRefuses (fresh s) sbnIdPiece v.toNat = false := (jobRefuses_sbn (fresh s) v.toNat 0).1.trans hj
  have hu := writeOne_sole (c := c) (tileMemory_of_le (fresh s) (by decide)) wordPieces_sbnId
    (blockPowered_beside_tiles 0 (.inr rfl) hp) hc hjob
  rw [storePiece_plain _ (by decide)] at hu
  have hread : ∀ (lo n : Nat), getBits lo n (readReg (finish s (writeReg (fresh s) SBN_ID 0 0 (written (fresh s) sbnIdPiece v.toNat)))
      SBN_ID 0 0) = getBits lo n (written (fresh s) sbnIdPiece v.toNat) := fun lo n => by
    rw [finish_readReg_any _ _ _ _ _ (by decide), readReg_writeReg_same]
  refine ⟨_, next_of_effect (exec_sbnIdWrite c v s) hu, (hread 0 4).trans ?_, (hread 8 1).trans ?_, ?_, ?_⟩
  · exact getBits_written not_capped_own_commands.2.1 rfl (by decide) (by decide) (by decide) (by decide)
  · exact getBits_written not_capped_own_commands.2.1 rfl (by decide) (by decide) (by decide) (by decide)
  · exact ((unitsKept_of_regs rfl).trans (unitsKept_finish s _)).sameUnits
  · exact RegsBut.sameRegs_finish s (regsBut_writeReg (fresh s) _ _ _ _ (List.mem_singleton.mpr rfl))

/-- A route is kept until the mullion takes it (R326). -/
theorem storePiece_sbnRoute (s : State) (n w : Nat) : storePiece s (sbnRoutePiece n) w =
    { s with sbn := { s.sbn with routePending := kSet s.sbn.routePending n (written s (sbnRoutePiece n) w).toNat } } := by
  unfold storePiece
  have h : ∀ r ∈ [GRE_CFG, EMB_CFG, BRY_ILV, RST_HANG], (sbnRoutePiece n).reg.base ≠ r.base := by
    show ∀ r ∈ [GRE_CFG, EMB_CFG, BRY_ILV, RST_HANG], SBN_ROUTE.base ≠ r.base
    decide
  simp only [List.forall_mem_cons] at h
  obtain ⟨h1, h2, h3, h4, _⟩ := h
  simp only [if_neg h1, if_neg h2, if_neg h3, if_neg h4]
  rfl

theorem sbnRouteWrite_pends {s : State} {c : Cls} {n : Fin 16} {v : BitVec 64} (hp : 2 ≤ power s)
    (hc : classRefuses s c .sbn false = none) (hj : jobLoaded s = false) :
    ∃ t x, exec (.sbnRouteWrite c n v) s = .next t ∧ kGet? t.sbn.routePending n.val = some x ∧ x % 2 ^ 22 = v.toNat % 2 ^ 22 ∧
      (∀ m, m ≠ n.val → kGet? t.sbn.routePending m = kGet? s.sbn.routePending m) ∧ sameMem s t ∧ sameTiles s t ∧ sameBases s t ∧
      t.eth = s.eth ∧ sameRegs [] s t := by
  have hjob : jobRefuses (fresh s) (sbnRoutePiece n.val) v.toNat = false := (jobRefuses_sbn (fresh s) v.toNat n.val).2.trans hj
  have hbase : tileBase 96 ≤ SBN_ROUTE.at 0 n.val := by
    have : SBN_ROUTE.base ≤ SBN_ROUTE.at 0 n.val := by unfold Reg.at; omega
    exact Nat.le_trans (by decide) this
  have hu := writeOne_sole (c := c) (tileMemory_of_le (fresh s) hbase) (wordPieces_sbnRoute n)
    (blockPowered_beside_tiles 0 (.inr rfl) hp) hc hjob
  rw [storePiece_sbnRoute] at hu
  have k := finish_kept s { fresh s with sbn := { s.sbn with
    routePending := kSet s.sbn.routePending n.val (written (fresh s) (sbnRoutePiece n.val) v.toNat).toNat } }
  refine ⟨_, (written (fresh s) (sbnRoutePiece n.val) v.toNat).toNat, next_of_effect (exec_sbnRouteWrite c n v s) hu, ?_, ?_, ?_,
    sameMem_finish s (fun _ => rfl), ⟨k.tiles, k.stash⟩, ⟨k.graphs, k.embs, k.brys⟩, k.eth,
    RegsBut.sameRegs_finish s (regsBut_of_regs_eq _ rfl)⟩
  · exact (congrArg (fun x => kGet? x.routePending n.val) k.sbn).trans (kGet?_kSet_same _ _ _)
  · exact getBits_written (s := fresh s) (p := sbnRoutePiece n.val) (lo := 0) (n := 22) not_capped_own_commands.2.2 rfl
      (Nat.le_refl 0) (show 0 + 22 ≤ 0 + 64 by decide) (by decide)
      (show ∀ j < 22, SBN_ROUTE.rw.testBit (0 + j) = true by decide)
  · exact fun m hm => (congrArg (fun x => kGet? x.routePending m) k.sbn).trans (kGet?_kSet_ne _ _ hm)

/-- `SBN_ID` and the routes take no write while a job is loaded (R345). -/
theorem sbnWrites_locked {s : State} {c : Cls} {v : BitVec 32} {n : Fin 16} {w : BitVec 64} {i : Instr} (hj : jobLoaded s = true)
    (hi : i ∈ [Instr.sbnIdWrite c v, .sbnRouteWrite c n w]) : ∃ t, exec i s = .next t ∧ sameUnits s t ∧ sameRegs [] s t := by
  rcases eq_or_eq_of_mem hi with rfl | rfl
  · refine writeOne_refused (exec_sbnIdWrite c v s) (by decide) fun p hp => ?_
    rw [wordPieces_sbnId] at hp
    obtain rfl := List.mem_singleton.mp hp
    exact (jobRefuses_sbn s _ 0).1.trans hj
  · have hbase : SBN_ROUTE.base ≤ SBN_ROUTE.at 0 n.val := by unfold Reg.at; omega
    refine writeOne_refused (exec_sbnRouteWrite c n w s) (Nat.le_trans (by decide) hbase) fun p hp => ?_
    rw [wordPieces_sbnRoute] at hp
    obtain rfl := List.mem_singleton.mp hp
    exact (jobRefuses_sbn s _ n.val).2.trans hj

/-- `PANE_CFG` takes no other length while a job is loaded (R27). -/
theorem paneCfgWrite_locked {s : State} (c : Cls) {v : BitVec 32} (hj : jobLoaded s = true) (hv : v.toNat % 4 ≠ fld s PANE_CFG_LEN) :
    ∃ t, exec (.paneCfgWrite c v) s = .next t ∧ sameUnits s t ∧ sameRegs [] s t := by
  refine writeOne_refused (exec_paneCfgWrite c v s) (by decide) fun p hp => ?_
  rw [wordPieces_paneCfg] at hp
  obtain rfl := List.mem_singleton.mp hp
  rw [jobRefuses_paneCfg, hj, decide_eq_true hv]
  rfl

end Sys2Proof.Proofs
end

section
/-! SUPPORT. A word of a tile's scratchpad or banks that management writes (R151, R153, R157, R219). -/

namespace Sys2Proof.Proofs
open Sys2Proof Sys2Proof.Machine

/-! Numbers and their bytes, for values that need not fit. -/

theorem leNat_leBytes_mod (n v : Nat) : leNat (leBytes n v) = v % 256 ^ n := by
  induction n generalizing v with
  | zero => simp [leBytes, leNat, Nat.mod_one]
  | succ n ih =>
    rw [leBytes, leNat, ih, BitVec.toNat_ofNat, Nat.pow_succ' (n := n), Nat.mod_mul]

theorem memReads_add (m : List Host.Cell) (a i j : Nat) : memReads m a (i + j) = memReads m a i ++ memReads m (a + i) j := by
  induction i generalizing a with
  | zero => simp [memReads]
  | succ i ih =>
    rw [show i + 1 + j = (i + j) + 1 by omega, memReads, ih, memReads, List.cons_append, show a + 1 + i = a + (i + 1) by omega]

theorem leBytes_add (i j v : Nat) : leBytes (i + j) v = leBytes i v ++ leBytes j (v / 256 ^ i) := by
  induction i generalizing v with
  | zero => simp [leBytes]
  | succ i ih =>
    rw [show i + 1 + j = (i + j) + 1 by omega, leBytes, ih, leBytes, List.cons_append, Nat.div_div_eq_div_mul, Nat.pow_succ,
      Nat.mul_comm 256]

theorem load_store_leBytes (s : State) (a n v : Nat) : load (store s a (leBytes n v)) a n = leBytes n v := by
  have e := load_store_same s a (leBytes n v)
  rwa [leBytes_length] at e

/-- The two FP32 words of eight bytes. -/
theorem loadWords_of_load {s : State} {a : Nat} {w : BitVec 64} (h : load s a 8 = leBytes 8 w.toNat) :
    loadWords s a 2 = [w.setWidth 32, (w >>> 32).setWidth 32] := by
  have e : memReads s.mem a 4 ++ memReads s.mem (a + 4) 4 = leBytes 4 w.toNat ++ leBytes 4 (w.toNat / 256 ^ 4) := by
    rw [← memReads_add, ← leBytes_add]
    exact h
  obtain ⟨e1, e2⟩ := List.append_inj e (by simp)
  have lo : loadW s a = w.setWidth 32 := by
    apply BitVec.eq_of_toNat_eq
    rw [loadW, loadNat, load, e1, leNat_leBytes_mod]
    simp
  have hi : loadW s (a + 4) = (w >>> 32).setWidth 32 := by
    apply BitVec.eq_of_toNat_eq
    rw [loadW, loadNat, load, e2, leNat_leBytes_mod]
    simp [Nat.shiftRight_eq_div_pow]
  rw [← lo, ← hi]
  rfl

/-! Stores of management and RDMA. -/

theorem hostLines_eq (s : State) (a n : Nat) :
    ∃ g, hostLines s a n = { s with regs := g } ∧ RegsBut [TILE_EVT.at (tileOfAddr a) 0] s (hostLines s a n) := by
  unfold hostLines
  split
  · exact ⟨_, rfl, regsBut_of_regs_eq _ rfl⟩
  · exact ⟨_, rfl, regsBut_bump s TILE_EVT_HOST_LINES _ _ 0 (List.mem_singleton.mpr rfl)⟩

/-- The sticky flag that says that a bank of a tile took a non-finite word. -/
def nfFlag (b : Nat) : Field := if b = 0 then ACC_FLAGS_NF0 else ACC_FLAGS_NF1

theorem nfFlag_reg (b : Nat) : (nfFlag b).reg = ACC_FLAGS := by
  unfold nfFlag
  split <;> rfl

theorem hostNf_eq (s : State) (a n : Nat) :
    ∃ g x, hostNf s a n = { s with regs := g, tiles := x } ∧ RegsBut [ACC_FLAGS.at (tileOfAddr a) 0] s (hostNf s a n) ∧
      ∀ j, j ≠ tileOfAddr a → tileS (hostNf s a n) j = tileS s j := by
  unfold hostNf
  extract_lets t o b
  split
  · refine ⟨_, _, rfl, ?_, fun j hj => kGetD_kPut_ne _ _ _ _ hj⟩
    refine regsBut_setFld s (nfFlag b) 1 t 0 ?_
    rw [nfFlag_reg]
    exact List.mem_singleton.mpr rfl
  · exact ⟨_, _, rfl, regsBut_of_regs_eq _ rfl, fun _ _ => rfl⟩

/-- A word in the scratchpad raises no flag. -/
theorem hostNf_spad {s : State} {a n : Nat} (h : (a - 0x10000000000) % 0x1000000 < bankBase 0) : hostNf s a n = s := by
  unfold hostNf
  extract_lets t o b
  exact if_neg (fun c => absurd c.1 (Nat.not_le.mpr h))

/-- A word in a bank that is not finite raises the bank's flag (R219). -/
theorem fld_hostNf {s : State} {a : Nat} {w : BitVec 64} (hl : bankBase 0 ≤ (a - 0x10000000000) % 0x1000000)
    (hh : (a - 0x10000000000) % 0x1000000 < bankBase 2) (ha : a % 8 = 0) (hload : load s a 8 = leBytes 8 w.toNat)
    (hw : (nfW (w.setWidth 32) || nfW ((w >>> 32).setWidth 32)) = true) :
    fld (hostNf s a 8) (nfFlag (((a - 0x10000000000) % 0x1000000 - bankBase 0) / 0x10000)) (tileOfAddr a) = 1 := by
  have hwords : (loadWords s (a / 4 * 4) ((a % 4 + 8 + 3) / 4)).any nfW = true := by
    rw [show a / 4 * 4 = a by omega, show (a % 4 + 8 + 3) / 4 = 2 by omega, loadWords_of_load hload]
    simpa using hw
  unfold hostNf
  extract_lets t o b
  rw [if_pos ⟨hl, hh, hwords⟩]
  have hbits : (nfFlag b).lo + (nfFlag b).bits ≤ 512 ∧ 1 % 2 ^ (nfFlag b).bits = 1 := by
    unfold nfFlag
    split <;> decide
  exact (fld_setFld_same s (nfFlag b) 1 t 0 hbits.1).trans hbits.2

/-- What a store of management leaves beside the bytes: only the tile's own registers of counts and flags, and the state of that tile. -/
theorem hostStore_frame (s : State) (a : Nat) (bs : List Byte) :
    ∃ g x, hostStore s a bs = { store s a bs with regs := g, tiles := x } ∧
      RegsBut [TILE_EVT.at (tileOfAddr a) 0, ACC_FLAGS.at (tileOfAddr a) 0] s (hostStore s a bs) ∧
      ∀ j, j ≠ tileOfAddr a → tileS (hostStore s a bs) j = tileS s j := by
  unfold hostStore
  obtain ⟨g, e, hr⟩ := hostLines_eq (store s a bs) a bs.length
  obtain ⟨g', x, e', hr', ht⟩ := hostNf_eq (hostLines (store s a bs) a bs.length) a bs.length
  refine ⟨g', x, ?_, ?_, fun j hj => (ht j hj).trans ?_⟩
  · rw [e', e]
  · refine RegsBut.trans (regsBut_of_regs_eq _ rfl) ((hr.mono fun b hb => ?_).trans (hr'.mono fun b hb => ?_))
    · exact List.mem_cons.mpr (.inl (List.mem_singleton.mp hb))
    · exact List.mem_cons_of_mem _ hb
  · rw [e]
    rfl

/-- A tile's memory lies in its window (R151). -/
theorem tileMemory_some {s : State} {a k o : Nat} (h : tileMemory s a = some (k, o)) :
    tileWindow a = some (k, o) ∧ tileOfAddr a = k ∧ (a - 0x10000000000) % 0x1000000 = o ∧ 0x10000000000 ≤ a ∧ k < 96 := by
  unfold tileMemory at h
  split at h
  · next t o' hw =>
    split at h
    · simp only [Option.some.injEq, Prod.mk.injEq] at h
      obtain ⟨rfl, rfl⟩ := h
      refine ⟨hw, ?_⟩
      unfold tileWindow at hw
      split at hw
      · next hr =>
        simp only [Option.some.injEq, Prod.mk.injEq] at hw
        obtain ⟨rfl, rfl⟩ := hw
        refine ⟨rfl, rfl, hr.1, ?_⟩
        have := hr.2
        unfold tileBase at this
        omega
      · cases hw
    · cases h
  · cases h

theorem closing_tileEvt_accFlags {k : Nat} (h : k < 96) : closing (TILE_EVT.at k 0) = false ∧ closing (ACC_FLAGS.at k 0) = false := by
  constructor <;> refine closing_of_lt _ ?_
  · show 0x010000C00050 + k * 0x1000000 + 0 * 0 < _
    omega
  · show 0x010000C00408 + k * 0x1000000 + 0 * 0 < _
    omega

theorem tileEvt_ne_accFlags (k : Nat) : ACC_FLAGS.at k 0 ∉ [TILE_EVT.at k 0] := by
  rw [List.mem_singleton]
  show 0x010000C00408 + k * 0x1000000 + 0 * 0 ≠ 0x010000C00050 + k * 0x1000000 + 0 * 0
  omega

/-- A word for a tile's memory goes there. -/
theorem registerWrite_tileMemory {s : State} {c : Cls} {a k o : Nat} (w : BitVec 64) (ht : tileMemory s a = some (k, o))
    (ho : o < 0x820000) (ha : a % 8 = 0) (hc : classRefuses s c .tile false = none) (hb : bankBusy s a 8 = false) :
    exec (.registerWrite c a w) s = .next (finish s (hostStore (fresh s) a (leBytes 8 w.toNat))) := by
  have j := judgedAlike_fresh s
  refine next_of_effect (exec_registerWrite c a w s) ?_
  unfold registerWrite writeOne writeEntry
  rw [if_neg (not_not_intro ha), j.bankBusy, hb, j.tileMemory, ht]
  dsimp only
  rw [j.classRefuses, hc]
  dsimp only
  simp only [if_pos ho, Bool.false_eq_true, if_false]

/-- A word in the scratchpad is counted and stored, no more. -/
theorem hostStore_spad {s : State} {a : Nat} (bs : List Byte) (h : (a - 0x10000000000) % 0x1000000 < 0x800000) :
    hostStore s a bs = hostLines (store s a bs) a bs.length :=
  hostNf_spad h

theorem nfFlag_bank (o : Nat) (h : 0x800000 ≤ o) :
    nfFlag ((o - bankBase 0) / 0x10000) = if o < 0x810000 then ACC_FLAGS_NF0 else ACC_FLAGS_NF1 := by
  have hbase : bankBase 0 = 0x800000 := rfl
  have hb : (o - bankBase 0) / 0x10000 = 0 ↔ o < 0x810000 := by omega
  simp only [nfFlag, hb]

/-- A word in a bank that is not finite raises the flag of its bank (R219). -/
theorem fld_hostStore_bank {s : State} {a k o : Nat} {w : BitVec 64} (htile : tileOfAddr a = k)
    (hoff : (a - 0x10000000000) % 0x1000000 = o) (ha : a % 8 = 0) (hlo : 0x800000 ≤ o) (hhi : o < 0x820000)
    (hw : (nfW (w.setWidth 32) || nfW ((w >>> 32).setWidth 32)) = true) :
    fld (hostStore s a (leBytes 8 w.toNat)) (if o < 0x810000 then ACC_FLAGS_NF0 else ACC_FLAGS_NF1) k = 1 := by
  obtain ⟨g, e, _⟩ := hostLines_eq (store s a (leBytes 8 w.toNat)) a 8
  have hload : load (hostLines (store s a (leBytes 8 w.toNat)) a 8) a 8 = leBytes 8 w.toNat := by
    rw [e]
    exact load_store_leBytes s a 8 w.toNat
  have hset := fld_hostNf (by rw [hoff]; exact hlo) (by rw [hoff]; exact hhi) ha hload hw
  rw [hoff, htile, nfFlag_bank o hlo] at hset
  rw [hostStore, leBytes_length]
  exact hset

theorem tileMemory_stored {s : State} {c : Cls} {a k o : Nat} {w : BitVec 64} (ht : tileMemory s a = some (k, o))
    (ho : o < 0x820000) (ha : a % 8 = 0) (hc : classRefuses s c .tile false = none) (hb : bankBusy s a 8 = false) :
    ∃ t, exec (.registerWrite c a w) s = .next t ∧ load t a 8 = leBytes 8 w.toNat ∧ sameMemBut a 8 s t ∧
      t.stash = s.stash ∧ (∀ j, j ≠ k → tileS t j = tileS s j) ∧ sameRegs [TILE_EVT.at k 0, ACC_FLAGS.at k 0] s t ∧
      (o < 0x800000 → sameTiles s t ∧ readReg t ACC_FLAGS k 0 = readReg s ACC_FLAGS k 0) ∧
      (0x800000 ≤ o → (nfW (w.setWidth 32) || nfW ((w >>> 32).setWidth 32)) = true →
        fld t (if o < 0x810000 then ACC_FLAGS_NF0 else ACC_FLAGS_NF1) k = 1) := by
  obtain ⟨_, htile, hoff, _, hk⟩ := tileMemory_some ht
  obtain ⟨_, hclosed⟩ := closing_tileEvt_accFlags hk
  obtain ⟨g, x, e, hregs, hother⟩ := hostStore_frame (fresh s) a (leBytes 8 w.toNat)
  obtain ⟨_, e', hlines⟩ := hostLines_eq (store (fresh s) a (leBytes 8 w.toNat)) a (leBytes 8 w.toNat).length
  rw [htile] at hregs hother hlines
  have hmem : (hostStore (fresh s) a (leBytes 8 w.toNat)).mem = (store (fresh s) a (leBytes 8 w.toNat)).mem := by rw [e]
  have hstash : (hostStore (fresh s) a (leBytes 8 w.toNat)).stash = s.stash := by rw [e]; rfl
  have k' := unitsKept_finish s (hostStore (fresh s) a (leBytes 8 w.toNat))
  refine ⟨_, registerWrite_tileMemory w ht ho ha hc hb, ?_, ?_, k'.stash.trans hstash, fun j hj => ?_,
    ((regsBut_of_regs_eq _ rfl).trans hregs).sameRegs_finish s, fun hspad => ?_, fun hbank hnf => ?_⟩
  · rw [load_finish, load, hmem]
    exact load_store_leBytes (fresh s) a 8 w.toNat
  · refine sameMemBut_finish s fun b hb => ?_
    rw [hmem]
    exact memRead_store_outside (fresh s) a b _ (by rwa [leBytes_length])
  · rw [tileS, k'.tiles]
    exact hother j hj
  · have hu := hostStore_spad (s := fresh s) (leBytes 8 w.toNat) (by rw [hoff]; exact hspad)
    have htiles : (hostStore (fresh s) a (leBytes 8 w.toNat)).tiles = s.tiles := by rw [hu, e']; rfl
    refine ⟨⟨k'.tiles.trans htiles, k'.stash.trans hstash⟩, ?_⟩
    rw [finish_readReg_any _ _ _ _ _ hclosed, hu]
    exact hlines ACC_FLAGS k 0 (tileEvt_ne_accFlags k)
  · have hreg : (if o < 0x810000 then ACC_FLAGS_NF0 else ACC_FLAGS_NF1).reg = ACC_FLAGS := by split <;> rfl
    rw [finish_fld_any _ _ _ _ _ (by rw [hreg]; exact hclosed)]
    exact fld_hostStore_bank htile hoff ha hbank ho hnf

/-! A bank that a running task holds. -/

theorem finish_heldWrites {s u : State} (h : u.raised = []) : (finish s u).mgmt.heldWrites = u.mgmt.heldWrites := by
  unfold finish
  rw [judge_quiet u (lowestFault_nil h), recordAll, h]
  rfl

theorem registerWrite_waits {s : State} {c : Cls} {a : Nat} {w : BitVec 64} (ha : a % 8 = 0)
    (hc : classRefuses s c .tile false = none) (hb : bankBusy s a 8 = true) :
    ∃ t, exec (.registerWrite c a w) s = .next t ∧ sameUnits s t ∧ sameRegs [] s t ∧
      t.mgmt.heldWrites = s.mgmt.heldWrites ++ [(a, w.toNat)] := by
  have j := judgedAlike_fresh s
  have hu : registerWrite c a w (fresh s) =
      { fresh s with mgmt := { s.mgmt with heldWrites := s.mgmt.heldWrites ++ [(a, w.toNat)] } } := by
    unfold registerWrite holdWrite
    rw [if_neg (not_not_intro ha), j.bankBusy, hb, j.classRefuses, hc]
    rfl
  refine ⟨_, next_of_effect (exec_registerWrite c a w s) hu, ?_, RegsBut.sameRegs_finish s (regsBut_of_regs_eq _ rfl),
    finish_heldWrites rfl⟩
  have k : UnitsKept s { fresh s with mgmt := { s.mgmt with heldWrites := s.mgmt.heldWrites ++ [(a, w.toNat)] } } :=
    ⟨rfl, rfl, rfl, rfl, rfl, rfl, rfl, rfl, rfl, rfl⟩
  exact (k.trans (unitsKept_finish s _)).sameUnits

/-- Settles O49: words of registers are stored by their access codes, words of a tile's memory go there or wait for its bank, and a
loaded job locks the length, the id and the routes. -/
theorem registersAreWritten : Obligations.RegistersAreWritten := by
  unfold Obligations.RegistersAreWritten
  exact ⟨fun _ _ _ _ h => registerWrite_plainWord h, fun _ _ _ _ h ha hs hq => regWrite_plainWord h ha hs hq,
    fun _ _ _ _ _ _ ht ho ha hc => ⟨tileMemory_stored ht ho ha hc, registerWrite_waits ha hc⟩,
    fun _ _ _ hp hc hj => paneCfgWrite_stores hp hc hj, fun _ c _ hj hv => paneCfgWrite_locked c hj hv,
    fun _ _ _ hp hc hj => sbnIdWrite_stores hp hc hj, fun _ _ _ _ hp hc hj => sbnRouteWrite_pends hp hc hj,
    fun _ _ _ _ _ _ hj hi => sbnWrites_locked hj hi⟩

end Sys2Proof.Proofs
end

section
/-! SUPPORT. A message that arrives at this part (R328, R331, R333, R334): its checks, its order, and what delivering it changes
beside its operation's own effect. -/

namespace Sys2Proof.Proofs
open Sys2Proof Sys2Proof.Machine

/-! Checks. -/

theorem removeFirst_eq_none {α : Type} {p : α → Bool} {l : List α} (h : ∀ a ∈ l, p a = false) : removeFirst p l = none := by
  induction l with
  | nil => rfl
  | cons a l ih =>
    rw [removeFirst, h a List.mem_cons_self, ih (fun b hb => h b (List.mem_cons_of_mem _ hb))]
    rfl

/-- Port 10 is no port: what it held frees nothing. -/
theorem freeBuffers_none (s : State) (vc cls n : Nat) : freeBuffers s 10 vc cls n = s := if_pos (.inl (Nat.le_refl 10))

/-- A message for this part of the command's own operation, which holds no buffer of a port: the checks in their order. -/
theorem takeIn_alone {s : State} {ops : List Nat} {m : SbnMsg} (t : Nat) (hdst : m.dst.val = partId s) (hop : m.op ∈ ops)
    (harr : ∀ e ∈ s.sbn.arrived, { e.2 with found := m.found } ≠ m) :
    takeIn ops t m s =
      if sbnCheck m ≠ m.ecrc then event (bump s SBN_EVT_ECRC_ERR) 0x600A
      else if jobLoaded s = false ∨ m.job ≠ s.job.id then event (bump s SBN_EVT_JOB_DROP) 0x6009
      else if chanOf m = 4 ∧ noticeOp m.op = false then event (bump s SBN_EVT_PEER_DROP) 0x600D
      else if shuttered s m.src.val ∨ (m.vc ≤ 3 ∧ faulted s = true) then s
      else if !knownOp m.op then sbnFault s 0x6085 (m.vc % 8) m.src.val 0xFF 0
      else if m.op = 0x30 then takeAck m t s
      else inOrder s 10 m := by
  have hnone : removeFirst (fun (e : Nat × SbnMsg) => { e.2 with found := m.found } == m) s.sbn.arrived = none :=
    removeFirst_eq_none (fun e he => beq_false_of_ne (harr e he))
  have hrow : ¬(m.dst.val ≠ partId s ∨ (knownOp m.op && !ops.contains m.op) = true) := by
    simp [hdst, hop]
  unfold takeIn
  rw [if_neg hrow, hnone]
  simp only [freeBuffers_none]

theorem faulted_eq_false {s : State} (hr : s.raised = []) (hl : jobLive s = true) : faulted s = false := by
  simp only [jobLive, Bool.and_eq_true, decide_eq_true_eq] at hl
  have h4 : (jobState s == 4) = false := by
    simp only [beq_eq_false_iff_ne]
    omega
  rw [faulted, hr, h4]
  rfl

theorem jobLoaded_of_jobLive {s : State} (hl : jobLive s = true) : jobLoaded s = true := by
  simp only [jobLive, jobLoaded, Bool.and_eq_true, decide_eq_true_eq] at hl ⊢
  omega

/-- A message that passes its checks comes to its operation: an acknowledgement, or its connection's order. -/
theorem takeIn_passes {s : State} {ops : List Nat} {m : SbnMsg} (t : Nat) (h : messagePasses s m) (hop : m.op ∈ ops)
    (hknown : knownOp m.op = true) :
    takeIn ops t m (fresh s) = if m.op = 0x30 then takeAck m t (fresh s) else inOrder (fresh s) 10 m := by
  obtain ⟨hdst, hecrc, hlive, hjob, hshut, hchan, harr, _⟩ := h
  have hfaulted : faulted (fresh s) = false := faulted_eq_false rfl hlive
  have hloaded : jobLoaded (fresh s) = true := jobLoaded_of_jobLive hlive
  have hshut' : shuttered (fresh s) m.src.val = false := hshut
  have hnotice : ¬(chanOf m = 4 ∧ noticeOp m.op = false) := fun ⟨h4, hn⟩ => by
    rw [hchan.mp h4] at hn
    cases hn
  rw [takeIn_alone (s := fresh s) t hdst hop harr, if_neg (not_not_intro hecrc), if_neg, if_neg hnotice, if_neg, hknown, Bool.not_true,
    if_neg Bool.false_ne_true]
  · rw [hshut', hfaulted]
    rintro (h | ⟨_, h⟩) <;> cases h
  · rw [hloaded]
    rintro (h | h)
    · cases h
    · exact h hjob

/-- The next message of its connection, which need not wait, is delivered. -/
theorem inOrder_inTurn {s : State} {m : SbnMsg} (h : m.tseq = (rxConn s m.src.val m.vc).expected) (hm : mustHold s m = false) :
    inOrder s 10 m = sbnSettle (deliver s m) := by
  unfold inOrder
  extract_lets c free keep room
  rw [if_pos h, hm]
  exact congrArg (fun s => sbnSettle (deliver s m)) (freeBuffers_none s _ _ _)

/-! The commands. -/

/-- Each of them is the taking in of its own operation. -/
theorem messageCommands_run {s : State} {m : SbnMsg} {c : Instr} (hc : (c, m.op) ∈ messageCommands m)
    (hown : m.op = 0x09 → m.src.val ≠ partId s) :
    exec c s = .next (finish s (takeIn [m.op] 0 m (fresh s))) ∧ knownOp m.op = true ∧ m.op ≠ 0x30 := by
  simp only [messageCommands, List.mem_cons, Prod.mk.injEq, List.not_mem_nil, or_false] at hc
  rcases hc with ⟨rfl, h⟩ | ⟨rfl, h⟩ | ⟨rfl, h⟩ | ⟨rfl, h⟩ | ⟨rfl, h⟩ | ⟨rfl, h⟩ | ⟨rfl, h⟩ | ⟨rfl, h⟩ | ⟨rfl, h⟩ | ⟨rfl, h⟩ |
    ⟨rfl, h⟩ | ⟨rfl, h⟩ | ⟨rfl, h⟩ | ⟨rfl, h⟩ | ⟨rfl, h⟩
  case inr.inr.inr.inr.inr.inr.inr.inr.inl =>
    have hrun : handdown m (fresh s) = takeIn [0x09] 0 m (fresh s) := if_neg (fun hb => hown h hb.2)
    rw [h]
    exact ⟨next_of_effect (exec_handdown m s) hrun, by decide, by decide⟩
  all_goals
    rw [h]
    exact ⟨rfl, by decide, by decide⟩

theorem message_delivered {s : State} {m : SbnMsg} {c : Instr} (hc : (c, m.op) ∈ messageCommands m) (h : messageInTurn s m)
    (hown : m.op = 0x09 → m.src.val ≠ partId s) : exec c s = .next (finish s (sbnSettle (deliver (fresh s) m))) := by
  obtain ⟨hrun, hknown, hack⟩ := messageCommands_run hc hown
  obtain ⟨hpass, hturn, hhold⟩ := h
  rw [hrun, takeIn_passes 0 hpass (List.mem_singleton.mpr rfl) hknown, if_neg hack, inOrder_inTurn (s := fresh s) hturn hhold]

/-! What a drop leaves. -/

/-- A message dropped is counted in `SBN_EVT`, and reported. -/
theorem dropped_counts {c : Instr} {s : State} {f : Field} {code : Nat} (hf : f.reg = SBN_EVT) (hw : f.lo + f.bits ≤ 512)
    (h : exec c s = .next (finish s (event (bump (fresh s) f) code))) :
    ∃ t, exec c s = .next t ∧ sameUnits s t ∧ sameRegs [SBN_EVT.at 0 0] s t ∧ fld t f = satAdd f.bits (fld s f) 1 := by
  have k : UnitsKept s (event (bump (fresh s) f) code) :=
    ⟨by rw [event_mem]; rfl, by rw [event_tiles]; rfl, by rw [event_stash]; rfl, by rw [event_graphs]; rfl, by rw [event_embs]; rfl,
     by rw [event_brys]; rfl, by rw [event_sbn]; rfl, by rw [event_eth]; rfl, by rw [event_step]; rfl, by rw [event_power]; rfl⟩
  have hregs : (event (bump (fresh s) f) code).regs = (bump (fresh s) f).regs := event_regs _ _ _
  have hb : RegsBut [SBN_EVT.at 0 0] s (bump (fresh s) f) :=
    regsBut_bump (fresh s) f 1 0 0 (by rw [hf]; exact List.mem_singleton.mpr rfl)
  refine ⟨_, h, (k.trans (unitsKept_finish s _)).sameUnits, (hb.trans (regsBut_of_regs_eq _ hregs)).sameRegs_finish s, ?_⟩
  rw [finish_fld_any _ _ _ _ _ (by rw [hf]; decide)]
  have e : fld (event (bump (fresh s) f) code) f = fld (bump (fresh s) f) f := by
    rw [fld, readReg, hregs, fld, readReg]
  exact e.trans (fld_bump_same (fresh s) f 1 0 0 hw)

/-! A delivery beside its operation (R328, R329, R333). -/

/-- The connection has moved on. -/
def received (s : State) (m : SbnMsg) : State :=
  let c := rxConn s m.src.val m.vc
  setRx s m.src.val m.vc { expected := (c.expected + 1) % 2 ^ 32, since := c.since + 1, ce := c.ce || m.ce }

/-- After eight deliveries an `ACK` goes back. -/
def ackWhenDue (s : State) (m : SbnMsg) : State :=
  if 8 ≤ (rxConn s m.src.val m.vc).since then sendAck s m.src.val m.vc else s

/-- The token of a message, unless the message faulted the job. -/
def countToken (s : State) (n : Nat) : State := if faulted s ∨ n = 0xFFFF then s else raiseToken s n

theorem deliver_eq (s : State) (m : SbnMsg) : deliver s m = ackWhenDue (deliverOp m (received s m)) m := by
  unfold deliver ackWhenDue received
  rfl

theorem rxConn_setRx (s : State) (src vc : Nat) (c : RxConn) : rxConn (setRx s src vc c) src vc = c :=
  kGetD_kPut_same _ _ _ _

theorem rxConn_received (s : State) (m : SbnMsg) :
    (rxConn (received s m) m.src.val m.vc).expected = ((rxConn s m.src.val m.vc).expected + 1) % 2 ^ 32 := by
  rw [received, rxConn_setRx]

theorem sendAck_eq (s : State) (src vc : Nat) :
    ∃ rx l, sendAck s src vc = { s with sbn := { s.sbn with rx := rx, txq := s.sbn.txq ++ l } } ∧
      (rxConn (sendAck s src vc) src vc).expected = (rxConn s src vc).expected := by
  have hrx : (rxConn (setRx s src vc { rxConn s src vc with since := 0, ce := false }) src vc).expected =
      (rxConn s src vc).expected := by rw [rxConn_setRx]
  unfold sendAck
  extract_lets c a s₁
  split
  · refine ⟨s₁.sbn.rx, [], ?_, hrx⟩
    rw [List.append_nil]
    rfl
  · exact ⟨s₁.sbn.rx, [a], rfl, hrx⟩

theorem ackWhenDue_eq (s : State) (m : SbnMsg) :
    ∃ rx l, ackWhenDue s m = { s with sbn := { s.sbn with rx := rx, txq := s.sbn.txq ++ l } } ∧
      (rxConn (ackWhenDue s m) m.src.val m.vc).expected = (rxConn s m.src.val m.vc).expected := by
  unfold ackWhenDue
  split
  · exact sendAck_eq s m.src.val m.vc
  · refine ⟨s.sbn.rx, [], ?_, rfl⟩
    rw [List.append_nil]

theorem raiseToken_eq (s : State) (n : Nat) : ∃ a l, raiseToken s n = { s with sched := a, raised := l } := by
  unfold raiseToken
  split
  · exact ⟨_, _, rfl⟩
  · split
    · unfold fault
      split <;> exact ⟨_, _, rfl⟩
    · exact ⟨_, _, rfl⟩

theorem countToken_eq (s : State) (n : Nat) : ∃ a l, countToken s n = { s with sched := a, raised := l } := by
  unfold countToken
  split
  · exact ⟨_, _, rfl⟩
  · exact raiseToken_eq s n

/-- A declared token below its bound is counted and faults nothing. -/
theorem countToken_declared {s : State} {n : Nat} {x : TokenS} (hf : faulted s = false) (hn : n ≠ 0xFFFF)
    (hx : kGet? s.sched.tokens n = some x) (hc : x.count < 65535) :
    countToken s n = { s with sched := { s.sched with tokens := kSet s.sched.tokens n { x with count := x.count + 1 } } } := by
  have hne : x.count ≠ 65535 := by omega
  unfold countToken raiseToken
  rw [if_neg (by simp [hf, hn]), hx]
  exact if_neg hne

theorem lowestFault_eq_none {l : List Raised} (h : ∀ r ∈ l, r.kind ≠ 1) : lowestFault l = none := by
  have hnil : l.filter (fun r => r.kind == 1) = [] := by
    rw [List.filter_eq_nil_iff]
    exact fun r hr => by simpa using h r hr
  rw [lowestFault, hnil]
  rfl

/-- A command that counts a token, and raises no fault itself, leaves it counted. -/
theorem tokenCounts_finish {s u v : State} {n : Nat} (hf : faulted u = false) (hr : u.raised = []) (hs : u.sched = s.sched)
    (hv : v.sched = (countToken u n).sched) (hvr : ∀ r ∈ v.raised, r ∈ (countToken u n).raised ∨ r.kind ≠ 1) :
    tokenCounts s (finish s v) n := by
  intro x hn hx hc
  rw [countToken_declared hf hn (hs ▸ hx) hc] at hv hvr
  have quiet : lowestFault v.raised = none := lowestFault_eq_none fun r hm => by
    rcases hvr r hm with h | h
    · rw [show _ = u.raised from rfl, hr] at h
      cases h
    · exact h
  rw [(finish_quiet s v quiet).sched, show ({ v with raised := [] } : State).sched = v.sched from rfl, hv]
  exact kGet?_kSet_same _ _ _

/-- What a frame of the fabric says beside memory and the registers. -/
structure FabricKept (s t : State) : Prop where
  tiles : t.tiles = s.tiles
  stash : t.stash = s.stash
  graphs : t.graphs = s.graphs
  embs : t.embs = s.embs
  brys : t.brys = s.brys
  eth : t.eth = s.eth
  step : t.step = s.step
  power : t.power = s.power

theorem FabricKept.onlyFabric {s t : State} (h : FabricKept s t) (hm : t.mem = s.mem) : onlyFabric s t :=
  ⟨fun a => by rw [hm], ⟨h.tiles, h.stash⟩, ⟨h.graphs, h.embs, h.brys⟩, h.eth, h.step, h.power⟩

theorem FabricKept.finish {s v : State} (s₀ : State) (h : FabricKept s v) : FabricKept s (finish s₀ v) := by
  have k := unitsKept_finish s₀ v
  exact ⟨k.tiles.trans h.tiles, k.stash.trans h.stash, k.graphs.trans h.graphs, k.embs.trans h.embs, k.brys.trans h.brys,
    k.eth.trans h.eth, k.step.trans h.step, k.power.trans h.power⟩

/-- A message in turn whose operation leaves nothing held: delivered, with the `ACK` that is due. -/
theorem message_effect {s u : State} {m : SbnMsg} {c : Instr} (hc : (c, m.op) ∈ messageCommands m) (h : messageInTurn s m)
    (hown : m.op = 0x09 → m.src.val ≠ partId s) (hu : deliverOp m (received (fresh s) m) = u) (hpool : u.sbn.pool = []) :
    exec c s = .next (finish s (ackWhenDue u m)) := by
  rw [message_delivered hc h hown, deliver_eq, hu]
  obtain ⟨rx, l, e, _⟩ := ackWhenDue_eq u m
  have hp : (ackWhenDue u m).sbn.pool.length = 0 := by
    rw [e]
    exact congrArg List.length hpool
  rw [sbnSettle, hp]
  rfl

theorem rxConn_finish (s v : State) (src vc : Nat) : rxConn (finish s v) src vc = rxConn v src vc := by
  rw [rxConn, (unitsKept_finish s v).sbn, rxConn]

/-- The connection expects the message after one that was in turn. -/
theorem expected_next {s w : State} {m : SbnMsg} (n : Nat) (h : m.tseq = (rxConn s m.src.val m.vc).expected)
    (hw : w.sbn.rx = (received (fresh s) m).sbn.rx) :
    (rxConn (finish s (ackWhenDue (countToken w n) m)) m.src.val m.vc).expected = (m.tseq + 1) % 2 ^ 32 := by
  obtain ⟨_, _, _, hexp⟩ := ackWhenDue_eq (countToken w n) m
  obtain ⟨a, l, e⟩ := countToken_eq w n
  rw [rxConn_finish, hexp, e]
  have hrx : rxConn w m.src.val m.vc = rxConn (received (fresh s) m) m.src.val m.vc := by rw [rxConn, hw, rxConn]
  exact (congrArg RxConn.expected hrx).trans ((rxConn_received (fresh s) m).trans (by rw [h]; rfl))

/-- A delivered message's token is counted where its operation raised nothing and left the scheduler alone. -/
theorem tokenCounts_delivered {s w : State} {m : SbnMsg} {n : Nat} (hlive : jobLive w = true) (hr : w.raised = [])
    (hs : w.sched = s.sched) : tokenCounts s (finish s (ackWhenDue (countToken w n) m)) n := by
  obtain ⟨_, _, e, _⟩ := ackWhenDue_eq (countToken w n) m
  refine tokenCounts_finish (faulted_eq_false hr hlive) hr hs ?_ fun r hm => .inl ?_
  · rw [e]
  · rw [e] at hm
    exact hm

end Sys2Proof.Proofs
end

section
/-! SUPPORT. The operations of messages (R329, R330, R333, R334, R339): what each leaves where memory has no error. -/

namespace Sys2Proof.Proofs
open Sys2Proof Sys2Proof.Machine

/-! Memory without an error. -/

theorem healAll_clean {s : State} (l : List Nat) (h : s.weak = []) : healAll s l = s := by
  induction l with
  | nil => rfl
  | cons g l ih =>
    have hg : heal s g = s := by
      unfold heal
      rw [h]
      rfl
    rw [healAll, List.foldl_cons, hg]
    exact ih

theorem dramWrite_clean {s : State} (a : Nat) (bs : List Byte) (req : Nat) (hb : s.bad = []) (hw : s.weak = []) :
    dramWrite s a bs req = store s a bs := by
  have hnone : (partGranules a bs.length).filter (fun g => s.bad.contains g) = [] := by simp [hb]
  simp only [dramWrite, healAll_clean _ hw, hnone]

theorem dramRead_clean {s : State} (a n req : Nat) (hb : s.bad = []) (hw : s.weak = []) : dramRead s a n req = (s, true) := by
  have hnone : firstBad s (granules a n) = none := by simp [firstBad, hb]
  simp only [dramRead, readGranules, healAll_clean _ hw, hnone]

/-- A read that meets nothing leaves the tile as it was. -/
theorem spadCheck_clean (s : State) (a n : Nat) : spadCheck s a n {} = (s, true) := by
  unfold spadCheck
  split
  · rfl
  · rfl

/-- The check of no bytes at most counts a wait for the bank. -/
theorem spadCheck_none (s : State) (a : Nat) (f : Found) :
    (∃ g, (spadCheck s a 0 f).1 = { s with regs := g }) ∧ jobState (spadCheck s a 0 f).1 = jobState s := by
  unfold spadCheck
  split
  · exact ⟨⟨_, rfl⟩, rfl⟩
  · next hrange =>
    extract_lets t o here s₁ l s₂ lost
    have here_false : ∀ x, here x = false := fun x => by
      simp only [here, Bool.and_eq_false_iff, decide_eq_false_iff_not]
      omega
    have hl : l = [] := List.filter_eq_nil_iff.mpr fun x _ => by
      simp only [here_false, Bool.false_and, Bool.false_eq_true, not_false_eq_true]
    have h₂ : s₂ = s₁ := by
      simp only [s₂, hl, List.foldl_nil]
    have ht : RST_STATUS.at 0 0 ≠ TILE_EVT.at t 0 := by
      have hlt : t < 96 := by
        simp only [t]
        unfold tileBase at hrange ⊢
        omega
      show 0x020000608000 + 0 * 0 + 0 * 0 ≠ 0x010000C00050 + t * 0x1000000 + 0 * 0
      omega
    have h₁ : (∃ g, s₁ = { s with regs := g }) ∧ jobState s₁ = jobState s := by
      simp only [s₁]
      split
      · exact ⟨⟨_, rfl⟩, rfl⟩
      · exact ⟨⟨_, rfl⟩, fld_setFld_ne s TILE_EVT_BANK_WAIT RST_STATUS_JOB_STATE _ t 0 0 0 ht⟩
    split
    · simpa [here_false, h₂] using h₁
    · simpa [h₂] using h₁

/-! The operations. -/

theorem deliverOp_write {s : State} {m : SbnMsg} (h : m.op = 0x01) : deliverOp m s = countToken (deliverWrite m s) m.token := by
  unfold deliverOp countToken
  simp [h]

theorem deliverOp_read {s : State} {m : SbnMsg} (h : m.op = 0x02) : deliverOp m s = deliverRead m s := by
  unfold deliverOp
  simp [h]

theorem deliverOp_readData {s : State} {m : SbnMsg} (h : m.op = 0x03) :
    deliverOp m s = countToken (deliverReadData m s) m.token := by
  unfold deliverOp countToken
  simp [h]

theorem deliverOp_draw {s : State} {m : SbnMsg} (h : m.op = 0x04) : deliverOp m s = countToken (deliverDraw m s) m.token := by
  unfold deliverOp countToken
  simp [h]

theorem deliverOp_token {s : State} {m : SbnMsg} (h : m.op = 0x0B) : deliverOp m s = countToken s m.token := by
  unfold deliverOp countToken
  simp [h]

theorem deliverWrite_reach {s : State} {m : SbnMsg} (h : writeReach m.addr m.data.length = true) (hb : s.bad = [])
    (hw : s.weak = []) : (∃ g, deliverWrite m s = { store s m.addr m.data with regs := g }) ∧
      jobState (deliverWrite m s) = jobState s := by
  unfold deliverWrite
  rw [h]
  simp only [Bool.not_true, Bool.false_eq_true, if_false]
  split
  · rw [dramWrite_clean _ _ _ hb hw]
    exact ⟨⟨_, rfl⟩, rfl⟩
  · obtain ⟨⟨g, e⟩, hj⟩ := spadCheck_none s m.addr m.found
    refine ⟨⟨g, ?_⟩, hj⟩
    rw [e]
    rfl

/-- What the part sends to a part that is not shuttered, with no fault in the cycle. -/
theorem sbnSend_eq {s : State} {m : SbnMsg} (h : shuttered s m.dst.val = false) (hf : faulted s = false) :
    ∃ tx, sbnSend s m = { s with sbn := { s.sbn with tx := tx, txq := s.sbn.txq ++
      [{ m with src := finPart (partId s), tseq := (txConn s m.dst.val m.vc).next }] } } := by
  unfold sbnSend
  rw [if_neg (by simp [h]), if_neg (by simp [hf])]
  exact ⟨_, rfl⟩

theorem finPart_val (p : Fin 16) : finPart p.val = p := by
  apply Fin.ext
  exact Nat.mod_eq_of_lt p.isLt

theorem deliverRead_reach {s : State} {m : SbnMsg} (h : readReach m.addr m.arg = true) (h1 : 1 ≤ m.arg) (h2 : m.arg ≤ 7904)
    (hb : s.bad = []) (hw : s.weak = []) (hf : m.found = {}) :
    deliverRead m s = sbnSend s (jobMsg s m.src.val 0x03 1 0 0 (load s m.addr m.arg) m.token m.tag) := by
  have hlen : ¬(m.arg = 0 ∨ 7904 < m.arg) := by omega
  unfold deliverRead
  rw [h, if_neg hlen, dramRead_clean _ _ _ hb hw, hf, spadCheck_clean, ite_self]
  rfl

/-- The data of a `READ_DATA` goes where its request said, and the request is done. -/
theorem deliverReadData_found {s : State} {m : SbnMsg} {r : ReadS}
    (h : s.sbn.reads.find? (fun r => r.part == m.src.val && r.tag == m.tag) = some r) (hb : s.bad = []) (hw : s.weak = []) :
    ∃ aw, deliverReadData m s = store { s with sbn := { s.sbn with reads := s.sbn.reads.filter (fun x => x != r), awaits := aw } }
      r.back (m.data.take r.len) := by
  unfold deliverReadData
  rw [h]
  refine ⟨(endAwait s 0x02 m.src.val m.tag).sbn.awaits, ?_⟩
  dsimp only
  split
  · exact dramWrite_clean _ _ _ hb hw
  · rfl

theorem deliverReadData_unknown {s : State} {m : SbnMsg}
    (h : s.sbn.reads.find? (fun r => r.part == m.src.val && r.tag == m.tag) = none) : deliverReadData m s = s := by
  unfold deliverReadData
  rw [h]

theorem refreshBusy_eq (s : State) : ∃ g, refreshBusy s = { s with regs := g } := by
  have fold : ∀ (l : List Nat) (u : State), ∃ g, l.foldl (fun s k =>
      setFld s GRE_STATUS_BUSY (b2n ((graph s k).wait != [] || (graph s k).waitDraw != [] || (graph s k).heldReqs != [])) k) u =
        { u with regs := g } := by
    intro l
    induction l with
    | nil => exact fun u => ⟨_, rfl⟩
    | cons k l ih =>
      intro u
      obtain ⟨g, e⟩ := ih (setFld u GRE_STATUS_BUSY
        (b2n ((graph u k).wait != [] || (graph u k).waitDraw != [] || (graph u k).heldReqs != [])) k)
      exact ⟨g, e⟩
  exact fold (List.range 8) s

/-- A draw of a step not yet taken in is held (log 33). -/
theorem deliverDraw_early {s : State} {m : SbnMsg} (h : takenOf s (leAt m.data 0 8) = none) :
    ∃ g, deliverDraw m s = { setGraph s (m.addr % 8) { graph s (m.addr % 8) with
      heldReqs := (graph s (m.addr % 8)).heldReqs ++ [m] } with regs := g } := by
  obtain ⟨g, e⟩ := refreshBusy_eq (setGraph s (m.addr % 8) { graph s (m.addr % 8) with
    heldReqs := (graph s (m.addr % 8)).heldReqs ++ [m] })
  refine ⟨g, ?_⟩
  unfold deliverDraw
  simp only [h]
  exact e

/-! Messages in turn, by their operation. -/

theorem fabricKept_delivered {s w : State} {m : SbnMsg} (n : Nat) (h : FabricKept s w) :
    FabricKept s (finish s (ackWhenDue (countToken w n) m)) ∧ (finish s (ackWhenDue (countToken w n) m)).mem = w.mem := by
  obtain ⟨_, _, e, _⟩ := ackWhenDue_eq (countToken w n) m
  obtain ⟨_, _, e'⟩ := countToken_eq w n
  have k : FabricKept s (ackWhenDue (countToken w n) m) := by
    rw [e, e']
    exact ⟨h.tiles, h.stash, h.graphs, h.embs, h.brys, h.eth, h.step, h.power⟩
  refine ⟨k.finish s, ?_⟩
  rw [finish_mem, e, e']

theorem pool_countToken (w : State) (n : Nat) : (countToken w n).sbn.pool = w.sbn.pool := by
  obtain ⟨_, _, e⟩ := countToken_eq w n
  rw [e]

theorem write_reach {s : State} {m : SbnMsg} (hop : m.op = 0x01) (h : messageInTurn s m)
    (hreach : writeReach m.addr m.data.length = true) (hb : s.bad = []) (hw : s.weak = []) :
    ∃ t, exec (.write m) s = .next t ∧ load t m.addr m.data.length = m.data ∧ sameMemBut m.addr m.data.length s t ∧
      sameTiles s t ∧ sameBases s t ∧ t.step = s.step ∧ tokenCounts s t m.token ∧
      (rxConn t m.src.val m.vc).expected = (m.tseq + 1) % 2 ^ 32 := by
  obtain ⟨⟨g, e⟩, hjob⟩ := deliverWrite_reach (s := received (fresh s) m) hreach hb hw
  obtain ⟨⟨_, _, hlive, _, _, _, _, hpool⟩, hturn, _⟩ := id h
  have hrun := message_effect (c := .write m) (by simp [messageCommands, hop]) h (by simp [hop]) (deliverOp_write hop)
    (by rw [pool_countToken, e]; exact hpool)
  obtain ⟨k, hmem⟩ := fabricKept_delivered (s := s) (w := deliverWrite m (received (fresh s) m)) (m := m) m.token
    (by rw [e]; exact ⟨rfl, rfl, rfl, rfl, rfl, rfl, rfl, rfl⟩)
  have hstore : (deliverWrite m (received (fresh s) m)).mem = (store s m.addr m.data).mem := by rw [e]; rfl
  refine ⟨_, hrun, ?_, fun a ha => ?_, ⟨k.tiles, k.stash⟩, ⟨k.graphs, k.embs, k.brys⟩, k.step, ?_, ?_⟩
  · rw [load, hmem, hstore]
    exact load_store_same s m.addr m.data
  · rw [hmem, hstore]
    exact memRead_store_outside s m.addr a m.data ha
  · refine tokenCounts_delivered ?_ (by rw [e]; rfl) (by rw [e]; rfl)
    rw [jobLive, hjob]
    exact hlive
  · exact expected_next m.token hturn (by rw [e]; rfl)

end Sys2Proof.Proofs
end

section
/-! SUPPORT. Requests and their answers, acknowledgements and the effect of every message (R329, R330, R333, R334, R339). -/

namespace Sys2Proof.Proofs
open Sys2Proof Sys2Proof.Machine

/-- A `WRITE` outside what it may reach faults the job and writes nothing (R334). -/
theorem write_refused {s : State} {m : SbnMsg} (hop : m.op = 0x01) (h : messageInTurn s m)
    (hreach : writeReach m.addr m.data.length = false) :
    faultsWith (.write m) s 0x5083 ∧ ∃ t, exec (.write m) s = .next t ∧ sameMem s t := by
  obtain ⟨⟨_, _, hlive, _, _, _, _, hpool⟩, _, _⟩ := id h
  have hstate : ¬(jobState (received (fresh s) m) = 0 ∨ jobState (received (fresh s) m) = 5) := by
    simp only [jobLive, Bool.and_eq_true, decide_eq_true_eq] at hlive
    show ¬(jobState s = 0 ∨ jobState s = 5)
    omega
  have hw : deliverWrite m (received (fresh s) m) = raise_ (received (fresh s) m) 0x5083 1 := by
    unfold deliverWrite fault
    rw [hreach, if_neg hstate]
    rfl
  have hu : deliverOp m (received (fresh s) m) = raise_ (received (fresh s) m) 0x5083 1 := by
    have hf : faulted (raise_ (received (fresh s) m) 0x5083 1) = true := by
      simp [faulted, raise_]
    rw [deliverOp_write hop, hw, countToken, hf]
    rfl
  have hrun := message_effect (c := .write m) (by simp [messageCommands, hop]) h (by simp [hop]) hu hpool
  obtain ⟨_, _, e, _⟩ := ackWhenDue_eq (raise_ (received (fresh s) m) 0x5083 1) m
  rw [e] at hrun
  obtain ⟨h4, hcode⟩ := finish_fault s { raise_ (received (fresh s) m) 0x5083 1 with sbn := _ } _ rfl hlive
  exact ⟨⟨_, hrun, h4, hcode⟩, _, hrun, sameMem_finish s (fun _ => rfl)⟩

/-- The `READ_DATA` that answers a `READ`. -/
def readAnswer (s : State) (m : SbnMsg) : SbnMsg := jobMsg s m.src.val 0x03 1 0 0 (load s m.addr m.arg) m.token m.tag

theorem readAnswer_dst (s : State) (m : SbnMsg) : (readAnswer s m).dst = m.src := finPart_val m.src

/-- A `READ` is answered with the bytes it names (R333, R334). -/
theorem read_answered {s : State} {m : SbnMsg} (hop : m.op = 0x02) (h : messageInTurn s m) (hreach : readReach m.addr m.arg = true)
    (h1 : 1 ≤ m.arg) (h2 : m.arg ≤ 7904) (hb : s.bad = []) (hw : s.weak = []) (hf : m.found = {}) :
    ∃ t, exec (.read m) s = .next t ∧ onlyFabric s t ∧ ∃ y ∈ t.sbn.txq, y.op = 0x03 ∧ y.dst = m.src ∧
      y.data = load s m.addr m.arg ∧ y.tag = m.tag ∧ y.token = m.token := by
  obtain ⟨⟨_, _, hlive, _, hshut, _, _, hpool⟩, _, _⟩ := id h
  have hdst := readAnswer_dst (received (fresh s) m) m
  have hshut' : shuttered (received (fresh s) m) (readAnswer (received (fresh s) m) m).dst.val = false := by
    rw [hdst]
    exact hshut
  obtain ⟨tx, e⟩ := sbnSend_eq hshut' (faulted_eq_false rfl hlive)
  have hu : deliverOp m (received (fresh s) m) = sbnSend (received (fresh s) m) (readAnswer (received (fresh s) m) m) := by
    rw [deliverOp_read hop, deliverRead_reach (s := received (fresh s) m) hreach h1 h2 hb hw hf, readAnswer]
  have hrun := message_effect (c := .read m) (by simp [messageCommands, hop]) h (by simp [hop]) hu (by rw [e]; exact hpool)
  obtain ⟨_, l, e', _⟩ := ackWhenDue_eq (sbnSend (received (fresh s) m) (readAnswer (received (fresh s) m) m)) m
  have k : FabricKept s (ackWhenDue (sbnSend (received (fresh s) m) (readAnswer (received (fresh s) m) m)) m) := by
    rw [e', e]
    exact ⟨rfl, rfl, rfl, rfl, rfl, rfl, rfl, rfl⟩
  refine ⟨_, hrun, (k.finish s).onlyFabric ?_,
    { readAnswer (received (fresh s) m) m with
      src := finPart (partId (received (fresh s) m))
      tseq := (txConn (received (fresh s) m) (readAnswer (received (fresh s) m) m).dst.val (readAnswer (received (fresh s) m) m).vc).next },
    ?_, rfl, hdst, rfl, rfl, rfl⟩
  · rw [finish_mem, e', e]
    rfl
  · rw [(unitsKept_finish s _).sbn, e', e]
    exact List.mem_append_left _ (List.mem_append_right _ (List.mem_singleton.mpr rfl))

/-- `READ_DATA` puts its bytes where the request said. -/
theorem readData_lands {s : State} {m : SbnMsg} {r : ReadS} (hop : m.op = 0x03) (h : messageInTurn s m)
    (hr : s.sbn.reads.find? (fun r => r.part == m.src.val && r.tag == m.tag) = some r) (hb : s.bad = []) (hw : s.weak = []) :
    let bs := m.data.take r.len
    ∃ t, exec (.readData m) s = .next t ∧ load t r.back bs.length = bs ∧ sameMemBut r.back bs.length s t ∧ sameTiles s t ∧
      sameBases s t ∧ t.step = s.step ∧ tokenCounts s t m.token ∧ r ∉ t.sbn.reads := by
  intro bs
  obtain ⟨aw, e⟩ := deliverReadData_found (s := received (fresh s) m) hr hb hw
  obtain ⟨⟨_, _, hlive, _, _, _, _, hpool⟩, _, _⟩ := id h
  have hrun := message_effect (c := .readData m) (by simp [messageCommands, hop]) h (by simp [hop]) (deliverOp_readData hop)
    (by rw [pool_countToken, e]; exact hpool)
  obtain ⟨k, hmem⟩ := fabricKept_delivered (s := s) (w := deliverReadData m (received (fresh s) m)) (m := m) m.token
    (by rw [e]; exact ⟨rfl, rfl, rfl, rfl, rfl, rfl, rfl, rfl⟩)
  have hstore : (deliverReadData m (received (fresh s) m)).mem = (store s r.back bs).mem := by rw [e]; rfl
  refine ⟨_, hrun, ?_, fun a ha => ?_, ⟨k.tiles, k.stash⟩, ⟨k.graphs, k.embs, k.brys⟩, k.step, ?_, ?_⟩
  · rw [load, hmem, hstore]
    exact load_store_same s r.back bs
  · rw [hmem, hstore]
    exact memRead_store_outside s r.back a bs ha
  · exact tokenCounts_delivered (by rw [e]; exact hlive) (by rw [e]; rfl) (by rw [e]; rfl)
  · obtain ⟨_, _, e', _⟩ := ackWhenDue_eq (countToken (deliverReadData m (received (fresh s) m)) m.token) m
    obtain ⟨_, _, e''⟩ := countToken_eq (deliverReadData m (received (fresh s) m)) m.token
    rw [(unitsKept_finish s _).sbn, e', e'', e]
    show r ∉ s.sbn.reads.filter (fun x => x != r)
    simp

/-- A message without an effect beside its token: a `TOKEN`, or a `READ_DATA` that nobody asked for. -/
theorem token_counted {s : State} {m : SbnMsg} {c : Instr} (hc : (c, m.op) ∈ messageCommands m) (hown : m.op ≠ 0x09)
    (h : messageInTurn s m) (hu : deliverOp m (received (fresh s) m) = countToken (received (fresh s) m) m.token) :
    ∃ t, exec c s = .next t ∧ onlyFabric s t ∧ tokenCounts s t m.token ∧
      (rxConn t m.src.val m.vc).expected = (m.tseq + 1) % 2 ^ 32 := by
  obtain ⟨⟨_, _, hlive, _, _, _, _, hpool⟩, hturn, _⟩ := id h
  have hrun := message_effect hc h (fun h9 => absurd h9 hown) hu (by rw [pool_countToken]; exact hpool)
  obtain ⟨k, hmem⟩ := fabricKept_delivered (s := s) (w := received (fresh s) m) (m := m) m.token
    ⟨rfl, rfl, rfl, rfl, rfl, rfl, rfl, rfl⟩
  exact ⟨_, hrun, k.onlyFabric hmem, tokenCounts_delivered hlive rfl rfl, expected_next m.token hturn rfl⟩

theorem readDataOrToken_counted {s : State} {m : SbnMsg} {c : Instr} (hc : (c, m.op) ∈ [(Instr.readData m, 0x03), (.token m, 0x0B)])
    (h : messageInTurn s m)
    (hr : c = .readData m → s.sbn.reads.find? (fun r => r.part == m.src.val && r.tag == m.tag) = none) :
    ∃ t, exec c s = .next t ∧ onlyFabric s t ∧ tokenCounts s t m.token ∧
      (rxConn t m.src.val m.vc).expected = (m.tseq + 1) % 2 ^ 32 := by
  rcases eq_or_eq_of_mem hc with e | e <;> rw [Prod.mk.injEq] at e <;> obtain ⟨rfl, hop⟩ := e
  · refine token_counted (by simp [messageCommands, hop]) (by simp [hop]) h ?_
    rw [deliverOp_readData hop, deliverReadData_unknown (s := received (fresh s) m) (hr rfl)]
  · exact token_counted (by simp [messageCommands, hop]) (by simp [hop]) h (deliverOp_token hop)

/-- A `DRAW` of a step not yet taken in waits at its engine. -/
theorem draw_held {s : State} {m : SbnMsg} (hop : m.op = 0x04) (h : messageInTurn s m) (ht : takenOf s (leAt m.data 0 8) = none) :
    ∃ t, exec (.draw m) s = .next t ∧ sameMem s t ∧
      (graph t (m.addr % 8)).heldReqs = (graph s (m.addr % 8)).heldReqs ++ [m] := by
  obtain ⟨g, e⟩ := deliverDraw_early (s := received (fresh s) m) ht
  obtain ⟨⟨_, _, _, _, _, _, _, hpool⟩, _, _⟩ := id h
  have hrun := message_effect (c := .draw m) (by simp [messageCommands, hop]) h (by simp [hop]) (deliverOp_draw hop)
    (by rw [pool_countToken, e]; exact hpool)
  obtain ⟨_, _, e', _⟩ := ackWhenDue_eq (countToken (deliverDraw m (received (fresh s) m)) m.token) m
  obtain ⟨_, _, e''⟩ := countToken_eq (deliverDraw m (received (fresh s) m)) m.token
  refine ⟨_, hrun, sameMem_finish s (fun a => ?_), ?_⟩
  · rw [e', e'', e]
    rfl
  · rw [graph, (unitsKept_finish s _).graphs, e', e'', e]
    exact congrArg GraphS.heldReqs (kGetD_kPut_same s.graphs (m.addr % 8) _ _)

/-! Messages that are dropped (R2, R331). -/

theorem message_dropped {s : State} {m : SbnMsg} {c : Instr} (hc : (c, m.op) ∈ messageCommands m)
    (hown : m.op = 0x09 → m.src.val ≠ partId s) (hdst : m.dst.val = partId s)
    (harr : ∀ e ∈ s.sbn.arrived, { e.2 with found := m.found } ≠ m) :
    (sbnCheck m ≠ m.ecrc → ∃ t, exec c s = .next t ∧ sameUnits s t ∧ sameRegs [SBN_EVT.at 0 0] s t ∧
      fld t SBN_EVT_ECRC_ERR = satAdd SBN_EVT_ECRC_ERR.bits (fld s SBN_EVT_ECRC_ERR) 1) ∧
    (sbnCheck m = m.ecrc → (jobLoaded s = false ∨ m.job ≠ s.job.id) → ∃ t, exec c s = .next t ∧ sameUnits s t ∧
      sameRegs [SBN_EVT.at 0 0] s t ∧ fld t SBN_EVT_JOB_DROP = satAdd SBN_EVT_JOB_DROP.bits (fld s SBN_EVT_JOB_DROP) 1) ∧
    (sbnCheck m = m.ecrc → jobLoaded s = true → m.job = s.job.id → chanOf m = 4 → noticeOp m.op = false →
      ∃ t, exec c s = .next t ∧ sameUnits s t ∧ sameRegs [SBN_EVT.at 0 0] s t ∧
        fld t SBN_EVT_PEER_DROP = satAdd SBN_EVT_PEER_DROP.bits (fld s SBN_EVT_PEER_DROP) 1) := by
  obtain ⟨hrun, _, _⟩ := messageCommands_run hc hown
  rw [takeIn_alone (s := fresh s) 0 hdst (List.mem_singleton.mpr rfl) harr] at hrun
  refine ⟨fun he => ?_, fun he hj => ?_, fun he hl hj hch hn => ?_⟩
  · rw [if_pos he] at hrun
    exact dropped_counts rfl (by decide) hrun
  · have hj' : jobLoaded (fresh s) = false ∨ m.job ≠ (fresh s).job.id := hj
    rw [if_neg (not_not_intro he), if_pos hj'] at hrun
    exact dropped_counts rfl (by decide) hrun
  · have hj' : ¬(jobLoaded (fresh s) = false ∨ m.job ≠ (fresh s).job.id) := by
      rintro (hf | hf)
      · rw [show jobLoaded (fresh s) = jobLoaded s from rfl, hl] at hf
        cases hf
      · exact hf hj
    rw [if_neg (not_not_intro he), if_neg hj', if_pos ⟨hch, hn⟩] at hrun
    exact dropped_counts rfl (by decide) hrun

/-! Acknowledgements (R329, R330, R332, R339). -/

theorem txConn_setTx (s : State) (dst vc : Nat) (c : TxConn) : txConn (setTx s dst vc c) dst vc = c :=
  kGetD_kPut_same _ _ _ _

/-- The window of a connection changes nothing but itself, its registers and an event. -/
theorem adaptWindow_eq (s : State) (dst vc n t : Nat) (ce : Bool) :
    ∃ x g l, adaptWindow s dst vc n t ce = { setTx s dst vc x with regs := g, raised := s.raised ++ l } ∧
      x.unacked = (txConn s dst vc).unacked ∧ ∀ r ∈ l, r.kind ≠ 1 := by
  have plain : ∀ x : TxConn, x.unacked = (txConn s dst vc).unacked → ∃ x' g l,
      setTx s dst vc x = { setTx s dst vc x' with regs := g, raised := s.raised ++ l } ∧
        x'.unacked = (txConn s dst vc).unacked ∧ ∀ r ∈ l, r.kind ≠ 1 := fun x hx =>
    ⟨x, s.regs, [], by rw [List.append_nil]; rfl, hx, fun r hr => absurd hr List.not_mem_nil⟩
  have halved : ∀ x : TxConn, x.unacked = (txConn s dst vc).unacked → ∃ x' g l,
      event (bump (setTx s dst vc x) SBN_EVT_THROTTLE) 0x6008 = { setTx s dst vc x' with regs := g, raised := s.raised ++ l } ∧
        x'.unacked = (txConn s dst vc).unacked ∧ ∀ r ∈ l, r.kind ≠ 1 := fun x hx => by
    refine ⟨x, _, [⟨0x6008, 0, none, 1, 0⟩], rfl, hx, fun r hr => ?_⟩
    rw [List.mem_singleton.mp hr]
    decide
  unfold adaptWindow
  extract_lets c w
  split
  · exact plain _ rfl
  · split
    · split <;> split
      · exact halved _ rfl
      · exact plain _ rfl
      · exact halved _ rfl
      · exact plain _ rfl
    · split
      · exact plain _ rfl
      · exact plain _ rfl

/-- The tokens of the multicasts that have ended. -/
def endTokens (l : List McastS) (s : State) : State := l.foldl (fun s c => countToken s c.token) s

theorem endTokens_eq (l : List McastS) (s : State) : ∃ a r, endTokens l s = { s with sched := a, raised := r } := by
  induction l generalizing s with
  | nil => exact ⟨_, _, rfl⟩
  | cons c l ih =>
    obtain ⟨a, r, e⟩ := countToken_eq s c.token
    obtain ⟨a', r', e'⟩ := ih (countToken s c.token)
    refine ⟨a', r', ?_⟩
    rw [endTokens, List.foldl_cons]
    refine e'.trans ?_
    rw [e]

theorem endMcasts_eq (s : State) : endMcasts s = endTokens (s.sbn.mcasts.filter (fun c => c.waits.isEmpty))
    { s with sbn := { s.sbn with mcasts := s.sbn.mcasts.filter (fun c => !c.waits.isEmpty) } } := by
  unfold endMcasts endTokens countToken
  simp only [or_comm]

/-- What an acknowledgement leaves for others to acknowledge. -/
def ackedMcasts (s : State) (m : SbnMsg) : List McastS :=
  s.sbn.mcasts.map (fun (c : McastS) =>
    { c with waits := c.waits.filter (fun w => !(w.1 == connKey m.src.val (m.arg % 8) && tseqUpTo w.2 m.tseq)) })

/-- The state after the multicasts that it completes have raised their tokens. -/
def afterMcasts (s : State) (m : SbnMsg) : State :=
  endMcasts { s with sbn := { s.sbn with
    reroute := s.sbn.reroute.filter (fun x => !(x.src.val == partId s && x.dst.val == m.src.val && x.vc == m.arg % 8 &&
      tseqUpTo x.tseq m.tseq)),
    mcasts := ackedMcasts s m } }

theorem afterMcasts_eq (s : State) (m : SbnMsg) : ∃ a l rr, afterMcasts s m =
    { s with sched := a, raised := l, sbn := { s.sbn with reroute := rr, mcasts := (ackedMcasts s m).filter (fun c => !c.waits.isEmpty) } } := by
  unfold afterMcasts
  rw [endMcasts_eq]
  obtain ⟨a, l, e⟩ := endTokens_eq ((ackedMcasts s m).filter (fun c => c.waits.isEmpty)) { s with sbn := { s.sbn with
    reroute := s.sbn.reroute.filter (fun x => !(x.src.val == partId s && x.dst.val == m.src.val && x.vc == m.arg % 8 &&
      tseqUpTo x.tseq m.tseq)),
    mcasts := (ackedMcasts s m).filter (fun c => !c.waits.isEmpty) } }
  exact ⟨a, l, _, e⟩

/-- The entries of the connection that an `ACK` does not reach. -/
def unackedAfter (s : State) (m : SbnMsg) : List SbnMsg :=
  (txConn s m.src.val (m.arg % 8)).unacked.filter (fun x => !tseqUpTo x.tseq m.tseq)

/-- The number of entries of the connection that an `ACK` reaches. -/
def ackedCount (s : State) (m : SbnMsg) : Nat :=
  (txConn s m.src.val (m.arg % 8)).unacked.length - (unackedAfter s m).length

theorem takeAck_of_none {s : State} {m : SbnMsg} (t : Nat) (h : ackedCount s m = 0 ∧ m.ce = false) :
    takeAck m t s = afterMcasts s m :=
  if_pos h

theorem txConn_afterMcasts (s : State) (m : SbnMsg) (d v : Nat) : txConn (afterMcasts s m) d v = txConn s d v := by
  obtain ⟨a, r, rr, e⟩ := afterMcasts_eq s m
  rw [e]
  rfl

theorem takeAck_of_some {s : State} {m : SbnMsg} (t : Nat) (h : ¬(ackedCount s m = 0 ∧ m.ce = false)) :
    takeAck m t s = adaptWindow (setTx (afterMcasts s m) m.src.val (m.arg % 8)
      { txConn s m.src.val (m.arg % 8) with
        unacked := unackedAfter s m
        expiries := if ackedCount s m = 0 then (txConn s m.src.val (m.arg % 8)).expiries else 0 })
      m.src.val (m.arg % 8) (ackedCount s m) t m.ce :=
  if_neg h

/-- An `ACK` takes what it acknowledges out of the connection; beside that it changes the window, and what `afterMcasts` says. -/
theorem takeAck_eq (s : State) (m : SbnMsg) (t : Nat) : ∃ tx g l, takeAck m t s =
    { afterMcasts s m with regs := g, raised := (afterMcasts s m).raised ++ l, sbn := { (afterMcasts s m).sbn with tx := tx } } ∧
    (∀ r ∈ l, r.kind ≠ 1) ∧ (txConn (takeAck m t s) m.src.val (m.arg % 8)).unacked = unackedAfter s m := by
  by_cases hn : ackedCount s m = 0 ∧ m.ce = false
  · have hall : unackedAfter s m = (txConn s m.src.val (m.arg % 8)).unacked :=
      List.filter_sublist.eq_of_length_le (Nat.sub_eq_zero_iff_le.mp hn.1)
    rw [takeAck_of_none t hn, txConn_afterMcasts, hall]
    refine ⟨(afterMcasts s m).sbn.tx, (afterMcasts s m).regs, [], ?_, fun r hr => absurd hr List.not_mem_nil, rfl⟩
    rw [List.append_nil]
  · rw [takeAck_of_some t hn]
    obtain ⟨x, g, l, hw, hx, hl⟩ := adaptWindow_eq (setTx (afterMcasts s m) m.src.val (m.arg % 8)
      { txConn s m.src.val (m.arg % 8) with
        unacked := unackedAfter s m
        expiries := if ackedCount s m = 0 then (txConn s m.src.val (m.arg % 8)).expiries else 0 })
      m.src.val (m.arg % 8) (ackedCount s m) t m.ce
    rw [txConn_setTx] at hx
    rw [hw]
    exact ⟨_, g, l, rfl, hl, (congrArg TxConn.unacked (txConn_setTx _ _ _ x)).trans hx⟩

/-- An `ACK` of this part's connection. -/
theorem ack_taken {s : State} {m : SbnMsg} (cyc : Nat) (hop : m.op = 0x30) (h : messagePasses s m) :
    ∃ t, exec (.ack m cyc) s = .next t ∧ onlyFabric s t ∧ (txConn t m.src.val (m.arg % 8)).unacked =
      (txConn s m.src.val (m.arg % 8)).unacked.filter (fun x => !tseqUpTo x.tseq m.tseq) ∧
      ∀ c : McastS, s.sbn.mcasts = [c] →
        (∀ w ∈ c.waits, w.1 = connKey m.src.val (m.arg % 8) ∧ tseqUpTo w.2 m.tseq = true) →
        t.sbn.mcasts = [] ∧ tokenCounts s t c.token := by
  have hrun : exec (.ack m cyc) s = .next (finish s (takeAck m cyc (fresh s))) := by
    refine next_of_effect (exec_ack m cyc s) ?_
    rw [takeIn_passes cyc h (by rw [hop]; exact List.mem_singleton.mpr rfl) (by rw [hop]; decide), if_pos hop]
  obtain ⟨tx, g, l, e, hl, htx⟩ := takeAck_eq (fresh s) m cyc
  obtain ⟨a, r, rr, e'⟩ := afterMcasts_eq (fresh s) m
  have k : FabricKept s (takeAck m cyc (fresh s)) := by
    rw [e, e']
    exact ⟨rfl, rfl, rfl, rfl, rfl, rfl, rfl, rfl⟩
  refine ⟨_, hrun, (k.finish s).onlyFabric ?_, ?_, fun c hc hw => ?_⟩
  · rw [finish_mem, e, e']
    rfl
  · rw [txConn, (unitsKept_finish s _).sbn]
    exact htx
  · obtain ⟨_, _, hlive, _⟩ := h
    have hempty : c.waits.filter (fun w => !(w.1 == connKey m.src.val (m.arg % 8) && tseqUpTo w.2 m.tseq)) = [] := by
      rw [List.filter_eq_nil_iff]
      intro w hm
      simp [hw w hm]
    have hacked : ackedMcasts (fresh s) m = [{ c with waits := [] }] := by
      show s.sbn.mcasts.map _ = _
      rw [hc, List.map_cons, List.map_nil, hempty]
    have hnone : (ackedMcasts (fresh s) m).filter (fun c => !c.waits.isEmpty) = [] := by rw [hacked]; rfl
    refine ⟨?_, ?_⟩
    · rw [(unitsKept_finish s _).sbn, e, e']
      exact hnone
    · have hafter : ∃ u, afterMcasts (fresh s) m = countToken u c.token ∧ faulted u = false ∧ u.raised = [] ∧ u.sched = s.sched := by
        rw [afterMcasts, endMcasts_eq]
        show ∃ u, endTokens ((ackedMcasts (fresh s) m).filter _) _ = _ ∧ _
        rw [hacked]
        exact ⟨_, rfl, faulted_eq_false rfl hlive, rfl, rfl⟩
      obtain ⟨u, hu, hf, hr, hs⟩ := hafter
      refine tokenCounts_finish hf hr hs ?_ fun q hq => ?_
      · rw [e, hu]
      · rw [e, hu] at hq
        exact (List.mem_append.mp hq).imp_right (hl q)

/-- Settles O40: the checks and the connection's order come first, then each operation leaves what its rule says. -/
theorem messagesHaveTheirEffect : Obligations.MessagesHaveTheirEffect := by
  unfold Obligations.MessagesHaveTheirEffect
  refine ⟨fun _ _ _ hc h hown => message_delivered hc h hown, fun s m hop hown hlive => ?_,
    fun _ _ hop h => ⟨write_reach hop h, write_refused hop h⟩,
    fun _ _ hop h hreach h1 h2 hb hw hf => read_answered hop h hreach h1 h2 hb hw hf,
    fun _ _ _ hop h hr _ _ hb hw => readData_lands hop h hr hb hw, fun _ _ _ hc h hr => readDataOrToken_counted hc h hr,
    fun _ _ hop h ht => draw_held hop h ht, fun _ _ _ hc hown hdst harr => ?_, fun _ _ _ hc hown hdst he hl hj hch hn harr => ?_,
    fun _ _ cyc hop h => ack_taken cyc hop h⟩
  · have hrun : handdown m (fresh s) = deliverHanddown m (fresh s) := by
      unfold handdown
      rw [if_pos ⟨hop, hown⟩]
      exact if_pos hlive
    exact next_of_effect (exec_handdown m s) hrun
  · obtain ⟨hecrc, hjob, _⟩ := message_dropped hc hown hdst harr
    exact ⟨hecrc, hjob⟩
  · obtain ⟨_, _, hpeer⟩ := message_dropped hc hown hdst harr
    exact hpeer he hl hj hch hn

end Sys2Proof.Proofs
end

section
/-! SUPPORT. Sites and tiles read after they are replaced, what the closing of a command keeps of the scheduler, and the refill of the
task window (R33, R36, R38). -/

namespace Sys2Proof.Proofs
open Sys2Proof Sys2Proof.Machine

/-! Reading after replacing. -/

@[simp] theorem site_setSite_same (s : State) (i : Nat) (x : SiteS) : site (setSite s i x) i = x := kGetD_kPut_same _ _ _ _

theorem site_setSite_ne (s : State) {i j : Nat} (x : SiteS) (h : j ≠ i) : site (setSite s i x) j = site s j :=
  kGetD_kPut_ne _ _ _ _ h

@[simp] theorem tileS_setTile_same (s : State) (i : Nat) (x : TileS) : tileS (setTile s i x) i = x := kGetD_kPut_same _ _ _ _

theorem tileS_setTile_ne (s : State) {i j : Nat} (x : TileS) (h : j ≠ i) : tileS (setTile s i x) j = tileS s j :=
  kGetD_kPut_ne _ _ _ _ h

/-- The closing of a command without a fault leaves every site as it was. -/
theorem site_finish_quiet {s u : State} (h : lowestFault u.raised = none) (j : Nat) : site (finish s u) j = site u j :=
  congrArg (fun x : Sched => kGetD x.sites j {}) (finish_quiet s u h).sched

theorem tileS_finish (s u : State) (j : Nat) : tileS (finish s u) j = tileS u j := by
  rw [tileS, (unitsKept_finish s u).tiles, tileS]

/-- A change of the scheduler alone is in no frame of the units. -/
theorem unitsKept_sched (s : State) (x : Sched) : UnitsKept s { fresh s with sched := x } :=
  ⟨rfl, rfl, rfl, rfl, rfl, rfl, rfl, rfl, rfl, rfl⟩

/-! The window. -/

/-- A descriptor that passes its checks enters the window, unless it is a `COMMIT` task of a step whose commit has ended. -/
theorem fetchDesc_enters {s : State} {p a : Nat} (i : Nat) (x : SiteS) (hd : descCheck s (wordAt s a) = 0)
    (hc : dClass (wordAt s a) = 0 → p ≠ s.step.committedStep) :
    fetchDesc s i p a x = setSite s i { x with window := x.window ++ [{ desc := wordAt s a, addr := a, pass := p }] } := by
  unfold fetchDesc
  rw [if_neg (not_not_intro hd), if_neg (fun ⟨_, h0, hp⟩ => hc h0 hp)]

/-- A site whose next fetch has been made: the table's next descriptor, or the first of the next pass. -/
def pastFetch (s : State) (i : Nat) : SiteS :=
  if (site s i).tableNext + 1 < (siteTable s i).length then { site s i with tableNext := (site s i).tableNext + 1 }
  else { site s i with tableNext := 0, pass := (site s i).pass + 1 }

theorem pastFetch_window (s : State) (i : Nat) : (pastFetch s i).window = (site s i).window := by
  unfold pastFetch
  split <;> rfl

/-- With nothing set aside, a site with a free place fetches the next descriptor of its table. -/
theorem refillOnce_table {s : State} {i a : Nat} (hplaces : windowPlaces (site s i) < 64) (hf : faulted s = false)
    (hredo : (site s i).redo = none) (hparked : (site s i).parked = []) (hw : s.job.wicket = false ∨ (site s i).pass = 0)
    (ha : (siteTable s i)[(site s i).tableNext]? = some a) :
    refillOnce i s = fetchDesc s i (site s i).pass a (pastFetch s i) := by
  have hpass : ¬(s.job.wicket = true ∧ (site s i).pass ≠ 0) := fun ⟨h1, h2⟩ => by
    rcases hw with h | h
    · rw [h] at h1
      cases h1
    · exact h2 h
  have hroom : ¬(64 ≤ windowPlaces (site s i) ∨ faulted s = true) := by simp [hf, hplaces]
  unfold refillOnce pastFetch
  simp only [if_neg hroom, hredo, hparked, if_neg hpass, ha]

/-- With one place free the refill fetches once. -/
theorem windowRefill_once {s : State} {i : Nat} (hlive : jobLive s = true) (hplaces : windowPlaces (site s i) = 63) :
    windowRefill i s = refillOnce i s := by
  unfold windowRefill
  rw [hlive, hplaces]
  rfl

/-- Settles O9: with one place free the refill fetches once, the next descriptor of the table. -/
theorem windowRefillKeepsTableOrder : Obligations.WindowRefillKeepsTableOrder := by
  unfold Obligations.WindowRefillKeepsTableOrder
  intro s i a hlive hplaces hredo hparked hw ha hd hc
  have hplaces' : windowPlaces (site (fresh s) i.val) < 64 := Nat.lt_of_le_of_lt (Nat.le_of_eq hplaces) (by decide)
  have hrun := next_of_effect (exec_windowRefill i s) (((windowRefill_once (s := fresh s) hlive hplaces).trans
    (refillOnce_table (s := fresh s) hplaces' (faulted_eq_false rfl hlive) hredo hparked hw ha)).trans
    (fetchDesc_enters (s := fresh s) i.val _ hd hc))
  refine ⟨_, hrun, ?_, fun j hj => ?_, ((unitsKept_sched s _).trans (unitsKept_finish s _)).sameUnits,
    RegsBut.sameRegs_finish s (regsBut_of_regs_eq _ rfl)⟩
  · rw [site_finish_quiet rfl, site_setSite_same, pastFetch_window]
    rfl
  · rw [site_finish_quiet rfl]
    exact site_setSite_ne (fresh s) _ hj

end Sys2Proof.Proofs
end

section
/-! SUPPORT. Memory-side requests (R42, R64, R66, R68, R69, R72, R277, R469): how one comes to its stack controller, and what it does
there. -/

namespace Sys2Proof.Proofs
open Sys2Proof Sys2Proof.Machine

/-! The mesh. -/

theorem sendRequest_eq (s : State) (q : MemReq) : ∃ x, sendRequest s q = { s with mesh := x } := by
  unfold sendRequest
  split
  · exact ⟨_, rfl⟩
  · dsimp only
    split <;> exact ⟨_, rfl⟩

theorem returnData_eq (s : State) (q : MemReq) : ∃ x, returnData s q = { s with mesh := x } := by
  unfold returnData
  split <;> exact ⟨_, rfl⟩

/-! Reads (R72, R75). -/

theorem corrected_eq (s : State) (a : Nat) : ∃ g l b, corrected s a = { s with regs := g, raised := l, brys := b } := by
  unfold corrected
  dsimp only
  split <;> exact ⟨_, _, _, rfl⟩

theorem heal_eq (s : State) (g : Nat) :
    ∃ r l b w, heal s g = { s with regs := r, raised := l, brys := b, weak := w } := by
  unfold heal
  split
  · exact ⟨_, _, _, _, rfl⟩
  · obtain ⟨r, l, b, e⟩ := corrected_eq { s with weak := kErase s.weak g } (64 * g)
    exact ⟨r, l, b, _, e⟩

theorem healAll_eq (s : State) (l : List Nat) :
    ∃ r n b w, healAll s l = { s with regs := r, raised := n, brys := b, weak := w } := by
  induction l generalizing s with
  | nil => exact ⟨_, _, _, _, rfl⟩
  | cons g l ih =>
    obtain ⟨r, n, b, w, e⟩ := heal_eq s g
    obtain ⟨r', n', b', w', e'⟩ := ih (heal s g)
    refine ⟨r', n', b', w', ?_⟩
    rw [healAll, List.foldl_cons]
    refine e'.trans ?_
    rw [e]

/-- A read of granules without an uncorrectable one delivers, and corrects what it meets. -/
theorem dramRead_sound {s : State} {a n : Nat} (req : Nat) (h : firstBad s (granules a n) = none) :
    ∃ r l b w, dramRead s a n req = ({ s with regs := r, raised := l, brys := b, weak := w }, true) := by
  obtain ⟨r, l, b, w, e⟩ := healAll_eq s (granules a n)
  have h' : firstBad { s with regs := r, raised := l, brys := b, weak := w } (granules a n) = none := h
  refine ⟨r, l, b, w, ?_⟩
  unfold dramRead readGranules
  simp only [e, h']

/-! At the stack controller. -/

/-- A clean write of whole granules puts its bytes in place (R469). -/
theorem serveRequest_write {s : State} {q : MemReq} (hw : q.isWrite = true) (hp : partGranules q.addr q.data.length = []) :
    serveRequest s q .clean = store s q.addr q.data := by
  have h0 : ¬(Ecc.clean = Ecc.uncorrectable) := by decide
  have h1 : ∀ l : List Nat, ¬(Ecc.clean = Ecc.corrected ∧ l ≠ []) := fun l h => absurd h.1 (by decide)
  unfold serveRequest
  simp only [hw, if_true, if_neg h0, if_neg (h1 _), dramWrite, hp]
  rfl

/-- A clean read by a tile brings its bytes to the tile's scratchpad. -/
theorem serveRequest_read {s : State} {q : MemReq} (hw : q.isWrite = false) (hsite : q.site.val < 96)
    (hb : firstBad s (granules q.addr q.len) = none) :
    ∃ r l b w x, serveRequest s q .clean = store { s with regs := r, raised := l, brys := b, weak := w, mesh := x }
      (tileBase q.site.val + q.dst) (load s q.addr q.len) := by
  obtain ⟨r, l, b, w, e⟩ := dramRead_sound (reqNo q.requester) hb
  obtain ⟨x, e'⟩ := returnData_eq { s with regs := r, raised := l, brys := b, weak := w } q
  have h0 : ¬(Ecc.clean = Ecc.uncorrectable) := by decide
  have h1 : ∀ l : List Nat, ¬(Ecc.clean = Ecc.corrected ∧ l ≠ []) := fun l h => absurd h.1 (by decide)
  refine ⟨r, l, b, w, x, ?_⟩
  unfold serveRequest
  simp only [hw, Bool.false_eq_true, if_false, if_neg h0, if_neg (h1 _), e, true_and, if_pos hsite, e']
  rfl

/-- The token of a request counts in the scheduler, or overflows. -/
theorem countToken_request_eq (s : State) (r : OpenReq) :
    ∃ a l, Machine.countToken s r = { s with sched := a, raised := l } := by
  unfold Machine.countToken
  split
  · exact raiseToken_eq s _
  · exact ⟨_, _, rfl⟩

theorem landRequest_eq (s : State) (i : Nat) (r : OpenReq) :
    ∃ g l x, landRequest s i r = { s with regs := g, raised := l, sched := x } := by
  unfold landRequest
  extract_lets past s₁ r' m s₂
  have e₁ : ∃ g l, s₁ = { s with regs := g, raised := l } := by
    simp only [s₁]
    split <;> exact ⟨_, _, rfl⟩
  obtain ⟨g, l, e₁⟩ := e₁
  split
  · obtain ⟨a, l', e⟩ := countToken_request_eq s₂ r
    refine ⟨g, l', a, ?_⟩
    rw [e]
    simp only [s₂, e₁]
  · refine ⟨g, l, s₂.sched, ?_⟩
    simp only [s₂, e₁]

/-- The only open request is served when its completion has come. -/
theorem serveRequests_alone {s : State} {r : OpenReq} {e : Ecc} (hl : s.sched.memReqs = [r]) (he : r.ecc = some e)
    (hn : r.landed = false) :
    ∃ g l x, serveRequests 1 s = { serveRequest s r.sent e with regs := g, raised := l, sched := x } := by
  have hnow : servesNow s [r] 0 r = true := by simp [servesNow, he, hn]
  have hfind : ((List.range [r].length).zip [r]).find? (fun e => servesNow s [r] e.1 e.2) = some (0, r) := by
    simp [hnow]
  obtain ⟨g, l, x, e'⟩ := landRequest_eq (serveRequest s r.sent e) 0 r
  unfold serveRequests
  simp only [hl, hfind, he, Option.getD_some]
  split
  · exact ⟨_, _, _, rfl⟩
  · exact ⟨g, l, x, e'⟩

/-! Requests as they come. -/

/-- A request inside DRAM and its region. -/
def reqInside (s : State) (q : MemReq) : Prop :=
  q.addr + reqBytes q ≤ dramTop ∧ inRetained q.addr (reqBytes q) = false ∧
  (q.isWrite = false ∨ q.region < 3 ∨ pastRegion s q.region q.regionStack.val q.addr (reqBytes q) = false)

/-- Inside, a request is refused neither for its address nor for its region. -/
theorem not_refused_of_inside {s : State} {q : MemReq} (h : reqInside s q) :
    ¬(dramTop < q.addr + reqBytes q ∨ inRetained q.addr (reqBytes q) = true) ∧
    ¬(q.isWrite = true ∧ 3 ≤ q.region ∧ pastRegion s q.region q.regionStack.val q.addr (reqBytes q) = true) := by
  obtain ⟨htop, hret, hregion⟩ := h
  refine ⟨?_, ?_⟩
  · rintro (h | h)
    · omega
    · rw [hret] at h
      cases h
  · rintro ⟨hw, h3, hpast⟩
    rcases hregion with h | h | h
    · rw [hw] at h
      cases h
    · omega
    · rw [hpast] at h
      cases h

theorem memoryRequest_issue {s : State} {q : MemReq} (e : Ecc) (hj : jobLoaded s = true) (h : reqInside s q) (hp : q.phase = .issue) :
    memoryRequestComplete q e s =
      sendRequest { s with sched := { s.sched with memReqs := s.sched.memReqs ++ [openReq s q] } } (openReq s q).sent := by
  obtain ⟨h1, h2⟩ := not_refused_of_inside h
  unfold memoryRequestComplete
  rw [if_neg (by rw [hj]; decide), if_neg h1, if_neg h2, hp]

/-- With no request open a completion is issued and served at once (R42, log 111). -/
theorem memoryRequest_complete {s : State} {q : MemReq} (e : Ecc) (hj : jobLoaded s = true) (h : reqInside s q)
    (hp : q.phase = .complete) (hn : s.sched.memReqs = []) (hg : goesTo s q = q.addr) :
    ∃ g l x y y', memoryRequestComplete q e s =
      { serveRequest { s with mesh := y, sched := y' } { q with phase := .issue } e with regs := g, raised := l, sched := x } := by
  obtain ⟨h1, h2⟩ := not_refused_of_inside h
  obtain ⟨y, em⟩ := sendRequest_eq s (openReq s q).sent
  have hgoes : goesTo s { q with phase := .issue } = q.addr := hg
  have hopen : openReq s { q with phase := .issue } = { req := { q with phase := .issue } } := by
    rw [openReq, hgoes, if_pos rfl]
  have hnote : noteCompletion s q e [] = [{ req := { q with phase := .issue }, ecc := some e }] := by
    unfold noteCompletion
    rw [hopen]
    rfl
  obtain ⟨g, l, x, es⟩ := serveRequests_alone
    (s := { s with mesh := y, sched := { s.sched with memReqs := [{ req := { q with phase := .issue }, ecc := some e }] } })
    (r := { req := { q with phase := .issue }, ecc := some e }) rfl rfl rfl
  refine ⟨g, l, x, y, { s.sched with memReqs := [{ req := { q with phase := .issue }, ecc := some e }] }, ?_⟩
  refine Eq.trans ?_ es
  unfold memoryRequestComplete
  rw [if_neg (by rw [hj]; decide), if_neg h1, if_neg h2, hp, hn]
  simp only [hnote, List.length_cons, List.length_nil, em]
  rfl

/-- A request past DRAM or into the retained region faults with `ADDR_DENIED` and does nothing else (R66). -/
theorem memoryRequest_refused {s : State} {q : MemReq} (e : Ecc) (hj : jobLoaded s = true)
    (h : dramTop < q.addr + reqBytes q ∨ inRetained q.addr (reqBytes q) = true) :
    memoryRequestComplete q e s = fault s 0x5083 := by
  unfold memoryRequestComplete
  rw [if_neg (by rw [hj]; decide), if_pos h]

theorem reqBytes_write {q : MemReq} (h : q.isWrite = true) : reqBytes q = q.data.length := by
  rw [reqBytes, if_pos h]

theorem reqBytes_read {q : MemReq} (h : q.isWrite = false) : reqBytes q = q.len := by
  rw [reqBytes, h]
  rfl

/-- A write goes to its own address. -/
theorem goesTo_write (s : State) {q : MemReq} (h : q.isWrite = true) : goesTo s q = q.addr := by
  unfold goesTo
  split
  · rfl
  · rw [if_pos (by rw [h]; rfl)]

/-- The effect of a write that completes alone. -/
theorem write_effect {s : State} {q : MemReq} (hj : jobLoaded s = true) (hw : q.isWrite = true) (hp : q.phase = .complete)
    (hn : s.sched.memReqs = []) (hin : reqInside s q) (hg : partGranules q.addr q.data.length = []) :
    ∃ g l x y, memoryRequestComplete q .clean s =
      store { s with regs := g, raised := l, sched := x, mesh := y } q.addr q.data := by
  obtain ⟨g, l, x, y, y', e⟩ := memoryRequest_complete .clean hj hin hp hn (goesTo_write s hw)
  refine ⟨g, l, x, y, e.trans ?_⟩
  rw [serveRequest_write (q := { q with phase := .issue }) hw hg]
  rfl

/-- The effect of a read that completes alone. -/
theorem read_effect {s : State} {q : MemReq} (hj : jobLoaded s = true) (hw : q.isWrite = false) (hp : q.phase = .complete)
    (hn : s.sched.memReqs = []) (hsite : q.site.val < 96) (hin : reqInside s q) (hg : goesTo s q = q.addr)
    (hb : firstBad s (granules q.addr q.len) = none) :
    ∃ g l x y b w, memoryRequestComplete q .clean s =
      store { s with regs := g, raised := l, sched := x, mesh := y, brys := b, weak := w } (tileBase q.site.val + q.dst)
        (load s q.addr q.len) := by
  obtain ⟨g, l, x, y, y', e⟩ := memoryRequest_complete .clean hj hin hp hn hg
  obtain ⟨r, n, b, w, m, e'⟩ := serveRequest_read (s := { s with mesh := y, sched := y' }) (q := { q with phase := .issue }) hw hsite hb
  refine ⟨g, l, x, m, b, w, e.trans ?_⟩
  rw [e']
  rfl

/-- With a live job a fault is raised with its code. -/
theorem fault_of_jobLive {s : State} (c : Nat) (h : jobLive s = true) : fault s c = raise_ s c 1 := by
  have hstate : ¬(jobState s = 0 ∨ jobState s = 5) := by
    simp only [jobLive, Bool.and_eq_true, decide_eq_true_eq] at h
    omega
  unfold fault
  exact if_neg hstate

theorem load_store_of_length (s : State) (a : Nat) {n : Nat} {bs : List Byte} (h : bs.length = n) : load (store s a bs) a n = bs := by
  rw [← h, load_store_same]

/-- Settles O11: an accepted request is listed as it is issued and served as its completion comes, when no other is open. -/
theorem memoryRequestWritesItsBytes : Obligations.MemoryRequestWritesItsBytes := by
  unfold Obligations.MemoryRequestWritesItsBytes
  refine ⟨fun s q hlive hw hp hn htop hret hg hregion => ?_, fun s q hlive hw hp hn hsite htop hret hgoes hb _ => ?_,
    fun s q e hlive hp htop hret hregion => ?_, fun s q e hlive h => ?_⟩
  · rw [← reqBytes_write hw] at htop hret hregion
    obtain ⟨g, l, x, y, he⟩ := write_effect (s := fresh s) (jobLoaded_of_jobLive hlive) hw hp hn ⟨htop, hret, .inr hregion⟩ hg
    refine ⟨_, next_of_effect rfl he, ?_, sameMemBut_finish s (fun a ha => memRead_store_outside _ _ a _ ha),
      (finish_kept s _).tiles, ⟨(finish_kept s _).sbn, (finish_kept s _).eth⟩, (finish_kept s _).step⟩
    rw [load_finish, load_store_same]
  · rw [← reqBytes_read hw] at htop hret
    obtain ⟨g, l, x, y, b, w, he⟩ :=
      read_effect (s := fresh s) (jobLoaded_of_jobLive hlive) hw hp hn hsite ⟨htop, hret, .inl hw⟩ hgoes hb
    have hlen : (load s q.addr q.len).length = q.len := memReads_length _ _ _
    refine ⟨_, next_of_effect rfl he, ?_,
      sameMemBut_finish s (fun a ha => memRead_store_outside _ _ a _ (hlen.symm ▸ ha)),
      (finish_kept s _).tiles, ⟨(finish_kept s _).sbn, (finish_kept s _).eth⟩, (finish_kept s _).step⟩
    exact (load_finish s _ _ _).trans (load_store_of_length _ _ hlen)
  · have he := memoryRequest_issue (s := fresh s) e (jobLoaded_of_jobLive hlive) ⟨htop, hret, hregion⟩ hp
    obtain ⟨x, hx⟩ := sendRequest_eq
      { fresh s with sched := { s.sched with memReqs := s.sched.memReqs ++ [openReq (fresh s) q] } } (openReq (fresh s) q).sent
    refine ⟨_, next_of_effect rfl (he.trans hx), ?_, ?_, RegsBut.sameRegs_finish s (regsBut_of_regs_eq _ rfl)⟩
    · exact congrArg Sched.memReqs (finish_quiet s _ (lowestFault_nil rfl)).sched
    · refine UnitsKept.sameUnits (UnitsKept.trans ?_ (unitsKept_finish s _))
      exact ⟨rfl, rfl, rfl, rfl, rfl, rfl, rfl, rfl, rfl, rfl⟩
  · have hrun : exec (.memoryRequestComplete q e) s = .next (finish s (raise_ (fresh s) 0x5083 1)) :=
      next_of_effect rfl ((memoryRequest_refused (s := fresh s) e (jobLoaded_of_jobLive hlive) h).trans
        (fault_of_jobLive _ hlive))
    have hstop := finish_fault s (raise_ (fresh s) 0x5083 1) _ rfl hlive
    refine ⟨⟨_, hrun, hstop⟩, _, hrun, ?_⟩
    refine UnitsKept.sameUnits (UnitsKept.trans ?_ (unitsKept_finish s _))
    exact ⟨rfl, rfl, rfl, rfl, rfl, rfl, rfl, rfl, rfl, rfl⟩

end Sys2Proof.Proofs
end

section
/-! SUPPORT. The admission decision (R45, R397, R399, R402): its allowances, its bounds, and what it leaves as it was. -/

namespace Sys2Proof.Proofs
open Sys2Proof Sys2Proof.Machine

/-! The scheduler through the closing of a command. -/

theorem resetRegs_eq (rs : List Reg) (s : State) : ∃ g, rs.foldl (fun s r => resetReg s r 0 0) s = { s with regs := g } := by
  induction rs generalizing s with
  | nil => exact ⟨_, rfl⟩
  | cons r rs ih => exact ih (resetReg s r 0 0)

/-- Recovery is entered by registers, and the trace and the draughts stop. -/
theorem enterRecovery_eq (s : State) : ∃ g x, enterRecovery s = { s with regs := g, sec := x } := by
  unfold enterRecovery
  split
  · obtain ⟨g, e⟩ := resetRegs_eq [DRT_STATUS, DRT_MESH, DRT_LINK, DRT_MEMDLY, DRT_STRETCH, DRT_CREDIT, DRT_CRC, DRT_MBXDLY,
      DRT_PRED, DRT_OVF, DRT_EVT] { setFld s PWR_STATE_STATE 5 with sec := { s.sec with trace := none } }
    refine ⟨g, { s.sec with trace := none, drtPane := none, drtForce := [] }, ?_⟩
    show clearDraughts { setFld s PWR_STATE_STATE 5 with sec := { s.sec with trace := none } } = _
    rw [clearDraughts, e]
    rfl
  · exact ⟨_, _, rfl⟩

/-- A cycle's faults drop requests and cancel sites; the rest of the scheduler stands. -/
theorem sched_judge (t : State) : ∃ a b, (judge t).sched = { t.sched with memReqs := a, sites := b } := by
  have henter : ∀ u : State, (enterRecovery u).sched = u.sched := fun u => by
    obtain ⟨g, x, e⟩ := enterRecovery_eq u
    rw [e]
  have hjob : ∀ u : State, (setJob u 4).sched = u.sched := fun u => by
    rcases setJob_eq u 4 with h | h <;> rw [h]
    rfl
  unfold judge
  split
  · exact ⟨_, _, rfl⟩
  · split
    · refine ⟨[], t.sched.sites.map (fun e => (e.1, cancelSite e.2)), ?_⟩
      unfold faultStop
      rw [henter]
      simp only [hjob]
    · exact ⟨_, _, rfl⟩

theorem sched_finish (s t : State) : ∃ a b, (finish s t).sched = { t.sched with memReqs := a, sites := b } := by
  obtain ⟨a, b, e⟩ := sched_judge t
  refine ⟨a, b, Eq.trans ?_ e⟩
  unfold finish
  generalize judge t = u
  have k := ((keptAll_recordAll u).trans (keptAll_mirror (recordAll u))).sched
  generalize mirror (recordAll u) = v at k
  exact (keptAll_closeOut s v).sched.trans k

/-! What the allowances are made of (R397, R399). -/

/-- The registers that the throttle bits and their count are in (R402). -/
def throttleRegs : List Nat := [PWR_THROTTLE.at 0 0, PWR_EVT.at 0 0]

/-- Those and the one that shows the allowances. -/
def snapshotRegs : List Nat := PWR_ENERGY.at 0 0 :: throttleRegs

/-- The allowances rest on the residuals, the power state, the pane's length, the caps, the policy and the debt. -/
theorem allowances_congr {s t : State} (hp : t.power = s.power) (hr : RegsBut snapshotRegs s t)
    (hd : fld t PWR_ENERGY_DEBT = fld s PWR_ENERGY_DEBT) :
    eBackground t = eBackground s ∧ ePane t = ePane s ∧ eCap t = eCap s := by
  have hf : ∀ f : Field, f.reg.at 0 0 ∉ snapshotRegs → fld t f = fld s f := fun f h => fld_congr f 0 0 (hr f.reg 0 0 h)
  have hpower : Machine.power t = Machine.power s := hf PWR_STATE_STATE (by decide)
  have hlen : paneLen t = paneLen s := by rw [paneLen, hf PANE_CFG_LEN (by decide), paneLen]
  have henergy : ∀ w c, energyNj t w c = energyNj s w c := fun w c => by rw [energyNj, hpower, energyNj]
  have hbg : eBackground t = eBackground s := by simp only [eBackground, hp, henergy, hlen]
  have hcap : fld t PWR_CAP_ENFORCED = fld s PWR_CAP_ENFORCED := hf _ (by decide)
  have hallow : allowance t = allowance s := by
    simp only [allowance, henergy, hlen, hcap, hf PWR_POLICY_MODE (by decide), hf PWR_POLICY_EF_SHARE (by decide),
      hf PWR_POLICY_FIXED (by decide)]
  exact ⟨hbg, by rw [ePane, hallow, hd, hbg, ePane], by rw [eCap, henergy, hcap, hlen, hd, hbg, eCap]⟩

/-! The snapshot (R42, R402). -/

theorem raiseLagged_eq (s : State) : ∃ a l, raiseLagged s = { s with sched := a, raised := l } := by
  have hfold : ∀ (rs : List OpenReq) (u : State), ∃ a l, rs.foldl Machine.countToken u = { u with sched := a, raised := l } := by
    intro rs
    induction rs with
    | nil => exact fun u => ⟨_, _, rfl⟩
    | cons r rs ih =>
      intro u
      obtain ⟨a, l, e⟩ := countToken_request_eq u r
      obtain ⟨a', l', e'⟩ := ih (Machine.countToken u r)
      exact ⟨a', l', e'.trans (by rw [e])⟩
  unfold raiseLagged
  obtain ⟨a, l, e⟩ := hfold (s.sched.memReqs.filter (lagEnds s)) { s with sched := { s.sched with
    memReqs := (s.sched.memReqs.map (fun r => if lagEnds s r then { r with promised := true } else r)).filter
      (fun r => !r.closed_) } }
  exact ⟨a, l, e⟩

theorem throttle_eq (s : State) :
    RegsBut throttleRegs s (throttle s) ∧ ∃ g a l, throttle s = { s with regs := g, sched := a, raised := l } := by
  unfold throttle
  extract_lets sites shown
  have hshown : RegsBut throttleRegs s shown := regsBut_setFld s _ _ 0 0 (by decide)
  split
  · exact ⟨hshown, _, _, _, rfl⟩
  · have hcount := hshown.trans (regsBut_bump shown PWR_EVT_THROTTLE sites.length 0 0 (by decide))
    split
    · exact ⟨hcount, _, _, _, rfl⟩
    · exact ⟨hcount, _, _, _, rfl⟩

/-- The state whose snapshot an admission decision takes: due tokens counted, throttled sites noted. -/
def noted (s : State) : State := throttle (raiseLagged s)

/-- That state with the allowances' registers written. -/
def reckoned (s : State) : State :=
  setFld (setFld (noted s) PWR_ENERGY_E_PANE (ePane (noted s))) PWR_ENERGY_E_BG (eBackground (noted s))

theorem noted_eq (s : State) :
    RegsBut throttleRegs s (noted s) ∧ ∃ g a l, noted s = { s with regs := g, sched := a, raised := l } := by
  obtain ⟨a, l, e⟩ := raiseLagged_eq s
  obtain ⟨hr, g, a', l', e'⟩ := throttle_eq (raiseLagged s)
  refine ⟨(regsBut_of_regs_eq _ (by rw [e])).trans hr, g, a', l', e'.trans ?_⟩
  rw [e]

/-- The allowances at the snapshot are those of the state before. -/
theorem allowances_noted (s : State) :
    eBackground (noted s) = eBackground s ∧ ePane (noted s) = ePane s ∧ eCap (noted s) = eCap s := by
  obtain ⟨hr, g, a, l, e⟩ := noted_eq s
  exact allowances_congr (by rw [e]) (hr.mono (fun _ => List.mem_cons_of_mem _)) (fld_congr _ 0 0 (hr PWR_ENERGY 0 0 (by decide)))

theorem reckoned_eq (s : State) : ∃ g a l, reckoned s = { s with regs := g, sched := a, raised := l } := by
  obtain ⟨_, g, a, l, e⟩ := noted_eq s
  refine ⟨(reckoned s).regs, a, l, ?_⟩
  show { noted s with regs := (reckoned s).regs } = _
  rw [e]

/-- Writing the allowances' registers does not change the allowances. -/
theorem allowances_reckoned (s : State) : ePane (reckoned s) = ePane s ∧ eCap (reckoned s) = eCap s := by
  obtain ⟨_, hp, hc⟩ := allowances_noted s
  have hregs : RegsBut snapshotRegs (noted s) (reckoned s) :=
    (regsBut_setFld (noted s) PWR_ENERGY_E_PANE _ 0 0 (by decide)).trans (regsBut_setFld _ PWR_ENERGY_E_BG _ 0 0 (by decide))
  have hdebt : fld (reckoned s) PWR_ENERGY_DEBT = fld (noted s) PWR_ENERGY_DEBT :=
    (fld_setFld_disjoint _ PWR_ENERGY_E_BG PWR_ENERGY_DEBT _ 0 0 rfl (by decide)).trans
      (fld_setFld_disjoint _ PWR_ENERGY_E_PANE PWR_ENERGY_DEBT _ 0 0 rfl (by decide))
  obtain ⟨_, hp', hc'⟩ := allowances_congr (s := noted s) (t := reckoned s) rfl hregs hdebt
  exact ⟨hp'.trans hp, hc'.trans hc⟩

/-! What is taken of the scheduler (R39, R272). -/

theorem takeCredits_eq (s : State) (d : Dec) :
    ∃ g a b, takeCredits s d = { s with regs := g, sched := { s.sched with tokens := a }, stash := b } := by
  have htokens : ∀ (l : Kmap Nat) (u : State), ∃ a, l.foldl (fun s e => match kGet? s.sched.tokens e.1 with
      | some x => { s with sched := { s.sched with tokens := kSet s.sched.tokens e.1 { x with count := x.count - e.2 } } }
      | none => s) u = { u with sched := { u.sched with tokens := a } } := by
    intro l
    induction l with
    | nil => exact fun u => ⟨_, rfl⟩
    | cons e l ih =>
      intro u
      rw [List.foldl_cons]
      split
      · exact ih _
      · exact ih _
  have hstash : ∀ (l : List WinTask) (u v : State), ∃ b, l.foldl (fun s t =>
      { s with stash := { s.stash with reserved := kSet s.stash.reserved (mbKey t.pass (dMb t.desc)) (stashBound s) } }) u =
        { u with stash := b } := by
    intro l
    induction l with
    | nil => exact fun u _ => ⟨_, rfl⟩
    | cons e l ih => exact fun u v => ih _ v
  unfold takeCredits
  extract_lets taken gated reserved
  obtain ⟨a, ha⟩ := htokens d.taken s
  obtain ⟨b, hb⟩ := hstash gated taken s
  have ht : taken = { s with sched := { s.sched with tokens := a } } := ha
  have hr : reserved = { taken with stash := b } := hb
  split
  · exact ⟨s.regs, a, b, by rw [hr, ht]⟩
  · refine ⟨(refreshStash reserved).regs, a, b, ?_⟩
    show { reserved with regs := (refreshStash reserved).regs } = _
    rw [hr, ht]

/-- A count with its event changes a register and what was raised. -/
theorem bump_event_eq (s : State) (f : Field) (d code n : Nat) :
    ∃ g l, event (bump s f d) code n = { s with regs := g, raised := l } := by
  unfold event
  split <;> exact ⟨_, _, rfl⟩

/-- The decision sets the allowances and replaces sites and tokens; beside the scheduler it writes registers, events and the stash's
reservations. -/
theorem admissionDecision_eq {s : State} (h : 2 ≤ Machine.power s) :
    ∃ g a l b, admissionDecision s = { s with regs := g, sched := a, raised := l, stash := b } ∧
      a.eOrd = ePane s - eBackground s ∧ a.eHard = eCap s - eBackground s := by
  obtain ⟨g, a, l, e⟩ := reckoned_eq s
  obtain ⟨hbg, _, _⟩ := allowances_noted s
  obtain ⟨hpane, hcap⟩ := allowances_reckoned s
  unfold admissionDecision
  rw [if_neg (Nat.not_lt.mpr h)]
  extract_lets lagged throttled eBg shown eOrd eHard sched₁ allowed on mark sched₂ marked d n sched₃ admitted urgent
  have hshown : shown = reckoned s := rfl
  obtain ⟨g₁, a₁, b₁, e₁⟩ := takeCredits_eq { marked with sched := { marked.sched with sites := d.sites } } d
  have hadmitted : admitted = { marked with regs := g₁, sched := { marked.sched with sites := d.sites, tokens := a₁ }, stash := b₁ } :=
    e₁
  obtain ⟨g₂, l₂, e₂⟩ := bump_event_eq admitted PANE_EVT_URGENT d.urgent 0x1004 d.urgent
  obtain ⟨g₃, l₃, e₃⟩ := bump_event_eq urgent PANE_EVT_STALL n 0x1006 n
  refine ⟨g₃, { marked.sched with sites := d.sites, tokens := a₁ }, l₃, b₁, ?_, ?_, ?_⟩
  · rw [e₃, show urgent = _ from e₂, hadmitted]
    simp only [marked, allowed, hshown, e]
  · show ePane shown - eBg = _
    rw [hshown, hpane, show eBg = _ from hbg]
  · show eCap shown - eBg = _
    rw [hshown, hcap, show eBg = _ from hbg]

/-! The bounds of a decision (R45). -/

/-- A decision has used no more than `e`, and admitted no more than eight tasks to any site. -/
structure DecWithin (e : Nat) (d : Dec) : Prop where
  used : d.used ≤ e
  tasks : ∀ i, kGetD d.n i 0 ≤ 8

/-- One more task at a site that has fewer than eight, or the site's first, keeps the bound of eight. -/
theorem tasks_kSet {m : Kmap Nat} (h : ∀ i, kGetD m i 0 ≤ 8) {i n : Nat} (hn : n ≤ 8) (j : Nat) : kGetD (kSet m i n) j 0 ≤ 8 := by
  by_cases hj : j = i
  · rw [hj, kGetD_kSet_same]
    exact hn
  · rw [kGetD_kSet_ne _ _ _ hj]
    exact h j

/-- A task that fits goes to a site with fewer than eight. -/
theorem tasks_of_fits {s : State} {d : Dec} {i : Nat} {t : WinTask} (h : fits s d i t = true) : kGetD d.n i 0 < 8 := by
  simp only [fits, Bool.and_eq_true, decide_eq_true_eq] at h
  obtain ⟨⟨⟨⟨_, hn⟩, _⟩, _⟩, _⟩ := h
  exact hn

theorem DecWithin.admitTask {e : Nat} {s : State} {d : Dec} {i k : Nat} {t : WinTask} (h : DecWithin e d)
    (hfits : fits s d i t = true) (hused : d.used + dNano t.desc ≤ e) : DecWithin e (admitTask s d i k t) :=
  ⟨hused, tasks_kSet h.tasks (tasks_of_fits hfits)⟩

theorem DecWithin.passZero {e : Nat} {d : Dec} (h : DecWithin e d) (x : Nat × SiteS) : DecWithin e (passZero e d x) := by
  unfold Machine.passZero
  split
  · exact h
  · next t rest _ =>
    by_cases hfit : d.used + dNano t.desc ≤ e
    · simp only [hfit, decide_true, if_true]
      exact ⟨hfit, tasks_kSet h.tasks (by decide)⟩
    · simp only [hfit, decide_false, Bool.false_eq_true, if_false]
      exact ⟨h.used, h.tasks⟩

theorem DecWithin.passOne {e : Nat} {d : Dec} (h : DecWithin e d) (s : State) : DecWithin e (passOne s e d) := by
  unfold Machine.passOne
  refine List.foldlRecOn _ _ h (fun d hd c _ => ?_)
  split
  · next hc =>
    simp only [Bool.and_eq_true, decide_eq_true_eq] at hc
    have := hd.admitTask (k := c.2.1) hc.1 hc.2
    exact ⟨this.used, this.tasks⟩
  · exact hd

theorem DecWithin.siteTurn {e : Nat} {d : Dec} (h : DecWithin e d) (s : State) {eOrd : Nat} (he : eOrd ≤ e) (i : Nat) :
    DecWithin e (siteTurn s eOrd d i).1 := by
  unfold Machine.siteTurn
  dsimp only
  split
  · exact h
  · next c hc =>
    have hfound := List.find?_some hc
    simp only [Bool.and_eq_true, decide_eq_true_eq] at hfound
    obtain ⟨⟨hfits, _⟩, hused⟩ := hfound
    exact h.admitTask hfits (Nat.le_trans hused he)

theorem DecWithin.passTwo {e : Nat} {d : Dec} (h : DecWithin e d) (s : State) {eOrd : Nat} (he : eOrd ≤ e) (order : List Nat)
    (n : Nat) : DecWithin e (passTwo s eOrd order n d) := by
  induction n generalizing d with
  | zero => exact h
  | succ n ih =>
    have hround : DecWithin e (order.foldl (fun (acc : Dec × Bool) i =>
        let t := Machine.siteTurn s eOrd acc.1 i
        (t.1, acc.2 || t.2)) (d, false)).1 :=
      List.foldlRecOn (motive := fun acc : Dec × Bool => DecWithin e acc.1) _ _ h (fun _ hd i _ => hd.siteTurn s he i)
    unfold Machine.passTwo
    dsimp only
    split
    · exact ih hround
    · exact hround

/-- A decision stays within the hard allowance, and within eight tasks at every site. -/
theorem decWithin_decide (s : State) {eOrd eHard : Nat} (he : eOrd ≤ eHard) : DecWithin eHard (decide_ s eOrd eHard) := by
  have hnone : DecWithin eHard { sites := s.sched.sites } := ⟨Nat.zero_le _, fun _ => Nat.zero_le _⟩
  have hpieces : DecWithin eHard (if piecesOn s then s.sched.sites.foldl (passZero eHard) { sites := s.sched.sites }
      else { sites := s.sched.sites }) := by
    split
    · exact List.foldlRecOn _ _ hnone (fun _ hd x _ => hd.passZero x)
    · exact hnone
  unfold decide_
  dsimp only
  split
  · exact (hpieces.passOne s).passTwo s he _ _
  · exact hpieces

end Sys2Proof.Proofs
end

section
/-! SUPPORT. The pane grid (R28, R29, R48 to R53, R112, R128, R155, R278, R326, R397 to R400): what a mullion leaves as it was, step by
step, and the register map's entry for the pane counter. -/

namespace Sys2Proof.Proofs
open Sys2Proof Sys2Proof.Machine

/-! The pane counter's register (R29, R59). -/

/-- No copy or element of the register lies where `PANE_COUNT` does: it lies above, or in the tiles' windows of 2^24 bytes at
another offset than `PANE_COUNT`'s in its own. -/
def offCount (r : Reg) : Bool :=
  decide (PANE_COUNT.base < r.base) || (r.instStride % 2 ^ 24 == 0 && r.stride == 0 && r.base % 2 ^ 24 != PANE_COUNT.base % 2 ^ 24)

theorem kGet?_kPut_ne {α : Type} [DecidableEq α] (m : Kmap α) {k i : Nat} (v d : α) (h : i ≠ k) :
    kGet? (kPut m k v d) i = kGet? m i := by
  unfold kPut
  split
  · exact kGet?_kErase_ne m h
  · exact kGet?_kSet_ne m v h

theorem at_ne_count {r : Reg} (h : offCount r = true) (k n : Nat) : r.at k n ≠ PANE_COUNT.base := by
  simp only [offCount, Bool.or_eq_true, decide_eq_true_eq, Bool.and_eq_true, beq_iff_eq, bne_iff_ne] at h
  unfold Reg.at
  rcases h with h | ⟨⟨hi, hn⟩, hb⟩
  · omega
  · intro e
    refine hb ?_
    rw [← e, hn, Nat.mul_zero, Nat.add_zero, Nat.add_mod, Nat.mul_mod, hi, Nat.mul_zero, Nat.zero_mod, Nat.add_zero, Nat.mod_mod]

/-- The register map holds for `PANE_COUNT` what it held. -/
def CountKept (s t : State) : Prop := kGet? t.regs PANE_COUNT.base = kGet? s.regs PANE_COUNT.base

theorem CountKept.pane {s t : State} (h : CountKept s t) : pane t = pane s := by
  refine fld_congr PANE_COUNT_COUNT 0 0 ?_
  have e : ∀ u : State, readReg u PANE_COUNT 0 0 = (kGet? u.regs PANE_COUNT.base).getD 0 := fun u => rfl
  exact (e t).trans ((congrArg (fun x => x.getD 0) h).trans (e s).symm)

/-! What the parts of a mullion keep: memory, the step, the tiles' own state, Ethernet, the time and the pane counter. -/

def GridKept (s t : State) : Prop :=
  (t.mem, t.step, t.tiles, t.eth, t.time) = (s.mem, s.step, s.tiles, s.eth, s.time) ∧ CountKept s t

theorem GridKept.count {s t : State} (h : GridKept s t) : CountKept s t := h.2

theorem GridKept.refl (s : State) : GridKept s s := ⟨rfl, rfl⟩

theorem GridKept.trans {s t u : State} (h : GridKept s t) (h' : GridKept t u) : GridKept s u :=
  ⟨h'.1.trans h.1, h'.2.trans h.2⟩

theorem GridKept.fields {s t : State} (h : GridKept s t) :
    t.mem = s.mem ∧ t.step = s.step ∧ t.tiles = s.tiles ∧ t.eth = s.eth ∧ t.time = s.time := by
  obtain ⟨he, _⟩ := h
  simpa only [Prod.mk.injEq] using he

section
variable {s t : State} (h : GridKept s t)
include h

theorem GridKept.writeReg_right {r : Reg} {k n : Nat} {v : RegVal} (hr : offCount r = true) : GridKept s (writeReg t r k n v) :=
  h.trans ⟨rfl, kGet?_kPut_ne _ _ _ (at_ne_count hr k n).symm⟩

theorem GridKept.setFld_right {f : Field} {x k n : Nat} (hf : offCount f.reg = true) : GridKept s (setFld t f x k n) :=
  h.writeReg_right hf

theorem GridKept.setReg_right {r : Reg} {x k n : Nat} (hr : offCount r = true) : GridKept s (setReg t r x k n) :=
  h.writeReg_right hr

theorem GridKept.bump_right {f : Field} {d k n : Nat} (hf : offCount f.reg = true) : GridKept s (bump t f d k n) :=
  h.setFld_right hf

theorem GridKept.setFldBit_right {f : Field} {i k n : Nat} {b : Bool} (hf : offCount f.reg = true) :
    GridKept s (setFldBit t f i b k n) :=
  h.setFld_right hf

theorem GridKept.event_right {code n : Nat} : GridKept s (event t code n) := by
  unfold event
  split <;> exact h

theorem GridKept.fault_right {code : Nat} {r : Option Nat} : GridKept s (fault t code r) := by
  unfold fault
  split <;> exact h

theorem GridKept.ite_right {c : Prop} [Decidable c] {u : State} (h' : GridKept s u) : GridKept s (if c then t else u) := by
  split
  · exact h
  · exact h'

theorem GridKept.foldl_right {α : Type} {f : State → α → State} (hf : ∀ u a, GridKept s u → GridKept s (f u a)) (l : List α) :
    GridKept s (l.foldl f t) := by
  induction l generalizing t with
  | nil => exact h
  | cons a l ih => exact ih (hf t a h)

theorem GridKept.raiseToken_right {n : Nat} : GridKept s (raiseToken t n) := by
  unfold raiseToken
  split
  · exact h
  · exact h.fault_right.ite_right h

/-! The pane that ends (R53, R397 to R400). -/

theorem GridKept.lateRequests_right : GridKept s (lateRequests t) := by
  have h' : GridKept s { t with sched := { t.sched with
      memReqs := t.sched.memReqs.map (fun r => if missesLag t r then { r with late := true } else r) } } := h
  exact (h'.bump_right (f := PANE_EVT_MEM_LATE) (by decide)).event_right

theorem GridKept.activeOrCapped_right : GridKept s (activeOrCapped t) :=
  (h.setFld_right (by decide)).ite_right h

theorem GridKept.refreshRoutes_right : GridKept s (refreshRoutes t) :=
  h.foldl_right (fun _ _ hu => hu.ite_right (hu.setFld_right (by decide))) _

theorem GridKept.writeFingerprint_right : GridKept s (writeFingerprint t) :=
  h.foldl_right (fun _ _ hu => hu.setFld_right (by decide)) _

theorem GridKept.powerMullion_right {cycles : Nat} : GridKept s (powerMullion t cycles) := by
  unfold powerMullion
  extract_lets m d c d' p summed debt capped host plat policy p' taken low margin p'' shown caps p₃ inForce
  have hsummed : GridKept s summed := h.trans ⟨rfl, rfl⟩
  have hdebt : GridKept s debt := (hsummed.setFld_right (by decide)).setFld_right (by decide)
  have hcapped : GridKept s capped := (hdebt.bump_right (f := PWR_EVT_CAPPED) (by decide)).event_right.ite_right hdebt
  have hhost : GridKept s host := by
    simp only [host]
    split
    · exact hcapped
    · exact hcapped.setFld_right (by decide)
  have hplat : GridKept s plat := by
    simp only [plat]
    split
    · exact hhost
    · exact hhost.setFld_right (by decide)
  have hpolicy : GridKept s policy := by
    simp only [policy]
    split
    · exact hplat
    · exact (hplat.setFld_right (by decide)).setFld_right (by decide)
  have htaken : GridKept s taken := hpolicy.trans ⟨rfl, rfl⟩
  have hmargin : GridKept s margin := (htaken.bump_right (f := PWR_EVT_MARGIN) (by decide)).event_right.ite_right htaken
  have hshown : GridKept s shown := hmargin.trans ⟨rfl, rfl⟩
  have hcaps : GridKept s caps := (hshown.setFld_right (by decide)).setFld_right (by decide)
  have hforce : GridKept s inForce := hcaps.trans ⟨rfl, rfl⟩
  exact hforce.activeOrCapped_right

/-! What takes hold with the pane that begins (R326, R418, R425, R443 to R446, R459). -/

theorem GridKept.mullionPolicy_right : GridKept s (mullionPolicy t) := by
  unfold mullionPolicy
  extract_lets policy scope hang
  have hpolicy : GridKept s policy := by
    simp only [policy]
    split
    · exact h
    · exact h.setReg_right (by decide)
  have hscope : GridKept s scope := by
    simp only [scope]
    split
    · exact hpolicy
    · exact hpolicy.setFld_right (by decide)
  show GridKept s hang
  simp only [hang]
  split
  · exact hscope
  · exact hscope.setReg_right (by decide)

theorem GridKept.mullionFabric_right : GridKept s (mullionFabric t) := by
  unfold mullionFabric
  extract_lets loaded sbn armed routes
  have hloaded : GridKept s loaded := h.foldl_right (fun _ _ hu => hu.setReg_right (by decide)) _
  have harmed : GridKept s armed := hloaded.trans ⟨rfl, rfl⟩
  have hroutes : GridKept s routes := harmed.refreshRoutes_right
  have hchanged : GridKept s { routes with sbn := { routes.sbn with widthChanged := false } } := hroutes.trans ⟨rfl, rfl⟩
  exact hchanged.writeFingerprint_right.ite_right hroutes

theorem GridKept.countDetectors_right : GridKept s (countDetectors t) := by
  unfold countDetectors
  split
  · exact h
  · split <;> exact h

/-! What is counted at a mullion (R18, R112, R122, R128, R272, R278), and fast mode's segments (R113). -/

theorem GridKept.idxWait_right : GridKept s (idxWait t) := by
  have hpanes : GridKept s { t with commit := { t.commit with idxPanes := t.commit.idxPanes + 1 } } := h
  exact (hpanes.bump_right (by decide)).event_right.ite_right h

theorem GridKept.sashHold_right : GridKept s (sashHold t) :=
  ((h.setFld_right (by decide)).bump_right (by decide)).event_right.ite_right (h.setFld_right (by decide))

theorem GridKept.stashPause_right : GridKept s (stashPause t) :=
  (h.bump_right (by decide)).event_right.ite_right h

theorem GridKept.roundWait_right : GridKept s (roundWait t) :=
  h.foldl_right (fun _ _ hu => (hu.bump_right (by decide)).event_right.ite_right hu) _

theorem GridKept.migrLate_right : GridKept s (migrLate t) :=
  (h.foldl_right (fun _ _ hu => (hu.bump_right (by decide)).event_right.ite_right hu) _).ite_right h

theorem GridKept.setEmb_right {k : Nat} {x : EmbS} : GridKept s (setEmb t k x) := h.trans ⟨rfl, rfl⟩

theorem GridKept.fastIssue_right {p : Nat} : GridKept s (fastIssue p t) := by
  unfold fastIssue
  refine GridKept.ite_right (h.foldl_right (fun u e hu => ?_) _) h
  exact hu.ite_right (hu.setEmb_right.bump_right (by decide)).event_right

theorem GridKept.countHeld_right : GridKept s (countHeld t) :=
  h.foldl_right (fun _ _ hu => (hu.bump_right (by decide)).event_right) _

/-! The sites at a mullion (R48, R50 to R52, R244, R442). -/

theorem GridKept.setSite_right {i : Nat} {x : SiteS} : GridKept s (setSite t i x) := h.trans ⟨rfl, rfl⟩

theorem GridKept.refreshStash_right : GridKept s (refreshStash t) :=
  (h.setFld_right (by decide)).setFld_right (by decide)

theorem GridKept.giveBack_right {l : List WinTask} : GridKept s (giveBack t l) := by
  unfold giveBack
  extract_lets raised gated freed
  have hraised : GridKept s raised :=
    h.foldl_right (fun _ _ hu => hu.foldl_right (fun _ _ hv => hv.raiseToken_right) _) _
  have hfreed : GridKept s freed := by
    refine hraised.foldl_right (fun _ _ hu => ?_) _
    exact hu.trans ⟨rfl, rfl⟩
  exact hfreed.ite_right hfreed.refreshStash_right

theorem GridKept.returnAdmitted_right {i : Nat} {keep : WinTask → Bool} : GridKept s (returnAdmitted t i keep) := by
  unfold returnAdmitted
  extract_lets x goes back clear cleared
  have hcleared : GridKept s cleared := h.setSite_right
  exact h.ite_right (hcleared.giveBack_right.bump_right (by decide)).event_right

theorem GridKept.startTask_right {i : Nat} {w : WinTask} : GridKept s (startTask t i w) := by
  unfold startTask
  extract_lets x w' placed p charged
  have hplaced : GridKept s placed := h.setSite_right
  have hcharged : GridKept s charged := hplaced.trans ⟨rfl, rfl⟩
  exact (hcharged.setFld_right (by decide)).ite_right hcharged

theorem GridKept.startNext_right {i : Nat} : GridKept s (startNext t i) := by
  unfold startNext
  dsimp only
  split
  · exact h
  · exact h.setSite_right.startTask_right

theorem GridKept.startSite_right {i : Nat} : GridKept s (startSite t i) := by
  unfold startSite
  dsimp only
  split
  · exact GridKept.ite_right h.setSite_right.returnAdmitted_right.setSite_right.startTask_right h.returnAdmitted_right
  · exact h.returnAdmitted_right.setSite_right.startNext_right

theorem GridKept.carrySite_right {i : Nat} : GridKept s (carrySite t i) := by
  unfold carrySite
  extract_lets x n counted overran carried tile susp
  have hover : GridKept s overran := (h.setSite_right.bump_right (by decide)).event_right
  have hcarried : GridKept s carried := (hover.setFld_right (by decide)).setFldBit_right (by decide)
  have htile : GridKept s tile := (hcarried.setFld_right (by decide)).ite_right hcarried
  have hsusp : GridKept s susp := (htile.setFldBit_right (by decide)).event_right.ite_right htile
  exact hsusp.returnAdmitted_right

theorem GridKept.mullionSite_right {e : Nat × SiteS} : GridKept s (mullionSite t e) := by
  unfold mullionSite
  extract_lets i x x₁ x₂ placed tasks shown idle tile y free
  have hshown : GridKept s shown := (h.setSite_right.setFld_right (by decide)).ite_right h.setSite_right
  have hidle : GridKept s idle := hshown.setFldBit_right (by decide)
  have htile : GridKept s tile := (hidle.setFld_right (by decide)).ite_right hidle
  have hfree : GridKept s free := htile.setSite_right
  split
  · exact hshown.carrySite_right
  · exact hfree.startSite_right.ite_right hfree.returnAdmitted_right

end

end Sys2Proof.Proofs
end

section
/-! SUPPORT. The mullion as a whole (R28, R29, R431), and the obligation about admission and the grid. -/

namespace Sys2Proof.Proofs
open Sys2Proof Sys2Proof.Machine

/-- A draught stretches the pane that ends (R431). -/
def stretches (s : State) : Bool :=
  decide (drt s DRT_STRETCH_EXTRA ≠ 0) && bitOf 3 (fld s DRT_STATUS_ARMED) && pane s % (max (drt s DRT_STRETCH_EVERY) 1) == 0

/-- A mullion before the pane is counted: late responses, the time, the power manager. -/
def endedPane (s : State) (cycles : Nat) : State :=
  let u := lateRequests (if stretches s then bump s DRT_EVT_STRETCH else s)
  powerMullion { u with time := u.time + cycles } cycles

/-- A mullion after the pane is counted: what takes hold, what is counted, and the sites. -/
def begunPane (ended : Nat) (s : State) : State :=
  let u := setFld (setFld s PANE_ENERGY_E_ORD (min s.sched.eOrd (2 ^ 32 - 1))) PANE_ENERGY_E_HARD (min s.sched.eHard (2 ^ 32 - 1))
  let u := countDetectors (mullionFabric (mullionPolicy u))
  let u := fastIssue ended (migrLate (roundWait (stashPause (sashHold (idxWait u)))))
  countHeld (u.sched.sites.foldl mullionSite u)

/-- The pane counter one higher. -/
def countPane (s : State) : State := setFld s PANE_COUNT_COUNT ((pane s + 1) % 2 ^ 64)

/-- What the pane that ends lasted (R431). -/
theorem cycles_eq (s : State) :
    (if stretches s then paneLen s + min (drt s DRT_STRETCH_EXTRA) (paneLen s) else paneLen s) = paneLen s + stretchCycles s := by
  have hiff : stretches s = true ↔ drt s DRT_STRETCH_EXTRA ≠ 0 ∧ bitOf 3 (fld s DRT_STATUS_ARMED) = true ∧
      pane s % (max (drt s DRT_STRETCH_EVERY) 1) = 0 := by
    unfold stretches
    simp only [Bool.and_eq_true, decide_eq_true_eq, beq_iff_eq, and_assoc]
  unfold stretchCycles
  by_cases h : stretches s = true
  · rw [if_pos h, if_pos (hiff.mp h)]
  · rw [if_neg h, if_neg (fun h' => h (hiff.mpr h')), Nat.add_zero]

theorem mullionAll_eq {s : State} (h : 2 ≤ power s) :
    mullionAll s = begunPane (pane s) (countPane (endedPane s (paneLen s + stretchCycles s))) := by
  have h' : ¬ power s < 2 := Nat.not_lt.mpr h
  rw [← cycles_eq]
  unfold mullionAll mullion
  rw [if_neg h', if_neg h']
  rfl

theorem mullionAll_below {s : State} (h : power s < 2) : mullionAll s = s := if_pos h

/-- Before the pane is counted the time alone moves. -/
theorem gridKept_endedPane (s : State) (cycles : Nat) : GridKept { s with time := s.time + cycles } (endedPane s cycles) := by
  unfold endedPane
  extract_lets u
  have hu : GridKept s u :=
    (((GridKept.refl s).bump_right (by decide)).ite_right (GridKept.refl s)).lateRequests_right
  obtain ⟨hmem, hstep, htiles, heth, htime⟩ := hu.fields
  have hregs : kGet? u.regs PANE_COUNT.base = kGet? s.regs PANE_COUNT.base := hu.count
  have hmoved : GridKept { s with time := s.time + cycles } { u with time := u.time + cycles } := by
    refine ⟨?_, hregs⟩
    simp only [hmem, hstep, htiles, heth, htime]
  exact hmoved.powerMullion_right

theorem gridKept_begunPane (ended : Nat) (s : State) : GridKept s (begunPane ended s) := by
  unfold begunPane
  extract_lets shown held counted
  have hshown : GridKept s shown := ((GridKept.refl s).setFld_right (by decide)).setFld_right (by decide)
  have hheld : GridKept s held := hshown.mullionPolicy_right.mullionFabric_right.countDetectors_right
  have hcounted : GridKept s counted :=
    hheld.idxWait_right.sashHold_right.stashPause_right.roundWait_right.migrLate_right.fastIssue_right
  exact (hcounted.foldl_right (fun _ _ hu => hu.mullionSite_right) _).countHeld_right

/-- What a mullion leaves as it was, and the time it moves. -/
theorem mullionAll_fields {s : State} (h : 2 ≤ power s) :
    (mullionAll s).mem = s.mem ∧ (mullionAll s).step = s.step ∧ (mullionAll s).tiles = s.tiles ∧ (mullionAll s).eth = s.eth ∧
      (mullionAll s).time = s.time + paneLen s + stretchCycles s := by
  rw [mullionAll_eq h, Nat.add_assoc]
  obtain ⟨hmem, hstep, htiles, heth, htime⟩ := (gridKept_endedPane s (paneLen s + stretchCycles s)).fields
  generalize endedPane s (paneLen s + stretchCycles s) = u at *
  obtain ⟨hmem', hstep', htiles', heth', htime'⟩ := (gridKept_begunPane (pane s) (countPane u)).fields
  exact ⟨hmem'.trans hmem, hstep'.trans hstep, htiles'.trans htiles, heth'.trans heth, htime'.trans htime⟩

/-- A mullion counts its pane. -/
theorem pane_mullionAll {s : State} (h : 2 ≤ power s) : pane (mullionAll s) = (pane s + 1) % 2 ^ 64 := by
  rw [mullionAll_eq h]
  have hpane : pane (endedPane s (paneLen s + stretchCycles s)) = pane s := (gridKept_endedPane s _).count.pane
  generalize endedPane s (paneLen s + stretchCycles s) = u at *
  calc pane (begunPane (pane s) (countPane u))
      = pane (countPane u) := (gridKept_begunPane _ _).count.pane
    _ = (pane u + 1) % 2 ^ 64 % 2 ^ 64 := fld_setFld_same u PANE_COUNT_COUNT _ 0 0 (by decide)
    _ = (pane s + 1) % 2 ^ 64 := by rw [Nat.mod_mod, hpane]

/-- Settles O6: the decision's bounds are kept by each of its passes, and a mullion's parts keep what it may not change. -/
theorem admissionStaysWithinAllowance : Obligations.AdmissionStaysWithinAllowance := by
  unfold Obligations.AdmissionStaysWithinAllowance
  refine ⟨fun s hpower => ?_, fun s eOrd eHard he => ?_, fun s hpower => ?_, fun s hpower => ?_⟩
  · obtain ⟨g, a, l, b, e, hord, hhard⟩ := admissionDecision_eq (s := fresh s) hpower
    have k := finish_kept s { fresh s with regs := g, sched := a, raised := l, stash := b }
    obtain ⟨reqs, sites, hsched⟩ := sched_finish s { fresh s with regs := g, sched := a, raised := l, stash := b }
    refine ⟨_, next_of_effect (exec_admissionDecision s) e, ?_, ?_, sameMem_finish s (fun _ => rfl), k.step, k.tiles, k.sbn, k.eth⟩
    · rw [hsched]
      exact hord
    · rw [hsched]
      exact hhard
  · have h := decWithin_decide s he
    exact ⟨h.used, h.tasks⟩
  · obtain ⟨hmem, hstep, htiles, heth, htime⟩ := mullionAll_fields (s := fresh s) hpower
    have k := finish_kept s (mullionAll (fresh s))
    refine ⟨_, next_of_effect (exec_mullion s) rfl, k.time.trans htime, sameMem_finish s (fun a => ?_), k.step.trans hstep,
      k.tiles.trans htiles, k.eth.trans heth⟩
    rw [hmem]
    rfl
  · have hrun := next_of_effect (exec_mullion s) (mullionAll_below (s := fresh s) hpower)
    refine ⟨_, hrun, (finish_kept s (fresh s)).time, ?_⟩
    exact ((unitsKept_sched s s.sched).trans (unitsKept_finish s _)).sameUnits

end Sys2Proof.Proofs
end

section
/-! SUPPORT. The pane counter outside the grid (R29, R439): no reset but that of the whole part, no request and no boot step writes its
register; the reset of the whole part drops its value. -/

namespace Sys2Proof.Proofs
open Sys2Proof Sys2Proof.Machine

theorem CountKept.refl (s : State) : CountKept s s := rfl

theorem CountKept.trans {s t u : State} (h : CountKept s t) (h' : CountKept t u) : CountKept s u := Eq.trans h' h

theorem offCount_ethEn (p : Nat) : offCount (ethEn p).reg = true := by
  unfold ethEn
  split <;> decide

section
variable {s t : State} (h : CountKept s t)
include h

/-- A change beside the registers. -/
theorem CountKept.of_regs {u : State} (e : u.regs = t.regs) : CountKept s u := by
  unfold CountKept
  rw [e]
  exact h

theorem CountKept.setFld_right {f : Field} {x k n : Nat} (hf : offCount f.reg = true) : CountKept s (setFld t f x k n) :=
  h.trans ((GridKept.refl t).setFld_right hf).count

theorem CountKept.setReg_right {r : Reg} {x k n : Nat} (hr : offCount r = true) : CountKept s (setReg t r x k n) :=
  h.trans ((GridKept.refl t).setReg_right hr).count

theorem CountKept.resetReg_right {r : Reg} {k n : Nat} (hr : offCount r = true) : CountKept s (resetReg t r k n) :=
  h.trans (kGet?_kErase_ne _ (at_ne_count hr k n).symm)

theorem CountKept.bump_right {f : Field} {d k n : Nat} (hf : offCount f.reg = true) : CountKept s (bump t f d k n) :=
  h.setFld_right hf

theorem CountKept.event_right {code n : Nat} : CountKept s (event t code n) :=
  h.trans (GridKept.refl t).event_right.count

theorem CountKept.fault_right {code : Nat} {r : Option Nat} : CountKept s (fault t code r) :=
  h.trans (GridKept.refl t).fault_right.count

theorem CountKept.raise_right {code kind n : Nat} {r : Option Nat} : CountKept s (raise_ t code kind r n) := h.of_regs rfl

theorem CountKept.ite_right {c : Prop} [Decidable c] {u : State} (h' : CountKept s u) : CountKept s (if c then t else u) := by
  split
  · exact h
  · exact h'

theorem CountKept.foldl_right {α : Type} {f : State → α → State} (hf : ∀ u a, CountKept s u → CountKept s (f u a)) (l : List α) :
    CountKept s (l.foldl f t) := by
  induction l generalizing t with
  | nil => exact h
  | cons a l ih => exact ih (hf t a h)

theorem CountKept.firstRecord_right {f : Field} {k n : Nat} {g : State → State} (hf : offCount f.reg = true)
    (hg : CountKept s (g t)) : CountKept s (firstRecord t f k n g) :=
  h.ite_right (hg.setFld_right hf)

theorem CountKept.refreshRoutes_right : CountKept s (refreshRoutes t) := h.trans (GridKept.refl t).refreshRoutes_right.count

theorem CountKept.writeFingerprint_right : CountKept s (writeFingerprint t) :=
  h.trans (GridKept.refl t).writeFingerprint_right.count

/-! Ports (R313, R318, R359). -/

theorem CountKept.setLanes_right {p n : Nat} : CountKept s (setLanes t p n) := by
  have hchanged : CountKept s { t with sbn := { t.sbn with widthChanged := true } } := h.of_regs rfl
  exact h.ite_right (hchanged.setFld_right (by decide))

theorem CountKept.portDown_right {p : Nat} : CountKept s (portDown t p) := by
  unfold portDown
  split
  · exact h
  · extract_lets whole detach fresh sbn rerouted lanes training
    have hrerouted : CountKept s rerouted := h.of_regs rfl
    have hlanes : CountKept s lanes := (hrerouted.setFld_right (by decide)).setLanes_right
    have htraining : CountKept s training := hlanes.setFld_right (by decide)
    exact (htraining.bump_right (by decide)).event_right.refreshRoutes_right

theorem CountKept.sbnPortEnable_right {en : Bool} : CountKept s (sbnPortEnable en t) := by
  unfold sbnPortEnable
  refine CountKept.foldl_right (h.setFld_right (by decide)) (fun u p hu => ?_) _
  exact (hu.ite_right (hu.setFld_right (by decide))).ite_right (hu.portDown_right.setFld_right (by decide))

theorem CountKept.ethDown_right {p : Nat} : CountKept s (ethDown p t) := by
  unfold ethDown
  split
  · exact h
  · have hdropped : CountKept s (dropHeld (setFld t ETH_PORT_UP 0 0 p) p) := (h.setFld_right (by decide)).of_regs rfl
    exact ((hdropped.setFld_right (by decide)).bump_right (by decide)).event_right

theorem CountKept.ethLinkUp_right {p : Nat} : CountKept s (ethLinkUp p t) :=
  h.ite_right ((h.setFld_right (by decide)).setFld_right (by decide)).event_right

theorem CountKept.ethPortEnable_right {p : Nat} {en : Bool} : CountKept s (ethPortEnable p en t) := by
  unfold ethPortEnable
  extract_lets enabled
  have henabled : CountKept s enabled := h.setFld_right (offCount_ethEn p)
  exact (henabled.ite_right (henabled.setFld_right (by decide))).ite_right (henabled.ethDown_right.setFld_right (by decide))

/-! The crash dump and the error log (R453, R454). -/

theorem CountKept.captureDump_right {c : Nat} : CountKept s (captureDump t c) := by
  unfold captureDump
  split <;> exact h.of_regs rfl

theorem CountKept.logPush_right {e : EvRec} : CountKept s (logPush t e) := by
  unfold logPush
  extract_lets i next
  have hnext : CountKept s next := h.setFld_right (by decide)
  split
  · exact hnext.of_regs rfl
  · split
    · exact hnext.of_regs rfl
    · have hdropped : CountKept s { next with mgmt := { next.mgmt with log := next.mgmt.log.drop 1 ++ [(i, e)] } } :=
        hnext.of_regs rfl
      exact hdropped.bump_right (by decide)

theorem CountKept.logFault_right {c : Nat} {r : Option Nat} : CountKept s (logFault t c r) := h.logPush_right

/-! Starting (R408, R409, R419, R432). -/

theorem CountKept.integrityRecord_right {stage slot : Nat} : CountKept s (integrityRecord t stage slot) :=
  h.firstRecord_right (by decide)
    ((((h.setFld_right (by decide)).setFld_right (by decide)).setFld_right (by decide)).setFld_right (by decide))

theorem CountKept.countStart_right : CountKept s (countStart t) := by
  unfold countStart
  split
  · exact (CountKept.event_right ((((h.setFld_right (by decide)).setFld_right (by decide)).setFld_right (by decide)).setFld_right
      (by decide))).ite_right (h.setFld_right (by decide))
  · exact h

theorem CountKept.sampleStraps_right {f : BootFindings} : CountKept s (sampleStraps f t) := by
  unfold sampleStraps
  extract_lets tap sampled
  have hsampled : CountKept s sampled := h.of_regs rfl
  exact hsampled.setFld_right (by decide)

theorem CountKept.measureBoot_right {slot : Nat} : CountKept s (measureBoot slot t) := by
  unfold measureBoot
  extract_lets svn slots rom image config owners device
  have hslots : CountKept s slots := ((h.setFld_right (by decide)).setFld_right (by decide)).setFld_right (by decide)
  have hconfig : CountKept s config := ((hslots.setFld_right (by decide)).setFld_right (by decide)).setFld_right (by decide)
  have howners : CountKept s (measureOwners config) := hconfig.setFld_right (by decide)
  have hdevice : CountKept s device := (howners.setFld_right (by decide)).setFld_right (by decide)
  exact (hdevice.setFld_right (by decide)).setFld_right (by decide)

theorem CountKept.restoreSink_right : CountKept s (restoreSink t) := by
  unfold restoreSink
  split
  · have htaken : CountKept s { t with mgmt := { t.mgmt with sink := none } } := h.of_regs rfl
    exact (htaken.setFld_right (by decide)).setFld_right (by decide)
  · exact h

theorem CountKept.firmwareReady_right {ms : Nat} : CountKept s (firmwareReady ms t) :=
  (((h.restoreSink_right.setFld_right (by decide)).setFld_right (by decide)).setFld_right (by decide)).raise_right

theorem CountKept.placeTile_right {f : BootFindings} {e : Nat × Nat} : CountKept s (placeTile f t e) :=
  ((((h.setReg_right (by decide)).setReg_right (by decide)).setReg_right (by decide)).setFld_right (by decide)).setFld_right
    (by decide)

theorem CountKept.placeTiles_right {f : BootFindings} : CountKept s (placeTiles f t) := by
  unfold placeTiles
  extract_lets on placed enabled slices repaired short
  have hmap : CountKept s { t with mesh := { map := on } } := h.of_regs rfl
  have hplaced : CountKept s placed := hmap.foldl_right (fun _ _ hu => hu.placeTile_right) _
  have henabled : CountKept s enabled := hplaced.foldl_right (fun _ _ hu => hu.setFld_right (by decide)) _
  have hslices : CountKept s slices :=
    henabled.foldl_right (fun _ _ hu => (hu.setFld_right (by decide)).setFld_right (by decide)) _
  have hrepaired : CountKept s repaired := hslices.ite_right hslices.event_right
  have hshort : CountKept s short := hrepaired.event_right.ite_right hrepaired
  exact hshort.writeFingerprint_right

theorem CountKept.showStacks_right : CountKept s (showStacks t) :=
  (h.foldl_right (fun _ _ hu => (hu.setFld_right (by decide)).setFld_right (by decide)) _).setFld_right (by decide)

theorem CountKept.retainedRegion_right : CountKept s (retainedRegion t) := h.setReg_right (by decide)

theorem CountKept.enterPower_right {x : Nat} : CountKept s (enterPower x t) := by
  have hcap : ∀ u, CountKept s u → CountKept s (activeOrCapped u) := fun _ hu => (hu.setFld_right (by decide)).ite_right hu
  exact (hcap _ ((h.setFld_right (by decide)).setFld_right (by decide))).raise_right

theorem CountKept.leaveScan_right : CountKept s (leaveScan t) := by
  unfold leaveScan
  dsimp only
  split
  · exact h.of_regs rfl
  · exact h

theorem CountKept.domainEnd_right {d k : Nat} : CountKept s (domainEnd t d k) := by
  have hended : CountKept s { t with rst := { t.rst with domains := t.rst.domains.filter (fun e => e != (d, k)) } } :=
    h.of_regs rfl
  exact (((hended.setFld_right (by decide)).setFld_right (by decide)).bump_right (by decide)).event_right

theorem CountKept.bringUp_right {f : BootFindings} : CountKept s (bringUp f t) := by
  unfold bringUp
  extract_lets eth0 linked placed fabric rst dies cleared shown active
  have heth0 : CountKept s eth0 := h.leaveScan_right.ethPortEnable_right
  have hlinked : CountKept s linked := heth0.ethLinkUp_right.ite_right heth0
  have hfabric : CountKept s fabric := hlinked.placeTiles_right.ethPortEnable_right.sbnPortEnable_right
  have hdies : CountKept s dies := hfabric.of_regs rfl
  have hzero : CountKept s (clearRange (showStacks dies) 0 dramTop) := hdies.showStacks_right.of_regs rfl
  have hcleared : CountKept s cleared := hzero.retainedRegion_right
  have hshown : CountKept s shown := ((hcleared.setFld_right (by decide)).setFld_right (by decide)).setFld_right (by decide)
  have hactive : CountKept s active := hshown.enterPower_right
  exact hactive.domainEnd_right.ite_right hactive

theorem CountKept.bootFirmware_right {f : BootFindings} {slot : Nat} : CountKept s (bootFirmware f slot t) := by
  unfold bootFirmware
  extract_lets ready
  have hready : CountKept s ready := h.measureBoot_right.firmwareReady_right
  split
  · exact hready.of_regs rfl
  · exact hready.bringUp_right

theorem CountKept.bootService_right : CountKept s (bootService t) := by
  unfold bootService
  extract_lets logged
  have hlogged : CountKept s logged := h.logFault_right
  have hrom : CountKept s { logged with rst := { logged.rst with serviceRom := true } } := hlogged.of_regs rfl
  exact hrom.captureDump_right.setFld_right (by decide)

theorem CountKept.bootSlots_right {f : BootFindings} : CountKept s (bootSlots f t) :=
  h.bootFirmware_right.ite_right
    ((h.integrityRecord_right.setFld_right (by decide)).bootFirmware_right.ite_right h.integrityRecord_right.bootService_right)

theorem CountKept.bootRun_right {c : Nat} {f : BootFindings} : CountKept s (bootRun c f t) := by
  unfold bootRun
  extract_lets rst begun sampled counted started
  have hbegun : CountKept s begun := h.of_regs rfl
  have hsampled : CountKept s sampled := (hbegun.sampleStraps_right.setFld_right (by decide)).setFld_right (by decide)
  have hcounted : CountKept s counted :=
    ((hsampled.bump_right (by decide)).setFld_right (by decide)).setFld_right (by decide)
  have hstarted : CountKept s started := hcounted.countStart_right
  exact hstarted.integrityRecord_right.ite_right (hstarted.integrityRecord_right.ite_right hstarted.bootSlots_right)

end

/-! The reset of the whole part (R439). -/

/-- No register of the secure block lies where the pane counter does, so nothing is held for it. -/
theorem count_wholeReset (s : State) : kGet? (wholeReset s).regs PANE_COUNT.base = none := by
  unfold wholeReset
  extract_lets held z mgmt sec tap t
  have ht : kGet? t.regs PANE_COUNT.base = none := kGet?_filter_out secKept held.regs PANE_COUNT.base (by decide)
  have hset : CountKept t (setFld t SEC_STATE_SESSION 0) := (CountKept.refl t).setFld_right (by decide)
  exact Eq.trans hset ht

theorem getBits_zero (lo n : Nat) : getBits lo n 0 = 0 := by
  rw [getBits, show (0 : RegVal).toNat = 0 from BitVec.toNat_zero, bitsOf, Nat.zero_shiftRight, Nat.zero_mod]

theorem pane_of_count_none {s : State} (h : kGet? s.regs PANE_COUNT.base = none) : pane s = 0 := by
  have hr : readReg s PANE_COUNT 0 0 = 0 := by
    show (kGet? s.regs PANE_COUNT.base).getD 0 = 0
    rw [h]
    rfl
  rw [pane, fld, show PANE_COUNT_COUNT.reg = PANE_COUNT from rfl, hr]
  exact getBits_zero _ _

end Sys2Proof.Proofs
end

section
/-! SUPPORT. The pane counter through requests, domain resets and the management complex's resets (R29, R363, R368, R376 to R383, R411,
R439, R440). -/

namespace Sys2Proof.Proofs
open Sys2Proof Sys2Proof.Machine

theorem regs_followIlv (s t : State) : (followIlv s t).regs = t.regs := by
  unfold followIlv
  split <;> rfl

/-- What follows a request's effect: its refusal or its record, then its reply. -/
def answerOut (op : Nat) (r : Req) (a : Answer) : State :=
  let t := if 0x20 ≤ a.status then refusedReq a.state r.cls r.qp op r.seq a.status
    else if recorded op a.state then keepDup a.state r a.status
    else a.state
  if a.later then setFld { t with mgmt := { t.mgmt with replayReq := some r } } MBX_STATUS_IN_SERVICE 1
  else replyTo t r op a.status false a.payload

section
variable {s t : State} (h : CountKept s t)
include h

/-! What a domain reset clears (R439). -/

/-- Registers of blocks none of which has one where the pane counter lies. -/
theorem CountKept.resetBlocks_right {p : Block → Bool} {k : Nat → Bool}
    (hp : allRegs.all (fun r => !p r.block || (r.locate PANE_COUNT.base).isNone) = true) : CountKept s (resetBlocks t p k) := by
  refine h.trans (kGet?_filter_in (fun a => !allRegs.any (fun r =>
    p r.block && !([TILE_ID, TILE_DESC, TILE_PMAP, MXA_REPAIR] : List Reg).contains r &&
      (match r.locate a with | some (i, _, _) => k i | none => false))) t.regs PANE_COUNT.base ?_)
  simp only [Bool.not_eq_true', List.any_eq_false]
  intro r hr
  have hoff := List.all_eq_true.mp hp r hr
  simp only [Bool.or_eq_true, Bool.not_eq_true', Option.isNone_iff_eq_none] at hoff
  rcases hoff with hb | hn
  · simp [hb]
  · simp [hn]

theorem CountKept.resetTiles_right {i n : Nat} : CountKept s (resetTiles t i n) := by
  unfold resetTiles
  extract_lets mine blocks
  have hblocks : CountKept s blocks := h.resetBlocks_right (by decide)
  exact hblocks.of_regs rfl

theorem CountKept.resetEngines_right {k : Nat → Bool} : CountKept s (resetEngines t k) := by
  unfold resetEngines
  extract_lets blocks
  have hblocks : CountKept s blocks := h.resetBlocks_right (by decide)
  exact hblocks.of_regs rfl

theorem CountKept.resetStacks_right {k : Nat → Bool} : CountKept s (resetStacks t k) := by
  unfold resetStacks
  extract_lets blocks
  have hblocks : CountKept s blocks := h.resetEngines_right.resetBlocks_right (by decide)
  have hilv : CountKept s (followIlv t { blocks with brys := blocks.brys.filter (fun e => !k e.1) }) :=
    hblocks.of_regs (regs_followIlv t _)
  exact hilv.retainedRegion_right.showStacks_right

theorem CountKept.resetSbnPort_right {p : Nat} : CountKept s (resetSbnPort t p) := by
  unfold resetSbnPort
  extract_lets down clear sbn fec
  have hdown : CountKept s down := h.portDown_right.setLanes_right
  have hclear : CountKept s clear := (hdown.resetReg_right (r := SBN_PORT) (k := 0) (n := p) (by decide)).of_regs rfl
  have hfec : CountKept s fec := hclear.of_regs rfl
  exact hfec.setFld_right (by decide)

theorem CountKept.qpReset_right {q : Nat} : CountKept s (qpReset t q) := by
  have hreset : CountKept s (resetReg t ETH_QP 0 q) := h.resetReg_right (by decide)
  exact hreset.of_regs rfl

theorem CountKept.dropWindow_right {w : Nat} : CountKept s (dropWindow t w) := by
  have hports : CountKept s { t with eth := { t.eth with winPorts := kErase t.eth.winPorts w } } := h.of_regs rfl
  exact hports.resetReg_right (by decide)

theorem CountKept.resetEthPort_right {p : Nat} : CountKept s (resetEthPort t p) := by
  unfold resetEthPort
  extract_lets entries windows eth fec mac clear
  have hentries : CountKept s entries := h.ethDown_right.foldl_right (fun _ _ hu => hu.qpReset_right) _
  have hwindows : CountKept s windows := hentries.foldl_right (fun _ _ hu => hu.dropWindow_right) _
  have hfec : CountKept s fec := hwindows.of_regs rfl
  have hclear : CountKept s clear := (hfec.resetReg_right (by decide)).setFld_right (by decide)
  exact hclear.setFld_right (by decide)

theorem CountKept.performReset_right {d k : Nat} : CountKept s (performReset d k t) := by
  unfold performReset
  split
  · exact h.resetTiles_right
  · exact h.resetEngines_right
  · exact h.resetStacks_right
  · exact h.resetSbnPort_right
  · exact h.resetEthPort_right

/-! Messages (R363, R368, R381, R383). -/

theorem CountKept.ethOut_right {p : Nat} {e : Emit} : CountKept s (ethOut t p e) := by
  unfold ethOut
  split <;> exact h.of_regs rfl

theorem CountKept.qpSend_right {q n : Nat} {e : Nat → Emit} : CountKept s (qpSend t q n e) := by
  unfold qpSend
  extract_lets psn packets next x
  split
  · have hnext : CountKept s next := h.setFld_right (by decide)
    have hkept : CountKept s (setQp next q { x with unacked := x.unacked ++ [(psn, packets, e psn)] }) := hnext.of_regs rfl
    exact hkept.ethOut_right
  · exact h

theorem CountKept.sendMsg_right {c : Cls} {q n : Nat} {e : Emit} : CountKept s (sendMsg t c q n e) := by
  unfold sendMsg
  split
  · exact h.qpSend_right
  · exact h.of_regs rfl

theorem CountKept.sendReply_right {c : Cls} {q op seq job st hint : Nat} {dup : Bool} {l : List Byte} :
    CountKept s (sendReply t c q op seq job st dup hint l) :=
  h.sendMsg_right

theorem CountKept.refusedReq_right {c : Cls} {q op seq st : Nat} : CountKept s (refusedReq t c q op seq st) := by
  unfold refusedReq
  extract_lets refused
  have hrefused : CountKept s refused :=
    h.firstRecord_right (by decide) (((((h.setFld_right (by decide)).setFld_right (by decide)).setFld_right
      (by decide)).setFld_right (by decide)).setFld_right (by decide))
  exact hrefused.event_right.ite_right hrefused

theorem CountKept.flushBad_right {n : Nat} : CountKept s (flushBad n t) := by
  induction n generalizing t with
  | zero => exact h
  | succ n ih =>
    unfold flushBad
    dsimp only
    split
    · exact h
    · split
      · exact h
      · next a rest _ =>
        have hrest : CountKept s { t with mgmt := { t.mgmt with queue := rest } } := h.of_regs rfl
        exact ih hrest.refusedReq_right.sendReply_right

theorem CountKept.touchSession_right {c : Cls} : CountKept s (touchSession t c) := by
  have hrecent : CountKept s { t with sec := { t.sec with debugRecent := true } } := h.of_regs rfl
  exact (hrecent.setFld_right (by decide)).ite_right h

end

theorem CountKept.answerOut_right {s : State} {op : Nat} {r : Req} {a : Answer} (h : CountKept s a.state) :
    CountKept s (answerOut op r a) := by
  unfold answerOut
  extract_lets noted
  have hnoted : CountKept s noted := by
    simp only [noted]
    split
    · exact h.refusedReq_right
    · split
      · exact h.of_regs rfl
      · exact h
  have hheld : CountKept s { noted with mgmt := { noted.mgmt with replayReq := some r } } := hnoted.of_regs rfl
  exact (hheld.setFld_right (by decide)).ite_right hnoted.sendReply_right

section
variable {s t : State} (h : CountKept s t)
include h

/-- A request keeps the pane counter where its effect does. -/
theorem CountKept.serveReqst_right {op : Nat} {r : Req} {ext : Bool} {f : State → Answer}
    (hf : ∀ u, CountKept s u → CountKept s (f u).state) : CountKept s (serveReqst op r ext f t) := by
  unfold serveReqst
  extract_lets this q new earlier m taken preempted session a after noted m' served
  refine h.ite_right (h.ite_right (h.ite_right ?_))
  have htaken : CountKept s taken := by
    simp only [taken]
    split
    · exact h.of_regs rfl
    · exact h
  have hpreempted : CountKept s preempted := (htaken.bump_right (f := MBX_EVT_PREEMPT) (by decide)).event_right.ite_right htaken
  have hsession : CountKept s session := hpreempted.touchSession_right
  have ha : CountKept s a.state := by
    simp only [a]
    split
    · exact hsession
    · exact hf session hsession
  have hserved : CountKept s served := by
    simp only [served]
    split
    · exact hsession.sendReply_right
    · exact CountKept.answerOut_right ha
  exact hserved.flushBad_right

theorem CountKept.answerReplay_right {st : Nat} {l : List Byte} : CountKept s (answerReplay t st l) := by
  unfold answerReplay
  split
  · exact h
  · have hdone : CountKept s { t with mgmt := { t.mgmt with replayReq := none } } := h.of_regs rfl
    exact (hdone.setFld_right (by decide)).sendReply_right

theorem CountKept.dropUpdate_right : CountKept s (dropUpdate t) := by
  unfold dropUpdate emptyOther
  split
  · exact h
  · refine CountKept.of_regs (CountKept.setFld_right (f := SEC_BOOT_UPDATE_READY) (x := 0) (k := 0) (n := 0) (h.of_regs ?_) (by decide)) rfl
    rfl

/-! Resets of the management complex (R376, R377, R410, R411). -/

theorem CountKept.holdCores_right {ms : Nat} : CountKept s (holdCores ms t) := by
  unfold holdCores
  extract_lets lost replay m dropped
  have hlost : CountKept s lost := h.foldl_right (fun _ _ hu => (hu.bump_right (by decide)).sendReply_right) _
  have hreplay : CountKept s replay := (hlost.bump_right (by decide)).answerReplay_right.ite_right hlost
  have hempty : CountKept s { replay with mgmt := { replay.mgmt with queue := [], resetAt := ms } } := hreplay.of_regs rfl
  have hdropped : CountKept s dropped := hempty.dropUpdate_right
  exact (hdropped.setFld_right (by decide)).setFld_right (by decide)

theorem CountKept.holdIfAsked_right {ms : Nat} : CountKept s (holdIfAsked ms t) := h.holdCores_right.ite_right h

theorem CountKept.mgmtWdtReset_right {ms : Nat} : CountKept s (mgmtWdtReset ms t) := by
  unfold mgmtWdtReset
  split
  · exact h
  · extract_lets held counted recent m shown
    have hheld : CountKept s held := h.captureDump_right.holdCores_right
    have hcounted : CountKept s counted := (hheld.bump_right (f := MBX_EVT_WDT_RESETS) (by decide)).event_right
    have hrecent : CountKept s { counted with mgmt := { counted.mgmt with wdt := recent } } := hcounted.of_regs rfl
    have hshown : CountKept s shown := hrecent.setFld_right (by decide)
    exact (hshown.setFld_right (by decide)).fault_right.ite_right hshown

theorem CountKept.mgmtReady_right {ok : Bool} {ms : Nat} : CountKept s (mgmtReady ok ms t) := by
  unfold mgmtReady
  split
  · exact h
  · extract_lets copy recent m shown ready
    have hcopy : CountKept s copy := h.integrityRecord_right.raise_right.captureDump_right.ite_right h
    have hrecent : CountKept s { copy with mgmt := { copy.mgmt with wdt := recent } } := hcopy.of_regs rfl
    have hshown : CountKept s shown := hrecent.setFld_right (by decide)
    have hready : CountKept s ready := ((hshown.setFld_right (by decide)).setFld_right (by decide)).raise_right
    exact hready.domainEnd_right.ite_right hready

/-! Domain resets asked for and carried out (R439, R440). -/

theorem CountKept.awaitReset_right {d k : Nat} : CountKept s (awaitReset t d k) := by
  unfold awaitReset
  split
  · exact h
  · exact h.of_regs rfl

theorem CountKept.ethLog_right {reason q code addr : Nat} : CountKept s (ethLog t reason q code addr) :=
  h.firstRecord_right (by decide) ((((((h.setFld_right (by decide)).setFld_right (by decide)).setFld_right
    (by decide)).setFld_right (by decide)).setFld_right (by decide)).setFld_right (by decide))

/-- No domain but the whole part loses the pane counter as its reset is asked for. -/
theorem CountKept.beginReset_right {d k : Nat} (hd : d ≠ 6) : CountKept s (beginReset d k t) := by
  unfold beginReset
  split
  · exact (h.fault_right.ite_right h).awaitReset_right
  split
  · extract_lets data down
    have hdown : CountKept s down := h.foldl_right (fun _ _ hu => hu.setFld_right (by decide)) _
    clear_value down data
    apply CountKept.awaitReset_right
    split
    · exact hdown.ethLog_right.fault_right.ite_right hdown
    · exact hdown
  · exact h.awaitReset_right

theorem CountKept.domainReset_right {c : Cls} {d k : Nat} (hd : d ≠ 6) : CountKept s (domainReset c d k t).state := by
  unfold domainReset
  split
  · exact h
  · split
    · exact h
    · split
      · exact h
      · exact h.beginReset_right hd

theorem CountKept.domainResetDone_right {d k : Nat} : CountKept s (domainResetDone d k t) :=
  h.performReset_right.domainEnd_right.ite_right h

end

/-! The whole-part reset asked for by a request (R440). -/

/-- The whole part loses the pane counter as its reset is asked for. -/
theorem count_beginReset_whole (s : State) : kGet? (beginReset 6 0 s).regs PANE_COUNT.base = none := by
  have hreset : ∀ u, CountKept (wholeReset u) (awaitReset (wholeReset u) 6 0) := fun u => (CountKept.refl _).awaitReset_right
  exact Eq.trans (hreset _) (count_wholeReset _)

/-- A request that is served has its effect, and is answered. -/
theorem serveReqst_serves {s : State} {r : Req} {op : Nat} {ext : Bool} (f : State → Answer) (h : serves s r op ext) :
    serveReqst op r ext f (fresh s) =
      flushBad (answerOut op r (f (inService s r))).mgmt.queue.length (answerOut op r (f (inService s r))) := by
  obtain ⟨⟨hready, hreach, hrom, hq, hreplay, _⟩, hdup, hcheck⟩ := h
  have hready' : fld (fresh s) MBX_STATUS_READY = 1 := hready
  have hreach' : clsReaches (fresh s) r.cls r.qp = true := hreach
  have hdup' : dupOf (inService s r) r = none := by
    rw [dupOf, inService_mgmt]
    exact hdup
  have hcheck' : requestCheck (inService s r) r op ext = none := by rw [requestCheck_inService, hcheck]
  have hqueue : (fresh s).mgmt.queue = [] := hq
  have hrom' : (fresh s).rst.serviceRom = false := hrom
  have hnew : ∀ a, servedNow (fresh s) [a] a = true := fun a => servedNow_alone a hreplay
  have hsession : touchSession (fresh s) r.cls = inService s r := rfl
  simp only [serveReqst, hready', hreach', hrom', hqueue, hnew, ne_eq, not_true_eq_false, Bool.true_eq_false, or_self, if_false,
    Bool.false_eq_true, false_and, List.any_nil, List.nil_append, List.find?_nil, Option.getD_none, Bool.not_true,
    removeFirst, Bool.false_and, hsession, hdup', hcheck']
  rfl

/-- A platform-class request for the whole part's reset leaves no pane counter. -/
theorem count_domainReset_whole {s : State} {r : Req} (ms : Nat) (h : serves s r 0x0904) (hr : r.cls = .platform) :
    kGet? (holdIfAsked ms (serveReqst 0x0904 r false (domainReset r.cls 6 0) (fresh s))).regs PANE_COUNT.base = none := by
  have heffect : domainReset r.cls 6 0 (inService s r) = ⟨beginReset 6 0 (inService s r), 1, [], false⟩ := by
    unfold domainReset
    rw [hr]
    rfl
  rw [serveReqst_serves _ h, heffect]
  have hkept : CountKept (beginReset 6 0 (inService s r))
      (answerOut 0x0904 r ⟨beginReset 6 0 (inService s r), 1, [], false⟩) := CountKept.answerOut_right (CountKept.refl _)
  exact Eq.trans hkept.flushBad_right.holdIfAsked_right (count_beginReset_whole _)

/-! The closing of a command. -/

theorem pane_finish (s u : State) : pane (finish s u) = pane u :=
  finish_fld_any s u PANE_COUNT_COUNT 0 0 (by decide)

/-- A command whose effect keeps the counter's register keeps the pane. -/
theorem pane_kept {c : Instr} {s : State} {f : State → State} (hc : exec c s = runCmd f s)
    (hf : CountKept (fresh s) (f (fresh s))) : ∃ t, exec c s = .next t ∧ pane t = pane s :=
  ⟨_, next_of_effect hc rfl, (pane_finish s _).trans hf.pane⟩

/-- A command whose effect leaves the counter's register unlisted leaves the pane at 0. -/
theorem pane_reset {c : Instr} {s : State} {f : State → State} (hc : exec c s = runCmd f s)
    (hf : kGet? (f (fresh s)).regs PANE_COUNT.base = none) : ∃ t, exec c s = .next t ∧ pane t = 0 :=
  ⟨_, next_of_effect hc rfl, (pane_finish s _).trans (pane_of_count_none hf)⟩

/-- Settles O5: a mullion writes the counter's register once, the reset of the whole part drops it, and nothing else in these commands
names it. -/
theorem mullionAddsOnePane : Obligations.MullionAddsOnePane := by
  unfold Obligations.MullionAddsOnePane
  refine ⟨fun s hpower => ?_, fun s hpower => ?_, fun s f ns hpower hns => ?_, fun s r ms hserves hr => ?_,
    fun s dom k ms core ok c hc => ?_, fun s r d k ms hd => ⟨?_, ?_⟩⟩
  · exact ⟨_, next_of_effect (exec_mullion s) rfl, (pane_finish s _).trans (pane_mullionAll (s := fresh s) hpower)⟩
  · refine pane_kept (exec_mullion s) ?_
    rw [mullionAll_below (s := fresh s) hpower]
    exact CountKept.refl _
  · refine pane_reset (exec_modRst ns f s) ?_
    have hacts : ¬(power (fresh s) = 0 ∨ resetActs ns = false) := by
      simp only [resetActs, decide_eq_true hns, Bool.true_or, Bool.true_eq_false, or_false]
      exact hpower
    unfold modRst
    rw [if_neg hacts]
    exact Eq.trans (CountKept.refl _).bootRun_right (count_wholeReset _)
  · exact pane_reset (exec_domainReset r 6 0 ms s) (count_domainReset_whole ms hserves hr)
  · simp only [List.mem_cons, List.not_mem_nil, or_false] at hc
    rcases hc with rfl | rfl | rfl
    · exact pane_kept (exec_domainResetDone dom k s) (CountKept.refl _).domainResetDone_right
    · exact pane_kept (exec_mgmtWdtReset core ms s) (CountKept.refl _).mgmtWdtReset_right
    · exact pane_kept (exec_mgmtReady ok ms s) (CountKept.refl _).mgmtReady_right
  · exact pane_kept (exec_domainReset r d k ms s)
      ((CountKept.refl _).serveReqst_right (fun _ hu => hu.domainReset_right hd)).holdIfAsked_right
  · exact pane_kept (exec_mgmtReset r ms s)
      ((CountKept.refl _).serveReqst_right (fun _ hu => CountKept.awaitReset_right hu)).holdIfAsked_right

end Sys2Proof.Proofs
end

section
/-! SUPPORT. The end of a task (R32, R39, R40, R110, R153, R175, R244, R252, R354, R443): what its parts keep of memory and of the
detectors' state. -/

namespace Sys2Proof.Proofs
open Sys2Proof Sys2Proof.Machine

/-- Memory and what the commit phase and the detectors hold are as before. -/
def RunKept (s t : State) : Prop := (t.commit, t.mem) = (s.commit, s.mem)

theorem RunKept.refl (s : State) : RunKept s s := rfl

theorem RunKept.trans {s t u : State} (h : RunKept s t) (h' : RunKept t u) : RunKept s u := Eq.trans h' h

theorem RunKept.fields {s t : State} (h : RunKept s t) : t.commit = s.commit ∧ t.mem = s.mem := by
  simpa only [RunKept, Prod.mk.injEq] using h

section
variable {s t : State} (h : RunKept s t)
include h

theorem RunKept.setFld_right {f : Field} {x k n : Nat} : RunKept s (setFld t f x k n) := h.trans rfl

theorem RunKept.event_right {code n : Nat} : RunKept s (event t code n) := by
  unfold event
  split <;> exact h

theorem RunKept.fault_right {code : Nat} {r : Option Nat} : RunKept s (fault t code r) := by
  unfold fault
  split <;> exact h

theorem RunKept.ite_right {c : Prop} [Decidable c] {u : State} (h' : RunKept s u) : RunKept s (if c then t else u) := by
  split
  · exact h
  · exact h'

theorem RunKept.foldl_right {α : Type} {f : State → α → State} (hf : ∀ u a, RunKept s u → RunKept s (f u a)) (l : List α) :
    RunKept s (l.foldl f t) := by
  induction l generalizing t with
  | nil => exact h
  | cons a l ih => exact ih (hf t a h)

theorem RunKept.foldLive_right {α : Type} {f : State → α → State} (hf : ∀ u a, RunKept s u → RunKept s (f u a)) (l : List α) :
    RunKept s (foldLive f t l) := by
  induction l generalizing t with
  | nil => exact h
  | cons a l ih => exact h.ite_right (ih (hf t a h))

theorem RunKept.firstRecord_right {f : Field} {k n : Nat} {g : State → State} (hg : RunKept s (g t)) :
    RunKept s (firstRecord t f k n g) :=
  h.ite_right hg.setFld_right

theorem RunKept.setSite_right {i : Nat} {x : SiteS} : RunKept s (setSite t i x) := h.trans rfl

theorem RunKept.setTile_right {i : Nat} {x : TileS} : RunKept s (setTile t i x) := h.trans rfl

theorem RunKept.setEmb_right {k : Nat} {x : EmbS} : RunKept s (setEmb t k x) := h.trans rfl

theorem RunKept.raiseToken_right {n : Nat} : RunKept s (raiseToken t n) := by
  obtain ⟨a, l, e⟩ := raiseToken_eq t n
  rw [e]
  exact h.trans rfl

/-! Messages sent as a task ends (R110, R354). -/

theorem RunKept.sbnFault_right {code vc part coll tseq : Nat} : RunKept s (sbnFault t code vc part coll tseq) :=
  (h.firstRecord_right h.setFld_right.setFld_right.setFld_right.setFld_right.setFld_right.setFld_right.setFld_right).fault_right

theorem RunKept.sbnSend_right {m : SbnMsg} : RunKept s (sbnSend t m) := by
  unfold sbnSend
  split
  · have hdrop : RunKept s (shutterDrop t) := (h.trans (t := t) (u := bump t SBN_EVT_SHUTTER_DROP) rfl).event_right
    exact hdrop.sbnFault_right.ite_right hdrop
  · split
    · exact h
    · exact h.trans rfl

theorem RunKept.writeSlot_right {q : Word32B} {a off n : Nat} : RunKept s (writeSlot t q a off n) := by
  induction n generalizing t off with
  | zero => exact h
  | succ n ih =>
    have hdraw : RunKept s { t with free := t.free + 1 } := h.trans rfl
    exact ih hdraw.sbnSend_right

theorem RunKept.stageQueues_right {i : Nat} {w : WinTask} : RunKept s (stageQueues t i w) := by
  unfold stageQueues
  refine h.foldl_right (fun u e hu => ?_) _
  extract_lets q n filled job produced
  have hproduced : RunKept s produced := by
    refine RunKept.ite_right ?_ hu
    exact hu.writeSlot_right.trans rfl
  exact hproduced.sbnSend_right.ite_right hproduced

theorem RunKept.finishTask_right {i : Nat} {w : WinTask} : RunKept s (finishTask t i w) :=
  h.stageQueues_right.ite_right h.stageQueues_right.raiseToken_right

theorem RunKept.refreshRound_right {k : Nat} : RunKept s (refreshRound t k) := by
  unfold refreshRound
  have hclosed : RunKept s (setFld (setFld t GRE_STATUS_ROUND_OPEN 0 k) GRE_STATUS_MARKERS_MISSING 0 k) :=
    h.setFld_right.setFld_right
  split
  · exact h.setFld_right.setFld_right.setFld_right.setFld_right.ite_right hclosed
  · exact hclosed

theorem RunKept.greFault_right {k code a b c d e : Nat} : RunKept s (greFault t k code a b c d e) :=
  (h.firstRecord_right h.setFld_right.setFld_right.setFld_right.setFld_right.setFld_right.setFld_right.setFld_right).fault_right

theorem RunKept.stageContrib_right {k : Nat} {c : Contrib} : RunKept s (stageContrib t k c) := by
  unfold stageContrib
  extract_lets e ahead
  refine RunKept.ite_right h.greFault_right (RunKept.ite_right ?_ (RunKept.ite_right h.setEmb_right h.setEmb_right.refreshRound_right))
  unfold regionBound faultWith
  split
  · exact h
  · exact h.trans rfl

theorem RunKept.sendContrib_right {p k : Nat} {c : Contrib} : RunKept s (sendContrib t p k c) :=
  h.stageContrib_right.ite_right h.sbnSend_right

theorem RunKept.sendMarkers_right {mb layer : Nat} : RunKept s (sendMarkers t mb layer) :=
  h.foldl_right (fun _ _ hu => hu.foldl_right (fun _ _ hv => hv.foldl_right (fun _ _ hw => hw.sendContrib_right) _) _) _

theorem RunKept.roundEnds_right : RunKept s (roundEnds t) := by
  unfold roundEnds
  refine RunKept.ite_right h (h.foldLive_right (fun u r hu => ?_) _)
  have hended : RunKept s { u with step := { u.step with ended := r :: u.step.ended } } := hu.trans rfl
  exact hu.ite_right hended.sendMarkers_right

/-! The next thing at the site (R175, R244, R252). -/

theorem RunKept.startTask_right {i : Nat} {w : WinTask} : RunKept s (startTask t i w) := by
  unfold startTask
  extract_lets x w' placed p charged
  have hcharged : RunKept s charged := (h.setSite_right (i := i) (x := { x with run := some w', runTime := x.runTime + wtCycles w' })).trans rfl
  exact hcharged.setFld_right.ite_right hcharged

theorem RunKept.startNext_right {i : Nat} : RunKept s (startNext t i) := by
  unfold startNext
  dsimp only
  split
  · exact h
  · exact h.setSite_right.startTask_right

theorem RunKept.judgePiece_right {i : Nat} : RunKept s (judgePiece t i) := by
  unfold judgePiece
  extract_lets late n ps x placed counted
  have hplaced : RunKept s placed := h.setSite_right
  have hcounted : RunKept s counted := hplaced.ite_right (hplaced.setFld_right (f := SPX_EVT_RC_NEXT)).event_right
  split
  · exact hcounted.setSite_right.startTask_right.setFld_right
  · exact hcounted

theorem RunKept.siteGoesOn_right {i : Nat} : RunKept s (siteGoesOn t i) :=
  h.startNext_right.ite_right h.judgePiece_right

/-! What a retirement takes back (R271, R272, R277). -/

theorem RunKept.releaseTag_right {w : WinTask} : RunKept s (releaseTag t w) := by
  unfold releaseTag
  extract_lets mbs
  exact h.ite_right (h.trans rfl)

theorem RunKept.dropRecs_right {q : StashRec → Bool} : RunKept s (dropRecs t q) := by
  unfold dropRecs
  extract_lets gone spilled
  exact h.ite_right (h.trans rfl)

theorem RunKept.cutReservation_right {w : WinTask} : RunKept s (cutReservation t w) := by
  unfold cutReservation
  extract_lets key
  split
  · exact h.trans rfl
  · exact h

theorem RunKept.retireWhole_right {i : Nat} {w : WinTask} : RunKept s (retireWhole t i w) := by
  unfold retireWhole
  extract_lets x freed released dropped cut pieces y
  have hfreed : RunKept s freed := h.setTile_right.ite_right h
  have hcut : RunKept s cut := hfreed.releaseTag_right.dropRecs_right.cutReservation_right
  exact hcut.finishTask_right.ite_right hcut.setSite_right

end

end Sys2Proof.Proofs
end

section
/-! SUPPORT. The site after a task (R153, R175, R443), the closing of the command, and the forms of retirement that ask nothing of what
follows (R32, R448). -/

namespace Sys2Proof.Proofs
open Sys2Proof Sys2Proof.Machine

/-! The detectors' state through the closing of a command. -/

theorem retiredIn_fifoRaise (s : State) (r : Raised) : (fifoRaise s r).commit.retiredIn = s.commit.retiredIn := by
  have hpush : ∀ (u : State) (e : EvRec), (fifoPush u e).commit = u.commit := fun u e => by
    unfold fifoPush
    split
    · rfl
    · split <;> rfl
  unfold fifoRaise
  split
  · split
    · rfl
    · rw [hpush]
  · rw [hpush]

theorem commit_judge (t : State) : (judge t).commit = t.commit := by
  unfold judge
  split
  · rfl
  · split
    · obtain ⟨a, b, m, j, r, e⟩ := faultStop_eq t ‹Raised›.code (recordBits t ‹Raised›)
      obtain ⟨g, x, e'⟩ := enterRecovery_eq { setJob t 4 with sched := a, jobEnd := b, mgmt := m, job := j, rst := r }
      rw [e, e']
      rcases setJob_eq t 4 with h | h <;> rw [h]
      rfl
    · rfl

theorem retiredIn_finish (s t : State) : (finish s t).commit.retiredIn = t.commit.retiredIn := by
  have hrecord : ∀ (l : List Raised) (u : State), (l.foldl fifoRaise u).commit.retiredIn = u.commit.retiredIn := by
    intro l
    induction l with
    | nil => exact fun _ => rfl
    | cons r l ih => exact fun u => (ih _).trans (retiredIn_fifoRaise u r)
  rw [← commit_judge t]
  unfold finish
  generalize judge t = u
  have hu : (recordAll u).commit.retiredIn = u.commit.retiredIn := hrecord u.raised u
  generalize recordAll u = v at hu
  exact hu

/-! The end of a run. -/

/-- A site whose task has ended, before what waited for its tile takes place. -/
def ended (s : State) (i : Nat) : State :=
  let s := setSite s i { site s i with run := none }
  let s := { s with commit := { s.commit with retiredIn := true } }
  if i < 96 then setTile (setFld s TILE_STATUS_BUSY 0 i) i { tileS s i with place := 0 } else s

/-- With nothing held back the site is idle and that is all. -/
theorem endRun_eq {s : State} (i : Nat) (h : s.mgmt.heldWrites = []) : endRun s i = ended s i := by
  unfold endRun ended
  dsimp only
  split
  · unfold releaseWrites
    rw [if_pos (by simp [h])]
  · rfl

theorem ended_eq (s : State) (i : Nat) :
    ∃ g x, ended s i = { s with
      regs := g, tiles := x, sched := { s.sched with sites := kPut s.sched.sites i { site s i with run := none } {} },
      commit := { s.commit with retiredIn := true } } ∧
      RegsBut [TILE_STATUS.at i 0] s (ended s i) ∧ (∀ j, j ≠ i → tileS (ended s i) j = tileS s j) ∧
      (tileS (ended s i) i).owed = (tileS s i).owed := by
  unfold ended
  dsimp only
  split
  · refine ⟨_, _, rfl, RegsBut.trans (regsBut_of_regs_eq _ rfl) (regsBut_setFld _ TILE_STATUS_BUSY 0 i 0 (List.mem_singleton.mpr rfl)),
      fun j hj => tileS_setTile_ne _ _ hj, ?_⟩
    rw [tileS_setTile_same]
    rfl
  · exact ⟨_, _, rfl, regsBut_of_regs_eq _ rfl, fun _ _ => rfl, rfl⟩

theorem site_ended_same (s : State) (i : Nat) : site (ended s i) i = { site s i with run := none } := by
  obtain ⟨g, x, e, _⟩ := ended_eq s i
  rw [e]
  exact kGetD_kPut_same _ _ _ _

theorem site_ended_ne (s : State) {i j : Nat} (h : j ≠ i) : site (ended s i) j = site s j := by
  obtain ⟨g, x, e, _⟩ := ended_eq s i
  rw [e]
  exact kGetD_kPut_ne _ _ _ _ h

theorem retiredIn_endRun (s : State) (i : Nat) : (endRun s i).commit.retiredIn = true := by
  have hstore : ∀ (l : List (Nat × Nat)) (u : State), (l.foldl (fun s e => hostStore s e.1 (leBytes 8 e.2)) u).commit = u.commit := by
    intro l
    induction l with
    | nil => exact fun _ => rfl
    | cons e l ih =>
      intro u
      obtain ⟨g, x, he, _⟩ := hostStore_frame u e.1 (leBytes 8 e.2)
      rw [List.foldl_cons, ih, he]
      exact store_commit u e.1 (leBytes 8 e.2)
  have hended : (ended s i).commit.retiredIn = true := by
    obtain ⟨g, x, e, _⟩ := ended_eq s i
    rw [e]
  have hrelease : ∀ u : State, (releaseWrites u i).commit = u.commit := fun u => by
    unfold releaseWrites
    dsimp only
    split
    · rfl
    · exact hstore _ _
  rw [← hended]
  unfold endRun ended
  dsimp only
  split
  · rw [hrelease]
  · rfl

/-! Retirement, as its command begins (R222, R448). -/

/-- A task's retirement is not a recompute piece's, nor that of a conversion between attempts. -/
theorem retires_of {s : State} {i : Nat} {w : WinTask} (hrec : w.recompute = false)
    (hat : (tileS s i).attempt = none ∨ 96 ≤ i) : (w.recompute || (tileS s i).attempt.isSome && decide (i < 96)) = false := by
  rcases hat with h | h
  · simp [hrec, h]
  · simp [hrec, Nat.not_lt.mpr h]

theorem taskRetire_dead {s : State} {i : Nat} {w : WinTask} (hrun : (site s i).run = some w) (hrec : w.recompute = false)
    (hat : (tileS s i).attempt = none ∨ 96 ≤ i) (hlive : jobLive s = false) : taskRetire i s = endRun s i := by
  unfold taskRetire
  simp only [hrun, retires_of hrec hat, hlive, Bool.false_eq_true, if_false, Bool.not_false, if_true]

theorem taskRetire_live {s : State} {i : Nat} {w : WinTask} (hrun : (site s i).run = some w) (hrec : w.recompute = false)
    (hat : (tileS s i).attempt = none ∨ 96 ≤ i) (hlive : jobLive s = true) :
    taskRetire i s =
      let u := if w.lastPiece then retireWhole (endRun s i) i w else endRun s i
      if faulted u then u else siteGoesOn (roundEnds u) i := by
  unfold taskRetire
  simp only [hrun, retires_of hrec hat, hlive, Bool.false_eq_true, if_false, Bool.not_true]

/-- A task's retirement counts for the detectors, whatever follows it. -/
theorem retiredIn_taskRetire {s : State} {i : Nat} {w : WinTask} (hrun : (site s i).run = some w) (hrec : w.recompute = false)
    (hat : (tileS s i).attempt = none ∨ 96 ≤ i) : (taskRetire i s).commit.retiredIn = true := by
  cases hlive : jobLive s with
  | false =>
    rw [taskRetire_dead hrun hrec hat hlive]
    exact retiredIn_endRun s i
  | true =>
    rw [taskRetire_live hrun hrec hat hlive]
    have hkept : RunKept (endRun s i) (if w.lastPiece then retireWhole (endRun s i) i w else endRun s i) :=
      (RunKept.refl _).retireWhole_right.ite_right (RunKept.refl _)
    have hall := hkept.ite_right (c := faulted (if w.lastPiece then retireWhole (endRun s i) i w else endRun s i) = true)
      (hkept.roundEnds_right.siteGoesOn_right (i := i))
    dsimp only
    rw [hall.fields.1]
    exact retiredIn_endRun s i

/-! Recompute pieces, as their command begins (R251). -/

theorem recomputePiece_dead {s : State} {i : Nat} {w : WinTask} (env : TileEnv) (hrun : (site s i).run = some w)
    (hrec : w.recompute = true) (hlive : jobLive s = false) : recomputePiece i env s = endRun s i := by
  unfold recomputePiece
  simp only [hrun, hrec, hlive, Bool.not_true, Bool.false_eq_true, if_false, Bool.not_false, if_true]

/-- What follows a recompute piece's work. -/
def pieceEnds (s : State) (i : Nat) (w : WinTask) : State :=
  let u := if lastRecompute (endRun s i) i w then finishTask (endRun s i) i w else endRun s i
  if faulted u then u else siteGoesOn u i

section
variable {s : State} {i : Nat} {w : WinTask} (hrun : (site s i).run = some w) (hrec : w.recompute = true) (hlive : jobLive s = true)
  (hf : faulted s = false)
include hrun hrec hlive hf

/-- A piece whose region the tile does not list only ends. -/
theorem recomputePiece_unlisted
    (hnone : (tileS s i).owed.find? (fun o => o.drained && o.key == w.owedAt && o.taskId == dTaskId w.desc) = none) :
    recomputePiece i {} s = pieceEnds s i w := by
  have henv : unitEnv s i {} = s := rfl
  unfold recomputePiece
  simp only [hrun, hrec, hlive, henv, hnone, hf, Bool.not_true, Bool.false_eq_true, if_false]
  rfl

/-- A piece whose region is listed does its work, and ends. -/
theorem recomputePiece_listed {o : OwedS}
    (hfind : (tileS s i).owed.find? (fun o => o.drained && o.key == w.owedAt && o.taskId == dTaskId w.desc) = some o)
    (hwork : faulted (recompute s i w o) = false) : recomputePiece i {} s = pieceEnds (recompute s i w o) i w := by
  have henv : unitEnv s i {} = s := rfl
  unfold recomputePiece
  simp only [hrun, hrec, hlive, henv, hfind, hf, hwork, Bool.not_true, Bool.false_eq_true, if_false]
  rfl

end

/-- With nothing held back a piece's end keeps memory and counts for the detectors. -/
theorem pieceEnds_fields {s : State} {i : Nat} (w : WinTask) (hheld : s.mgmt.heldWrites = []) :
    (pieceEnds s i w).commit.retiredIn = true ∧ (pieceEnds s i w).mem = s.mem := by
  have hkept : RunKept (ended s i) (pieceEnds s i w) := by
    unfold pieceEnds
    rw [endRun_eq i hheld]
    have hu : RunKept (ended s i) (if lastRecompute (ended s i) i w then finishTask (ended s i) i w else ended s i) :=
      (RunKept.refl _).finishTask_right.ite_right (RunKept.refl _)
    exact hu.ite_right hu.siteGoesOn_right
  obtain ⟨hcommit, hmem⟩ := hkept.fields
  obtain ⟨g, x, e, _⟩ := ended_eq s i
  rw [hcommit, hmem, e]
  exact ⟨rfl, rfl⟩

end Sys2Proof.Proofs
end

section
/-! SUPPORT. What a retirement does where nothing else is left to run at its site (R32, R39, R40, R271, R272, R277). -/

namespace Sys2Proof.Proofs
open Sys2Proof Sys2Proof.Machine

/-! The token and the site. -/

/-- A token below its bound, or none of that number, is counted without a fault. -/
theorem raiseToken_sound {s : State} {n : Nat} (h : ∀ x, kGet? s.sched.tokens n = some x → x.count < 65535) :
    ∃ a, raiseToken s n = { s with sched := { s.sched with tokens := a } } ∧
      ∀ x, kGet? s.sched.tokens n = some x → kGet? a n = some { x with count := x.count + 1 } := by
  unfold raiseToken
  split
  · next hnone =>
    refine ⟨s.sched.tokens, rfl, fun x hx => ?_⟩
    rw [hnone] at hx
    cases hx
  · next x hsome =>
    have hx := h x hsome
    rw [if_neg (by omega)]
    refine ⟨_, rfl, fun y hy => ?_⟩
    obtain rfl : x = y := Option.some.inj (hsome.symm.trans hy)
    exact kGet?_kSet_same _ _ _

theorem finishTask_sound {s : State} (i : Nat) {w : WinTask} (hq : s.job.queues = [])
    (h : ∀ x, kGet? s.sched.tokens (dRaises w.desc) = some x → x.count < 65535) :
    ∃ a, finishTask s i w = { s with sched := { s.sched with tokens := a } } ∧
      ∀ x, dRaises w.desc ≠ 0xFFFF → kGet? s.sched.tokens (dRaises w.desc) = some x →
        kGet? a (dRaises w.desc) = some { x with count := x.count + 1 } := by
  have hnone : stageQueues s i w = s := by
    unfold stageQueues
    rw [hq]
    rfl
  unfold finishTask
  rw [hnone]
  dsimp only
  split
  · next he => exact ⟨s.sched.tokens, rfl, fun x hne => absurd he hne⟩
  · obtain ⟨a, e, ha⟩ := raiseToken_sound h
    exact ⟨a, e, fun x _ hx => ha x hx⟩

/-- A site with no queued task and no piece stays idle. -/
theorem siteGoesOn_idle {s : State} {i : Nat} (hp : (site s i).pieces = []) (hw : ∀ u ∈ (site s i).window, u.queued = false) :
    siteGoesOn s i = setSite s i (site s i) := by
  have hqueued : (site s i).window.filter (fun t => t.queued) = [] := by
    rw [List.filter_eq_nil_iff]
    intro u hu
    rw [hw u hu]
    decide
  have hsame : { site s i with pieces := [] } = site s i := by
    rw [← hp]
  unfold siteGoesOn
  rw [if_neg (by rw [hqueued]; simp [admittedOf, runOrder, sortBy])]
  unfold judgePiece
  simp only [hp, List.filter_nil, List.length_nil, List.map_nil, removeFirst, if_true, hsame]

/-- The end of a task at a site with nothing else to run: its token counts, and every site stands. -/
theorem taskEnds_idle {s : State} {i : Nat} {w : WinTask} (hq : s.job.queues = []) (hp : (site s i).pieces = [])
    (hw : ∀ u ∈ (site s i).window, u.queued = false)
    (h : ∀ x, kGet? s.sched.tokens (dRaises w.desc) = some x → x.count < 65535) :
    ∃ a b, finishTask s i w = { s with sched := { s.sched with tokens := a } } ∧
      siteGoesOn (finishTask s i w) i = { s with sched := { s.sched with tokens := a, sites := b } } ∧
      (∀ x, dRaises w.desc ≠ 0xFFFF → kGet? s.sched.tokens (dRaises w.desc) = some x →
        kGet? a (dRaises w.desc) = some { x with count := x.count + 1 }) ∧ ∀ j, kGetD b j {} = site s j := by
  obtain ⟨a, e, ha⟩ := finishTask_sound i hq h
  refine ⟨a, kPut s.sched.sites i (site s i) {}, e, ?_, ha, fun j => ?_⟩
  · rw [e]
    exact siteGoesOn_idle (s := { s with sched := { s.sched with tokens := a } }) hp hw
  · by_cases hj : j = i
    · rw [hj]
      exact kGetD_kPut_same _ _ _ _
    · exact kGetD_kPut_ne _ _ _ _ hj

/-- The token of a task counts where nothing in its command's cycle faulted. -/
theorem tokenCounts_of_quiet {s v : State} {n : Nat} (hquiet : lowestFault v.raised = none)
    (h : ∀ x, n ≠ 0xFFFF → kGet? s.sched.tokens n = some x → kGet? v.sched.tokens n = some { x with count := x.count + 1 }) :
    tokenCounts s (finish s v) n := by
  intro x hn hx _
  rw [(finish_quiet s v hquiet).sched]
  exact h x hn hx

/-! What a retirement takes back. -/

/-- The tags of a micro-batch whose last reader has retired are gone. -/
def tagsReleased (s : State) (w : WinTask) (tags : List (Nat × Nat × Nat)) : Prop :=
  ∀ e ∈ s.job.extra.lastReaders, e.2 = dTaskId w.desc → ∀ g ∈ tags, ¬(g.1 = w.pass ∧ g.2.1 = e.1)

theorem releaseTag_eq (s : State) (w : WinTask) :
    ∃ g l, releaseTag s w = { s with regs := g, step := { s.step with tags := l } } ∧
      RegsBut [PANE_SASH.at 0 0] s (releaseTag s w) ∧ tagsReleased s w l := by
  unfold releaseTag
  extract_lets mbs
  have hmbs : ∀ e ∈ s.job.extra.lastReaders, e.2 = dTaskId w.desc → e.1 ∈ mbs := fun e he hid =>
    List.mem_map_of_mem (List.mem_filter.mpr ⟨he, beq_iff_eq.mpr hid⟩)
  split
  · next hnone =>
    refine ⟨s.regs, s.step.tags, rfl, regsBut_of_regs_eq _ rfl, fun e he hid => ?_⟩
    have := hmbs e he hid
    rw [hnone] at this
    cases this
  · refine ⟨_, _, rfl, ?_, fun e he hid g hg hsame => ?_⟩
    · have hset : ∀ (u : State) (f : Field) (x : Nat), f.reg = PANE_SASH → RegsBut [PANE_SASH.at 0 0] u (setFld u f x) :=
        fun u f x hf => regsBut_setFld u f x 0 0 (by rw [hf]; exact List.mem_singleton.mpr rfl)
      exact (regsBut_of_regs_eq _ rfl).trans ((hset _ PANE_SASH_REF_CUR _ rfl).trans (hset _ PANE_SASH_REF_OLD _ rfl))
    · obtain ⟨_, hkeep⟩ := List.mem_filter.mp hg
      have hin : mbs.contains g.2.1 = true := List.contains_iff_mem.mpr (hsame.2 ▸ hmbs e he hid)
      rw [beq_iff_eq.mpr hsame.1, hin] at hkeep
      cases hkeep

theorem refreshStash_eq (s : State) :
    ∃ g, refreshStash s = { s with regs := g } ∧ RegsBut [PANE_STASH.at 0 0] s (refreshStash s) := by
  refine ⟨_, rfl, ?_⟩
  exact (regsBut_setFld s PANE_STASH_FREE _ 0 0 (List.mem_singleton.mpr rfl)).trans
    (regsBut_setFld _ PANE_STASH_HOLDERS _ 0 0 (List.mem_singleton.mpr rfl))

theorem dropRecs_eq (s : State) (q : StashRec → Bool) :
    ∃ g b, dropRecs s q = { s with regs := g, stash := b } ∧ RegsBut [PANE_STASH.at 0 0] s (dropRecs s q) := by
  unfold dropRecs
  extract_lets gone spilled
  split
  · exact ⟨_, _, rfl, regsBut_of_regs_eq _ rfl⟩
  · obtain ⟨g, e, hr⟩ := refreshStash_eq
      { s with stash := { s.stash with recs := s.stash.recs.filter (fun r => !q r), spilled := spilled } }
    exact ⟨g, _, e, (regsBut_of_regs_eq _ rfl).trans hr⟩

theorem cutReservation_eq (s : State) (w : WinTask) :
    ∃ g b, cutReservation s w = { s with regs := g, stash := b } ∧ RegsBut [PANE_STASH.at 0 0] s (cutReservation s w) := by
  unfold cutReservation
  extract_lets key
  split
  · obtain ⟨g, e, hr⟩ := refreshStash_eq { s with stash := { s.stash with reserved := kErase s.stash.reserved key } }
    exact ⟨g, _, e, (regsBut_of_regs_eq _ rfl).trans hr⟩
  · exact ⟨_, _, rfl, regsBut_of_regs_eq _ rfl⟩

/-- A tile that owes nothing has no recompute pieces. -/
theorem recomputePieces_nil {s : State} {i : Nat} (w : WinTask) (h : (tileS s i).owed = []) : recomputePieces s i w = [] := by
  unfold recomputePieces
  rw [h]
  rfl

/-- A whole task that leaves nothing owed takes its tags, records and reservations back, and ends. -/
theorem retireWhole_eq {s : State} {i : Nat} {w : WinTask} (howed : (tileS s i).owed = []) :
    ∃ g x l b, retireWhole s i w =
      finishTask { s with regs := g, tiles := x, step := { s.step with tags := l }, stash := b } i w ∧
      RegsBut [PANE_SASH.at 0 0, PANE_STASH.at 0 0] s
        { s with regs := g, tiles := x, step := { s.step with tags := l }, stash := b } ∧ tagsReleased s w l := by
  unfold retireWhole
  extract_lets x freed released dropped cut pieces y
  have hfreed : ∃ y, freed = { s with tiles := y } ∧ (tileS freed i).owed = [] := by
    simp only [freed]
    split
    · refine ⟨_, rfl, ?_⟩
      rw [tileS_setTile_same]
      simp [x, howed]
    · exact ⟨s.tiles, rfl, howed⟩
  obtain ⟨z, hfreed, hnone⟩ := hfreed
  obtain ⟨g₁, l, e₁, hr₁, hl⟩ := releaseTag_eq freed w
  obtain ⟨g₂, b₂, e₂, hr₂⟩ := dropRecs_eq released (fun r => r.last == dTaskId w.desc && r.step == w.pass)
  obtain ⟨g₃, b₃, e₃, hr₃⟩ := cutReservation_eq dropped w
  have hcut : cut = { s with regs := g₃, tiles := z, step := { s.step with tags := l }, stash := b₃ } := by
    rw [show cut = _ from e₃, show dropped = _ from e₂, show released = _ from e₁, hfreed]
  have howed' : (tileS cut i).owed = [] := by
    rw [hcut, ← hnone, hfreed]
    rfl
  have hpieces : pieces = [] := by
    simp only [pieces, recomputePieces_nil w howed', ite_self]
  rw [if_pos hpieces]
  refine ⟨g₃, z, l, b₃, by rw [hcut], ?_, ?_⟩
  · rw [← hcut]
    refine RegsBut.trans (t := freed) (regsBut_of_regs_eq _ (by rw [hfreed])) ?_
    have h₁ : RegsBut [PANE_SASH.at 0 0, PANE_STASH.at 0 0] freed released := hr₁.mono (fun a ha => by simp_all)
    have h₂ : RegsBut [PANE_SASH.at 0 0, PANE_STASH.at 0 0] released dropped := hr₂.mono (fun a ha => by simp_all)
    have h₃ : RegsBut [PANE_SASH.at 0 0, PANE_STASH.at 0 0] dropped cut := hr₃.mono (fun a ha => by simp_all)
    exact h₁.trans (h₂.trans h₃)
  · rw [hfreed] at hl
    exact hl

/-! The retirement as one effect. -/

/-- A step without rounds sends no markers. -/
theorem roundEnds_none {s : State} (h : roundsOf s (stepMbs s) = []) : roundEnds s = s := by
  unfold roundEnds
  rw [h]
  simp only [foldLive, ite_self]

/-- The job's state is in no register that a retirement writes. -/
theorem jobState_of_regsBut {s t : State} {ex : List Nat} (h : RegsBut ex s t) (hex : RST_STATUS.at 0 0 ∉ ex) : jobState t = jobState s :=
  fld_congr RST_STATUS_JOB_STATE 0 0 (h RST_STATUS 0 0 hex)

theorem tileStatus_ne {i : Nat} (h : i < 104) : RST_STATUS.at 0 0 ∉ [TILE_STATUS.at i 0, PANE_SASH.at 0 0, PANE_STASH.at 0 0] := by
  have hall : ∀ k < 104, RST_STATUS.at 0 0 ≠ TILE_STATUS.at k 0 := by decide
  simp only [List.mem_cons, List.not_mem_nil, or_false, not_or]
  exact ⟨hall i h, by decide, by decide⟩

/-- What a retirement with nothing else to run changes. -/
theorem taskRetire_effect {s : State} {i : Nat} {w : WinTask} (hi : i < 104) (hraised : s.raised = [])
    (hrun : (site s i).run = some w) (hrec : w.recompute = false) (hat : (tileS s i).attempt = none ∨ 96 ≤ i)
    (hlive : jobLive s = true) (hlast : w.lastPiece = true) (howed : (tileS s i).owed = []) (hheld : s.mgmt.heldWrites = [])
    (hq : s.job.queues = []) (hrounds : roundsOf s (stepMbs s) = []) (hp : (site s i).pieces = [])
    (hw : ∀ u ∈ (site s i).window, u.queued = false)
    (htok : ∀ x, kGet? s.sched.tokens (dRaises w.desc) = some x → x.count < 65535) :
    ∃ g x l b a y c, taskRetire i s =
        { s with regs := g, tiles := x, step := { s.step with tags := l }, stash := b, commit := c,
                 sched := { s.sched with tokens := a, sites := y } } ∧
      RegsBut [TILE_STATUS.at i 0, PANE_SASH.at 0 0, PANE_STASH.at 0 0] s (taskRetire i s) ∧ tagsReleased s w l ∧
      (∀ x, dRaises w.desc ≠ 0xFFFF → kGet? s.sched.tokens (dRaises w.desc) = some x →
        kGet? a (dRaises w.desc) = some { x with count := x.count + 1 }) ∧
      (kGetD y i {}).run = none ∧ ∀ j, j ≠ i → kGetD y j {} = site s j := by
  have hsite : site (ended s i) i = { site s i with run := none } := site_ended_same s i
  have hother : ∀ j, j ≠ i → site (ended s i) j = site s j := fun j hj => site_ended_ne s hj
  obtain ⟨g₀, x₀, e₀, hr₀, _, howed₀⟩ := ended_eq s i
  obtain ⟨g, x, l, b, e, hr, hl⟩ := retireWhole_eq (w := w) (howed₀.trans howed)
  generalize hv : ({ ended s i with regs := g, tiles := x, step := { (ended s i).step with tags := l }, stash := b } : State) = v
    at e hr
  have hsched : v.sched = (ended s i).sched := by rw [← hv]
  have hvsite : ∀ j, site v j = site (ended s i) j := fun j => congrArg (fun y : Sched => kGetD y.sites j {}) hsched
  have htokens : v.sched.tokens = s.sched.tokens := by rw [hsched, e₀]
  have hregs : RegsBut [TILE_STATUS.at i 0, PANE_SASH.at 0 0, PANE_STASH.at 0 0] s v :=
    (hr₀.mono (fun a ha => by simp_all)).trans (hr.mono (fun a ha => List.mem_cons_of_mem _ ha))
  have hpieces : (site v i).pieces = [] := by rw [hvsite, hsite]; exact hp
  have hwindow : ∀ u ∈ (site v i).window, u.queued = false := by rw [hvsite, hsite]; exact hw
  have hqueues : v.job.queues = [] := by rw [← hv, e₀]; exact hq
  obtain ⟨a, y, hfinish, hgoes, ha, hy⟩ := taskEnds_idle (w := w) hqueues hpieces hwindow (by rw [htokens]; exact htok)
  have hfaulted : faulted (finishTask v i w) = false := by
    rw [hfinish]
    refine faulted_eq_false ?_ ?_
    · show v.raised = []
      rw [← hv, e₀]
      exact hraised
    · have hstate : jobState v = jobState s := jobState_of_regsBut hregs (tileStatus_ne hi)
      show jobLive v = true
      rw [jobLive, hstate]
      exact hlive
  have hends : roundEnds (finishTask v i w) = finishTask v i w := by
    refine roundEnds_none ?_
    rw [hfinish, ← hv, e₀]
    exact hrounds
  have hall : taskRetire i s = { v with sched := { v.sched with tokens := a, sites := y } } := by
    rw [taskRetire_live hrun hrec hat hlive, endRun_eq i hheld]
    simp only [hlast, if_true, e, hfaulted, Bool.false_eq_true, if_false, hends]
    exact hgoes
  refine ⟨g, x, l, b, a, y, (ended s i).commit, ?_, ?_, ?_, ?_, ?_, fun j hj => ?_⟩
  · rw [hall, ← hv, e₀]
  · rw [hall]
    exact hregs.trans (regsBut_of_regs_eq _ rfl)
  · rw [e₀] at hl
    exact hl
  · rw [htokens] at ha
    exact ha
  · rw [hy, hvsite, hsite]
  · rw [hy, hvsite, hother j hj]

end Sys2Proof.Proofs
end

section
/-! SUPPORT. The work of a recompute piece (R176, R193, R207, R208, R217, R218, R251): what its re-run of a chain changes beside the
cells it forms, and where the cells are written. -/

namespace Sys2Proof.Proofs
open Sys2Proof Sys2Proof.Machine

/-! Registers of a tile lie below those of the job's state (R8, R151). -/

/-- The tiles' copies of a register, to its second element, lie below the blocks that the tiles share. -/
def tileReg (r : Reg) : Bool := decide (r.base + 95 * r.instStride + r.stride < 0x020000000000)

theorem tileReg_at_ne {r : Reg} (h : tileReg r = true) {k n : Nat} (hk : k < 96) (hn : n ≤ 1) : r.at k n ≠ RST_STATUS.at 0 0 := by
  simp only [tileReg, decide_eq_true_eq] at h
  have hinst : k * r.instStride ≤ 95 * r.instStride := Nat.mul_le_mul_right _ (by omega)
  have hel : n * r.stride ≤ 1 * r.stride := Nat.mul_le_mul_right _ hn
  have hbase : RST_STATUS.at 0 0 = 0x020000608000 := rfl
  unfold Reg.at at hbase ⊢
  omega

theorem tileReg_acc (b : Nat) : tileReg (accIV b).reg = true ∧ tileReg (accOF b).reg = true ∧ tileReg (accNF b).reg = true := by
  unfold accIV accOF accNF
  split <;> decide

theorem fld_lt (s : State) (f : Field) (k n : Nat) : fld s f k n < 2 ^ f.bits := Nat.mod_lt _ (Nat.two_pow_pos _)

/-- What the unit's reports on tile `i` keep: they write registers of the tile, raise events and mark the tile's own state, but what
the tile owes, the other tiles and the job's state stand. -/
structure WorkKept (i : Nat) (s t : State) : Prop where
  eq : ∃ g l x, t = { s with regs := g, raised := l, tiles := x }
  job : jobState t = jobState s
  quiet : ∀ r ∈ t.raised, r ∈ s.raised ∨ r.kind ≠ 1
  others : ∀ j, j ≠ i → tileS t j = tileS s j
  owed : (tileS t i).owed = (tileS s i).owed

theorem WorkKept.refl (i : Nat) (s : State) : WorkKept i s s := ⟨⟨_, _, _, rfl⟩, rfl, fun _ h => .inl h, fun _ _ => rfl, rfl⟩

theorem WorkKept.trans {i : Nat} {s t u : State} (h : WorkKept i s t) (h' : WorkKept i t u) : WorkKept i s u := by
  obtain ⟨⟨g, l, x, e⟩, hjob, hquiet, hothers, howed⟩ := h
  obtain ⟨⟨g', l', x', e'⟩, hjob', hquiet', hothers', howed'⟩ := h'
  refine ⟨⟨g', l', x', by rw [e', e]⟩, hjob'.trans hjob, fun r hr => ?_, fun j hj => (hothers' j hj).trans (hothers j hj),
    howed'.trans howed⟩
  rcases hquiet' r hr with hm | hk
  · exact hquiet r hm
  · exact .inr hk

section
variable {i : Nat} {s t : State} (h : WorkKept i s t)
include h

theorem WorkKept.setFld_right {f : Field} {x n : Nat} (hi : i < 96) (hf : tileReg f.reg = true) (hn : n ≤ 1 := by decide) :
    WorkKept i s (setFld t f x i n) := by
  refine h.trans ⟨⟨_, _, _, rfl⟩, ?_, fun _ hr => .inl hr, fun _ _ => rfl, rfl⟩
  exact fld_setFld_ne t f RST_STATUS_JOB_STATE x i n 0 0 (tileReg_at_ne hf hi hn).symm

theorem WorkKept.bump_right {f : Field} {d n : Nat} (hi : i < 96) (hf : tileReg f.reg = true) (hn : n ≤ 1 := by decide) :
    WorkKept i s (bump t f d i n) :=
  h.setFld_right hi hf hn

theorem WorkKept.event_right {code n : Nat} : WorkKept i s (event t code n) := by
  unfold event
  split
  · exact h
  · refine h.trans ⟨⟨_, _, _, rfl⟩, rfl, fun r hr => ?_, fun _ _ => rfl, rfl⟩
    rcases List.mem_append.mp hr with hm | hm
    · exact .inl hm
    · rw [List.mem_singleton.mp hm]
      exact .inr (by decide : (0 : Nat) ≠ 1)

theorem WorkKept.setTile_right {x : TileS} (hx : x.owed = (tileS t i).owed) : WorkKept i s (setTile t i x) := by
  refine h.trans ⟨⟨_, _, _, rfl⟩, rfl, fun _ hr => .inl hr, fun j hj => tileS_setTile_ne _ _ hj, ?_⟩
  rw [tileS_setTile_same, hx]

theorem WorkKept.ite_right {c : Prop} [Decidable c] {u : State} (h' : WorkKept i s u) : WorkKept i s (if c then t else u) := by
  split
  · exact h
  · exact h'

theorem WorkKept.foldl_right {α : Type} {f : State → α → State} (hf : ∀ u a, WorkKept i s u → WorkKept i s (f u a)) (l : List α) :
    WorkKept i s (l.foldl f t) := by
  induction l generalizing t with
  | nil => exact h
  | cons a l ih => exact ih (hf t a h)

/-! Reports. -/

theorem WorkKept.stick_right {f : Field} {b : Bool} (hi : i < 96) (hf : tileReg f.reg = true) : WorkKept i s (stick t f b i) :=
  (h.setFld_right hi hf).ite_right h

theorem WorkKept.markCause_right {w : WinTask} {bits : Nat} : WorkKept i s (markCause t i w bits) := by
  unfold markCause
  split
  · exact h
  · refine h.setTile_right ?_
    split <;> rfl

theorem WorkKept.openLouvre_right {n : Nat} (hi : i < 96) : WorkKept i s (openLouvre t i n) := by
  unfold openLouvre
  extract_lets w opened shown
  have hopened : WorkKept i s opened := h.ite_right (h.bump_right hi (by decide))
  have hshown : WorkKept i s shown := (hopened.setFld_right hi (by decide)).setFld_right hi (by decide)
  exact (hshown.ite_right (hshown.bump_right hi (by decide))).event_right

theorem WorkKept.arrayCounts_right {n : Nat} {e : TileEnv} (hi : i < 96) : WorkKept i s (arrayCounts t i n e) := by
  unfold arrayCounts
  extract_lets counted bubbles sel stalled
  have hcounted : WorkKept i s counted := (h.bump_right hi (by decide)).bump_right hi (by decide)
  have hbubbles : WorkKept i s bubbles := (hcounted.ite_right (hcounted.bump_right hi (by decide))).event_right
  have hsel : WorkKept i s sel := hbubbles.setFld_right hi (by decide)
  have hstalled : WorkKept i s stalled := hsel.ite_right (hsel.bump_right hi (by decide))
  exact hstalled.openLouvre_right hi

theorem WorkKept.flushReport_right {n : Nat} (hi : i < 96) : WorkKept i s (flushReport t i n) :=
  (h.bump_right hi (by decide)).event_right

theorem WorkKept.accReport_right {w : WinTask} {instr b : Nat} {r : AccFlags} (hi : i < 96) (hb : b ≤ 1) :
    WorkKept i s (accReport t i w instr b r) := by
  unfold accReport
  obtain ⟨hiv, hof, hnf⟩ := tileReg_acc b
  extract_lets iv ovf nf cause x overran
  have hcause : WorkKept i s cause :=
    (((h.stick_right hi hiv).stick_right hi hof).stick_right hi hnf).markCause_right
  have hover : WorkKept i s overran :=
    ((hcause.setTile_right (x := { tileS cause i with overflowed := (tileS cause i).overflowed ||| 2 ^ b }) rfl).bump_right
      (f := ACC_EVT_OVERFLOWS) hi (by decide)).event_right.ite_right hcause
  split
  · exact hover
  · refine hover.ite_right ?_
    have hfields : ∀ {u : State} {f : Field} {x : Nat}, f.reg = ACC_EXC → WorkKept i s u → WorkKept i s (setFld u f x i b) :=
      fun hf hu => hu.setFld_right hi (by rw [hf]; decide) hb
    exact (hfields rfl (hfields rfl (hfields rfl (hfields rfl (hfields rfl (hfields rfl (hfields rfl (hfields rfl
      hover)))))))).event_right

end

/-! The chain formed again (R251). -/

/-- A row depends on memory and the job alone. -/
theorem fullRow_work {i : Nat} {s t : State} (h : WorkKept i s t) (p : Prod) (nb r : Nat) (c : List AccCell) :
    fullRow t i p nb r c = fullRow s i p nb r c := by
  obtain ⟨g, l, x, e⟩ := h.eq
  rw [e]
  rfl

theorem mmaProd_work {i : Nat} {s t : State} (h : WorkKept i s t) (cls : Nat) (g : Option Nat) (w : Word32B) :
    mmaProd t i cls g w = mmaProd s i cls g w := by
  obtain ⟨g, l, x, e⟩ := h.eq
  rw [e]
  rfl

/-- What the instructions of a chain make of a row's cells. -/
def chainRow (s : State) (i nb r : Nat) (chain : List (Word32B × Option Nat)) (c : List AccCell) : List AccCell :=
  chain.foldl (fun c w => fullRow s i (mmaProd s i 5 w.2 w.1) nb r c) c

theorem fullStep_state {i : Nat} {s t : State} {w : WinTask} {nb instr : Nat} {is : List Nat} {v : Word32B × Option Nat}
    {c : List (List AccCell)} (h : WorkKept i s t) (hi : i < 96) : WorkKept i s (fullStep t i w nb instr is v c).1 := by
  have hbank : fld t SPX_RCFG_BANK i ≤ 1 := Nat.le_of_lt_succ (fld_lt t SPX_RCFG_BANK i 0)
  unfold fullStep
  extract_lets p r bank f main pair flush init
  have hmain : WorkKept i s main := (h.arrayCounts_right hi).accReport_right hi hbank
  have hpair : WorkKept i s pair := (hmain.accReport_right hi (Nat.sub_le _ _)).ite_right hmain
  have hflush : WorkKept i s flush := hpair.flushReport_right hi
  show WorkKept i s init
  simp only [init]
  split
  · refine hflush.foldl_right (fun u r hu => ?_) _
    exact hu.setTile_right rfl
  · exact hflush

/-- An instruction forms each row from that row's cells. -/
theorem fullStep_rows {i : Nat} {s t : State} {w : WinTask} {nb instr : Nat} {is : List Nat} {v : Word32B × Option Nat}
    (C : Nat → List AccCell) (h : WorkKept i s t) :
    (fullStep t i w nb instr is v (is.map C)).2 = is.map (fun r => fullRow s i (mmaProd s i 5 v.2 v.1) nb r (C r)) := by
  have hrow : ∀ r, fullRow t i (mmaProd t i 5 v.2 v.1) nb r (C r) = fullRow s i (mmaProd s i 5 v.2 v.1) nb r (C r) := fun r => by
    rw [mmaProd_work h, fullRow_work h]
  show (is.zip (is.map C)).map (fun e => fullRow t i (mmaProd t i 5 v.2 v.1) nb e.1 e.2) = _
  rw [← List.map_prod_left_eq_zip]
  simp only [List.map_map, Function.comp_def, hrow]

/-- A chain over rows `is`: the reports of its instructions, and every row formed from its own cells. -/
theorem chain_formed {i : Nat} {s : State} {w : WinTask} {nb : Nat} {is : List Nat} (hi : i < 96)
    (chain : List (Word32B × Option Nat)) {t : State} (n : Nat) (C : Nat → List AccCell) (h : WorkKept i s t) :
    ∃ u m, chain.foldl (fun (a : State × List (List AccCell) × Nat) v =>
        let x := fullStep a.1 i w nb a.2.2 is v a.2.1
        (x.1, x.2, a.2.2 + 1)) (t, is.map C, n) = (u, is.map (fun r => chainRow s i nb r chain (C r)), m) ∧ WorkKept i s u := by
  induction chain generalizing t n C with
  | nil => exact ⟨t, n, rfl, h⟩
  | cons v chain ih =>
    rw [List.foldl_cons]
    dsimp only
    rw [fullStep_rows C h]
    exact ih (n + 1) _ (fullStep_state h hi)

theorem fullRow_length (s : State) (i : Nat) (p : Prod) (nb r : Nat) {c : List AccCell} (h : c.length = 16) :
    (fullRow s i p nb r c).length = 16 := by
  simp [fullRow, h]

theorem chainRow_length (s : State) (i nb r : Nat) (chain : List (Word32B × Option Nat)) {c : List AccCell} (h : c.length = 16) :
    (chainRow s i nb r chain c).length = 16 := by
  induction chain generalizing c with
  | nil => exact h
  | cons v chain ih => exact ih (fullRow_length s i _ nb r h)

/-! Where the rows are written (R208, R251). -/

/-- The bytes of a row's words in the drained region. -/
def owedBytes (o : OwedS) (c : List AccCell) : List Byte := wordBytes (c.map (owedWord o))

/-- One row written to its bank, with a pair's compensation, and to the drained region. -/
def putOwedRow (i : Nat) (o : OwedS) (bank nb : Nat) (s : State) (e : Nat × List AccCell) : State :=
  let s := putBankRow s i bank e.1 (fld s SPX_RCFG_COL0 i) (e.2.map (fun c => c.w))
  let s := if pairBit (tileS s i) bank e.1 then
      putBankRow s i (1 - bank) e.1 (fld s SPX_RCFG_COL0 i) (e.2.map (fun c => c.e)) else s
  tstore s i (o.addr + 4 * o.cols * e.1 + 64 * nb) (owedBytes o e.2)

theorem wordBytes_length (ws : List (BitVec 32)) : (wordBytes ws).length = 4 * ws.length := by
  induction ws with
  | nil => rfl
  | cons w ws ih =>
    rw [wordBytes, List.flatMap_cons, List.length_append, leBytes_length, ← wordBytes, ih, List.length_cons]
    omega

/-- What a row's write keeps: all but memory, and of memory what lies outside the tile's window and, in its scratchpad, outside the
row's own words. -/
structure RowPut (i lo : Nat) (s t : State) : Prop where
  eq : ∃ m b w, t = { s with mem := m, bad := b, weak := w }
  window : ∀ a, a < tileBase i ∨ tileBase i + 0x1000000 ≤ a → memRead t.mem a = memRead s.mem a
  spad : ∀ a, a < tileBase i + spadBytes → a < lo ∨ lo + 64 ≤ a → memRead t.mem a = memRead s.mem a

/-- A bank's row lies above the scratchpad and within the tile's window. -/
theorem bankRow_bounds {b r col : Nat} (hb : b ≤ 1) (hr : r < 128) (hcol : col < 128) :
    spadBytes ≤ bankBase b + 512 * r + 4 * col ∧ bankBase b + 512 * r + 4 * col + 64 ≤ 0x1000000 := by
  unfold spadBytes bankBase
  omega

theorem RowPut.refl (i lo : Nat) (s : State) : RowPut i lo s s := ⟨⟨_, _, _, rfl⟩, fun _ _ => rfl, fun _ _ _ => rfl⟩

theorem RowPut.trans {i lo : Nat} {s t u : State} (h : RowPut i lo s t) (h' : RowPut i lo t u) : RowPut i lo s u := by
  obtain ⟨⟨m, b, w, e⟩, hwin, hspad⟩ := h
  obtain ⟨⟨m', b', w', e'⟩, hwin', hspad'⟩ := h'
  exact ⟨⟨m', b', w', by rw [e', e]⟩, fun a ha => (hwin' a ha).trans (hwin a ha), fun a ha ho => (hspad' a ha ho).trans (hspad a ha ho)⟩

/-- A write of 64 bytes in the tile's window, at the row's own words or past the scratchpad. -/
theorem rowPut_tstore {i lo a : Nat} (s : State) {bs : List Byte} (hlen : bs.length = 64) (hhigh : a + 64 ≤ 0x1000000)
    (hat : lo = tileBase i + a ∨ spadBytes ≤ a) : RowPut i lo s (tstore s i a bs) := by
  refine ⟨⟨_, _, _, rfl⟩, fun b hb => memRead_store_outside s _ b bs ?_, fun b hb ho => memRead_store_outside s _ b bs ?_⟩ <;>
    omega

/-- The drained region lies in the scratchpad, with `nb` one of its n-blocks. -/
structure RegionFits (o : OwedS) (nb : Nat) : Prop where
  rows : o.rows ≤ 128
  block : 16 * nb + 16 ≤ o.cols
  spad : o.addr + 4 * o.cols * o.rows ≤ spadBytes

/-- A row's place in the region. -/
def rowPlace (o : OwedS) (nb r : Nat) : Nat := o.addr + 4 * o.cols * r + 64 * nb

theorem RegionFits.row_in_spad {o : OwedS} {nb r : Nat} (h : RegionFits o nb) (hr : r < o.rows) :
    rowPlace o nb r + 64 ≤ spadBytes := by
  have hblock := h.block
  have hspad := h.spad
  have hrow : 4 * o.cols * (r + 1) ≤ 4 * o.cols * o.rows := Nat.mul_le_mul_left _ hr
  rw [Nat.mul_add] at hrow
  unfold rowPlace
  omega

/-- The words of two rows stand apart. -/
theorem RegionFits.rows_apart {o : OwedS} {nb r r' : Nat} (h : RegionFits o nb) (hne : r ≠ r') :
    rowPlace o nb r + 64 ≤ rowPlace o nb r' ∨ rowPlace o nb r' + 64 ≤ rowPlace o nb r := by
  have hblock := h.block
  have hnext : ∀ {a b : Nat}, a < b → rowPlace o nb a + 64 ≤ rowPlace o nb b := fun {a b} hab => by
    have hrow : 4 * o.cols * (a + 1) ≤ 4 * o.cols * b := Nat.mul_le_mul_left _ hab
    rw [Nat.mul_add] at hrow
    unfold rowPlace
    omega
  rcases Nat.lt_or_gt_of_ne hne with hlt | hgt
  · exact .inl (hnext hlt)
  · exact .inr (hnext hgt)

theorem load_putOwedRow_same (i bank nb : Nat) (o : OwedS) (s : State) {e : Nat × List AccCell} (hlen : e.2.length = 16) :
    load (putOwedRow i o bank nb s e) (tileBase i + rowPlace o nb e.1) 64 = owedBytes o e.2 :=
  load_store_of_length _ _ (by rw [owedBytes, wordBytes_length, List.length_map, hlen])

section
variable {i bank nb : Nat} {o : OwedS} (hfits : RegionFits o nb) (hbank : bank ≤ 1)
include hfits hbank

theorem rowPut_putOwedRow (s : State) {e : Nat × List AccCell} (hr : e.1 < o.rows) (hlen : e.2.length = 16) :
    RowPut i (tileBase i + rowPlace o nb e.1) s (putOwedRow i o bank nb s e) := by
  have hrows := hfits.rows
  have hcol : ∀ u : State, fld u SPX_RCFG_COL0 i < 128 := fun u => fld_lt u SPX_RCFG_COL0 i 0
  have hput : ∀ (u : State) (b : Nat) (f : AccCell → BitVec 32), b ≤ 1 →
      RowPut i (tileBase i + rowPlace o nb e.1) u (putBankRow u i b e.1 (fld u SPX_RCFG_COL0 i) (e.2.map f)) := fun u b f hb => by
    obtain ⟨hlow, hhigh⟩ := bankRow_bounds hb (Nat.lt_of_lt_of_le hr hrows) (hcol u)
    exact rowPut_tstore u (by rw [wordBytes_length, List.length_map, hlen]) hhigh (.inr hlow)
  have hspad := hfits.row_in_spad hr
  unfold putOwedRow
  extract_lets main pair
  have hmain : RowPut i (tileBase i + rowPlace o nb e.1) s main := hput s bank _ hbank
  have hpair : RowPut i (tileBase i + rowPlace o nb e.1) s pair := by
    simp only [pair]
    split
    · exact hmain.trans (hput main (1 - bank) _ (Nat.sub_le _ _))
    · exact hmain
  refine hpair.trans (rowPut_tstore pair (by rw [owedBytes, wordBytes_length, List.length_map, hlen]) ?_ (.inl rfl))
  unfold rowPlace spadBytes at hspad
  omega

/-- A row written leaves the other rows of the region. -/
theorem load_putOwedRow_ne (s : State) {e : Nat × List AccCell} (hr : e.1 < o.rows) (hlen : e.2.length = 16) {r : Nat}
    (hr' : r < o.rows) (hne : r ≠ e.1) :
    load (putOwedRow i o bank nb s e) (tileBase i + rowPlace o nb r) 64 = load s (tileBase i + rowPlace o nb r) 64 := by
  have hspad := (rowPut_putOwedRow (i := i) hfits hbank s hr hlen).spad
  have hplace := hfits.row_in_spad hr'
  have hapart := hfits.rows_apart hne
  refine List.ext_getElem (by simp [load]) (fun k hk _ => ?_)
  simp only [load, memReads_length] at hk
  simp only [load, memReads_getElem]
  exact hspad _ (by omega) (by omega)

section
variable {D : Nat → List AccCell} (hD : ∀ r, (D r).length = 16)
include hD

/-- The rows written: nothing but memory changes, and none of it outside the tile's window. -/
theorem rowsPut_frame (l : List Nat) (hl : ∀ r ∈ l, r < o.rows) (s : State) :
    (∃ m b w, (l.map (fun r => (r, D r))).foldl (putOwedRow i o bank nb) s = { s with mem := m, bad := b, weak := w }) ∧
      sameMemBut (tileBase i) 0x1000000 s ((l.map (fun r => (r, D r))).foldl (putOwedRow i o bank nb) s) := by
  induction l generalizing s with
  | nil => exact ⟨⟨_, _, _, rfl⟩, fun _ _ => rfl⟩
  | cons r l ih =>
    obtain ⟨⟨m, b, w, e⟩, hwindow, _⟩ :=
      rowPut_putOwedRow hfits hbank s (e := (r, D r)) (hl r List.mem_cons_self) (hD r)
    obtain ⟨⟨m', b', w', e'⟩, hwindow'⟩ := ih (fun r' h => hl r' (List.mem_cons_of_mem _ h)) (putOwedRow i o bank nb s (r, D r))
    rw [List.map_cons, List.foldl_cons]
    refine ⟨⟨m', b', w', ?_⟩, fun a ha => (hwindow' a ha).trans (hwindow a ha)⟩
    rw [e', e]

theorem rowsPut_other (l : List Nat) (hl : ∀ r ∈ l, r < o.rows) (s : State) {r : Nat} (hr : r < o.rows) (hout : r ∉ l) :
    load ((l.map (fun r => (r, D r))).foldl (putOwedRow i o bank nb) s) (tileBase i + rowPlace o nb r) 64 =
      load s (tileBase i + rowPlace o nb r) 64 := by
  induction l generalizing s with
  | nil => rfl
  | cons x l ih =>
    rw [List.map_cons, List.foldl_cons, ih (fun r' h => hl r' (List.mem_cons_of_mem _ h)) _ (List.not_mem_of_not_mem_cons hout)]
    exact load_putOwedRow_ne hfits hbank s (e := (x, D x)) (hl x List.mem_cons_self) (hD x) hr (List.ne_of_not_mem_cons hout)

/-- Every row written stands in the region. -/
theorem rowsPut_row (l : List Nat) (hl : ∀ r ∈ l, r < o.rows) (s : State) {r : Nat} (hin : r ∈ l) :
    load ((l.map (fun r => (r, D r))).foldl (putOwedRow i o bank nb) s) (tileBase i + rowPlace o nb r) 64 = owedBytes o (D r) := by
  induction l generalizing s with
  | nil => cases hin
  | cons x l ih =>
    have hrest : ∀ r' ∈ l, r' < o.rows := fun r' h => hl r' (List.mem_cons_of_mem _ h)
    rw [List.map_cons, List.foldl_cons]
    by_cases hlater : r ∈ l
    · exact ih hrest _ hlater
    · obtain rfl : r = x := (List.mem_cons.mp hin).resolve_right hlater
      rw [rowsPut_other hfits hbank hD l hrest _ (hl r hin) hlater]
      exact load_putOwedRow_same i bank nb o s (e := (r, D r)) (hD r)

end

end

/-! The piece's work (R251). -/

/-- A row's cells as a piece forms them, from +0. -/
def formedRow (s : State) (i nb : Nat) (o : OwedS) (r : Nat) : List AccCell :=
  chainRow s i nb r o.chain ((List.range 16).map (fun _ => ({ w := 0 } : AccCell)))

theorem formedRow_length (s : State) (i nb : Nat) (o : OwedS) (r : Nat) : (formedRow s i nb o r).length = 16 :=
  chainRow_length s i nb r o.chain (by simp)

theorem owedRows_zip (s : State) (i : Nat) (o : OwedS) (nb : Nat) :
    (owedRows o nb).zip (owedCells s i o nb) = (owedRows o nb).map (fun r => (r, formedRow s i nb o r)) :=
  List.map_prod_left_eq_zip.symm

theorem owedRows_lt {o : OwedS} {nb r : Nat} (h : r ∈ owedRows o nb) : r < o.rows := by
  obtain ⟨_, hr⟩ := List.mem_filter.mp h
  exact of_decide_eq_true hr

/-- A piece's work: the reports of its chain, then its rows written one after the other. -/
theorem recomputeNb_eq {s : State} {i : Nat} {w : WinTask} {o : OwedS} {nb : Nat} (hi : i < 96) (hmode : o.mode ≠ 2) :
    ∃ u m, WorkKept i s u ∧ recomputeNb i w o (s, 0) nb =
      (((owedRows o nb).map (fun r => (r, formedRow s i nb o r))).foldl (putOwedRow i o (fld s SPX_RCFG_BANK i) nb) u, m) := by
  obtain ⟨u, m, e, hu⟩ := chain_formed (w := w) (nb := nb) (is := owedRows o nb) hi o.chain 0
    (fun _ => (List.range 16).map (fun _ => ({ w := 0 } : AccCell))) (WorkKept.refl i s)
  refine ⟨u, m, hu, ?_⟩
  unfold recomputeNb
  extract_lets s₀ is start r bank written
  have hr : r = (u, (owedRows o nb).map (formedRow s i nb o), m) := e
  have hput : written = ((owedRows o nb).map (fun r => (r, formedRow s i nb o r))).foldl
      (putOwedRow i o (fld s SPX_RCFG_BANK i) nb) u := by
    rw [List.map_prod_left_eq_zip]
    simp only [written, hr, if_neg hmode]
    rfl
  rw [hput, hr]

/-- What a piece's work leaves: the rows of its n-block in the region and nothing of that n-block owed; memory outside the tile's
window, the other tiles and the job's state are as before, and nothing faulted. -/
structure WorkDone (i nb : Nat) (o : OwedS) (s t : State) : Prop where
  eq : ∃ g l x m b w, t = { s with regs := g, raised := l, tiles := x, mem := m, bad := b, weak := w }
  job : jobState t = jobState s
  quiet : ∀ r ∈ t.raised, r ∈ s.raised ∨ r.kind ≠ 1
  others : ∀ j, j ≠ i → tileS t j = tileS s j
  window : sameMemBut (tileBase i) 0x1000000 s t
  rows : ∀ r ∈ owedRows o nb, load t (tileBase i + rowPlace o nb r) 64 = owedBytes o (formedRow s i nb o r)
  owed : ∀ y ∈ (tileS t i).owed, ∀ e ∈ y.owed, e.1 ≠ nb

/-- What a tile still owes once the blocks of an n-block are formed: a drained region without owed blocks is no longer listed. -/
def owedAfter (o : OwedS) (nb : Nat) (l : List OwedS) : List OwedS :=
  (l.map (fun y => if y = o then { o with owed := o.owed.filter (fun e => e.1 != nb) } else y)).filter
    (fun y => !y.drained || y.owed != [])

theorem owedAfter_one {o : OwedS} {nb : Nat} : ∀ y ∈ owedAfter o nb [o], ∀ e ∈ y.owed, e.1 ≠ nb := by
  intro y hy
  obtain ⟨hy, _⟩ := List.mem_filter.mp hy
  rw [List.map_singleton, if_pos rfl, List.mem_singleton] at hy
  rw [hy]
  intro e he
  exact bne_iff_ne.mp (List.mem_filter.mp he).2

theorem workDone_recompute {s : State} {i : Nat} {w : WinTask} {o : OwedS} (hi : i < 96) (howed : (tileS s i).owed = [o])
    (hheld : o.held = []) (hmode : o.mode ≠ 2) (hfits : RegionFits o w.owedNb) : WorkDone i w.owedNb o s (recompute s i w o) := by
  obtain ⟨u, m, hu, he⟩ := recomputeNb_eq (s := s) (w := w) (nb := w.owedNb) hi hmode
  have hbank : fld s SPX_RCFG_BANK i ≤ 1 := Nat.le_of_lt_succ (fld_lt s SPX_RCFG_BANK i 0)
  have hlt : ∀ r ∈ owedRows o w.owedNb, r < o.rows := fun r hr => owedRows_lt hr
  have hlen := formedRow_length s i w.owedNb o
  have hrow := fun r hr => rowsPut_row (i := i) hfits hbank hlen (owedRows o w.owedNb) hlt u (r := r) hr
  obtain ⟨⟨mem, bad, weak, e⟩, hwindow⟩ := rowsPut_frame (i := i) hfits hbank hlen (owedRows o w.owedNb) hlt u
  generalize ((owedRows o w.owedNb).map (fun r => (r, formedRow s i w.owedNb o r))).foldl
    (putOwedRow i o (fld s SPX_RCFG_BANK i) w.owedNb) u = v at he hrow e hwindow
  obtain ⟨⟨g, l, x, e'⟩, hjob, hquiet, hothers, howed'⟩ := hu
  have hv : ∃ z, recompute s i w o = setTile v i z ∧ z.owed = owedAfter o w.owedNb (tileS v i).owed := by
    have hnone : ∀ (f : State → Word32B → State) (z : State), o.held.foldl f z = z := fun f z => by
      rw [hheld]
      rfl
    unfold recompute
    simp only [he]
    exact ⟨_, hnone _ _, rfl⟩
  obtain ⟨z, hv, hz⟩ := hv
  have htiles : ∀ j, tileS v j = tileS u j := fun j => by rw [e]; rfl
  have hone : (tileS v i).owed = [o] := by rw [htiles, howed', howed]
  rw [hv]
  refine ⟨⟨g, l, kPut v.tiles i z {}, mem, bad, weak, ?_⟩, ?_, ?_, fun j hj => ?_, fun a ha => ?_, hrow, ?_⟩
  · show { v with tiles := kPut v.tiles i z {} } = _
    rw [e, e']
  · rw [← hjob]
    exact jobState_congr _ _ (by rw [e]; rfl)
  · intro r hr
    refine hquiet r ?_
    rw [e] at hr
    exact hr
  · rw [tileS_setTile_ne _ _ hj, htiles, hothers j hj]
  · refine (hwindow a ha).trans ?_
    rw [e']
  · rw [tileS_setTile_same, hz, hone]
    exact owedAfter_one

end Sys2Proof.Proofs
end

section
/-! SUPPORT. The end of a recompute piece where nothing else is left to run at its site (R251), and the obligation about the ends of
tasks. -/

namespace Sys2Proof.Proofs
open Sys2Proof Sys2Proof.Machine

theorem faulted_of_quiet {s : State} (h : ∀ r ∈ s.raised, r.kind ≠ 1) (hl : jobLive s = true) : faulted s = false := by
  have hany : s.raised.any (fun r => r.kind == 1) = false := by
    rw [List.any_eq_false]
    intro r hr
    simpa using h r hr
  have hstate : (jobState s == 4) = false := by
    simp only [jobLive, Bool.and_eq_true, decide_eq_true_eq] at hl
    exact beq_false_of_ne (by omega)
  rw [faulted, hany, hstate]
  rfl

/-- What a piece's end changes where nothing else is left to run: it is the last of its parent's, whose token counts. -/
theorem pieceEnds_idle {s : State} {i : Nat} {w : WinTask} (hi : i < 104) (hquiet : ∀ r ∈ s.raised, r.kind ≠ 1)
    (hlive : jobLive s = true) (hheld : s.mgmt.heldWrites = []) (hq : s.job.queues = []) (hp : (site s i).pieces = [])
    (hw : ∀ u ∈ (site s i).window, u.queued = false)
    (htok : ∀ x, kGet? s.sched.tokens (dRaises w.desc) = some x → x.count < 65535) :
    ∃ g x a y c, pieceEnds s i w =
        { s with regs := g, tiles := x, commit := c, sched := { s.sched with tokens := a, sites := y } } ∧
      (∀ x, dRaises w.desc ≠ 0xFFFF → kGet? s.sched.tokens (dRaises w.desc) = some x →
        kGet? a (dRaises w.desc) = some { x with count := x.count + 1 }) ∧
      (kGetD y i {}).run = none ∧ (∀ j, j ≠ i → kGetD y j {} = site s j) ∧
      (∀ j, j ≠ i → tileS (pieceEnds s i w) j = tileS s j) ∧ (tileS (pieceEnds s i w) i).owed = (tileS s i).owed := by
  have hsite : site (ended s i) i = { site s i with run := none } := site_ended_same s i
  have hother : ∀ j, j ≠ i → site (ended s i) j = site s j := fun j hj => site_ended_ne s hj
  obtain ⟨g, x, e, hr, htiles, howed⟩ := ended_eq s i
  have htokens : (ended s i).sched.tokens = s.sched.tokens := by rw [e]
  have hpieces : (site (ended s i) i).pieces = [] := by rw [hsite]; exact hp
  have hwindow : ∀ u ∈ (site (ended s i) i).window, u.queued = false := by rw [hsite]; exact hw
  have hqueues : (ended s i).job.queues = [] := by rw [e]; exact hq
  obtain ⟨a, y, hfinish, hgoes, ha, hy⟩ := taskEnds_idle (w := w) hqueues hpieces hwindow (by rw [htokens]; exact htok)
  have hlast : lastRecompute (ended s i) i w = true := by
    rw [lastRecompute, hpieces]
    rfl
  have hnot : RST_STATUS.at 0 0 ∉ [TILE_STATUS.at i 0] := fun h => tileStatus_ne hi (by simp_all)
  have hlive' : jobLive (ended s i) = true := by
    rw [jobLive, jobState_of_regsBut hr hnot]
    exact hlive
  have hfaulted : faulted (finishTask (ended s i) i w) = false := by
    rw [hfinish]
    refine faulted_of_quiet ?_ hlive'
    show ∀ r ∈ (ended s i).raised, r.kind ≠ 1
    rw [e]
    exact hquiet
  have hall : pieceEnds s i w = { ended s i with sched := { (ended s i).sched with tokens := a, sites := y } } := by
    unfold pieceEnds
    rw [endRun_eq i hheld, if_pos hlast]
    simp only [hfaulted, Bool.false_eq_true, if_false]
    exact hgoes
  refine ⟨g, x, a, y, (ended s i).commit, ?_, ?_, ?_, fun j hj => ?_, fun j hj => ?_, ?_⟩
  · rw [hall, e]
  · rw [htokens] at ha
    exact ha
  · rw [hy, hsite]
  · rw [hy, hother j hj]
  · rw [hall]
    exact htiles j hj
  · rw [hall]
    exact howed

/-- A recompute piece of the last of its parent's, with its region listed: the rows stand, nothing of its n-block is owed, and its parent's
token counts. -/
theorem recomputePiece_settles {s : State} {i : Fin 96} {w : WinTask} {o : OwedS} (hrun : (site s i.val).run = some w)
    (hrec : w.recompute = true) (hlive : jobLive s = true) (hheld : s.mgmt.heldWrites = []) (hq : s.job.queues = [])
    (hp : (site s i.val).pieces = []) (hw : ∀ u ∈ (site s i.val).window, u.queued = false)
    (howed : (tileS s i.val).owed = [o]) (hdrained : o.drained = true) (hkey : o.key = w.owedAt)
    (htask : o.taskId = dTaskId w.desc) (hnone : o.held = []) (hmode : o.mode ≠ 2) (hfits : RegionFits o w.owedNb)
    (htok : ∀ x, kGet? s.sched.tokens (dRaises w.desc) = some x → x.count < 65535) :
    ∃ t, exec (.recomputePiece ⟨i, {}⟩) s = .next t ∧
      (∀ e ∈ (owedRows o w.owedNb).zip (owedCells s i.val o w.owedNb),
        load t (tileBase i.val + o.addr + 4 * o.cols * e.1 + 64 * w.owedNb) 64 = wordBytes (e.2.map (owedWord o))) ∧
      (∀ y ∈ (tileS t i.val).owed, ∀ e ∈ y.owed, e.1 ≠ w.owedNb) ∧ tokenCounts s t (dRaises w.desc) ∧
      (site t i.val).run = none ∧ t.commit.retiredIn = true ∧ sameMemBut (tileBase i.val) 0x1000000 s t ∧
      (∀ j, j ≠ i.val → tileS t j = tileS s j) ∧ (∀ j, j ≠ i.val → site t j = site s j) ∧ t.stash = s.stash ∧ sameBases s t ∧
      sameNets s t ∧ t.step = s.step := by
  have hdone := workDone_recompute (s := fresh s) (w := w) i.isLt howed hnone hmode hfits
  obtain ⟨⟨g, l, x, m, b, k, e⟩, hjob, hquiet, hothers, hwindow, hrows, howes⟩ := hdone
  have hquiet' : ∀ r ∈ (recompute (fresh s) i.val w o).raised, r.kind ≠ 1 := fun r hr => (hquiet r hr).resolve_left List.not_mem_nil
  have hlive' : jobLive (recompute (fresh s) i.val w o) = true := by
    rw [jobLive, hjob]
    exact hlive
  have hfind : (tileS (fresh s) i.val).owed.find? (fun o => o.drained && o.key == w.owedAt && o.taskId == dTaskId w.desc) = some o := by
    rw [show (tileS (fresh s) i.val).owed = [o] from howed, List.find?_cons_of_pos]
    simp [hdrained, hkey, htask]
  have heffect := recomputePiece_listed (s := fresh s) hrun hrec hlive (faulted_eq_false rfl hlive) hfind
    (faulted_of_quiet hquiet' hlive')
  generalize recompute (fresh s) i.val w o = u at *
  have hsched : u.sched = s.sched := by rw [e]; rfl
  have husite : ∀ j, site u j = site s j := fun j => congrArg (fun y : Sched => kGetD y.sites j {}) hsched
  have huheld : u.mgmt.heldWrites = [] := by rw [e]; exact hheld
  obtain ⟨g', x', a, y, c, e', ha, hidle, hsites, htiles, howes'⟩ := pieceEnds_idle (w := w) (Nat.lt_trans i.isLt (by decide)) hquiet'
    hlive' huheld (by rw [e]; exact hq) (by rw [husite]; exact hp) (by rw [husite]; exact hw) (by rw [hsched]; exact htok)
  obtain ⟨hretired, hmem⟩ := pieceEnds_fields (i := i.val) w huheld
  have hrun := next_of_effect (exec_recomputePiece ⟨i, {}⟩ s) heffect
  generalize pieceEnds u i.val w = v at *
  have hlow : lowestFault v.raised = none := lowestFault_eq_none (by rw [e']; exact hquiet')
  have kept := finish_kept s v
  refine ⟨_, hrun, fun r hr => ?_, ?_, tokenCounts_of_quiet hlow (fun z hn hz => ?_), ?_, (retiredIn_finish s v).trans hretired,
    fun z hz => ?_, fun j hj => ?_, fun j hj => ?_, ?_, ?_, ?_, ?_⟩
  · rw [owedRows_zip, List.mem_map] at hr
    obtain ⟨r', hr', rfl⟩ := hr
    have hplace : tileBase i.val + o.addr + 4 * o.cols * r' + 64 * w.owedNb = tileBase i.val + rowPlace o w.owedNb r' := by
      unfold rowPlace
      omega
    rw [hplace, load_finish, load, hmem]
    exact hrows r' hr'
  · rw [tileS_finish, howes']
    exact howes
  · rw [e']
    rw [hsched] at ha
    exact ha z hn hz
  · rw [site_finish_quiet hlow, site, e']
    exact hidle
  · rw [finish_mem, hmem]
    exact hwindow z hz
  · rw [tileS_finish, htiles j hj]
    exact hothers j hj
  · rw [site_finish_quiet hlow, site, e']
    exact (hsites j hj).trans (husite j)
  · rw [kept.stash, e', e]
    rfl
  · unfold sameBases
    rw [kept.graphs, kept.embs, kept.brys, e', e]
    exact ⟨rfl, rfl, rfl⟩
  · unfold sameNets
    rw [kept.sbn, kept.eth, e', e]
    exact ⟨rfl, rfl⟩
  · rw [kept.step, e', e]
    rfl

/-! The end of a task of a job that has faulted or is not there (R448). -/

/-- A task that only ends leaves its site idle, and all but its tile and the detectors' note as it was. -/
theorem ended_settles {c : Instr} {s : State} {f : State → State} {i : Nat} (hc : exec c s = runCmd f s)
    (hf : f (fresh s) = endRun (fresh s) i) (hheld : s.mgmt.heldWrites = []) :
    ∃ t, exec c s = .next t ∧ (site t i).run = none ∧ t.commit.retiredIn = true ∧ sameMem s t ∧
      (∀ j, j ≠ i → tileS t j = tileS s j) ∧ t.stash = s.stash ∧ sameBases s t ∧ sameNets s t ∧ t.step = s.step ∧
      sameRegs [TILE_STATUS.at i 0] s t := by
  have hrun := next_of_effect hc (hf.trans (endRun_eq i (s := fresh s) hheld))
  have hsite := site_ended_same (fresh s) i
  obtain ⟨g, x, e, hr, htiles, _⟩ := ended_eq (fresh s) i
  have hlow : lowestFault (ended (fresh s) i).raised = none := lowestFault_nil (by rw [e]; rfl)
  have hretired : (ended (fresh s) i).commit.retiredIn = true := by rw [e]
  have kept := finish_kept s (ended (fresh s) i)
  refine ⟨_, hrun, ?_, (retiredIn_finish s _).trans hretired, sameMem_finish s (fun a => by rw [e]; rfl), fun j hj => ?_, ?_, ?_, ?_, ?_,
    RegsBut.sameRegs_finish s hr⟩
  · rw [site_finish_quiet hlow, hsite]
  · rw [tileS_finish]
    exact htiles j hj
  · rw [kept.stash, e]
    rfl
  · unfold sameBases
    rw [kept.graphs, kept.embs, kept.brys, e]
    exact ⟨rfl, rfl, rfl⟩
  · unfold sameNets
    rw [kept.sbn, kept.eth, e]
    exact ⟨rfl, rfl⟩
  · rw [kept.step, e]
    rfl

/-- Settles O10: what each command's effect is where a site has nothing else to run, and that what follows a task's end keeps memory and
the note of it. -/
theorem retirementEndsTask : Obligations.RetirementEndsTask := by
  unfold Obligations.RetirementEndsTask
  refine ⟨fun s i w hrun hrec hat => ?_,
    fun s i w hrun hrec hat hlive hlast howed hheld hq hrounds hp hw htok => ?_,
    fun s i w hrun hrec hat hlive hheld => ?_,
    fun s i w e hrun hrec hlive hheld => ?_,
    fun s i w hrun hrec hlive hheld hq hnone => ?_,
    fun s i w o hrun hrec hlive hheld hq hp hw howed hdrained hkey htask hnone hmode hrows hblock hspad htok =>
      recomputePiece_settles hrun hrec hlive hheld hq hp hw howed hdrained hkey htask hnone hmode ⟨hrows, hblock, hspad⟩ htok⟩
  · exact ⟨_, next_of_effect (exec_taskRetire i s) rfl, (retiredIn_finish s _).trans (retiredIn_taskRetire (s := fresh s) hrun hrec hat)⟩
  · obtain ⟨g, x, l, b, a, y, c, e, hr, hl, ha, hidle, hsites⟩ := taskRetire_effect (s := fresh s) i.isLt rfl hrun hrec hat hlive
      hlast howed hheld hq hrounds hp hw htok
    have hcmd := next_of_effect (exec_taskRetire i s) rfl
    generalize taskRetire i.val (fresh s) = v at *
    have hlow : lowestFault v.raised = none := lowestFault_nil (by rw [e]; rfl)
    have kept := finish_kept s v
    refine ⟨_, hcmd, tokenCounts_of_quiet hlow (fun z hn hz => ?_), ?_, ?_, fun j hj => ?_, sameMem_finish s (fun z => by rw [e]; rfl),
      ?_, ?_, RegsBut.sameRegs_finish s hr⟩
    · rw [e]
      exact ha z hn hz
    · rw [site_finish_quiet hlow, site, e]
      exact hidle
    · rw [kept.step, e]
      exact hl
    · rw [site_finish_quiet hlow, site, e]
      exact hsites j hj
    · unfold sameBases
      rw [kept.graphs, kept.embs, kept.brys, e]
      exact ⟨rfl, rfl, rfl⟩
    · unfold sameNets
      rw [kept.sbn, kept.eth, e]
      exact ⟨rfl, rfl⟩
  · obtain ⟨t, hcmd, hsite, _, hmem, htiles, hrest⟩ :=
      ended_settles (exec_taskRetire i s) (taskRetire_dead (s := fresh s) hrun hrec hat hlive) hheld
    exact ⟨t, hcmd, hsite, hmem, htiles, hrest⟩
  · exact ended_settles (exec_recomputePiece ⟨i, e⟩ s)
      (recomputePiece_dead (s := fresh s) e hrun hrec hlive) hheld
  · have heffect := recomputePiece_unlisted (s := fresh s) hrun hrec hlive (faulted_eq_false rfl hlive) hnone
    obtain ⟨hretired, hmem⟩ := pieceEnds_fields (s := fresh s) (i := i.val) w hheld
    refine ⟨_, next_of_effect (exec_recomputePiece ⟨i, {}⟩ s) heffect, (retiredIn_finish s _).trans hretired,
      sameMem_finish s (fun a => ?_)⟩
    rw [hmem]
    rfl

end Sys2Proof.Proofs
end

section
/-! SUPPORT. The DRAM address map (R61): device addresses and stack offsets correspond one to one. -/

namespace Sys2Proof.Proofs
open Sys2Proof Sys2Proof.Machine

theorem ilvGran_cases (s : State) : ilvGran s = 256 ∨ ilvGran s = 4096 ∨ ilvGran s = 65536 ∨ ilvGran s = 2097152 := by
  unfold ilvGran
  split <;> simp

/-- The granule has the value that `GRAN` names. -/
theorem ilvGran_of_fields {s : State} {g : Nat} (h0 : fld s BRY_ILV_GRAN = 0 → g = 256) (h1 : fld s BRY_ILV_GRAN = 1 → g = 4096)
    (h2 : fld s BRY_ILV_GRAN = 2 → g = 65536) (h3 : fld s BRY_ILV_GRAN = 3 → g = 2097152) : ilvGran s = g := by
  have hlt : fld s BRY_ILV_GRAN < 4 := Nat.mod_lt _ (by decide)
  obtain e | e | e | e : fld s BRY_ILV_GRAN = 0 ∨ fld s BRY_ILV_GRAN = 1 ∨ fld s BRY_ILV_GRAN = 2 ∨ fld s BRY_ILV_GRAN = 3 := by
    omega
  · simp only [ilvGran, e, h0 e]
  · simp only [ilvGran, e, h1 e]
  · simp only [ilvGran, e, h2 e]
  · simp only [ilvGran, e, h3 e]

/-- An address in the interleaved part. -/
theorem stackOf_interleaved {s : State} {a : Nat} (h : a < 8 * ilvBytes s) :
    stackOf s a = (a / ilvGran s % 8, a / (8 * ilvGran s) * ilvGran s + a % ilvGran s) := if_pos h

/-- An address in a stack's local part. -/
theorem stackOf_local {s : State} {a : Nat} (h : 8 * ilvBytes s ≤ a) :
    stackOf s a = ((a - 8 * ilvBytes s) / (2 ^ 36 - ilvBytes s), ilvBytes s + (a - 8 * ilvBytes s) % (2 ^ 36 - ilvBytes s)) :=
  if_neg (Nat.not_lt.mpr h)

theorem addrOf_interleaved {s : State} {x : Nat} (k : Nat) (h : x < ilvBytes s) :
    addrOf s k x = x / ilvGran s * (8 * ilvGran s) + k * ilvGran s + x % ilvGran s := if_pos h

theorem addrOf_local {s : State} {x : Nat} (k : Nat) (h : ilvBytes s ≤ x) :
    addrOf s k x = 8 * ilvBytes s + k * (2 ^ 36 - ilvBytes s) + (x - ilvBytes s) := if_neg (Nat.not_lt.mpr h)

/-- Every stack offset has a device address within DRAM. -/
theorem addrOf_lt (s : State) {k x : Nat} (hk : k < 8) (hx : x < 2 ^ 36) : addrOf s k x < dramTop := by
  unfold dramTop
  rcases Nat.lt_or_ge x (ilvBytes s) with h | h
  · rw [addrOf_interleaved k h]
    rcases ilvGran_cases s with e | e | e | e <;> rw [e] <;> omega
  · rw [addrOf_local k h]
    have := Nat.mul_le_mul_right (2 ^ 36 - ilvBytes s) (Nat.le_of_lt_succ hk)
    omega

/-- Every DRAM address lies at an offset of one of the eight stacks. -/
theorem stackOf_lt (s : State) {a : Nat} (h : a < dramTop) : (stackOf s a).1 < 8 ∧ (stackOf s a).2 < 2 ^ 36 := by
  unfold dramTop at h
  rcases Nat.lt_or_ge a (8 * ilvBytes s) with hi | hi
  · rw [stackOf_interleaved hi]
    rcases ilvGran_cases s with e | e | e | e <;> rw [e] <;> constructor <;> dsimp only <;> omega
  · rw [stackOf_local hi]
    have hpos : 0 < 2 ^ 36 - ilvBytes s := by omega
    have hx := Nat.mod_lt (a - 8 * ilvBytes s) hpos
    exact ⟨(Nat.div_lt_iff_lt_mul hpos).mpr (by omega), by dsimp only; omega⟩

/-- R61 inverts: a stack offset is where its device address lies. -/
theorem stackOf_addrOf (s : State) {k x : Nat} (hk : k < 8) (hx : x < 2 ^ 36) : stackOf s (addrOf s k x) = (k, x) := by
  rcases Nat.lt_or_ge x (ilvBytes s) with h | h
  · obtain ⟨n, hn⟩ : ∃ n, ilvBytes s = n * 2 ^ 30 := ⟨_, rfl⟩
    have hlt : addrOf s k x < 8 * ilvBytes s := by
      rw [addrOf_interleaved k h]
      rcases ilvGran_cases s with e | e | e | e <;> rw [e] <;> omega
    rw [stackOf_interleaved hlt, addrOf_interleaved k h, Prod.mk.injEq]
    rcases ilvGran_cases s with e | e | e | e <;> rw [e] <;> omega
  · have hle : 8 * ilvBytes s ≤ addrOf s k x := by
      rw [addrOf_local k h]
      omega
    have hoff : addrOf s k x - 8 * ilvBytes s = (x - ilvBytes s) + (2 ^ 36 - ilvBytes s) * k := by
      rw [addrOf_local k h, Nat.mul_comm k]
      omega
    have hin : x - ilvBytes s < 2 ^ 36 - ilvBytes s := by omega
    rw [stackOf_local hle, hoff, Nat.add_mul_div_left _ _ (by omega), Nat.add_mul_mod_self_left, Nat.div_eq_of_lt hin,
      Nat.mod_eq_of_lt hin, Prod.mk.injEq]
    omega

/-- And the other way: an address is that of the stack and offset where it lies. -/
theorem addrOf_stackOf (s : State) (a : Nat) : addrOf s (stackOf s a).1 (stackOf s a).2 = a := by
  rcases Nat.lt_or_ge a (8 * ilvBytes s) with hi | hi
  · obtain ⟨n, hn⟩ : ∃ n, ilvBytes s = n * 2 ^ 30 := ⟨_, rfl⟩
    have hx : a / (8 * ilvGran s) * ilvGran s + a % ilvGran s < ilvBytes s := by
      rcases ilvGran_cases s with e | e | e | e <;> rw [e] <;> omega
    rw [stackOf_interleaved hi, addrOf_interleaved _ hx]
    rcases ilvGran_cases s with e | e | e | e <;> rw [e] <;> dsimp only <;> omega
  · have hdiv := Nat.div_add_mod (a - 8 * ilvBytes s) (2 ^ 36 - ilvBytes s)
    rw [stackOf_local hi, addrOf_local _ (Nat.le_add_right _ _), Nat.add_sub_cancel_left, Nat.mul_comm _ (2 ^ 36 - ilvBytes s)]
    dsimp only
    omega

/-- The map is that of `BRY_ILV` alone. -/
theorem ilv_congr {s t : State} (h : readReg t BRY_ILV 0 0 = readReg s BRY_ILV 0 0) :
    ilvBytes t = ilvBytes s ∧ ilvGran t = ilvGran s := by
  unfold ilvBytes ilvGran
  rw [fld_congr BRY_ILV_IGIB 0 0 h, fld_congr BRY_ILV_GRAN 0 0 h]
  exact ⟨rfl, rfl⟩

theorem addrOf_congr {s t : State} (hi : ilvBytes t = ilvBytes s) (hg : ilvGran t = ilvGran s) (k x : Nat) :
    addrOf t k x = addrOf s k x := by
  unfold addrOf
  rw [hi, hg]

end Sys2Proof.Proofs
end

section
/-! SUPPORT. What happens at a stack (R71 to R76): patrol reads, refreshes, temperature reports, replays and recentres, each said once
before the closing of its command. -/

namespace Sys2Proof.Proofs
open Sys2Proof Sys2Proof.Machine

/-! Stacks read after they are replaced, and through the closing of a command. -/

@[simp] theorem stackS_setStack_same (s : State) (k : Nat) (x : StackS) : stackS (setStack s k x) k = x := kGetD_kPut_same _ _ _ _

theorem stackS_setStack_ne (s : State) {k j : Nat} (x : StackS) (h : j ≠ k) : stackS (setStack s k x) j = stackS s j :=
  kGetD_kPut_ne _ _ _ _ h

theorem stackS_finish (s u : State) (j : Nat) : stackS (finish s u) j = stackS u j := by
  rw [stackS, (finish_kept s u).brys, stackS]

theorem stackS_event (s : State) (c n j : Nat) : stackS (event s c n) j = stackS s j := by
  rw [stackS, event_brys, stackS]

theorem finish_bad (s u : State) : (finish s u).bad = u.bad := (finish_kept s u).bad

theorem fld_of_regs_eq {s t : State} (f : Field) (k n : Nat) (h : t.regs = s.regs) : fld t f k n = fld s f k n :=
  fld_congr f k n (by rw [readReg, h, readReg])

theorem sameMem_of_mem_eq {s t : State} (h : t.mem = s.mem) : sameMem s t := fun _ => by rw [h]

/-- The counters of a stack's errors and replays are none of the closing registers (R79). -/
theorem closing_stackRegs (k : Fin 8) : closing (BRY_ECC_CE.at k.val 0) = false ∧ closing (BRY_EVT.at k.val 0) = false := by
  revert k
  decide

theorem eccCe_ne_evt (k : Nat) : BRY_ECC_CE.at k 0 ≠ BRY_EVT.at k 0 := by
  show 0x020000100020 + k * 0x10000 + 0 * 0 ≠ 0x020000100050 + k * 0x10000 + 0 * 0
  omega

/-! The patrol scrubber (R74, R75). -/

section
variable {s : State} {k x : Nat} (hen : fld s BRY_SCRUB_EN k = 1) (htr : fld s BRY_STATUS_TRAINED k = 1) (hx : x < 2 ^ 36)
include hen htr hx

theorem patrolScrubRead_corrected (hb : s.bad.contains (addrOf s k x / 64) = false) :
    ∃ y, patrolScrubRead k x .corrected s = corrected (setStack s k y) (addrOf s k x) := by
  unfold patrolScrubRead
  rw [if_neg (by omega)]
  extract_lets st s' a g
  have hsound : ¬(Ecc.corrected = Ecc.uncorrectable ∨ s'.bad.contains g = true) := by
    rintro (h | h)
    · cases h
    · exact Bool.false_ne_true (hb.symm.trans h)
  exact ⟨_, (if_neg hsound).trans (if_pos rfl)⟩

theorem patrolScrubRead_uncorrectable (hj : jobLoaded s = false) :
    ∃ y, patrolScrubRead k x .uncorrectable s =
      store (uncorrectable (setStack s k y) (64 * (addrOf s k x / 64)) 2) (64 * (addrOf s k x / 64)) (List.replicate 64 0) := by
  unfold patrolScrubRead
  rw [if_neg (by omega)]
  extract_lets st s' a g
  have hidle : ¬jobLoaded s' = true := fun h => Bool.false_ne_true (hj.symm.trans h)
  exact ⟨_, (if_pos (.inl rfl)).trans (if_neg hidle)⟩

end

/-- A corrected read is counted at the stack of its address. -/
theorem fld_corrected (s : State) (a : Nat) : fld (corrected s a) BRY_ECC_CE_COUNT (stackOf s a).1 =
    satAdd 32 (fld s BRY_ECC_CE_COUNT (stackOf s a).1) 1 := by
  have hcount : ∀ y, fld (setStack (event (bump s BRY_ECC_CE_COUNT 1 (stackOf s a).1) 0x5001) (stackOf s a).1 y) BRY_ECC_CE_COUNT
      (stackOf s a).1 = satAdd 32 (fld s BRY_ECC_CE_COUNT (stackOf s a).1) 1 := fun y =>
    (fld_of_regs_eq _ _ _ (event_regs _ _ _)).trans (fld_bump_same s BRY_ECC_CE_COUNT 1 _ 0 (by decide))
  unfold corrected
  extract_lets k s₁ row st n raised s₂
  split
  · refine (fld_of_regs_eq _ _ _ (eventWith_regs _ _ _)).trans ((fld_setFld_ne s₂ BRY_EVT_CE_ROW BRY_ECC_CE_COUNT _ k 0 k 0 ?_).trans
      (hcount _))
    exact eccCe_ne_evt k
  · exact hcount _

/-- A whole granule stored is sound (R469). -/
theorem bad_store_granule (s : State) (g : Nat) {bs : List Byte} (h : bs.length = 64) :
    (store s (64 * g) bs).bad.contains g = false := by
  have hcovers : coversGranule (64 * g) bs.length g = true := by simp [coversGranule, h]
  rw [List.contains_eq_mem, decide_eq_false_iff_not, store, List.mem_filter, hcovers]
  exact fun hm => absurd hm.2 (by decide)

theorem patrol_corrected {s : State} {k : Fin 8} {x : Nat} (hen : fld s BRY_SCRUB_EN k.val = 1)
    (htr : fld s BRY_STATUS_TRAINED k.val = 1) (hx : x < 2 ^ 36) (hb : s.bad.contains (addrOf s k.val x / 64) = false) :
    ∃ t, exec (.patrolScrubRead k x .corrected) s = .next t ∧ sameMem s t ∧
      fld t BRY_ECC_CE_COUNT k.val = satAdd 32 (fld s BRY_ECC_CE_COUNT k.val) 1 := by
  obtain ⟨y, hu⟩ := patrolScrubRead_corrected (s := fresh s) hen htr hx hb
  have hstack : stackOf (setStack (fresh s) k.val y) (addrOf (fresh s) k.val x) = (k.val, x) := stackOf_addrOf s k.isLt hx
  have hcount := fld_corrected (setStack (fresh s) k.val y) (addrOf (fresh s) k.val x)
  rw [hstack] at hcount
  refine ⟨_, next_of_effect (exec_patrolScrubRead k x .corrected s) hu,
    sameMem_finish s (sameMem_of_mem_eq (corrected_mem _ _)), ?_⟩
  rw [finish_fld_any s _ BRY_ECC_CE_COUNT k.val 0 (closing_stackRegs k).1]
  exact hcount

theorem patrol_uncorrectable {s : State} {k : Fin 8} {x : Nat} (hen : fld s BRY_SCRUB_EN k.val = 1)
    (htr : fld s BRY_STATUS_TRAINED k.val = 1) (hx : x < 2 ^ 36) (hj : jobLoaded s = false) :
    ∃ t, exec (.patrolScrubRead k x .uncorrectable) s = .next t ∧
      load t (64 * (addrOf s k.val x / 64)) 64 = List.replicate 64 0 ∧
      sameMemBut (64 * (addrOf s k.val x / 64)) 64 s t ∧ t.bad.contains (addrOf s k.val x / 64) = false := by
  obtain ⟨y, hu⟩ := patrolScrubRead_uncorrectable (s := fresh s) hen htr hx hj
  refine ⟨_, next_of_effect (exec_patrolScrubRead k x .uncorrectable s) hu, ?_, sameMemBut_finish s fun a ha => ?_, ?_⟩
  · exact (load_finish _ _ _ _).trans (load_store_of_length _ _ List.length_replicate)
  · refine (memRead_store_outside _ _ a _ (by rwa [List.length_replicate])).trans ?_
    rw [uncorrectable_mem]
    rfl
  · rw [finish_bad]
    exact bad_store_granule _ _ List.length_replicate

/-! Refreshes, and the symbols that DRAM has lost since (R71, R72). -/

/-- What a refresh makes of one loss it finds in stack `k`: the granule's offset and the symbols in error. -/
def symbolsLost (k : Nat) (s : State) (e : Nat × Nat) : State :=
  if e.1 < 2 ^ 30 then upset s (addrOf s k (64 * e.1) / 64) e.2 else s

/-- A stack with one more refresh of a bank. -/
def refreshedBank (st : StackS) (key : Nat) : StackS := { st with refreshes := kSet st.refreshes key (kGetD st.refreshes key 0 + 1) }

theorem bankRefresh_eq {s : State} {k : Nat} (pch bank : Nat) (lost : List (Nat × Nat)) (htr : fld s BRY_STATUS_TRAINED k = 1)
    (hself : fld s BRY_STATUS_SELF_REF k = 0) : bankRefresh k pch bank lost s =
      lost.foldl (symbolsLost k) (setStack s k (refreshedBank (stackS s k) (pch * 65536 + bank))) := if_pos ⟨htr, hself⟩

/-- Losses change only which granules hold errors, and an uncorrectable granule stays one. -/
structure ErrorsGrow (s t : State) : Prop where
  only : t = { s with bad := t.bad, weak := t.weak }
  bad : ∀ g, s.bad.contains g = true → t.bad.contains g = true

theorem ErrorsGrow.refl (s : State) : ErrorsGrow s s := ⟨rfl, fun _ h => h⟩

theorem ErrorsGrow.trans {s t u : State} (h : ErrorsGrow s t) (h' : ErrorsGrow t u) : ErrorsGrow s u :=
  ⟨by rw [h'.only, h.only], fun g hg => h'.bad g (h.bad g hg)⟩

theorem ErrorsGrow.regs {s t : State} (h : ErrorsGrow s t) : t.regs = s.regs := by rw [h.only]

theorem errorsGrow_markBad (s : State) (g : Nat) : ErrorsGrow s (markBad s g) ∧ (markBad s g).bad.contains g = true := by
  unfold markBad
  split
  · next h => exact ⟨ErrorsGrow.refl s, h⟩
  · refine ⟨⟨rfl, fun g' h => ?_⟩, ?_⟩
    · rw [List.contains_cons, h, Bool.or_true]
    · rw [List.contains_cons, beq_self_eq_true, Bool.true_or]

theorem errorsGrow_upset (s : State) (g n : Nat) : ErrorsGrow s (upset s g n) := by
  unfold upset
  dsimp only
  split
  · exact ErrorsGrow.refl s
  · split
    · exact ⟨rfl, fun _ h => h⟩
    · have herase : ErrorsGrow s { s with weak := kErase s.weak g } := ⟨rfl, fun _ h => h⟩
      exact herase.trans (errorsGrow_markBad _ g).1

/-- More symbols than the code corrects make a granule uncorrectable (R72). -/
theorem bad_upset (s : State) (g : Nat) {n : Nat} (h : 3 ≤ n) : (upset s g n).bad.contains g = true := by
  have hn : n ≠ 0 := by omega
  unfold upset
  dsimp only
  split
  · next hc => exact hc.resolve_right hn
  · rw [if_neg (by omega)]
    exact (errorsGrow_markBad _ g).2

theorem errorsGrow_symbolsLost (k : Nat) (s : State) (e : Nat × Nat) : ErrorsGrow s (symbolsLost k s e) := by
  unfold symbolsLost
  split
  · exact errorsGrow_upset s _ _
  · exact ErrorsGrow.refl s

theorem errorsGrow_losses (k : Nat) (l : List (Nat × Nat)) (s : State) : ErrorsGrow s (l.foldl (symbolsLost k) s) := by
  induction l generalizing s with
  | nil => exact ErrorsGrow.refl s
  | cons e l ih => exact (errorsGrow_symbolsLost k s e).trans (ih _)

theorem addrOf_of_regs_eq {s t : State} (h : t.regs = s.regs) (k x : Nat) : addrOf t k x = addrOf s k x := by
  obtain ⟨hi, hg⟩ := ilv_congr (s := s) (t := t) (by rw [readReg, h, readReg])
  exact addrOf_congr hi hg k x

theorem bad_losses (k : Nat) {g n : Nat} (hg : g < 2 ^ 30) (hn : 3 ≤ n) (l : List (Nat × Nat)) (s : State) (h : (g, n) ∈ l) :
    (l.foldl (symbolsLost k) s).bad.contains (addrOf s k (64 * g) / 64) = true := by
  induction l generalizing s with
  | nil => cases h
  | cons e l ih =>
    rw [List.foldl_cons]
    rcases List.mem_cons.mp h with rfl | h
    · refine (errorsGrow_losses k l _).bad _ ?_
      rw [symbolsLost, if_pos hg]
      exact bad_upset s _ hn
    · rw [← addrOf_of_regs_eq (errorsGrow_symbolsLost k s e).regs]
      exact ih _ h

theorem bank_refreshed {s : State} {k : Fin 8} {p : Fin 32} {b : Nat} {lost : List (Nat × Nat)}
    (htr : fld s BRY_STATUS_TRAINED k.val = 1) (hself : fld s BRY_STATUS_SELF_REF k.val = 0) :
    ∃ t, exec (.bankRefresh k p ⟨b, lost⟩) s = .next t ∧
      (∀ g n, (g, n) ∈ lost → g < 2 ^ 30 → 3 ≤ n → t.bad.contains (addrOf s k.val (64 * g) / 64) = true) ∧
      kGetD (stackS t k.val).refreshes (p.val * 65536 + b) 0 = kGetD (stackS s k.val).refreshes (p.val * 65536 + b) 0 + 1 ∧
      sameMem s t ∧ sameRegs [] s t ∧ (∀ j, j ≠ k.val → stackS t j = stackS s j) := by
  have hu := bankRefresh_eq (s := fresh s) p.val b lost htr hself
  generalize hy : refreshedBank (stackS (fresh s) k.val) (p.val * 65536 + b) = y at hu
  have grow := errorsGrow_losses k.val lost (setStack (fresh s) k.val y)
  have hstacks : ∀ j, stackS (finish s (lost.foldl (symbolsLost k.val) (setStack (fresh s) k.val y))) j =
      stackS (setStack (fresh s) k.val y) j := fun j => by
    rw [stackS_finish, stackS, grow.only, stackS]
  refine ⟨_, next_of_effect (exec_bankRefresh k p ⟨b, lost⟩ s) hu, fun g n hm hg hn => ?_, ?_, ?_, ?_, fun j hj => ?_⟩
  · rw [finish_bad]
    exact bad_losses k.val hg hn lost (setStack (fresh s) k.val y) hm
  · rw [hstacks, stackS_setStack_same, ← hy]
    exact kGetD_kSet_same _ _ _ _
  · refine sameMem_finish s (sameMem_of_mem_eq ?_)
    rw [grow.only]
    rfl
  · exact RegsBut.sameRegs_finish s (regsBut_of_regs_eq _ grow.regs)
  · exact (hstacks j).trans (stackS_setStack_ne _ _ hj)

/-! Temperatures (R71). -/

/-- The dies at the doubled rate after a report of one. -/
def doubledDies (l : List Nat) (die celsius : Nat) : List Nat :=
  if 85 < celsius then (if l.contains die then l else die :: l)
  else if celsius ≤ 80 then l.filter (fun d => d != die) else l

theorem mem_doubledDies_hot (l : List Nat) {die celsius : Nat} (h : 85 < celsius) : die ∈ doubledDies l die celsius := by
  rw [doubledDies, if_pos h]
  split
  · next hc => exact List.contains_iff_mem.mp hc
  · exact List.mem_cons_self

theorem not_mem_doubledDies_cool (l : List Nat) {die celsius : Nat} (h : celsius ≤ 80) : die ∉ doubledDies l die celsius := by
  rw [doubledDies, if_neg (by omega), if_pos h, List.mem_filter, bne_self_eq_false]
  exact fun hm => Bool.false_ne_true hm.2

theorem doubledDies_between (l : List Nat) (die : Nat) {celsius : Nat} (h : 80 < celsius) (h' : celsius ≤ 85) :
    doubledDies l die celsius = l := by
  rw [doubledDies, if_neg (by omega), if_neg (by omega)]

/-- A report writes its stack's temperatures, the dies at the doubled rate and `BRY_STATUS`, and no more. -/
theorem dramTempReport_eq {s : State} (k die celsius : Nat) (h : Machine.power s ≠ 0) :
    stackS (dramTempReport k die celsius s) k = { stackS s k with
        temps := kSet (stackS s k).temps die celsius, x2 := doubledDies (stackS s k).x2 die celsius } ∧
      (dramTempReport k die celsius s).mem = s.mem ∧ RegsBut [BRY_STATUS.at k 0] s (dramTempReport k die celsius s) := by
  have hin : ∀ f : Field, f.reg = BRY_STATUS → f.reg.at k 0 ∈ [BRY_STATUS.at k 0] := fun f hf => by
    rw [hf]
    exact List.mem_singleton.mpr rfl
  unfold dramTempReport
  rw [if_neg h]
  extract_lets st was x2 st' s₁ s₂ s₃
  have hstack : stackS s₃ k = st' := stackS_setStack_same s k st'
  have hregs : RegsBut [BRY_STATUS.at k 0] s s₃ :=
    RegsBut.trans (regsBut_of_regs_eq _ rfl) ((regsBut_setFld s₁ BRY_STATUS_DRAM_TEMP _ k 0 (hin _ rfl)).trans
      (regsBut_setFld s₂ BRY_STATUS_REF_X2 _ k 0 (hin _ rfl)))
  split
  · exact ⟨(stackS_event _ _ _ _).trans hstack, (event_mem _ _ _).trans rfl, hregs.trans (regsBut_of_regs_eq _ (event_regs _ _ _))⟩
  · exact ⟨hstack, rfl, hregs⟩

theorem temp_reported {s : State} (k : Fin 8) (d : Fin 16) (c : Nat) (h : Machine.power s ≠ 0) :
    ∃ t, exec (.dramTempReport k d c) s = .next t ∧ (85 < c → d.val ∈ (stackS t k.val).x2) ∧
      (c ≤ 80 → d.val ∉ (stackS t k.val).x2) ∧
      (80 < c → c ≤ 85 → (d.val ∈ (stackS t k.val).x2 ↔ d.val ∈ (stackS s k.val).x2)) ∧ sameMem s t ∧
      sameRegs [BRY_STATUS.at k.val 0] s t := by
  obtain ⟨hstack, hmem, hregs⟩ := dramTempReport_eq (s := fresh s) k.val d.val c h
  have hx2 : (stackS (finish s (dramTempReport k.val d.val c (fresh s))) k.val).x2 = doubledDies (stackS s k.val).x2 d.val c := by
    rw [stackS_finish, hstack]
    rfl
  refine ⟨_, exec_dramTempReport k d c s, ?_⟩
  refine ⟨fun hot => ?_, fun cool => ?_, fun h80 h85 => ?_, sameMem_finish s (sameMem_of_mem_eq hmem), hregs.sameRegs_finish s⟩
  · exact hx2 ▸ mem_doubledDies_hot _ hot
  · exact hx2 ▸ not_mem_doubledDies_cool _ cool
  · exact (hx2.trans (doubledDies_between _ _ h80 h85)) ▸ Iff.rfl

/-! Replays and recentres of a die interface (R76). -/

theorem replay_counted {s : State} (k : Fin 8) (c : Nat) (htr : fld s BRY_STATUS_TRAINED k.val = 1) :
    ∃ t, exec (.dieInterfaceReplay k c) s = .next t ∧
      fld t BRY_EVT_REPLAY k.val = satAdd 16 (fld s BRY_EVT_REPLAY k.val) 1 ∧
      ((stackS t k.val).recentreDue = true ↔ (stackS s k.val).recentreDue = true ∨
        7 ≤ ((stackS s k.val).replays.filter (fun u => decide (c ≤ u + 1024))).length) ∧ sameMem s t ∧
      sameRegs [BRY_EVT.at k.val 0] s t := by
  have hu : dieInterfaceReplay k.val c (fresh s) = setStack (bump (fresh s) BRY_EVT_REPLAY 1 k.val) k.val { stackS s k.val with
      replays := c :: (stackS s k.val).replays.filter (fun u => decide (c ≤ u + 1024))
      recentreDue := (stackS s k.val).recentreDue ||
        decide (8 ≤ (c :: (stackS s k.val).replays.filter (fun u => decide (c ≤ u + 1024))).length) } :=
    if_neg (show ¬ fld s BRY_STATUS_TRAINED k.val = 0 by omega)
  refine ⟨_, next_of_effect (exec_dieInterfaceReplay k c s) hu, ?_, ?_, sameMem_finish s (sameMem_of_mem_eq rfl), ?_⟩
  · rw [finish_fld_any s _ BRY_EVT_REPLAY k.val 0 (closing_stackRegs k).2]
    exact fld_bump_same (fresh s) BRY_EVT_REPLAY 1 k.val 0 (by decide)
  · rw [stackS_finish, stackS_setStack_same, Bool.or_eq_true, decide_eq_true_eq, List.length_cons, Nat.succ_le_succ_iff]
  · exact (regsBut_bump (ex := [BRY_EVT.at k.val 0]) (fresh s) BRY_EVT_REPLAY 1 k.val 0
      (List.mem_singleton.mpr rfl)).sameRegs_finish s

theorem recentre_done {s : State} {k : Fin 8} {c : Nat} (hdue : (stackS s k.val).recentreDue = true)
    (hfew : ((stackS s k.val).recentres.filter (fun u => decide (c ≤ u + 65536))).length < 3) :
    ∃ t, exec (.bryRecentre k c) s = .next t ∧ (stackS t k.val).recentreDue = false ∧
      fld t BRY_EVT_RECENTRE k.val = satAdd 16 (fld s BRY_EVT_RECENTRE k.val) 1 ∧ sameMem s t ∧
      sameRegs [BRY_EVT.at k.val 0] s t := by
  have hu : ∃ y, y.recentreDue = false ∧
      bryRecentre k.val c (fresh s) = event (bump (setStack (fresh s) k.val y) BRY_EVT_RECENTRE 1 k.val) 0x5003 := by
    refine ⟨_, ?_, (if_neg ?_).trans (if_neg (Nat.not_le.mpr hfew))⟩
    · rfl
    · exact fun h => Bool.false_ne_true (h.symm.trans hdue)
  obtain ⟨y, hy, hu⟩ := hu
  refine ⟨_, next_of_effect (exec_bryRecentre k c s) hu, ?_, ?_, sameMem_finish s (sameMem_of_mem_eq (event_mem _ _ _)), ?_⟩
  · rw [stackS_finish, stackS_event]
    exact (congrArg StackS.recentreDue (stackS_setStack_same (fresh s) k.val y)).trans hy
  · rw [finish_fld_any s _ BRY_EVT_RECENTRE k.val 0 (closing_stackRegs k).2,
      fld_of_regs_eq BRY_EVT_RECENTRE k.val 0 (event_regs _ _ _)]
    exact fld_bump_same (setStack (fresh s) k.val y) BRY_EVT_RECENTRE 1 k.val 0 (by decide)
  · exact ((regsBut_bump (ex := [BRY_EVT.at k.val 0]) (setStack (fresh s) k.val y) BRY_EVT_RECENTRE 1 k.val 0
      (List.mem_singleton.mpr rfl)).trans (regsBut_of_regs_eq _ (event_regs _ _ _))).sameRegs_finish s

theorem recentre_faults {s : State} {k : Fin 8} {c : Nat} (hlive : jobLive s = true) (hdue : (stackS s k.val).recentreDue = true)
    (hmany : 3 ≤ ((stackS s k.val).recentres.filter (fun u => decide (c ≤ u + 65536))).length) :
    faultsWith (.bryRecentre k c) s 0x5081 := by
  have hu : ∃ y, bryRecentre k.val c (fresh s) = fault (setStack (fresh s) k.val y) 0x5081 :=
    ⟨_, (if_neg (fun h => Bool.false_ne_true (h.symm.trans hdue))).trans (if_pos hmany)⟩
  obtain ⟨y, hu⟩ := hu
  rw [fault_of_jobLive (s := setStack (fresh s) k.val y) 0x5081 hlive] at hu
  exact ⟨_, next_of_effect (exec_bryRecentre k c s) hu, finish_fault s (raise_ (setStack (fresh s) k.val y) 0x5081 1) _ rfl hlive⟩

/-- Settles O12: each clause is the effect of its command, taken through its closing. -/
theorem stackUpkeep : Obligations.StackUpkeep := by
  unfold Obligations.StackUpkeep
  exact ⟨fun _ _ _ => patrol_corrected, fun _ _ _ => patrol_uncorrectable, fun _ _ _ _ _ htr hself _ => bank_refreshed htr hself,
    fun _ k d c => temp_reported k d c, fun _ k c => replay_counted k c, fun _ _ _ => recentre_done, fun _ _ _ => recentre_faults⟩

end Sys2Proof.Proofs
end

section
/-! SUPPORT. A request that is refused (R382), and the write of `BRY_ILV` with what follows it (R61, R62). -/

namespace Sys2Proof.Proofs
open Sys2Proof Sys2Proof.Machine

/-! Requests that are refused. -/

/-- A refusal for another reason than its class writes `MBX_REFUSAL` and no more (R382, R393). -/
theorem refusedReq_eq (s : State) (c : Cls) (qp op seq : Nat) {st : Nat} (h : st ≠ 0x20) :
    ∃ g, refusedReq s c qp op seq st = { s with regs := g } ∧ RegsBut [MBX_REFUSAL.at 0 0] s (refusedReq s c qp op seq st) := by
  have hin : ∀ (u : State) (f : Field) (x : Nat), f.reg = MBX_REFUSAL → RegsBut [MBX_REFUSAL.at 0 0] u (setFld u f x 0 0) :=
    fun u f x hf => regsBut_setFld u f x 0 0 (by rw [hf]; exact List.mem_singleton.mpr rfl)
  unfold refusedReq firstRecord
  dsimp only
  rw [if_neg h]
  split
  · exact ⟨_, rfl, regsBut_of_regs_eq _ rfl⟩
  · refine ⟨_, rfl, ?_⟩
    exact (hin _ MBX_REFUSAL_CLASS _ rfl).trans ((hin _ MBX_REFUSAL_QP _ rfl).trans ((hin _ MBX_REFUSAL_OPCODE _ rfl).trans
      ((hin _ MBX_REFUSAL_STATUS _ rfl).trans ((hin _ MBX_REFUSAL_SEQUENCE _ rfl).trans (hin _ MBX_REFUSAL_VALID 1 rfl)))))

theorem inService_raised (s : State) (r : Req) : (inService s r).raised = [] := by
  unfold inService touchSession
  split <;> rfl

/-- What refusing a request leaves: the reply, and `MBX_REFUSAL`. -/
theorem requestKept_refused {s : State} {r : Req} {op st : Nat} {payload : List Byte} (h : st ≠ 0x20) :
    RequestKept s (replyTo (refusedReq (inService s r) r.cls r.qp op r.seq st) r op st false payload) ∧
      (replyTo (refusedReq (inService s r) r.cls r.qp op r.seq st) r op st false payload).raised = [] ∧
      (replyTo (refusedReq (inService s r) r.cls r.qp op r.seq st) r op st false payload).mgmt = s.mgmt := by
  obtain ⟨g, e, _⟩ := refusedReq_eq (inService s r) r.cls r.qp op r.seq h
  obtain ⟨g', x, o, e', _⟩ := replyTo_eq (refusedReq (inService s r) r.cls r.qp op r.seq st) r op st false payload
  rw [e', e]
  have k := unitsKept_inService s r
  exact ⟨⟨k.mem, k.tiles, k.stash, k.graphs, k.embs, k.brys, k.sbn, k.step, k.power, inService_job s r⟩, inService_raised s r,
    inService_mgmt s r⟩

theorem ethQp_ne_refusal {q : Nat} (h : q < 8) : ETH_QP.at 0 q ≠ MBX_REFUSAL.at 0 0 := by
  show 0x020000301000 + 0 * 0 + q * 0x10 ≠ 0x020000600060 + 0 * 0 + 0 * 0
  omega

/-- The mailbox queue pairs are the first eight (R362). -/
theorem qp_lt_of_taken {s : State} {r : Req} (h : taken s r) (hc : r.cls = .host) : r.qp < 8 := by
  obtain ⟨_, hreach, _⟩ := h
  simp only [clsReaches, hc, Bool.and_eq_true, decide_eq_true_eq] at hreach
  exact hreach.1.2

/-- A request that its own checks refuse has no effect but its refusal (R382). -/
theorem served_refused {c : Instr} {s : State} {r : Req} {op st : Nat} {ext : Bool} {f : State → Answer} {payload : List Byte}
    (hc : exec c s = .next (finish s (serveReqst op r ext f (fresh s)))) (h : serves s r op ext)
    (hf : f (inService s r) = refuse (inService s r) st payload) (hlo : 0x20 ≤ st) (hst : st ≠ 0x20) :
    ∃ t, exec c s = .next t ∧ repliedTo s t r op st false payload ∧ requestFrame r [MBX_REFUSAL.at 0 0] s t := by
  obtain ⟨_, eref, href⟩ := refusedReq_eq (inService s r) r.cls r.qp op r.seq hst
  obtain ⟨_, _, _, _, hreply⟩ := replyTo_eq (refusedReq (inService s r) r.cls r.qp op r.seq st) r op st false payload
  obtain ⟨hkept, hraised, hmgmt⟩ := requestKept_refused (s := s) (r := r) (op := op) (payload := payload) hst
  have hout : answerOut op r (f (inService s r)) =
      replyTo (refusedReq (inService s r) r.cls r.qp op r.seq st) r op st false payload := by
    rw [hf]
    exact congrArg (fun u => replyTo u r op st false payload) (if_pos hlo)
  have hqueue : (answerOut op r (f (inService s r))).mgmt.queue = [] := by
    obtain ⟨_, _, _, hq, _⟩ := h.1
    rw [hout, hmgmt, hq]
  rw [serveReqst_serves f h, hqueue, hout] at hc
  have hall : RegsBut (serviceRegs r ++ [MBX_REFUSAL.at 0 0]) s
      (replyTo (refusedReq (inService s r) r.cls r.qp op r.seq st) r op st false payload) :=
    ((regsBut_inService s r).mono (fun _ => List.mem_append_left _)).trans
      ((href.mono (fun _ => List.mem_append_right _)).trans
        (hreply.mono (fun a ha => List.mem_append_left _ (replyRegs_subset r a ha))))
  refine ⟨_, hc, fun hcond => ?_, requestFrame_finish hkept hraised hall fun a ha => ?_⟩
  · rw [finish_out]
    refine repliedTo_replyTo (s := s) r op st false payload (fun hh => ?_) ?_ hcond
    · have hfirst : readReg (inService s r) ETH_QP 0 r.qp = readReg s ETH_QP 0 r.qp := by
        rw [inService, touchSession, hh]
        rfl
      rw [href ETH_QP 0 r.qp (fun hm => ethQp_ne_refusal (qp_lt_of_taken h.1 hh) (List.mem_singleton.mp hm)), hfirst]
    · rw [eref]
      exact congrArg EthS.paused (unitsKept_inService s r).eth
  · rcases List.mem_append.mp ha with ha | ha
    · exact closing_serviceRegs h.1 a ha
    · obtain rfl := List.mem_singleton.mp ha
      decide

/-! The register (R61, R62, R79). -/

def bryIlvPiece : Piece := ⟨BRY_ILV, 0, 0, 0, 0, 32⟩

theorem wordPieces_bryIlv : wordPieces BRY_ILV.base = [bryIlvPiece] := by decide +kernel

/-- `IGIB` above 64 is stored as 64, and `BRY_ILV` stores the rest as it is given (R79). -/
theorem stored_bryIlv (old v : RegVal) : stored BRY_ILV old v = if 64 < BRY_ILV_IGIB.get v then BRY_ILV_IGIB.put v 64 else v := by
  have hlow : ∀ e ∈ lowest, e.1.reg.base ≠ BRY_ILV.base := by decide +kernel
  have hhigh : ∀ e ∈ highest.tail, e.1.reg.base ≠ BRY_ILV.base := by decide +kernel
  have hfirst : highest = (BRY_ILV_IGIB, 64) :: highest.tail := rfl
  have hbase : BRY_ILV_IGIB.reg.base = BRY_ILV.base := rfl
  have hrest : ∀ r ∈ [PANE_GFC_CFG, PANE_GFC_THR, PANE_COMMIT_CFG, PANE_COMMIT_LAMBDA, SBN_XPORT, ETH_PFC, RST_HANG],
      BRY_ILV.base ≠ r.base := by decide +kernel
  simp only [List.forall_mem_cons] at hrest
  obtain ⟨h1, h2, h3, h4, h5, h6, h7, _⟩ := hrest
  unfold stored
  simp only [foldl_lowest_apart BRY_ILV v lowest hlow, if_neg h1, if_neg h2, if_neg h3, if_neg h4, if_neg h5, if_neg h6, if_neg h7]
  rw [hfirst, List.foldl_cons, foldl_highest_apart BRY_ILV _ _ hhigh]
  simp only [hbase, true_and]

/-- What a word makes of `BRY_ILV` before the bound on `IGIB` (R9). -/
def ilvMerged (old : RegVal) (w : Nat) : RegVal :=
  (old &&& ~~~(BitVec.ofNat 512 BRY_ILV.rw &&& fieldMask 0 32)) |||
    (BitVec.ofNat 512 (bitsOf 0 32 w) &&& (BitVec.ofNat 512 BRY_ILV.rw &&& fieldMask 0 32))

theorem written_bryIlv (s : State) (w : Nat) :
    written s bryIlvPiece w = stored BRY_ILV (readReg s BRY_ILV 0 0) (ilvMerged (readReg s BRY_ILV 0 0) w) := by
  have hrw : (BRY_ILV.rw ||| (if rwlOpen s then BRY_ILV.rwl else 0)) = BRY_ILV.rw := by
    split <;> decide
  have hw1c : ∀ x m : RegVal, ~~~(x &&& (BitVec.ofNat 512 BRY_ILV.w1c &&& m)) = BitVec.allOnes 512 := fun x m => by
    rw [show BitVec.ofNat 512 BRY_ILV.w1c = 0#512 from rfl, BitVec.zero_and, BitVec.and_zero, BitVec.not_zero]
  unfold written bryIlvPiece
  simp only [hrw, hw1c, BitVec.and_allOnes, Nat.shiftLeft_zero]
  rfl

/-- The fields of `BRY_ILV` take their bits of the word. -/
theorem getBits_ilvMerged (old : RegVal) (w : Nat) {lo n : Nat} (hn : lo + n ≤ 32)
    (hrw : ∀ j < n, BRY_ILV.rw.testBit (lo + j) = true) : getBits lo n (ilvMerged old w) = bitsOf lo n w := by
  apply Nat.eq_of_testBit_eq
  intro j
  rw [testBit_getBits, bitsOf, Nat.testBit_mod_two_pow, Nat.testBit_shiftRight]
  by_cases hj : j < n
  · have h512 : lo + j < 512 := by omega
    have h32 : lo + j < 32 := by omega
    simp only [ilvMerged, BitVec.getLsbD_and, BitVec.getLsbD_or, BitVec.getLsbD_not, BitVec.getLsbD_ofNat, getLsbD_fieldMask,
      hrw j hj, bitsOf, Nat.testBit_mod_two_pow, Nat.testBit_shiftRight]
    simp [hj, h512, h32]
  · simp [hj]

theorem fields_written_bryIlv (s : State) (w : Nat) :
    BRY_ILV_IGIB.get (written s bryIlvPiece w) = min 64 (w % 128) ∧ BRY_ILV_GRAN.get (written s bryIlvPiece w) = bitsOf 8 2 w := by
  have higib : BRY_ILV_IGIB.get (ilvMerged (readReg s BRY_ILV 0 0) w) = w % 128 :=
    getBits_ilvMerged _ w (by decide) (by decide)
  have hgran : BRY_ILV_GRAN.get (ilvMerged (readReg s BRY_ILV 0 0) w) = bitsOf 8 2 w :=
    getBits_ilvMerged _ w (by decide) (by decide)
  rw [written_bryIlv, stored_bryIlv, higib]
  split
  · next h =>
    refine ⟨?_, (getBits_setBits_disjoint _ _ _ _ _ _ (.inr (by decide))).trans hgran⟩
    rw [Nat.min_eq_left (Nat.le_of_lt h)]
    exact getBits_setBits_same _ _ _ _ (by decide)
  · next h => exact ⟨higib.trans (Nat.min_eq_right (Nat.not_lt.mp h)).symm, hgran⟩

/-! The DRAM under another map (R61). -/

/-- Cells written at the places that `f` gives them: at the place of `a` stands the cell of `a`, where `f` sends no other there. -/
theorem memRead_moved_same {f : Nat → Nat} {a lo : Nat} (l m : List Host.Cell) (hs : kSortedFrom lo l = true)
    (hinj : ∀ e ∈ l, f e.1 = f a → e.1 = a) :
    memRead (l.foldl (fun m e => memWrite m (f e.1) e.2) m) (f a) = kGetD l a (memRead m (f a)) := by
  induction l generalizing m lo with
  | nil => rfl
  | cons e l ih =>
    obtain ⟨j, w⟩ := e
    simp only [kSortedFrom, Bool.and_eq_true, decide_eq_true_eq] at hs
    rw [List.foldl_cons, ih _ hs.2 (fun e he => hinj e (List.mem_cons_of_mem _ he))]
    by_cases hj : j = a
    · subst hj
      rw [kGetD, kGet?_below l hs.2 (Nat.lt_succ_self j), memRead_memWrite_same, kGetD, kGet?, if_pos rfl]
      rfl
    · have hne : f a ≠ f j := fun h => hj (hinj (j, w) List.mem_cons_self h.symm)
      rw [memRead_memWrite_ne _ _ _ _ hne, kGetD, kGetD, kGet?, if_neg hj]

/-- Elsewhere memory reads as before. -/
theorem memRead_moved_apart {f : Nat → Nat} {b : Nat} (l m : List Host.Cell) (h : ∀ e ∈ l, f e.1 ≠ b) :
    memRead (l.foldl (fun m e => memWrite m (f e.1) e.2) m) b = memRead m b := by
  induction l generalizing m with
  | nil => rfl
  | cons e l ih =>
    rw [List.foldl_cons, ih _ (fun e' he => h e' (List.mem_cons_of_mem _ he)),
      memRead_memWrite_ne _ _ _ _ (Ne.symm (h e List.mem_cons_self))]

/-- Where an address goes as the map of `s` gives way to that of `t`. -/
def movedTo (s t : State) (a : Nat) : Nat := addrOf t (stackOf s a).1 (stackOf s a).2

theorem movedTo_addrOf (s t : State) {k x : Nat} (hk : k < 8) (hx : x < 2 ^ 36) : movedTo s t (addrOf s k x) = addrOf t k x := by
  rw [movedTo, stackOf_addrOf s hk hx]

theorem movedTo_lt (s t : State) {a : Nat} (h : a < dramTop) : movedTo s t a < dramTop := by
  obtain ⟨hk, hx⟩ := stackOf_lt s h
  exact addrOf_lt t hk hx

/-- No two addresses of DRAM go to one. -/
theorem movedTo_inj (s t : State) {a b : Nat} (ha : a < dramTop) (hb : b < dramTop) (h : movedTo s t a = movedTo s t b) : a = b := by
  obtain ⟨hka, hxa⟩ := stackOf_lt s ha
  obtain ⟨hkb, hxb⟩ := stackOf_lt s hb
  have hstack : stackOf s a = stackOf s b := by
    rw [← Prod.eta (stackOf s a), ← Prod.eta (stackOf s b), ← stackOf_addrOf t hka hxa, ← stackOf_addrOf t hkb hxb]
    exact congrArg (stackOf t) h
  rw [← addrOf_stackOf s a, hstack, addrOf_stackOf]

/-- The DRAM cells of a memory, and the rest. -/
def dramCells (m : List Host.Cell) : List Host.Cell := m.filter (fun e => decide (e.1 < dramTop))

def otherCells (m : List Host.Cell) : List Host.Cell := m.filter (fun e => !decide (e.1 < dramTop))

theorem lt_of_mem_dramCells {m : List Host.Cell} {e : Host.Cell} (h : e ∈ dramCells m) : e.1 < dramTop :=
  of_decide_eq_true (List.mem_filter.mp h).2

theorem remapDram_mem (s t : State) : (remapDram s t).mem =
    (dramCells t.mem).foldl (fun m e => memWrite m (movedTo s t e.1) e.2) (otherCells t.mem) := rfl

/-- What stood at a DRAM address stands where the address goes. -/
theorem memRead_remapDram_moved {s t : State} {a : Nat} (hwf : Memory.wf t.mem = true) (ha : a < dramTop) :
    memRead (remapDram s t).mem (movedTo s t a) = memRead t.mem a := by
  have hsorted : kSortedFrom 0 (dramCells t.mem) = true :=
    (Bool.and_eq_true _ _ ▸ kCanon_filter (fun _ => (0 : Byte)) _ t.mem hwf).1
  have hnone : memRead (otherCells t.mem) (movedTo s t a) = 0 := by
    have hout := kGet?_filter_out (fun b => !decide (b < dramTop)) t.mem (movedTo s t a)
      (by rw [decide_eq_true (movedTo_lt s t ha)]; rfl)
    exact congrArg (fun o => Option.getD o 0) hout
  rw [remapDram_mem, memRead_moved_same _ _ hsorted (fun e he => movedTo_inj s t (lt_of_mem_dramCells he) ha), hnone]
  exact congrArg (fun o => Option.getD o 0) (kGet?_filter_in (fun b => decide (b < dramTop)) t.mem a (decide_eq_true ha))

/-- Beyond DRAM memory reads as before. -/
theorem memRead_remapDram_beyond {s t : State} {a : Nat} (ha : dramTop ≤ a) : memRead (remapDram s t).mem a = memRead t.mem a := by
  have hne : ∀ e ∈ dramCells t.mem, movedTo s t e.1 ≠ a := fun e he =>
    Nat.ne_of_lt (Nat.lt_of_lt_of_le (movedTo_lt s t (lt_of_mem_dramCells he)) ha)
  rw [remapDram_mem, memRead_moved_apart _ _ hne]
  have hin := kGet?_filter_in (fun b => !decide (b < dramTop)) t.mem a (by rw [decide_eq_false (Nat.not_lt.mpr ha)]; rfl)
  exact congrArg (fun o => Option.getD o 0) hin

theorem followIlv_eq (s t : State) : ∃ m b w, followIlv s t = { t with mem := m, bad := b, weak := w } := by
  unfold followIlv
  split <;> exact ⟨_, _, _, rfl⟩

/-- What stands at a stack and offset answers under the address that the map gives them then. -/
theorem memRead_followIlv_stack {s t : State} (hm : t.mem = s.mem) (hwf : Memory.wf s.mem = true) {k x : Nat} (hk : k < 8)
    (hx : x < 2 ^ 36) : memRead (followIlv s t).mem (addrOf t k x) = memRead s.mem (addrOf s k x) := by
  unfold followIlv
  split
  · next h =>
    obtain ⟨hi, hg⟩ := h
    rw [addrOf_congr hi hg, hm]
  · rw [← movedTo_addrOf s t hk hx, memRead_remapDram_moved (by rw [hm]; exact hwf) (addrOf_lt s hk hx), hm]

theorem memRead_followIlv_beyond {s t : State} (hm : t.mem = s.mem) {a : Nat} (ha : dramTop ≤ a) :
    memRead (followIlv s t).mem a = memRead s.mem a := by
  unfold followIlv
  split
  · rw [hm]
  · rw [memRead_remapDram_beyond ha, hm]

/-! The command. -/

theorem storePiece_bryIlv (s : State) (w : Nat) :
    storePiece s bryIlvPiece w = followIlv s (writeReg s BRY_ILV 0 0 (written s bryIlvPiece w)) := by
  have h : ∀ r ∈ [GRE_CFG, EMB_CFG], bryIlvPiece.reg.base ≠ r.base := by decide
  simp only [List.forall_mem_cons] at h
  obtain ⟨h1, h2, _⟩ := h
  unfold storePiece
  simp only [if_neg h1, if_neg h2]
  exact if_pos rfl

theorem jobRefuses_bryIlv (s : State) (w : Nat) : jobRefuses s bryIlvPiece w = jobLoaded s := Bool.and_true _

theorem blockPowered_bry {s : State} (k : Nat) (hp : 2 ≤ Machine.power s) : blockPowered s .bry k = true := by
  have h0 : Machine.power s ≠ 0 := by omega
  have h1 : Machine.power s ≠ 1 := by omega
  simp [blockPowered, h0, h1]

/-- `BRY_ILV` written, the DRAM not yet under the new map. -/
def ilvWritten (s : State) (w : Nat) : State := writeReg (fresh s) BRY_ILV 0 0 (written (fresh s) bryIlvPiece w)

theorem bryIlvWrite_accepted {s : State} {c : Cls} (v : BitVec 32) (hp : 2 ≤ Machine.power s)
    (hc : classRefuses s c .bry false = none) (hj : jobLoaded s = false) :
    exec (.bryIlvWrite c v) s = .next (finish s (followIlv (fresh s) (ilvWritten s v.toNat))) := by
  have hu := writeOne_sole (s := fresh s) (c := c) (tileMemory_of_le (fresh s) (by decide)) wordPieces_bryIlv
    (blockPowered_bry 0 hp) hc ((jobRefuses_bryIlv (fresh s) v.toNat).trans hj)
  rw [storePiece_bryIlv] at hu
  exact next_of_effect (exec_bryIlvWrite c v s) hu

theorem readReg_ilv_finish (s u : State) : readReg (finish s (followIlv (fresh s) u)) BRY_ILV 0 0 = readReg u BRY_ILV 0 0 := by
  rw [finish_readReg_any _ _ _ _ _ (by decide), readReg, regs_followIlv, readReg]

theorem addrOf_ilv_finish (s u : State) (k x : Nat) : addrOf (finish s (followIlv (fresh s) u)) k x = addrOf u k x := by
  obtain ⟨hi, hg⟩ := ilv_congr (readReg_ilv_finish s u)
  exact addrOf_congr hi hg k x

/-- Beside memory the command changes `BRY_ILV` alone. -/
theorem ilv_frame (s : State) (w : Nat) :
    UnitsKept { fresh s with mem := (followIlv (fresh s) (ilvWritten s w)).mem } (followIlv (fresh s) (ilvWritten s w)) ∧
      RegsBut [BRY_ILV.at 0 0] s (followIlv (fresh s) (ilvWritten s w)) := by
  refine ⟨?_, RegsBut.trans (t := ilvWritten s w) ?_ (regsBut_of_regs_eq _ (regs_followIlv _ _))⟩
  · obtain ⟨_, _, _, e⟩ := followIlv_eq (fresh s) (ilvWritten s w)
    rw [e]
    exact ⟨rfl, rfl, rfl, rfl, rfl, rfl, rfl, rfl, rfl, rfl⟩
  · exact regsBut_writeReg (fresh s) BRY_ILV 0 0 _ (List.mem_singleton.mpr rfl)

theorem bryIlvWrite_stores {s : State} {c : Cls} {v : BitVec 32} (hp : 2 ≤ Machine.power s)
    (hc : classRefuses s c .bry false = none) (hj : jobLoaded s = false) :
    ∃ t, exec (.bryIlvWrite c v) s = .next t ∧ fld t BRY_ILV_IGIB = min 64 (v.toNat % 128) ∧
      fld t BRY_ILV_GRAN = bitsOf 8 2 v.toNat ∧
      (Memory.wf s.mem = true → (∀ k x, k < 8 → x < 2 ^ 36 → memRead t.mem (addrOf t k x) = memRead s.mem (addrOf s k x)) ∧
        ∀ a, dramTop ≤ a → memRead t.mem a = memRead s.mem a) ∧
      sameTiles s t ∧ sameBases s t ∧ sameNets s t ∧ t.step = s.step ∧ t.power = s.power ∧ sameRegs [BRY_ILV.at 0 0] s t := by
  have hreg : readReg (finish s (followIlv (fresh s) (ilvWritten s v.toNat))) BRY_ILV 0 0 =
      written (fresh s) bryIlvPiece v.toNat := (readReg_ilv_finish s _).trans (readReg_writeReg_same _ _ _ _ _)
  obtain ⟨higib, hgran⟩ := fields_written_bryIlv (fresh s) v.toNat
  obtain ⟨hunits, hregs⟩ := ilv_frame s v.toNat
  have k := hunits.trans (unitsKept_finish s _)
  refine ⟨_, bryIlvWrite_accepted v hp hc hj, ?_, ?_, fun hwf => ⟨fun j x hj hx => ?_, fun a ha => ?_⟩, ⟨k.tiles, k.stash⟩,
    ⟨k.graphs, k.embs, k.brys⟩, ⟨k.sbn, k.eth⟩, k.step, k.power, hregs.sameRegs_finish s⟩
  · exact (congrArg BRY_ILV_IGIB.get hreg).trans higib
  · exact (congrArg BRY_ILV_GRAN.get hreg).trans hgran
  · rw [finish_mem, addrOf_ilv_finish]
    exact memRead_followIlv_stack (s := fresh s) (t := ilvWritten s v.toNat) rfl hwf hj hx
  · rw [finish_mem]
    exact memRead_followIlv_beyond (s := fresh s) (t := ilvWritten s v.toNat) rfl ha

theorem bryIlvWrite_locked {s : State} (c : Cls) (v : BitVec 32) (hj : jobLoaded s = true) :
    ∃ t, exec (.bryIlvWrite c v) s = .next t ∧ sameUnits s t ∧ sameRegs [] s t := by
  refine writeOne_refused (exec_bryIlvWrite c v s) (by decide) fun p hp => ?_
  rw [wordPieces_bryIlv] at hp
  obtain rfl := List.mem_singleton.mp hp
  exact (jobRefuses_bryIlv s _).trans hj

/-- The entry of a mailbox request is refused with the status of a loaded job (R62, R385). -/
theorem writeEntry_bryIlv_locked {s : State} {c : Cls} (w : Nat) (hp : 2 ≤ Machine.power s) (hc : classRefuses s c .bry false = none)
    (hj : jobLoaded s = true) : writeEntry c BRY_ILV.base w s = (s, some 0x31) := by
  have hpowered : (wordPieces BRY_ILV.base).filter (fun p => blockPowered s p.reg.block p.k) = [bryIlvPiece] := by
    rw [wordPieces_bryIlv]
    exact List.filter_cons_of_pos (blockPowered_bry 0 hp)
  have hclass : [bryIlvPiece].filterMap (fun p => classRefuses s c p.reg.block (p.reg.base == ETH_ADDR.base)) = [] :=
    List.filterMap_cons_none hc
  have hjob : [bryIlvPiece].any (fun p => jobRefuses s p w) = true := by
    rw [List.any_cons, jobRefuses_bryIlv, hj]
    rfl
  unfold writeEntry
  simp only [tileMemory_of_le s (show tileBase 96 ≤ BRY_ILV.base by decide), hpowered, hclass, hjob, if_true]
  rfl

theorem regWrite_bryIlv_refused {s : State} {r : Req} {a w : BitVec 64} (ha : a.toNat = BRY_ILV.at 0 0) (h : serves s r 0x0302)
    (hp : 2 ≤ Machine.power s) (hj : jobLoaded s = true) (hc : classRefuses s r.cls .bry false = none) :
    ∃ t, exec (.regWrite r [(a, w)]) s = .next t ∧ repliedTo s t r 0x0302 0x31 false (leBytes 2 0) ∧
      requestFrame r [MBX_REFUSAL.at 0 0] s t := by
  have ha' : a.toNat = BRY_ILV.base := ha
  have j := judgedAlike_inService s r
  have hentry := writeEntry_bryIlv_locked (s := inService s r) (c := r.cls) w.toNat (by rw [j.power]; exact hp)
    (by rw [j.classRefuses]; exact hc) (by rw [j.jobLoaded]; exact hj)
  have hf : (if entriesOk [(a, w)] then entriesAnswer (writeEntries r.cls 0 (entryNats [(a, w)]) (inService s r))
      else refuse (inService s r) 0x23) = refuse (inService s r) 0x31 (leBytes 2 0) := by
    have hok : entriesOk [(a, w)] = true := by
      simp only [entriesOk, List.length_cons, List.length_nil, List.all_cons, List.all_nil, ha']
      rfl
    simp only [hok, if_true, entryNats, List.map_cons, List.map_nil, writeEntries, ha', hentry, entriesAnswer]
  have hwindow : tileWindow a.toNat = none := by
    rw [ha']
    decide
  have hrun : exec (.regWrite r [(a, w)]) s = .next (finish s (serveReqst 0x0302 r false (fun s =>
      if entriesOk [(a, w)] then entriesAnswer (writeEntries r.cls 0 (entryNats [(a, w)]) s) else refuse s 0x23) (fresh s))) := by
    refine next_of_effect (exec_regWrite r [(a, w)] s) (if_neg ?_)
    rw [List.any_cons, List.any_nil, Bool.or_false, bankBusy, hwindow]
    exact Bool.false_ne_true
  exact served_refused hrun h hf (by decide) (by decide)

/-- Settles O13: the map and its inverse, the accepted write with the DRAM that follows it, and the two refusals. -/
theorem addressMapInverts : Obligations.AddressMapInverts := by
  unfold Obligations.AddressMapInverts
  refine ⟨fun s a g _ => ?_, fun s _ _ => stackOf_addrOf s, fun _ _ _ => bryIlvWrite_stores,
    fun _ _ _ _ ha h hp hj hc => regWrite_bryIlv_refused ha h hp hj hc, fun _ c v => bryIlvWrite_locked c v⟩
  intro i h0 h1 h2 h3
  rw [← ilvGran_of_fields h0 h1 h2 h3]
  exact ⟨stackOf_interleaved, stackOf_local⟩

end Sys2Proof.Proofs
end
